-- ==== Sys2Proof/Word.lean ====
section
/-! DEFINITION. The word types of the KV4 and their plainest readings (R3, R4, R29). -/

namespace Sys2Proof

/-- A byte of memory, local store, tile store or line store. -/
abbrev Byte := BitVec 8
/-- A 16-bit value. -/
abbrev Half := BitVec 16
/-- A 32-bit register element (R29). -/
abbrev Word := BitVec 32
/-- A 64-bit value: a register pair, a task id, a table entry. -/
abbrev DWord := BitVec 64
/-- A buffer record (R160). -/
abbrev Rec := BitVec 256

/-- A table of values by number, in ascending number, in which a number that is not listed holds the default
that the reader of the table names. -/
abbrev Sparse (α : Type) := List (Nat × α)

end Sys2Proof
end

