-- ==== Sys2Proof/Config.lean ====
section
/-! DEFINITION. What an implementation of the KV4 fixes and the spec leaves open. Every constant here is
without a body: nothing can prove a value of it, so a statement holds whatever the value is. -/

namespace Sys2Proof.Config

/-- The n-th free choice between two outcomes (R111, log entry 3). -/
opaque freeBit : Nat → Bool
/-- The n-th free byte (R238: a frame's content at allocation, log entry 3). -/
opaque freeByte : Nat → Byte
/-- The n-th free word (log entry 3). -/
opaque freeWord : Nat → Word
/-- The n-th free choice among several outcomes (log entry 3). -/
opaque freeNat : Nat → Nat
/-- Which of the values that R200 allows a read in a race returns, of one word of one lane: by team, words that the member
has issued, %tid, word (log entry 52). -/
opaque staleRead : Nat → Nat → Nat → Nat → Nat
/-- How many of the other lanes' racing writes of a word a lane's store comes before, of those that R200 lets it: by team, words that
the member has issued, %tid, word (log entry 52). -/
opaque racingStore : Nat → Nat → Nat → Nat → Nat
/-- The way, among those that a partition may fill, into which a pool line goes: by line (R18 gives no policy; log entry 3). -/
opaque fillWay : Nat → Nat
/-- The issue ports of a core beyond the first (R12, R84 and R103 name the ports and give no count; log entry 6). -/
opaque morePorts : Nat
/-- The offset of CAP0 to CAP3 in the device register space (R25: the host reads them there, and no offset is given; log entry 80). -/
opaque capOffset : Nat → Nat
/-- SHA-384 of a byte sequence: R355, R439 and R444 name the function and do not give it (log entry 5). -/
opaque sha384 : List Byte → BitVec 384
/-- The Waimus public key of R439, whose SHA-384 the boot ROMs hold (log entry 5). -/
opaque waimusKey : List Byte
/-- The ECDSA P-384 signature check of R439, by key, digest, r and s (log entry 5). -/
opaque ecdsaVerifies : List Byte → BitVec 384 → List Byte → List Byte → Bool
/-- The boot ROM has brought up stacked DRAM (R440: a failure of it is FAIL 4), by free value (log entry 3). -/
opaque dramUp : Nat → Bool
/-- How many p-cycles after an acceptance a DisplayPort output's next frame starts, by output and p-cycle (R406, log entry 48). -/
opaque dpPhase : Nat → Nat → Nat
/-- The ECDSA P-384 signature of R444, by the device identity key (log entry 5). -/
opaque ecdsaSign : List Byte → List Byte
/-- The identity public key of R444 (log entry 5). -/
opaque identityKey : List Byte
/-- The configuration record's own check and reading (R24): the layout of the record is not given. The
argument is the record's bytes; the answer is the least security version,
the four capability words, the core numbers that are half-width and those that are disabled (log entry 5). -/
opaque configRecord : List Byte → Option (Nat × List Word × List Nat × List Nat)
/-- The length of a configuration record in bytes (R24, log entry 5). -/
opaque configBytes : Nat
/-- The bytes of an AV1 tile row (R420: not architectural), by the encoder's own state, a free value, the key-frame bit, the target bit
rate, the pipeline, and the RGBA8 rows that it codes (log entry 5). -/
opaque av1Bytes : Nat → Bool → Nat → Nat → List Byte → List Byte
/-- The launch id that the device gives a spring at declaration (R225), by context and number (log entry 3). -/
opaque springLaunchId : Nat → Nat → Half

end Sys2Proof.Config
end

