-- ==== Sys2Proof/Syntax.lean ====
section
/-! DEFINITION. The abstract syntax: one constructor of Instr per row of the opcode table. A Calud word keeps the
common fields of R51 and one of the four operand formats of R55; a slot of a line-core template keeps the fields of
R378, R381, R388 or R390; an event of the device's own units or of the host names the unit it happens to. -/

namespace Sys2Proof

/-- The common fields of a Calud word (R51), but for OP and FMT, which the constructor and the format say. -/
structure Common where
  /-- GN: negate the guard. -/
  gn : Bool
  /-- G: 0 to 47 name a predicate, 63 always. -/
  g : BitVec 6
  /-- Y: yield hint. -/
  y : Bool
  /-- RU: reuse latch. -/
  ru : Bool
  /-- TW: tag waits. -/
  tw : BitVec 6
  /-- TA: tag allocate, 7 none. -/
  ta : BitVec 3
  /-- PD: producer distance. -/
  pd : BitVec 3
  deriving DecidableEq, Repr

/-- The operand fields of a Calud word by format (R55). A consumed token is none when its valid bit is 0 (R58). -/
inductive Body where
  /-- Format R: four register fields and the modifier field M. -/
  | r (d a b c : BitVec 8) (m : BitVec 16)
  /-- Format I: imm32 in place of operand B (R56). -/
  | i (d a : BitVec 8) (imm : BitVec 32)
  /-- Format B: a signed word offset (R57). -/
  | b (d a : BitVec 8) (off : BitVec 32)
  /-- Format E: an engine word (R58). -/
  | e (d : BitVec 6) (a b : BitVec 8) (k1 k2 k3 : Option (BitVec 6)) (crq : Bool) (sub : BitVec 2)
  deriving DecidableEq, Repr

/-- A Calud word without its opcode. -/
structure CWord where
  /-- The common fields. -/
  common : Common
  /-- The operand fields. -/
  body : Body
  deriving DecidableEq, Repr

/-- The fields of a V slot (R381); `v1` says which of the two slots holds it. -/
structure VForm where
  /-- The slot is V1. -/
  v1 : Bool
  /-- TY. -/
  ty : BitVec 3
  /-- RM. -/
  rm : BitVec 3
  /-- FTZ. -/
  ftz : Bool
  /-- SAT. -/
  sat : Bool
  /-- D. -/
  d : BitVec 7
  /-- A. -/
  a : BitVec 7
  /-- B. -/
  b : BitVec 7
  /-- C. -/
  c : BitVec 7
  /-- PARM. -/
  parm : BitVec 6
  deriving DecidableEq, Repr

/-- The fields of an LD slot (R388). -/
structure LdForm where
  /-- D: the destination code. -/
  d : BitVec 7
  /-- A: the base register. -/
  a : BitVec 5
  /-- OFF: signed byte offset. -/
  off : BitVec 16
  /-- TAKE: clear the full bits of the tiles read. -/
  take : Bool
  /-- POST: use the base, then add the offset to it. -/
  post : Bool
  /-- PITCH in units of 16 bytes. -/
  pitch : BitVec 6
  deriving DecidableEq, Repr

/-- The fields of an ST slot (R388). -/
structure StForm where
  /-- S: the source code. -/
  s : BitVec 7
  /-- A: the base register. -/
  a : BitVec 5
  /-- OFF: signed byte offset. -/
  off : BitVec 16
  /-- FILL: set the full bits of the tiles written. -/
  fill : Bool
  /-- POST: use the base, then add the offset to it. -/
  post : Bool
  /-- PITCH in units of 16 bytes. -/
  pitch : BitVec 6
  deriving DecidableEq, Repr

/-- The semaphore fields of a Q slot (R390): the semaphore waited on and the semaphore signalled, if any. -/
structure SemForm where
  /-- WS, when WV is 1. -/
  wait : Option (BitVec 5)
  /-- SS, when SV is 1. -/
  sig : Option (BitVec 5)
  deriving DecidableEq, Repr

/-- A host packet taken from its queue (R430). -/
structure Packet where
  /-- The queue it was read from. -/
  queue : Nat
  /-- TYPE. -/
  typ : Byte
  /-- CONTEXT. -/
  context : Word
  /-- BAR. -/
  bar : Bool
  /-- SIG. -/
  sig : Bool
  /-- SIGVAL. -/
  sigval : DWord
  /-- The wait entries: queue and threshold. -/
  waits : List (Nat × DWord)
  /-- LEN, in 8-byte words. -/
  len : Nat
  /-- A reserved bit of the header or of a wait entry is set (R434, code 4). -/
  reserved : Bool
  /-- The body's words. -/
  body : List DWord
  deriving DecidableEq, Repr

/-- The instructions, packets, register writes and events of the opcode table, one constructor per row: Calud words,
then patch words and slots, then packets, then events. -/
inductive Instr where
  /-- NOP, R90: Calud word with no effect beyond its producer distance and tag fields. -/
  | nop (w : CWord)
  /-- BRA, R86: Branches each active lane to PC + off32. -/
  | bra (w : CWord)
  /-- BRX, R86: Branches each active lane to PC + off32 + vA[l], so the group may split. -/
  | brx (w : CWord)
  /-- CALL, R86: Writes PC + 1 into the link register vD and branches to PC + off32. -/
  | callW (w : CWord)
  /-- RET, R86: Branches each active lane to the address held in vA[l]. -/
  | retW (w : CWord)
  /-- REFORM, R80: Drains pending results, then files the active lanes into eddy bins keyed by team, role, next PC and codebook. -/
  | reform (w : CWord)
  /-- REFORM.join, R87: Waits until every family member waits at a REFORM.join, then merges the members at the same PC that carry identical codebooks. -/
  | reformJoin (w : CWord)
  /-- YIELD, R88: Restarts the group's ready time and lets the groups that were ready issue first. -/
  | yieldW (w : CWord)
  /-- EXIT, R89: Ends each active lane and frees the group slot once its whole family has ended. -/
  | exitW (w : CWord)
  /-- PLOG, R91: Sets pD to a split function of three predicates in each active lane. -/
  | plog (w : CWord)
  /-- PRD, R92: Packs c predicates into a vector register. -/
  | prd (w : CWord)
  /-- PWR, R92: Writes c predicates from the bits of a register. -/
  | pwr (w : CWord)
  /-- SHFL.BC, R94: Gives every lane the value of lane b. -/
  | shflBc (w : CWord)
  /-- SHFL.XOR, R94: Gives each lane the value of lane l xor b. -/
  | shflXor (w : CWord)
  /-- SHFL.UP, R94: Gives each lane the value of lane l − b. -/
  | shflUp (w : CWord)
  /-- SHFL.DN, R94: Gives each lane the value of lane l + b. -/
  | shflDn (w : CWord)
  /-- VOTE, R95: Computes a mask, count, lead or agreement over the active lanes' predicate. -/
  | vote (w : CWord)
  /-- GRED, R97: Reduces vA over the active lanes, using the fixed tree for floats. -/
  | gred (w : CWord)
  /-- GSCAN, R98: Computes an inclusive or exclusive scan of vA over the active lanes. -/
  | gscan (w : CWord)
  /-- IADD, R115: Integer add, wrapped or saturated. -/
  | iadd (w : CWord)
  /-- ISUB, R115: Integer subtract, wrapped or saturated. -/
  | isub (w : CWord)
  /-- IMUL, R115: Integer multiply, wrapped or saturated. -/
  | imul (w : CWord)
  /-- IMULH, R115: Writes the high 32 bits of a 64-bit product. -/
  | imulh (w : CWord)
  /-- IMAD, R115: Integer multiply-add, wrapped or saturated. -/
  | imad (w : CWord)
  /-- IMIN, R115: Integer minimum. -/
  | imin (w : CWord)
  /-- IMAX, R115: Integer maximum. -/
  | imax (w : CWord)
  /-- IABS, R115: Integer magnitude. -/
  | iabs (w : CWord)
  /-- SHL, R116: Left shift. -/
  | shl (w : CWord)
  /-- SHR, R116: Arithmetic or logical right shift. -/
  | shr (w : CWord)
  /-- FSH, R117: Funnel shift of the 64-bit pair formed by A and B. -/
  | fsh (w : CWord)
  /-- BFE, R118: Extracts a bit field. -/
  | bfe (w : CWord)
  /-- BFI, R118: Inserts a bit field. -/
  | bfi (w : CWord)
  /-- POPC, R119: Population count. -/
  | popc (w : CWord)
  /-- CLZ, R119: Count of leading zeros. -/
  | clz (w : CWord)
  /-- BREV, R119: Bit reverse. -/
  | brev (w : CWord)
  /-- BFN, R120: Bitwise split function of three sources. -/
  | bfn (w : CWord)
  /-- ICMP, R121: Integer compare into a predicate. -/
  | icmp (w : CWord)
  /-- SEL, R122: Selects xA or xB by a predicate. -/
  | sel (w : CWord)
  /-- MOV, R122: Copies a register, or broadcasts a scalar to the active lanes. -/
  | mov (w : CWord)
  /-- MOVI, R123: Writes a 32-bit immediate into a vector register. -/
  | movi (w : CWord)
  /-- SMOVI, R123: Writes a 32-bit immediate into a scalar register. -/
  | smovi (w : CWord)
  /-- FADD, R124: FP32 add, rounded once. -/
  | fadd (w : CWord)
  /-- FSUB, R124: FP32 subtract, rounded once. -/
  | fsub (w : CWord)
  /-- FMUL, R124: FP32 multiply, rounded once. -/
  | fmul (w : CWord)
  /-- FFMA, R124: FP32 fused multiply-add with one rounding. -/
  | ffma (w : CWord)
  /-- FMIN, R125: FP32 minimum. -/
  | fmin (w : CWord)
  /-- FMAX, R125: FP32 maximum. -/
  | fmax (w : CWord)
  /-- FCMP, R126: FP32 compare into a predicate. -/
  | fcmp (w : CWord)
  /-- FRND, R127: Rounds an FP32 value to an integral value. -/
  | frnd (w : CWord)
  /-- HADD2, R128: Paired 16-bit float add. -/
  | hadd2 (w : CWord)
  /-- HMUL2, R128: Paired 16-bit float multiply. -/
  | hmul2 (w : CWord)
  /-- HFMA2, R128: Paired 16-bit float fused multiply-add. -/
  | hfma2 (w : CWord)
  /-- CVT, R129: Converts between integer and float types. -/
  | cvt (w : CWord)
  /-- NPACK, R130: Converts two FP32 values into a pair of narrow elements. -/
  | npack (w : CWord)
  /-- NUNPK, R131: Widens one narrow element to FP32, with an optional block scale. -/
  | nunpk (w : CWord)
  /-- DOT2, R133: Two-element dot product with accumulate. -/
  | dot2 (w : CWord)
  /-- DOT4, R133: Four-element dot product with accumulate. -/
  | dot4 (w : CWord)
  /-- DOT8, R133: Eight-element dot product with accumulate. -/
  | dot8 (w : CWord)
  /-- DOTSC, R133: Block-scaled narrow dot product that accumulates into D. -/
  | dotsc (w : CWord)
  /-- CB.LD, R134: Writes codebook entries. -/
  | cbLd (w : CWord)
  /-- CB.RD, R135: Reads one codebook entry. -/
  | cbRd (w : CWord)
  /-- RCP, R136: Correctly rounded reciprocal. -/
  | rcp (w : CWord)
  /-- RSQ, R136: Correctly rounded reciprocal square root. -/
  | rsq (w : CWord)
  /-- SQRT, R136: Correctly rounded square root. -/
  | sqrtW (w : CWord)
  /-- EXP2, R136: Correctly rounded 2^a. -/
  | exp2 (w : CWord)
  /-- LOG2, R136: Correctly rounded log2. -/
  | log2 (w : CWord)
  /-- SIN, R136: Correctly rounded sine. -/
  | sinW (w : CWord)
  /-- COS, R136: Correctly rounded cosine. -/
  | cosW (w : CWord)
  /-- TANH, R136: Correctly rounded hyperbolic tangent. -/
  | tanhW (w : CWord)
  /-- LDL, R142: Loads from a local-store object, filling a stash entry first where needed. -/
  | ldl (w : CWord)
  /-- STL, R142: Stores into a local-store object. -/
  | stl (w : CWord)
  /-- LDS.SYNC, R152: Waits for each named full/empty word to be full, then takes its value and empties it. -/
  | ldsSync (w : CWord)
  /-- STS.SYNC, R152: Waits for each named full/empty word to be empty, then writes its value and fills it. -/
  | stsSync (w : CWord)
  /-- BUF.FILL, R144: Moves a buffer from EMPTY to FILLING. -/
  | bufFill (w : CWord)
  /-- BUF.DONE, R144: Moves a buffer from FILLING to FULL once its pending writes have landed. -/
  | bufDone (w : CWord)
  /-- BUF.DRAIN, R144: Moves a buffer from FULL to DRAINING. -/
  | bufDrain (w : CWord)
  /-- BUF.FREE, R144: Returns a buffer to EMPTY once its pending counts reach zero. -/
  | bufFree (w : CWord)
  /-- BUF.STAT, R146: Reads the status of an object. -/
  | bufStat (w : CWord)
  /-- STASH.FLUSH, R151: Writes back a snapshot of a stash window's dirty bytes. -/
  | stashFlush (w : CWord)
  /-- STASH.INV, R151: Writes back a stash window's dirty bytes and invalidates every entry. -/
  | stashInv (w : CWord)
  /-- ARM, R154: Arms or disarms an arrival slot. -/
  | armW (w : CWord)
  /-- LDR, R170: Plain load through a buffer record. -/
  | ldr (w : CWord)
  /-- STR, R170: Plain store through a buffer record. -/
  | str (w : CWord)
  /-- LDG, R170: Element gather load at vB × STRIDE. -/
  | ldg (w : CWord)
  /-- STG, R170: Element scatter store at vB × STRIDE. -/
  | stg (w : CWord)
  /-- STU, R171: Store under a per-lane byte mask, with no alignment check. -/
  | stu (w : CWord)
  /-- PREF, R172: Prefetches lines, with no architectural effect. -/
  | pref (w : CWord)
  /-- SAMPLE, R173: Samples a texture by point or bilinear filtering. -/
  | sample (w : CWord)
  /-- RECLD, R174: Loads a buffer record from memory into a descriptor register. -/
  | recld (w : CWord)
  /-- RECSET, R175: Writes a descriptor as a copy of another with one field narrowed or changed. -/
  | recset (w : CWord)
  /-- RECQRY, R175: Reads one field of a descriptor. -/
  | recqry (w : CWord)
  /-- ATOM, R216: Atomic read-modify-write that returns the old value. -/
  | atom (w : CWord)
  /-- ATOM.CAS, R216: Atomic compare-and-swap. -/
  | atomCas (w : CWord)
  /-- RED, R216: Atomic reduction that returns no value. -/
  | redA (w : CWord)
  /-- LDA, R217: Synchronising load, acquire or relaxed. -/
  | lda (w : CWord)
  /-- STRL, R217: Synchronising store, release or relaxed. -/
  | strl (w : CWord)
  /-- FENCE, R218: Orders the member's memory accesses at a scope. -/
  | fence (w : CWord)
  /-- BAR.TEAM, R219: Arrives at a team barrier and waits for it to complete. -/
  | barTeam (w : CWord)
  /-- BAR.CLU, R219: Arrives at a cluster barrier, committing the version, and waits for it to complete. -/
  | barClu (w : CWord)
  /-- COMMIT, R220: Commits the team's version and ends the region. -/
  | commitW (w : CWord)
  /-- VQRY, R221: Reads one value of the team's version. -/
  | vqry (w : CWord)
  /-- SFILL, R240: Zero-pads the block, marks it FILLED and ends the generator. -/
  | sfill (w : CWord)
  /-- SFAIL, R241: Fails the generator with a detail value. -/
  | sfail (w : CWord)
  /-- SEVICT, R242: Requests eviction of the spring block that holds a VA. -/
  | sevict (w : CWord)
  /-- SQRY, R243: Reads a spring block's state without missing. -/
  | sqry (w : CWord)
  /-- TGROW, R291: Grows the tile holding within the ceiling and reports success in a predicate. -/
  | tgrow (w : CWord)
  /-- TSHRINK, R291: Shrinks the tile holding after earlier tile accesses have been performed. -/
  | tshrink (w : CWord)
  /-- TLD, R296: Reads pixel planes from the tile holding. -/
  | tld (w : CWord)
  /-- TST, R296: Writes pixel planes into the tile holding. -/
  | tst (w : CWord)
  /-- TST.ord, R297: Ordered tile write, applied only when its sequence key exceeds the pixel's, optionally in screen coordinates to an owner team. -/
  | tstOrd (w : CWord)
  /-- BEAM, R303: Submits a pixel rectangle to the reach's beam-traversal unit. -/
  | beam (w : CWord)
  /-- RAY, R302: Casts one ray per lane through a BVH and writes the hit record. -/
  | ray (w : CWord)
  /-- XCOPY, R256: Copy-engine command: linear copy, shaped copy or zero fill. -/
  | xcopy (w : CWord)
  /-- XSEND, R259: Sends bytes into a buffer of a target team, optionally starting an arrival. -/
  | xsend (w : CWord)
  /-- SHAPE.LD, R258: Loads a tensor-shape slot. -/
  | shapeLd (w : CWord)
  /-- SHAPE.EV, R258: Unloads a tensor-shape slot. -/
  | shapeEv (w : CWord)
  /-- XGATH, R260: Gather-engine command: one element per lane into local store. -/
  | xgath (w : CWord)
  /-- COLL, R262: Joins a collective instance: sum, max, broadcast or gather. -/
  | coll (w : CWord)
  /-- WAITK, R266: Waits until the named tokens leave PENDING and takes the cause of an ERROR token. -/
  | waitk (w : CWord)
  /-- KTEST, R267: Tests the named tokens without waiting. -/
  | ktest (w : CWord)
  /-- CREC, R265: Sleeps until a completion ring's DONE reaches a threshold. -/
  | crec (w : CWord)
  /-- ACC.OPEN, R280: Opens an accumulator tile with a depth and optionally zeroes it. -/
  | accOpen (w : CWord)
  /-- MMA, R281: Dense matrix multiply-accumulate into a tile. -/
  | mma (w : CWord)
  /-- MMAS, R281: 2:4 sparse matrix multiply-accumulate into a tile. -/
  | mmas (w : CWord)
  /-- ACC.RET, R286: Retires a tile and writes it out, converted. -/
  | accRet (w : CWord)
  /-- ACC.RD, R287: Reads tile elements into vector registers. -/
  | accRd (w : CWord)
  /-- ACC.ZERO, R280: Queues a zeroing of a tile. -/
  | accZero (w : CWord)
  /-- META.LD, R285: Loads sparsity metadata units. -/
  | metaLd (w : CWord)
  /-- TRAP, R344: Takes cause 0x28 with an argument. -/
  | trapW (w : CWord)
  /-- TRET, R345: Returns from a trap handler to %tepc. -/
  | tret (w : CWord)
  /-- TABANDON, R346: Abandons the team's task. -/
  | tabandon (w : CWord)
  /-- TMASK, R347: Sets or clears the member's MASK. -/
  | tmask (w : CWord)
  /-- SYSRD, R348: Reads a special register. -/
  | sysrd (w : CWord)
  /-- SYSWR, R349: Writes a special register. -/
  | syswr (w : CWord)
  /-- WEIR.ACQ, R332: Requests a weir grant of a level and waits for it. -/
  | weirAcq (w : CWord)
  /-- WEIR.REL, R333: Closes the open weir and returns its level. -/
  | weirRel (w : CWord)
  /-- WEIR.QRY, R335: Reads the weir state. -/
  | weirQry (w : CWord)
  /-- ISSUE_AS_HELD, R364: Patch word that issues the held copy of a template as one bundle. -/
  | issueAsHeld (t : BitVec 6)
  /-- AMEND_THEN_ISSUE, R364: Patch word that writes a field of a held template and then issues it. -/
  | amendThenIssue (t : BitVec 6) (f : BitVec 8) (v : BitVec 16)
  /-- AMEND_AND_HOLD, R364: Patch word that writes a field of a held template without issuing. -/
  | amendAndHold (t : BitVec 6) (f : BitVec 8) (v : BitVec 16)
  /-- TPL.LD, R368: Loads a template image into a slot. -/
  | tplLd (f : BitVec 8) (v : BitVec 16)
  /-- END, R369: Ends the stream. -/
  | endS
  /-- QDRAIN, R369: Waits until the line core's queues are empty and complete. -/
  | qdrain
  /-- TRAP, R369: Stream-control trap with cause 0x28. -/
  | streamTrap (n : BitVec 16)
  /-- SNOP, R378: S0 slot with no effect. -/
  | snop
  /-- SADD, R378: Scalar add. -/
  | sadd (d a b : BitVec 5)
  /-- SSUB, R378: Scalar subtract. -/
  | ssub (d a b : BitVec 5)
  /-- SMUL, R378: Scalar multiply. -/
  | smul (d a b : BitVec 5)
  /-- SAND, R378: Scalar bitwise and. -/
  | sand (d a b : BitVec 5)
  /-- SOR, R378: Scalar bitwise or. -/
  | sor (d a b : BitVec 5)
  /-- SXOR, R378: Scalar bitwise exclusive or. -/
  | sxor (d a b : BitVec 5)
  /-- SSHL, R378: Scalar left shift. -/
  | sshl (d a b : BitVec 5)
  /-- SSHR, R378: Scalar logical right shift. -/
  | sshr (d a b : BitVec 5)
  /-- SSRA, R378: Scalar arithmetic right shift. -/
  | ssra (d a b : BitVec 5)
  /-- SLT, R378: Scalar signed set-less-than. -/
  | slt (d a b : BitVec 5)
  /-- SLTU, R378: Scalar unsigned set-less-than. -/
  | sltu (d a b : BitVec 5)
  /-- SADDI, R378: Scalar add of a sign-extended immediate. -/
  | saddi (d a : BitVec 5) (imm : BitVec 16)
  /-- SLUI, R378: Sets the upper half from an immediate over xA's low half. -/
  | slui (d a : BitVec 5) (imm : BitVec 16)
  /-- BEQZ, R378: Branches when xA is zero. -/
  | beqz (a : BitVec 5) (off : BitVec 16)
  /-- BNEZ, R378: Branches when xA is non-zero. -/
  | bnez (a : BitVec 5) (off : BitVec 16)
  /-- BRU, R378: Unconditional branch. -/
  | bru (off : BitVec 16)
  /-- LSTART, R379: Starts a modulo-scheduled loop, setting LC, EC and the stage predicates. -/
  | lstart (a : BitVec 5) (stages : BitVec 3)
  /-- LOOP, R379: Counts down the loop, rotates the stage predicates and registers, and branches. -/
  | loopS (off : BitVec 16)
  /-- SRD, R380: Reads a stream value. -/
  | srd (d : BitVec 5) (n : BitVec 16)
  /-- SETSHP, R378: Sets the shape register. -/
  | setshp (a : BitVec 5)
  /-- SETLB, R378: Sets the loop base of the rotating registers. -/
  | setlb (a : BitVec 5)
  /-- VMOV, R383: Vector move. -/
  | vmov (f : VForm)
  /-- VADD, R383: Vector add. -/
  | vadd (f : VForm)
  /-- VSUB, R383: Vector subtract. -/
  | vsub (f : VForm)
  /-- VMUL, R383: Vector multiply. -/
  | vmul (f : VForm)
  /-- VFMA, R383: Vector fused multiply-add. -/
  | vfma (f : VForm)
  /-- VMIN, R383: Vector minimum. -/
  | vmin (f : VForm)
  /-- VMAX, R383: Vector maximum. -/
  | vmax (f : VForm)
  /-- VLERP, R383: Vector linear interpolation. -/
  | vlerp (f : VForm)
  /-- VABS, R383: Vector magnitude. -/
  | vabs (f : VForm)
  /-- VCMP, R385: Vector compare into element masks. -/
  | vcmp (f : VForm)
  /-- VSEL, R385: Vector select by mask. -/
  | vsel (f : VForm)
  /-- VAND, R383: Vector bitwise and. -/
  | vand (f : VForm)
  /-- VOR, R383: Vector bitwise or. -/
  | vor (f : VForm)
  /-- VXOR, R383: Vector bitwise exclusive or. -/
  | vxor (f : VForm)
  /-- VSHL, R383: Vector left shift. -/
  | vshl (f : VForm)
  /-- VSHR, R383: Vector right shift. -/
  | vshr (f : VForm)
  /-- VCVT, R386: Vector type conversion. -/
  | vcvt (f : VForm)
  /-- VTRN, R384: Vector transpose. -/
  | vtrn (f : VForm)
  /-- VBROW, R384: Broadcasts a row. -/
  | vbrow (f : VForm)
  /-- VBCOL, R384: Broadcasts a column. -/
  | vbcol (f : VForm)
  /-- VROTC, R384: Rotates columns. -/
  | vrotc (f : VForm)
  /-- VPERM, R384: Permutes columns within each row. -/
  | vperm (f : VForm)
  /-- VRSUM, R384: Row sum by the pairwise tree. -/
  | vrsum (f : VForm)
  /-- LDW, R388: Loads 512 contiguous line-store bytes into a vector register, waiting on full tiles. -/
  | ldw (f : LdForm)
  /-- LDWR, R388: Loads NR rows with a pitch into a vector register. -/
  | ldwr (f : LdForm)
  /-- LDX, R388: Loads 4 line-store bytes into a scalar register. -/
  | ldx (f : LdForm)
  /-- STW, R388: Stores 512 contiguous bytes to the line store. -/
  | stw (f : StForm)
  /-- STWR, R388: Stores NR rows with a pitch to the line store. -/
  | stwr (f : StForm)
  /-- STX, R388: Stores 4 bytes from a scalar register. -/
  | stx (f : StForm)
  /-- QNOP, R393: Q slot that only waits on and signals semaphores. -/
  | qnop (sem : SemForm)
  /-- SEM.INIT, R392: Initialises a semaphore's ceiling and count. -/
  | semInit (a sm : BitVec 5) (c : BitVec 9)
  /-- SEM.ADD, R392: Adds k to a semaphore's count. -/
  | semAdd (sm : BitVec 5) (k : BitVec 9)
  /-- SEM.SUB, R392: Waits for k units of a semaphore and subtracts them. -/
  | semSub (sm : BitVec 5) (k : BitVec 9)
  /-- SEM.RD, R390: Reads a semaphore's count. -/
  | semRd (a sm : BitVec 5)
  /-- CQPUSH, R394: Appends a value to a queue register. -/
  | cqpush (a : BitVec 5) (sem : SemForm) (q : BitVec 2)
  /-- CQPOP, R394: Removes the oldest value of a queue register. -/
  | cqpop (a : BitVec 5) (sem : SemForm) (q : BitVec 2)
  /-- CPLD, R396: Pushes a window-to-line-store copy onto the load queue. -/
  | cpld (a : BitVec 5) (sem : SemForm) (setf : Bool)
  /-- CPST, R396: Pushes a line-store-to-window copy onto the store queue. -/
  | cpst (a : BitVec 5) (sem : SemForm) (waitf clrf : Bool)
  /-- MMC, R398: Pushes a 32 × 32 matrix multiply onto the matrix queue. -/
  | mmc (a : BitVec 5) (sem : SemForm)
  /-- PART_CREATE, R434: Packet that creates a partition. -/
  | partCreate (p : Packet)
  /-- PART_DESTROY, R434: Packet that destroys a partition. -/
  | partDestroy (p : Packet)
  /-- PART_RESIZE, R360: Packet that resizes a partition by pre-empting, remapping and resuming its contexts. -/
  | partResize (p : Packet)
  /-- QUEUE_CREATE, R434: Packet that creates and enables a queue. -/
  | queueCreate (p : Packet)
  /-- QUEUE_DESTROY, R434: Packet that destroys a queue. -/
  | queueDestroy (p : Packet)
  /-- SUMMARY, R443: Packet that writes a summary record. -/
  | summaryP (p : Packet)
  /-- SUMREQ, R443: Host register write that writes a summary record. -/
  | sumreq (pa : DWord)
  /-- FW_UPDATE, R442: Packet that installs a new firmware image through the standby complex. -/
  | fwUpdate (p : Packet)
  /-- ATTEST, R444: Packet that writes a signed attestation response. -/
  | attestP (p : Packet)
  /-- DIE_OFFLINE, R435: Packet that takes a compute die out of service. -/
  | dieOffline (p : Packet)
  /-- NOP_PACKET, R434: Partition packet with no effect, completing at issue. -/
  | nopPacket (p : Packet)
  /-- CTX_CREATE, R434: Packet that creates a context. -/
  | ctxCreate (p : Packet)
  /-- CTX_DESTROY, R434: Packet that destroys a context. -/
  | ctxDestroy (p : Packet)
  /-- LAUNCH, R308: Packet that checks a launch record and hands the launch to the dispatchers. -/
  | launchP (p : Packet)
  /-- PREEMPT, R352: Packet that requests pre-emption of a context. -/
  | preemptP (p : Packet)
  /-- RESUME, R354: Packet that resumes a saved context, optionally with a remap. -/
  | resumeP (p : Packet)
  /-- TLB_INV, R179: Packet that invalidates cached translations of a range. -/
  | tlbInv (p : Packet)
  /-- SPRING_DECL, R223: Packet that declares a spring. -/
  | springDecl (p : Packet)
  /-- SPRING_UNDECL, R226: Packet that ends a spring. -/
  | springUndecl (p : Packet)
  /-- STREAM_OPEN, R406: Packet that opens a presentation stream. -/
  | streamOpen (p : Packet)
  /-- STREAM_CLOSE, R407: Packet that closes a stream at the next frame start. -/
  | streamClose (p : Packet)
  /-- PASS_RELEASE, R293: Packet that frees the kept holdings of a pass key. -/
  | passRelease (p : Packet)
  /-- TASK_CTL, R434: Packet that dispatches again or releases an abandoned task. -/
  | taskCtl (p : Packet)
  /-- RESULT_WRITEBACK, R109: A variable-latency result is written in every active lane and its tag is released. -/
  | resultWriteback (team mem idx : Nat)
  /-- EDDY_BIN_DRAW, R81: A full, aged or idle eddy bin is drawn into a free group slot. -/
  | eddyBinDraw (team bin : Nat)
  /-- ISSUE_AGEING, R84: A group ready for 2,048 fe-cycles without issuing takes issue priority 8. -/
  | issueAgeing (team mem : Nat)
  /-- BANK_SWITCH, R184: The core switches its issuing bank. -/
  | bankSwitch (core : Nat)
  /-- TRAP_ENTRY, R339: After the drain, the trap registers are written and the handler begins at %tvec. -/
  | trapEntry (team mem : Nat)
  /-- BUDGET_EXPIRY, R342: BUDGET reaches 0 and the member takes cause 0x2C. -/
  | budgetExpiry (team mem : Nat)
  /-- FAULT_HELD_RETRY, R187: A group held unrecorded retries its translation every 1,024 fe-cycles. -/
  | faultHeldRetry (team mem : Nat)
  /-- FBREPLAY, R188: Host write that retries every parked group of a context. -/
  | fbreplay (die : Nat) (value : DWord)
  /-- FBABORT, R188: Host write that makes one parked group take cause 0x08. -/
  | fbabort (die : Nat) (value : DWord)
  /-- BACK_INVALIDATE, R181: A back-invalidate from the CXL pool drops every cached copy of a line and writes back dirty data. -/
  | backInvalidate (pa : Nat)
  /-- VERSION_COMMIT, R205: A version commits indivisibly in the device-wide commit order, after any wait for horizon share. -/
  | versionCommit (team : Nat)
  /-- HORIZON, R209: Committed marks reach their horizon and are discarded, releasing horizon share. -/
  | horizon
  /-- SPRING_MISS, R230: A requester's miss arrives at the block's home and is answered with proceed, wait or failed. -/
  | springMiss (idx : Nat)
  /-- GENERATOR_PLACEMENT, R237: An enqueued generator is placed in a spring slot, a nested slot or ordinary resources. -/
  | generatorPlacement (idx core bank : Nat)
  /-- FRAME_ALLOCATION, R238: A backing frame becomes free for a block waiting in FILLING, and its generator is enqueued. -/
  | frameAllocation (ctx spring : Nat)
  /-- GENERATOR_FAILURE, R234: A generator fails, its block becomes FAILED and its waiters take the cause. -/
  | generatorFailure (ctx spring block : Nat)
  /-- EVICTION_END, R236: An eviction ends and the block returns to UNFILLED. -/
  | evictionEnd (ctx spring block : Nat)
  /-- ENGINE_COMMAND_START, R247: An accepted engine command starts once its consumed tokens have left PENDING. -/
  | engineCommandStart (id : Nat)
  /-- ENGINE_COMMAND_COMPLETION, R248: An engine command completes or ends in ERROR, and its token changes state. -/
  | engineCommandCompletion (id : Nat)
  /-- XSEND_LANDING, R155: An XSEND landing arrives at its target buffer and is accepted or refused. -/
  | xsendLanding (id : Nat)
  /-- ARRIVAL_GROUP_START, R156: A pending start launches an arrival group in a free group slot. -/
  | arrivalGroupStart (team slot : Nat)
  /-- COLLECTIVE_COMPLETION, R262: A collective instance reaches N participants and writes the destinations. -/
  | collectiveCompletion (idx : Nat)
  /-- BARRIER_COMPLETION, R219: Every participant has arrived and the barrier completes. -/
  | barrierCompletion (clu : Bool) (team n : Nat)
  /-- MATRIX_ENTRY_START, R273: A matrix-queue entry starts once its tokens and earlier touching entries allow. -/
  | matrixEntryStart (id : Nat)
  /-- MATRIX_ENTRY_COMPLETION, R283: A started matrix entry writes its tile or destination and completes. -/
  | matrixEntryCompletion (id : Nat)
  /-- MATRIX_RESET, R289: A matrix engine hung for 80 µs is reset and its affected teams are abandoned. -/
  | matrixReset (core : Nat)
  /-- MATRIX_RESET_END, R289: After 4,096 lane cycles the reset engine accepts words again. -/
  | matrixResetEnd (core : Nat)
  /-- BEAM_COMPLETION, R304: The beam unit writes the hit records of a rectangle and completes its command. -/
  | beamCompletion (id : Nat)
  /-- SCREEN_WRITE_DELIVERY, R298: A held screen write arrives at its owner and is applied or discarded. -/
  | screenWriteDelivery (idx : Nat)
  /-- ABANDONMENT, R350: A task is abandoned, its resources are released and an abandonment record is posted. -/
  | abandonment (team : Nat)
  /-- UNCORRECTABLE_ERROR, R351: An uncorrectable ECC error abandons the teams whose state held the bad bits. -/
  | uncorrectableError (teams : List Nat)
  /-- TEAM_PLACEMENT, R314: The dispatcher checks a team or cluster against cores and places it, reserving every resource. -/
  | teamPlacement (die : Nat)
  /-- PLACEMENT_RECHECK, R324: A refused team is checked again at least every 100 µs. -/
  | placementRecheck (die : Nat)
  /-- EFFECTIVE_PRIORITY_RISE, R310: A launch with no placement for 1 ms rises one effective priority level. -/
  | effectivePriorityRise (launch : Nat)
  /-- LAUNCH_HOLD, R310: A launch blocked for more than 1 ms holds its partition on the die. -/
  | launchHold (launch die : Nat)
  /-- RETIREMENT, R317: A team with no live lanes and no pending work retires: write-back, commit, holding, release. -/
  | retirement (team : Nat)
  /-- LAUNCH_COMPLETION, R317: A launch's walk is exhausted and all its teams have retired. -/
  | launchCompletion (launch : Nat)
  /-- SENSOR_READING, R319: A reach's 100 µs temperature reading sets the refresh interval, halt and TPRED. -/
  | sensorReading (reach quarters : Nat)
  /-- CHARGE_COUNTER_TICK, R323: Every 1 µs each partition's charge counter adds its teams' refresh charges. -/
  | chargeCounterTick
  /-- MILLPOND_REFILL, R330: Every microsecond the millpond gains its refill and the refill moves towards its target. -/
  | millpondRefill (reach : Nat)
  /-- WEIR_GRANT, R332: The reach grants a waiting group its weir level. -/
  | weirGrant (reach : Nat)
  /-- DROOP, R336: A droop detection stretches lane cycles. -/
  | droop (reach : Nat)
  /-- HOP_LOCK, R337: The new clock source has locked and the lane clock moves to it, ending the hop. -/
  | hopLock (reach : Nat)
  /-- HOP_ABORT, R337: A hop whose stretch lasts 16 µs past step 2 is abandoned. -/
  | hopAbort (reach : Nat)
  /-- CLKCFG, R327: Host write of lane rate and voltage; a rate change starts a hop. -/
  | clkcfg (reach : Nat) (value : Word)
  /-- MPFILL, R328: Host write of a target refill, refused when PKGCAP would be exceeded. -/
  | mpfill (reach : Nat) (value : Word)
  /-- SPSLOT, R237: Host write of a reach's spring-slot count. -/
  | spslot (reach : Nat) (value : Word)
  /-- VSCARVE, R17: Host write of a die's version-store carve. -/
  | vscarve (die : Nat) (value : Word)
  /-- VRES, R320: Host write of PIN and FLOOR, refused beyond capacity. -/
  | vres (vault : Nat) (value : Word)
  /-- DIE_LINK_RETRAIN, R21: A die link retrains, or is marked failed after three attempts. -/
  | dieLinkRetrain (a b : Nat)
  /-- CXL_PORT_RETRAIN, R445: A CXL port retrains, or is marked failed after three attempts. -/
  | cxlPortRetrain (port : Nat)
  /-- PREEMPT_SAVE_COMPLETE, R353: Every state of a pre-empted context has been saved, and a save-complete event is posted. -/
  | preemptSaveComplete (ctx : Nat)
  /-- QPUT, R429: Host write of a queue's put count, making packets available. -/
  | qput (q : Nat) (value : Word)
  /-- PACKET_TAKE_UP, R429: The queue engine reads and checks the head packet once its bytes are present. -/
  | packetTakeUp (q : Nat)
  /-- PACKET_ISSUE, R431: The head packet issues once its waits and barrier are satisfied. -/
  | packetIssue (q : Nat)
  /-- TIMELINE_ADVANCE, R433: TLVAL advances to SIGVAL as a release once the packet and all earlier ones have completed. -/
  | timelineAdvance (q : Nat)
  /-- QCTL_RESTART, R436: QCTL write with RESTART that sets QGET and clears HALT. -/
  | qctlRestart (q : Nat) (value : DWord)
  /-- QCTL_ENABLE, R428: QCTL write with ENABLE that enables queue 0. -/
  | qctlEnable (value : DWord)
  /-- HOST_MEMORY_ACCESS, R425: Host read or write of DRAM or the pool over the link, refused on a declared spring's fill map or pool. -/
  | hostMemoryAccess (pa : Nat) (data : Option (List Byte))
  /-- REGISTER_WRITE, R425: Host write to a device register with no row of its own, including refusals and W1C clears. -/
  | registerWrite (off width : Nat) (value : DWord)
  /-- FIRMWARE_FAILOVER, R441: The standby takes over after 10 ms without a heartbeat. -/
  | firmwareFailover
  /-- DEVICE_RESET, R440: Reset: the boot ROMs verify the image and the configuration record, then release queue 0. -/
  | deviceReset
  /-- LCGO, R463: Host write that performs a program start of a .section program on a line core. -/
  | lcgo (lc : Nat) (value : DWord)
  /-- FRAME_START, R408: A stream's frame begins at TF(f). -/
  | frameStart (stream : Nat)
  /-- SLICE_LATCH, R412: At a slice's latch the sequencer snapshots FIDX and the pose, computes the backwater slice and lists the slice. -/
  | sliceLatch (stream frame slice : Nat)
  /-- SLICE_LAUNCH, R413: A free line core receives the listed slice of earliest deadline: windows, sections and a program start. -/
  | sliceLaunch (lc : Nat)
  /-- SLICE_COMPLETION, R415: Both streams have ended and the queues are empty. -/
  | sliceCompletion (lc : Nat)
  /-- SLICE_DEADLINE, R415: A slice not complete at its deadline is stopped and missed. -/
  | sliceDeadline (stream frame slice : Nat)
  /-- BACKWATER_COPY, R418: After the stopped core's queues empty, the backwater slice is copied into the present rows. -/
  | backwaterCopy (stream frame slice : Nat)
  /-- TILE_ROW_ENCODE, R420: An encoder writes a tile row's bitstream chunk to the ring, or drops the frame. -/
  | tileRowEncode (stream frame row : Nat)
  /-- DP_LINE_START, R421: The DisplayPort output's line start adjusts the sequencer's lock. -/
  | dpLineStart (stream start : Nat)
  /-- COPY_COMMAND_START, R397: A copy command at its queue head consumes its wait unit and starts its copy after WAITF. -/
  | copyCommandStart (lc : Nat) (store : Bool)
  /-- COPY_COMMAND_COMPLETION, R397: A copy command completes, clears or sets full bits and signals. -/
  | copyCommandCompletion (lc : Nat) (store : Bool)
  /-- MMC_COMPLETION, R399: A presentation matrix command computes and writes C and signals. -/
  | mmcCompletion (lc : Nat)
  /-- DIE_LINK_TRAINED, R21: A retraining die link is trained again, delivers its held traffic in order and posts a die-link event. -/
  | dieLinkTrained (a b : Nat)
  /-- CXL_PORT_TRAINED, R445: A retraining CXL port is trained again, delivers its held traffic in order and posts a port event. -/
  | cxlPortTrained (port : Nat)
  /-- RISE_EXPIRY, R321: A team resident for 20 ms stops counting its rise in its vault's TPRED, which changes the budget and prompts a placement check. -/
  | riseExpiry (team : Nat)
  /-- STRETCH_END, R337: The supply sag ends and lane cycles return to nominal, which lets a hop waiting at step 3 move to its new source. -/
  | stretchEnd (reach : Nat)
  deriving DecidableEq, Repr

end Sys2Proof
end

