-- ==== Sys2Proof/Machine/Encoding.lean ====
section
/-! DEFINITION. The encoding tables of the spec as data: the opcode map of R64 with each entry's own M layout,
modifiers and register spans, the classes of R59, the special-register numbers, and the conditions under which a
word takes cause 0x01 by its own bits (R65, check 1). -/

namespace Sys2Proof.Machine

/-- The operand classes of R59. -/
inductive Cls where
  | v | s | x | y | p | d | k | a | c | n | i | none
  deriving DecidableEq, Repr

/-- The four formats of R55. -/
inductive Fmt where
  | r | i | b | e
  deriving DecidableEq, Repr

/-- The format of a word. -/
def fmtOf (w : CWord) : Fmt :=
  match w.body with
  | .r .. => .r
  | .i .. => .i
  | .b .. => .b
  | .e .. => .e

/-- Field D (R55). -/
def fD (w : CWord) : Nat :=
  match w.body with
  | .r d _ _ _ _ => d.toNat
  | .i d _ _ => d.toNat
  | .b d _ _ => d.toNat
  | .e d _ _ _ _ _ _ _ => d.toNat

/-- Field A (R55). -/
def fA (w : CWord) : Nat :=
  match w.body with
  | .r _ a _ _ _ => a.toNat
  | .i _ a _ => a.toNat
  | .b _ a _ => a.toNat
  | .e _ a _ _ _ _ _ _ => a.toNat

/-- Field B, zero where the format has none (R55). -/
def fB (w : CWord) : Nat :=
  match w.body with
  | .r _ _ b _ _ => b.toNat
  | .e _ _ b _ _ _ _ _ => b.toNat
  | _ => 0

/-- Field C, zero where the format has none (R55). -/
def fC (w : CWord) : Nat :=
  match w.body with
  | .r _ _ _ c _ => c.toNat
  | _ => 0

/-- The modifier field M of a format-R word, zero in the other formats (R55). -/
def fM (w : CWord) : BitVec 16 :=
  match w.body with
  | .r _ _ _ _ m => m
  | _ => 0

/-- The immediate of a format-I word (R56). -/
def fImm (w : CWord) : Word :=
  match w.body with
  | .i _ _ imm => imm
  | _ => 0

/-- The branch offset of a format-B word (R57). -/
def fOff (w : CWord) : Word :=
  match w.body with
  | .b _ _ off => off
  | _ => 0

/-- SUB of a format-E word (R58). -/
def fSub (w : CWord) : Nat :=
  match w.body with
  | .e _ _ _ _ _ _ _ sub => sub.toNat
  | _ => 0

/-- CRQ of a format-E word (R58). -/
def fCrq (w : CWord) : Bool :=
  match w.body with
  | .e _ _ _ _ _ _ crq _ => crq
  | _ => false

/-- The consumed tokens in K1, K2, K3 order (R58). -/
def fTokens (w : CWord) : List Nat :=
  match w.body with
  | .e _ _ _ k1 k2 k3 _ _ => ([k1, k2, k3].filterMap id).map BitVec.toNat
  | _ => []

/-- Bits [hi:lo] of M as a number. -/
def mBits (w : CWord) (hi lo : Nat) : Nat := (fM w).toNat / 2 ^ lo % 2 ^ (hi + 1 - lo)

/-- Bit i of M. -/
def mBit (w : CWord) (i : Nat) : Bool := (fM w).getLsbD i

/-- Selector SD (R60). -/
def selD (w : CWord) : Bool := mBit w 15
/-- Selector SA (R60). -/
def selA (w : CWord) : Bool := mBit w 14
/-- Selector SB (R60). -/
def selB (w : CWord) : Bool := mBit w 13
/-- Selector SC (R60). -/
def selC (w : CWord) : Bool := mBit w 12

/-- TYPE in the common layout; in format I the default of R62, which the caller names. -/
def tyOr (dflt : Nat) (w : CWord) : Nat := if fmtOf w = .r then mBits w 4 0 else dflt
/-- RM in the common layout (R62). -/
def rmOf (w : CWord) : Nat := mBits w 7 5
/-- FTZ in the common layout (R62). -/
def ftzOf (w : CWord) : Bool := mBit w 8
/-- SAT in the common layout (R62). -/
def satOf (w : CWord) : Bool := mBit w 9

/-- A 64-bit type code of R63. -/
def is64 (ty : Nat) : Bool := ty == 3 || ty == 7 || ty == 11

/-- The assigned special-register numbers (R61 and the chapters that assign further numbers). -/
def srNumbers : List Nat :=
  [0, 1, 2, 3, 4, 5, 6, 7, 8, 0x10, 0x11, 0x12, 0x13, 0x18, 0x19, 0x1A, 0x20, 0x22, 0x24, 0x26, 0x28, 0x2A, 0x2C, 0x2E,
   0x30, 0x31, 0x34, 0x35, 0x36, 0x37, 0x38]

/-- The 64-bit special registers. -/
def sr64 (n : Nat) : Bool := [7, 8, 0x22, 0x24, 0x26, 0x28, 0x2A, 0x2E].contains n

/-- The special registers that SYSWR may write (Access RW). -/
def srWritable (n : Nat) : Bool := [0x18, 0x19, 0x1A, 0x20, 0x30, 0x34].contains n

/-- One row of the opcode map (R64) with what the instruction's entry adds to its encoding. -/
structure CRow where
  /-- OP. -/
  op : Nat
  /-- The formats the opcode accepts. -/
  fmts : List Fmt
  /-- Marked U in the opcode map. -/
  uni : Bool := false
  /-- The classes of D, A, B and C. -/
  sig : Cls × Cls × Cls × Cls
  /-- The bits of M that the entry uses, beside the selectors. -/
  mMask : Nat := 0
  /-- The entry's other conditions on the word's own bits. -/
  ent : CWord → Bool := fun _ => true
  /-- How many registers each of D, A, B and C names. -/
  span : CWord → Nat × Nat × Nat × Nat := fun _ => (1, 1, 1, 1)
  /-- Which of D, A, B and C name 64-bit pairs, whose number must be even (R29). -/
  pair : CWord → Bool × Bool × Bool × Bool := fun _ => (false, false, false, false)
  /-- The constructor. -/
  con : CWord → Instr

/-- One register, or two for a 64-bit operand. -/
def spanOf (b : Bool) : Nat := if b then 2 else 1

/-- The spans that follow from which operands are pairs. -/
def spans (p : Bool × Bool × Bool × Bool) : Nat × Nat × Nat × Nat :=
  (spanOf p.1, spanOf p.2.1, spanOf p.2.2.1, spanOf p.2.2.2)

/-- A row of the integer family in the common layout (R114): types, whether SAT is legal, which operands are pairs. -/
def intRow (op : Nat) (fmts : List Fmt) (sig : Cls × Cls × Cls × Cls) (types : List Nat) (sat : Bool) (extra : Nat)
    (pr : Bool → Bool × Bool × Bool × Bool) (mk : CWord → Instr) : CRow :=
  { op := op, fmts := fmts, sig := sig, mMask := 0x1F + (if sat then 0x200 else 0) + extra,
    ent := fun w => types.contains (tyOr 2 w),
    pair := fun w => pr (is64 (tyOr 2 w)), span := fun w => spans (pr (is64 (tyOr 2 w))), con := mk }

/-- A row of the FP32 family in the common layout (R124): the greatest rounding code, 0 for none. -/
def fpRow (op : Nat) (fmts : List Fmt) (sig : Cls × Cls × Cls × Cls) (types : List Nat) (rmMax : Nat) (extra : Nat)
    (mk : CWord → Instr) : CRow :=
  { op := op, fmts := fmts, sig := sig, mMask := 0x11F + (if rmMax = 0 then 0 else 0xE0) + extra,
    ent := fun w => types.contains (tyOr 0x10 w) && rmOf w ≤ rmMax, con := mk }

/-- The pair rule of an operation whose every operand has the type's width. -/
def pAll (b : Bool) : Bool × Bool × Bool × Bool := (b, b, b, b)
/-- The pair rule of an operation whose D and A have the type's width. -/
def pDA (b : Bool) : Bool × Bool × Bool × Bool := (b, b, false, false)
/-- The pair rule of an operation of which only A has the type's width. -/
def pA (b : Bool) : Bool × Bool × Bool × Bool := (false, b, false, false)

/-- A row with no modifier beside its selectors. -/
def plainRow (op : Nat) (fmts : List Fmt) (uni : Bool) (sig : Cls × Cls × Cls × Cls) (mk : CWord → Instr) : CRow :=
  { op := op, fmts := fmts, uni := uni, sig := sig, con := mk }

/-- A uniform format-R row whose literal field A is at most `hi`. -/
def litRow (op hi : Nat) (sig : Cls × Cls × Cls × Cls) (mMask : Nat) (mk : CWord → Instr) : CRow :=
  { op := op, fmts := [.r], uni := true, sig := sig, mMask := mMask, ent := fun w => fA w ≤ hi, con := mk }

/-- The 8-bit and 6-bit narrow formats and the 4-bit ones (R130). -/
def narrowTypes : List Nat := [0x13, 0x14, 0x15, 0x16, 0x17, 0x18]

/-- The legal combinations of GRED and GSCAN (R96). -/
def gredOk (w : CWord) : Bool :=
  let opn := mBits w 10 8
  let ty := mBits w 4 0
  let rm := rmOf w
  if opn ≤ 2 then (ty == 2 || ty == 6 || ty == 0x10) && (rm == 0 || (opn == 0 && ty == 0x10 && rm ≤ 3))
  else opn ≤ 5 && ty == 0xA && rm == 0

/-- The legal combinations of CVT (R129). -/
def cvtOk (w : CWord) : Bool :=
  let dt := mBits w 4 0
  let st := mBits w 11 8
  let dInt := dt ≤ 7
  let sInt := st ≤ 7
  (dInt || dt == 0x10 || dt == 0x11 || dt == 0x12) && st ≤ 10 &&
  (!mBit w 13 || (dInt && sInt)) && (!mBit w 12 || !(dInt && sInt)) &&
  (if dInt && sInt then rmOf w == 0 else rmOf w ≤ 4)

/-- The legal combinations of the words of R214. `kind`: 0 ATOM, 1 ATOM.CAS, 2 RED, 3 LDA, 4 STRL. -/
def atomOk (kind : Nat) (w : CWord) : Bool :=
  let aop := mBits w 11 8
  let ord := mBits w 7 6
  let aty := mBits w 2 0
  let b := aty == 0 || aty == 4
  let arith := aty == 1 || aty == 2 || aty == 3 || aty == 5 || aty == 6
  mBits w 5 3 ≤ 5 && aty ≤ 6 &&
  (match kind with
   | 0 => if aop ≤ 2 then arith else aop ≤ 6 && b
   | 1 => aop == 0 && b
   | 2 => (ord == 0 || ord == 2) && (if aop ≤ 2 then arith else aop ≤ 5 && b)
   | 3 => (ord == 0 || ord == 1) && aop == 0 && b
   | _ => (ord == 0 || ord == 2) && aop == 0 && b)

/-- Whether an ATYPE of R214 is 64 bits wide. -/
def atom64 (w : CWord) : Bool := mBits w 2 0 ≥ 4

/-- A row of R214. -/
def atomRow (op kind : Nat) (sig : Cls × Cls × Cls × Cls) (mk : CWord → Instr) : CRow :=
  { op := op, fmts := [.r], sig := sig, mMask := 0xFFF, ent := atomOk kind,
    pair := fun w => (atom64 w && kind ≤ 3 && kind ≠ 2, false, false, atom64 w && kind ≠ 3),
    span := fun w => (spanOf (atom64 w && kind ≤ 3 && kind ≠ 2), 1, 1,
      if kind = 1 then 2 * spanOf (atom64 w) else spanOf (atom64 w && kind ≠ 3)), con := mk }

/-- An engine row in format E: the greatest SUB and the register spans of A and B. -/
def engRow (op subMax : Nat) (sig : Cls × Cls × Cls × Cls) (sp : CWord → Nat × Nat) (mk : CWord → Instr) : CRow :=
  { op := op, fmts := [.e], uni := true, sig := sig, ent := fun w => fSub w ≤ subMax,
    span := fun w => (1, (sp w).1, (sp w).2, 1), con := mk }

/-- Control, predicates and cross-lane work (R64, governed by R86 to R98). -/
def rowsControl : List CRow :=
  [ plainRow 0x000 [.r] false (.none, .none, .none, .none) .nop,
    plainRow 0x001 [.b] false (.none, .none, .none, .none) .bra,
    plainRow 0x002 [.b] false (.none, .v, .none, .none) .brx,
    plainRow 0x003 [.b] false (.v, .none, .none, .none) .callW,
    plainRow 0x004 [.r] false (.none, .v, .none, .none) .retW,
    plainRow 0x005 [.r] false (.none, .none, .none, .none) .reform,
    plainRow 0x006 [.r] true (.none, .none, .none, .none) .yieldW,
    plainRow 0x007 [.r] false (.none, .none, .none, .none) .exitW,
    { op := 0x008, fmts := [.r], sig := (.p, .p, .p, .p), mMask := 0xFF, con := .plog },
    { op := 0x009, fmts := [.r], sig := (.v, .p, .none, .none), mMask := 0x1F, span := fun w => (1, mBits w 4 0 + 1, 1, 1), con := .prd },
    { op := 0x00A, fmts := [.r], sig := (.p, .x, .none, .none), mMask := 0x1F, span := fun w => (mBits w 4 0 + 1, 1, 1, 1), con := .pwr },
    plainRow 0x010 [.r] false (.v, .v, .x, .none) .shflBc,
    plainRow 0x011 [.r] false (.v, .v, .x, .none) .shflXor,
    plainRow 0x012 [.r] false (.v, .v, .x, .none) .shflUp,
    plainRow 0x013 [.r] false (.v, .v, .x, .none) .shflDn,
    { op := 0x014, fmts := [.r], sig := (.y, .p, .none, .none), mMask := 0xC00, con := .vote },
    { op := 0x015, fmts := [.r], sig := (.y, .v, .none, .none), mMask := 0x7FF, ent := gredOk, con := .gred },
    { op := 0x016, fmts := [.r], sig := (.v, .v, .none, .none), mMask := 0xFFF, ent := gredOk, con := .gscan } ]

/-- Integer and bit operations (R64, governed by R114 to R123). -/
def rowsInt : List CRow :=
  [ intRow 0x040 [.r, .i] (.x, .x, .x, .none) [0,1,2,3,4,5,6,7] true 0 pAll .iadd,
    intRow 0x041 [.r, .i] (.x, .x, .x, .none) [0,1,2,3,4,5,6,7] true 0 pAll .isub,
    intRow 0x042 [.r, .i] (.x, .x, .x, .none) [0,1,2,3,4,5,6,7] true 0 pAll .imul,
    intRow 0x043 [.r] (.x, .x, .x, .none) [2,6] false 0 pAll .imulh,
    intRow 0x044 [.r] (.x, .x, .x, .x) [0,1,2,3,4,5,6,7] true 0 pAll .imad,
    intRow 0x045 [.r, .i] (.x, .x, .x, .none) [0,1,2,3,4,5,6,7] false 0 pAll .imin,
    intRow 0x046 [.r, .i] (.x, .x, .x, .none) [0,1,2,3,4,5,6,7] false 0 pAll .imax,
    intRow 0x047 [.r] (.x, .x, .none, .none) [0,1,2,3] true 0 pAll .iabs,
    intRow 0x048 [.r, .i] (.x, .x, .x, .none) [2,6,10,3,7,11] false 0x400 pDA .shl,
    intRow 0x049 [.r, .i] (.x, .x, .x, .none) [2,6,10,3,7,11] false 0x400 pDA .shr,
    intRow 0x04A [.r] (.x, .x, .x, .x) [10] false 0xC00 pAll .fsh,
    intRow 0x04B [.r] (.x, .x, .x, .x) [2,6] false 0 pAll .bfe,
    intRow 0x04C [.r] (.x, .x, .x, .x) [10] false 0 pAll .bfi,
    intRow 0x04D [.r] (.x, .x, .none, .none) [10,11] false 0 pA .popc,
    intRow 0x04E [.r] (.x, .x, .none, .none) [10,11] false 0 pA .clz,
    intRow 0x04F [.r] (.x, .x, .none, .none) [10,11] false 0 pDA .brev,
    { op := 0x050, fmts := [.r], sig := (.x, .x, .x, .x), mMask := 0xFF, con := .bfn },
    { op := 0x051, fmts := [.r], sig := (.p, .x, .x, .none), mMask := 0xE1F,
      ent := fun w => mBits w 11 9 ≤ 5 && mBits w 4 0 ≤ 7,
      pair := fun w => (false, is64 (mBits w 4 0), is64 (mBits w 4 0), false),
      span := fun w => (1, spanOf (is64 (mBits w 4 0)), spanOf (is64 (mBits w 4 0)), 1), con := .icmp },
    { op := 0x052, fmts := [.r], sig := (.x, .x, .x, .p), mMask := 0x1F,
      ent := fun w => (mBits w 4 0 == 10 || mBits w 4 0 == 11) && !selD w,
      pair := fun w => (mBits w 4 0 == 11, mBits w 4 0 == 11, mBits w 4 0 == 11, false),
      span := fun w => (spanOf (mBits w 4 0 == 11), spanOf (mBits w 4 0 == 11), spanOf (mBits w 4 0 == 11), 1), con := .sel },
    intRow 0x053 [.r] (.x, .x, .none, .none) [10,11] false 0 pAll .mov,
    plainRow 0x054 [.i] false (.v, .none, .i, .none) .movi,
    plainRow 0x055 [.i] true (.s, .none, .i, .none) .smovi ]

/-- Floating point, conversion, narrow types, codebook and special functions (R64, governed by R124 to R137). -/
def rowsFloat : List CRow :=
  [ fpRow 0x0C0 [.r, .i] (.x, .x, .x, .none) [0x10] 4 0 .fadd,
    fpRow 0x0C1 [.r, .i] (.x, .x, .x, .none) [0x10] 4 0 .fsub,
    fpRow 0x0C2 [.r, .i] (.x, .x, .x, .none) [0x10] 4 0 .fmul,
    fpRow 0x0C3 [.r] (.x, .x, .x, .x) [0x10] 4 0 .ffma,
    fpRow 0x0C4 [.r, .i] (.x, .x, .x, .none) [0x10] 0 0 .fmin,
    fpRow 0x0C5 [.r, .i] (.x, .x, .x, .none) [0x10] 0 0 .fmax,
    fpRow 0x0C6 [.r] (.p, .x, .x, .none) [0x10] 0 0xE00 .fcmp,
    fpRow 0x0C7 [.r] (.x, .x, .none, .none) [0x10] 4 0 .frnd,
    fpRow 0x0C8 [.r] (.v, .v, .v, .none) [0x11, 0x12] 4 0 .hadd2,
    fpRow 0x0C9 [.r] (.v, .v, .v, .none) [0x11, 0x12] 4 0 .hmul2,
    fpRow 0x0CA [.r] (.v, .v, .v, .v) [0x11, 0x12] 4 0 .hfma2,
    { op := 0x0CB, fmts := [.r], sig := (.x, .x, .none, .none), mMask := 0x3FFF, ent := cvtOk,
      pair := fun w => (is64 (mBits w 4 0), mBits w 11 8 == 3 || mBits w 11 8 == 7, false, false),
      span := fun w => (spanOf (is64 (mBits w 4 0)), spanOf (mBits w 11 8 == 3 || mBits w 11 8 == 7), 1, 1), con := .cvt },
    { op := 0x0CC, fmts := [.r], sig := (.v, .v, .v, .none), mMask := 0xFFF,
      ent := fun w => narrowTypes.contains (mBits w 4 0) && (!mBit w 9 || mBits w 4 0 == 0x14) &&
        (if mBits w 4 0 == 0x18 then rmOf w == 0 else rmOf w ≤ 4) && (mBits w 4 0 ≥ 0x17 || mBits w 11 10 ≤ 1), con := .npack },
    { op := 0x0CD, fmts := [.r], sig := (.v, .v, .x, .none), mMask := 0x5FF,
      ent := fun w => narrowTypes.contains (mBits w 4 0) && rmOf w ≤ 4, con := .nunpk },
    { op := 0x0CE, fmts := [.r], sig := (.v, .v, .v, .v), mMask := 0x31F,
      ent := fun w => ([0x11, 0x12].contains (mBits w 4 0) && !mBit w 9) || ([1, 5].contains (mBits w 4 0) && !mBit w 8), con := .dot2 },
    { op := 0x0CF, fmts := [.r], sig := (.v, .v, .v, .v), mMask := 0x31F,
      ent := fun w => ([0x13, 0x14, 0x15, 0x16].contains (mBits w 4 0) && !mBit w 9) || ([0, 4].contains (mBits w 4 0) && !mBit w 8),
      con := .dot4 },
    { op := 0x0D0, fmts := [.r], sig := (.v, .v, .v, .v), mMask := 0x11F, ent := fun w => [0x17, 0x18].contains (mBits w 4 0), con := .dot8 },
    { op := 0x0D1, fmts := [.r], sig := (.v, .v, .v, .s), mMask := 0x11F, ent := fun w => narrowTypes.contains (mBits w 4 0), con := .dotsc },
    { op := 0x0D2, fmts := [.r], uni := true, sig := (.none, .x, .n, .none), ent := fun w => fB w % 2 == 0 && fB w ≤ 14, con := .cbLd },
    { op := 0x0D3, fmts := [.r], sig := (.x, .n, .none, .none), ent := fun w => fA w ≤ 15, con := .cbRd },
    fpRow 0x140 [.r] (.x, .x, .none, .none) [0x10] 3 0 .rcp,
    fpRow 0x141 [.r] (.x, .x, .none, .none) [0x10] 3 0 .rsq,
    fpRow 0x142 [.r] (.x, .x, .none, .none) [0x10] 3 0 .sqrtW,
    fpRow 0x143 [.r] (.x, .x, .none, .none) [0x10] 3 0 .exp2,
    fpRow 0x144 [.r] (.x, .x, .none, .none) [0x10] 3 0 .log2,
    fpRow 0x145 [.r] (.x, .x, .none, .none) [0x10] 3 0 .sinW,
    fpRow 0x146 [.r] (.x, .x, .none, .none) [0x10] 3 0 .cosW,
    fpRow 0x147 [.r] (.x, .x, .none, .none) [0x10] 3 0 .tanhW ]

/-- Local store, records and memory access (R64, governed by R142 to R175). -/
def rowsMemory : List CRow :=
  [ { op := 0x160, fmts := [.r], sig := (.x, .n, .x, .none), mMask := 0x1F, ent := fun w => [0,1,4,5,10,11].contains (mBits w 4 0) && fA w ≤ 63,
      pair := fun w => (mBits w 4 0 == 11, false, false, false), span := fun w => (spanOf (mBits w 4 0 == 11), 1, 1, 1), con := .ldl },
    { op := 0x161, fmts := [.r], sig := (.none, .n, .x, .x), mMask := 0x1F, ent := fun w => [8,9,10,11].contains (mBits w 4 0) && fA w ≤ 63,
      pair := fun w => (false, false, false, mBits w 4 0 == 11), span := fun w => (1, 1, 1, spanOf (mBits w 4 0 == 11)), con := .stl },
    { op := 0x162, fmts := [.r], sig := (.v, .n, .x, .none), mMask := 0x1F, ent := fun w => mBits w 4 0 == 10 && fA w ≤ 63, con := .ldsSync },
    { op := 0x163, fmts := [.r], sig := (.none, .n, .x, .v), mMask := 0x1F, ent := fun w => mBits w 4 0 == 10 && fA w ≤ 63, con := .stsSync },
    litRow 0x164 63 (.none, .n, .none, .none) 0x400 .bufFill,
    litRow 0x165 63 (.none, .n, .none, .none) 0x400 .bufDone,
    litRow 0x166 63 (.none, .n, .none, .none) 0x400 .bufDrain,
    litRow 0x167 63 (.none, .n, .none, .none) 0 .bufFree,
    litRow 0x168 63 (.s, .n, .none, .none) 0 .bufStat,
    litRow 0x169 63 (.none, .n, .none, .none) 0 .stashFlush,
    litRow 0x16A 63 (.none, .n, .none, .none) 0 .stashInv,
    litRow 0x16B 3 (.none, .n, .s, .none) 0 .armW,
    { op := 0x170, fmts := [.r], sig := (.x, .d, .x, .none), mMask := 0xC1F, ent := fun w => [0,1,4,5,10,11].contains (mBits w 4 0) && mBits w 11 10 ≤ 2,
      pair := fun w => (mBits w 4 0 == 11, false, false, false), span := fun w => (spanOf (mBits w 4 0 == 11), 1, 1, 1), con := .ldr },
    { op := 0x171, fmts := [.r], sig := (.none, .d, .x, .x), mMask := 0xC1F, ent := fun w => [8,9,10,11].contains (mBits w 4 0) && mBits w 11 10 ≤ 2,
      pair := fun w => (false, false, false, mBits w 4 0 == 11), span := fun w => (1, 1, 1, spanOf (mBits w 4 0 == 11)), con := .str },
    plainRow 0x172 [.r] false (.v, .d, .v, .none) .ldg,
    plainRow 0x173 [.r] false (.none, .d, .v, .v) .stg,
    { op := 0x174, fmts := [.r], sig := (.v, .d, .x, .v), mMask := 0xC1F, ent := fun w => [10,11].contains (mBits w 4 0) && mBits w 11 10 ≤ 2,
      pair := fun w => (false, false, false, mBits w 4 0 == 11), span := fun w => (1, 1, 1, spanOf (mBits w 4 0 == 11)), con := .stu },
    { op := 0x175, fmts := [.r], sig := (.none, .d, .x, .none), mMask := 0xC00, ent := fun w => mBits w 11 10 ≤ 2, con := .pref },
    { op := 0x176, fmts := [.r], sig := (.v, .d, .v, .v), mMask := 0xC00, span := fun _ => (4, 1, 1, 1), con := .sample },
    { op := 0x177, fmts := [.r], uni := true, sig := (.d, .n, .s, .none), ent := fun w => fA w ≤ 31, con := .recld },
    { op := 0x178, fmts := [.r], uni := true, sig := (.d, .d, .n, .s), ent := fun w => [2,4,5,6,7,8].contains (fB w), con := .recset },
    { op := 0x179, fmts := [.r], uni := true, sig := (.s, .d, .n, .none), ent := fun w => [0,1,2,3,4,5,6,8].contains (fB w), con := .recqry },
    atomRow 0x1A0 0 (.x, .d, .x, .x) .atom,
    atomRow 0x1A1 1 (.x, .d, .x, .x) .atomCas,
    atomRow 0x1A2 2 (.none, .d, .x, .x) .redA,
    atomRow 0x1A3 3 (.x, .d, .x, .none) .lda,
    atomRow 0x1A4 4 (.none, .d, .x, .x) .strl,
    { op := 0x1A5, fmts := [.r], uni := true, sig := (.none, .none, .none, .none), mMask := 0xF8,
      ent := fun w => mBits w 7 6 ≥ 1 && mBits w 5 3 ≤ 5, con := .fence },
    litRow 0x1A6 3 (.none, .n, .none, .none) 0 .barTeam,
    litRow 0x1A7 3 (.none, .n, .none, .none) 0 .barClu,
    plainRow 0x1A8 [.r] true (.none, .none, .none, .none) .commitW,
    litRow 0x1A9 3 (.s, .n, .none, .none) 0 .vqry ]

/-- Springs, tiles, beams, engines, matrix, system, traps and weirs (R64). -/
def rowsSystem : List CRow :=
  [ plainRow 0x1C0 [.r] true (.none, .s, .none, .none) .sfill,
    plainRow 0x1C1 [.r] true (.none, .s, .s, .none) .sfail,
    plainRow 0x1C2 [.r] true (.none, .d, .s, .none) .sevict,
    plainRow 0x1C3 [.r] false (.x, .d, .x, .none) .sqry,
    plainRow 0x1C8 [.r] true (.p, .s, .none, .none) .tgrow,
    plainRow 0x1C9 [.r] true (.none, .s, .none, .none) .tshrink,
    { op := 0x1CA, fmts := [.r], sig := (.v, .x, .x, .none), mMask := 0xF30, span := fun w => (mBits w 5 4 + 1, 1, 1, 1), con := .tld },
    { op := 0x1CB, fmts := [.r], sig := (.none, .x, .x, .v), mMask := 0xF30, span := fun w => (1, 1, 1, mBits w 5 4 + 1), con := .tst },
    engRow 0x1CC 0 (.k, .d, .s, .none) (fun _ => (1, 19)) .beam,
    { op := 0x1CD, fmts := [.r], sig := (.v, .d, .v, .v), span := fun _ => (4, 1, 4, 4), con := .ray },
    engRow 0x1D0 2 (.k, .s, .s, .none) (fun _ => (4, 2)) .xcopy,
    engRow 0x1D1 1 (.k, .s, .s, .none) (fun _ => (4, 4)) .xsend,
    { op := 0x1D2, fmts := [.r], uni := true, sig := (.none, .n, .s, .none), ent := fun w => fA w ≤ 31, span := fun _ => (1, 1, 9, 1), con := .shapeLd },
    litRow 0x1D3 31 (.none, .n, .none, .none) 0 .shapeEv,
    engRow 0x1D4 0 (.k, .s, .v, .none) (fun _ => (5, 1)) .xgath,
    engRow 0x1D5 3 (.k, .s, .s, .none) (fun _ => (5, 2)) .coll,
    engRow 0x1D6 0 (.none, .none, .none, .none) (fun _ => (1, 1)) .waitk,
    engRow 0x1D7 0 (.p, .none, .none, .none) (fun _ => (1, 1)) .ktest,
    { op := 0x1D8, fmts := [.r], uni := true, sig := (.none, .s, .s, .none), span := fun _ => (1, 1, 2, 1),
      pair := fun _ => (false, false, true, false), con := .crec },
    { op := 0x1E0, fmts := [.r], uni := true, sig := (.a, .none, .none, .none), mMask := 0x1FFF,
      ent := fun w => mBits w 11 0 ≥ 1 && mBits w 11 0 ≤ 2048, con := .accOpen },
    engRow 0x1E1 1 (.k, .v, .s, .none) (fun w => (16 + fSub w, if fSub w = 1 then 4 else 2)) .mma,
    engRow 0x1E2 1 (.k, .v, .s, .none) (fun w => (8 + fSub w, if fSub w = 1 then 4 else 3)) .mmas,
    engRow 0x1E3 0 (.k, .a, .s, .none) (fun _ => (1, 4)) .accRet,
    { op := 0x1E4, fmts := [.r], sig := (.v, .a, .x, .none), mMask := 0x1F, span := fun w => (mBits w 4 0 + 1, 1, 1, 1), con := .accRd },
    plainRow 0x1E5 [.r] true (.a, .none, .none, .none) .accZero,
    { (engRow 0x1E6 0 (.k, .n, .s, .none) (fun _ => (1, 4)) .metaLd) with ent := fun w => fSub w = 0 && fA w ≤ 127 },
    plainRow 0x1F0 [.r] false (.none, .n, .none, .none) .trapW,
    plainRow 0x1F1 [.r] true (.none, .none, .none, .none) .tret,
    plainRow 0x1F2 [.r] true (.none, .none, .none, .none) .tabandon,
    litRow 0x1F3 1 (.none, .n, .none, .none) 0 .tmask,
    { op := 0x1F4, fmts := [.r], sig := (.x, .c, .none, .none), pair := fun w => (sr64 (fA w), false, false, false),
      span := fun w => (spanOf (sr64 (fA w)), 1, 1, 1), con := .sysrd },
    { op := 0x1F5, fmts := [.r], uni := true, sig := (.none, .c, .x, .none), pair := fun w => (false, false, sr64 (fA w), false),
      span := fun w => (1, 1, spanOf (sr64 (fA w)), 1), con := .syswr },
    litRow 0x1F8 7 (.none, .n, .none, .none) 0 .weirAcq,
    plainRow 0x1F9 [.r] true (.none, .none, .none, .none) .weirRel,
    plainRow 0x1FA [.r] true (.s, .none, .none, .none) .weirQry ]

/-- REFORM.join, which shares REFORM's opcode: JOIN is M[10], and the guard must be the plain one (R87). -/
def rowReformJoin : CRow :=
  { op := 0x005, fmts := [.r], sig := (.none, .none, .none, .none), mMask := 0x400,
    ent := fun w => mBit w 10 && w.common.g == 63 && !w.common.gn, con := .reformJoin }

/-- TST.ord, which shares TST's opcode: ORD is M[12] (R296). -/
def rowTstOrd : CRow :=
  { op := 0x1CB, fmts := [.r], sig := (.none, .x, .x, .v), mMask := 0x1FB0, ent := fun w => mBit w 12,
    span := fun w => (1, 1, 1, mBits w 5 4 + 2), con := .tstOrd }

/-- The opcode map (R64). -/
def rowsCalud : List CRow := rowsControl ++ rowsInt ++ rowsFloat ++ rowsMemory ++ rowsSystem

/-- The row of an opcode. M chooses between the two forms of REFORM (R87) and of TST (R296). -/
def rowOfOp (op : Nat) (w : CWord) : Option CRow :=
  if op = 0x005 ∧ mBit w 10 then some rowReformJoin
  else if op = 0x1CB ∧ mBit w 12 then some rowTstOrd
  else rowsCalud.find? (fun r => r.op == op)

/-- Whether an operand's class lets its selector be set (R60). -/
def Cls.selectable : Cls → Bool
  | .x | .y => true
  | _ => false

/-- The selector bits of M that a row admits (R60). -/
def CRow.selMask (r : CRow) : Nat :=
  (if r.sig.1.selectable then 0x8000 else 0) + (if r.sig.2.1.selectable then 0x4000 else 0) +
  (if r.sig.2.2.1.selectable then 0x2000 else 0) + (if r.sig.2.2.2.selectable then 0x1000 else 0)

/-- Whether operand class `c`, with its selector, resolves to a scalar register. -/
def Cls.scalar (c : Cls) (sel : Bool) : Bool := c = .s || (c.selectable && sel)

/-- A field is in its class, and so is its last register where the word's own fields fix the span (R59, R65). -/
def Cls.inRange (c : Cls) (sel : Bool) (f span : Nat) : Bool :=
  match c with
  | .v => f + span ≤ 256
  | .s => f + span ≤ 128
  | .x | .y => f + span ≤ (if sel then 128 else 256)
  | .p => f + span ≤ 48
  | .d | .a => f ≤ 31
  | .c => srNumbers.contains f
  | .none => f = 0
  | .k | .n | .i => true

/-- RU is legal on MMA and MMAS only (R52). -/
def ruLegal (op : Nat) : Bool := op = 0x1E1 || op = 0x1E2
/-- CRQ is legal on these opcodes only (R58). -/
def crqLegal (op : Nat) : Bool := [0x1D0, 0x1D1, 0x1D4, 0x1D5, 0x1E6, 0x1E3, 0x1CC].contains op

/-- A word of this row is uniform (R54). -/
def CRow.uniform (r : CRow) (w : CWord) : Bool :=
  r.uni || fmtOf w = .e || (r.sig.1 = .x && selD w)

/-- SD on an x destination needs every x source scalar (R60). -/
def CRow.sdOk (r : CRow) (w : CWord) : Bool :=
  !(r.sig.1 = .x && selD w) ||
  ((r.sig.2.1 ≠ .x || selA w) && (r.sig.2.2.1 ≠ .x || selB w) && (r.sig.2.2.2 ≠ .x || selC w))

/-- Every pair names an even register (R29). -/
def CRow.evenOk (r : CRow) (w : CWord) : Bool :=
  let p := r.pair w
  (!p.1 || fD w % 2 = 0) && (!p.2.1 || fA w % 2 = 0) && (!p.2.2.1 || fB w % 2 = 0) && (!p.2.2.2 || fC w % 2 = 0)

/-- Every field is within its class (R59). -/
def CRow.fieldsOk (r : CRow) (w : CWord) : Bool :=
  let sp := r.span w
  r.sig.1.inRange (selD w) (fD w) sp.1 && r.sig.2.1.inRange (selA w) (fA w) sp.2.1 &&
  r.sig.2.2.1.inRange (selB w) (fB w) sp.2.2.1 && r.sig.2.2.2.inRange (selC w) (fC w) sp.2.2.2

/-- Check 1 of R65 on a word of this row: everything that depends on the word's own bits. -/
def CRow.legal (r : CRow) (w : CWord) : Bool :=
  r.fmts.contains (fmtOf w) && w.common.ta ≠ 6 && (!w.common.ru || ruLegal r.op) && (!fCrq w || crqLegal r.op) &&
  (w.common.g.toNat ≤ 47 || w.common.g = 63) && (!r.uniform w || w.common.g = 63) &&
  (fM w &&& ~~~ BitVec.ofNat 16 (r.selMask ||| r.mMask)) = 0 && r.sdOk w && r.fieldsOk w && r.evenOk w && r.ent w

end Sys2Proof.Machine
end

