-- ==== Sys2Proof/Machine/State.lean ====
section
/-! DEFINITION. The machine's state as plain data: all that the spec gives the KV4, and the model's own
bookkeeping (each such field says so). Tables are lists in ascending order of their key in which an unlisted key
holds the default that its reader names. The state after reset stands at the end. -/

namespace Sys2Proof.Machine

/-- Bytes by address, in strictly rising address, none of them zero: an unlisted byte reads zero. -/
abbrev Bytes := List Host.Cell

/-! ### Lanes, groups and their registers -/

/-- One lane (R73): its vector registers, predicates, flags, rounding generator and %tid. Its PC is its member's. -/
structure Lane where
  /-- %tid (R74). -/
  tid : Word
  /-- v0 to v255; an unlisted register holds 0. -/
  v : Sparse Word
  /-- p0 to p47 (R75). -/
  p : BitVec 48
  /-- %fpflags (R41). -/
  flags : BitVec 5
  /-- The rounding generator (R39). -/
  rng : Word
  deriving DecidableEq, Repr

/-- A register element that a word can write: the unit of producer distance (R108) and of pending writes (R111). -/
inductive Place where
  /-- Vector register `r` in lane `l`. -/
  | v (l r : Nat)
  /-- Scalar register `r`. -/
  | s (r : Nat)
  /-- Predicate `r` in lane `l`. -/
  | p (l r : Nat)
  /-- Codebook entry `i`. -/
  | cb (i : Nat)
  /-- Descriptor register `r`. -/
  | d (r : Nat)
  deriving DecidableEq, Repr

/-- A window of producer distance (R105, R108). -/
structure Window where
  /-- Words that the window still contains. -/
  left : Nat
  /-- A handler word opened it (R108). -/
  handler : Bool
  /-- The words that the member had issued before its word. -/
  word : Nat
  /-- The destination of its word. -/
  dest : List Place
  /-- The value before the word, of each element it wrote and that no later write has replaced. -/
  old : List (Place × Nat)
  deriving DecidableEq, Repr

/-- A load of one aligned word, or of a part of it, into a register (R99, R195). -/
structure LateLoad where
  /-- The register. -/
  place : Place
  /-- %tid of the loading lane. -/
  lane : Word
  /-- The physical addresses of its bytes. -/
  pas : List Nat
  /-- The type code under which they are loaded (R29). -/
  ty : Nat
  deriving DecidableEq, Repr

/-- A committed variable-latency word whose result is not written yet (R104, R109, R111). -/
structure Pending where
  /-- The result. -/
  writes : List (Place × Nat)
  /-- The places of the result whose load is performed as the result is written (R99, R195). -/
  loads : List LateLoad
  /-- The tag it allocated. -/
  tag : Option Nat
  /-- Words that may still issue before its result must be written; none for PD = 7 (R105, R107). -/
  words : Option Nat
  /-- It holds an entry of the SFU queue (0) or of the reduction queue (1) of its issue port (R103). -/
  queue : Option Nat
  /-- Device time at which its pipe or queue accepted it (R103, R104). -/
  since : Nat
  /-- It is an acquire's, which the member's later memory words wait for (R217). -/
  acq : Bool
  /-- The words that the member had issued before its word. -/
  word : Nat
  /-- Its places that another result of R111 has been written over: each holds either (log entry 3). -/
  overs : List Place
  /-- The first of the free values that make these choices: the model's own. -/
  free : Nat
  deriving DecidableEq, Repr

/-- The reuse latch (R113): the register it names and the rows it holds, by register and lane. -/
structure Latch where
  /-- The first register of the latched operand. -/
  reg : Nat
  /-- The latched values: register, lane, value. -/
  rows : List (Nat × Nat × Word)
  deriving DecidableEq, Repr

/-- A lane's access of an STRL or RED whose release is not performed yet (R217). -/
structure Deferred where
  /-- %tid of the lane. -/
  lane : Word
  /-- The physical addresses of its bytes. -/
  pas : List Nat
  /-- AOP and ATYPE of a RED; none for an STRL. -/
  op : Option (Nat × Nat)
  /-- Operand C. -/
  x : Nat
  deriving DecidableEq, Repr

/-- A release whose word has issued and that is not performed yet: a FENCE.rel, or an STRL or RED .rel with its accesses. Later
stores, atomics and releases of its lanes wait for it, and their other words go on (R205, R217, R218). -/
structure Release where
  /-- Its member, by name, whose tag it holds. -/
  mem : Nat
  /-- The tag it allocated. -/
  tag : Option Nat
  /-- Its group slot. -/
  slot : Nat
  /-- Its SCOPE (R192). -/
  scope : Nat
  /-- %tid of the lanes whose earlier accesses it orders. -/
  lanes : List Word
  /-- Its own accesses. -/
  accesses : List Deferred
  /-- The commit that comes before it has been performed (R205). -/
  committed : Bool
  deriving DecidableEq, Repr

/-- The state of a word that issued and re-executes for its unfinished lanes (R109). -/
structure Cont where
  /-- The PC of the word. -/
  pc : Word
  /-- Its opcode. -/
  op : Nat
  /-- Its fields. -/
  w : CWord
  /-- The tag that it allocated at its first issue. -/
  tag : Option Nat
  /-- Its weight is in the window of the open weir already (R333). -/
  charged : Bool
  deriving DecidableEq, Repr

/-- The trap registers and the budget of a member (R341, R342), and the special registers that causes write. -/
structure Trap where
  /-- %tcause. -/
  tcause : Word
  /-- %tepc. -/
  tepc : Word
  /-- %tstat.INH. -/
  inh : Bool
  /-- %tstat.MASK: the value that TMASK last set. -/
  mask : Bool
  /-- %tstat.PPEND. -/
  ppend : Bool
  /-- %tstat.BUDGET. -/
  budget : Nat
  /-- The budget of the masked region in which the running handler's trap was taken (R342, R345). -/
  aside : Option Nat
  /-- %pcmask as the running handler's entry wrote it (R339). -/
  pcm : BitVec 32
  /-- The trapping word that TRET re-executes for its unfinished lanes (R109, R345). -/
  cont : Option Cont
  /-- %raceva (R210). -/
  raceva : DWord
  /-- %racetask (R210). -/
  racetask : DWord
  /-- %springva (R235). -/
  springva : DWord
  /-- %gentask (R235). -/
  gentask : DWord
  /-- %springdet (R235). -/
  springdet : DWord
  /-- %kerr (R248). -/
  kerr : Word
  /-- %kerrva (R248). -/
  kerrva : DWord
  deriving DecidableEq, Repr

/-- An open weir (R332, R333). -/
structure Weir where
  /-- The granted level. -/
  level : Nat
  /-- The latched limit WLIM[L]. -/
  limit : Nat
  /-- The latched class weights, class 0 first. -/
  weights : List Nat
  /-- The weights of the words committed since the grant, newest first, at most 32. -/
  window : List Nat
  /-- Since when it waits, after a resume, for a grant of its level (R333). -/
  regrant : Option Nat
  deriving DecidableEq, Repr

/-- The lanes of a parked word that wait on one spring block (R231). -/
structure Missing where
  /-- The spring. -/
  spring : Nat
  /-- The block. -/
  block : Nat
  /-- The lanes. -/
  lanes : BitVec 32
  /-- The VA of the first byte in the block of the lowest of these lanes (R235). -/
  va : Nat
  deriving DecidableEq, Repr

/-- A block that failed under a parked word, as its requester receives it (R235). -/
structure Failed where
  /-- The lanes that lie on it. -/
  lanes : BitVec 32
  /-- The VA of the lowest such lane's first byte in the block. -/
  va : Nat
  /-- The block's VA. -/
  base : Nat
  /-- Its CAUSE. -/
  cause : Nat
  /-- Its TASK. -/
  task : DWord
  /-- Its DETAIL. -/
  detail : DWord
  deriving DecidableEq, Repr

/-- Where a parked word waits (R183, R231). -/
structure Park where
  /-- The KIND of the word's fault records (R185). -/
  kind : Nat
  /-- The lanes that took translation faults. -/
  faults : BitVec 32
  /-- The lanes that wait on spring blocks. -/
  misses : List Missing
  /-- The lanes that are to be translated again at the next retry. -/
  retry : BitVec 32
  /-- The blocks that failed, and their lanes. -/
  failed : List Failed
  /-- The fault records that the ring has not taken yet (R187). -/
  unrecorded : Bool
  /-- The order of parking (R188). -/
  order : Nat
  /-- The instruction fetch itself is parked (R229). -/
  fetch : Bool
  /-- Lanes of a RAY that wait for no access of their own and are tried again with those that do (R302). -/
  along : BitVec 32 := 0
  deriving DecidableEq, Repr

/-- What a member waits for at its PC, where the wait is not simply read off the machine each time (R83). -/
inductive Wait where
  /-- Nothing. -/
  | none
  /-- It has arrived at barrier `n`, of the cluster when `clu` (R219). -/
  | barrier (clu : Bool) (n : Nat)
  /-- It waits at a REFORM.join (R87). -/
  | join
  /-- It waits for a weir grant of the level since the time (R332). -/
  | weir (level since : Nat)
  /-- It must wait until these members have issued or stopped being ready (R88): team, member, and the words that the
  member had issued. -/
  | yield (others : List (Nat × Nat × Nat))
  /-- It waits for its team's commit (R205, R212, R220). -/
  | commit
  /-- The commit of the word at its PC has been performed (R205, R212). -/
  | committed
  deriving DecidableEq, Repr

/-- The wait of a member on a local-store object (R145, R152). -/
structure ObjWait where
  /-- The object. -/
  obj : Nat
  /-- The opcode of the waiting word. -/
  op : Nat
  /-- The word of a full/empty word array that it waits on. -/
  word : Nat
  /-- Device time at which the wait began. -/
  since : Nat
  deriving DecidableEq, Repr

/-- A group, or a split group of a family (R73, R77). The family is the members of one slot. -/
structure Member where
  /-- The model's name for the member within its team. -/
  id : Nat
  /-- %group: the group slot (R74). -/
  slot : Nat
  /-- Its role. -/
  role : Nat
  /-- The arrival slot, of an arrival group (R156). -/
  arrival : Option Nat
  /-- The present lanes by %lane, in ascending %lane. -/
  lanes : List (Nat × Lane)
  /-- The PC of every present lane. -/
  pc : Word
  /-- s0 to s127; an unlisted register holds 0. -/
  s : Sparse Word
  /-- d0 to d31; an unlisted descriptor is the null record (R162). -/
  d : Sparse Rec
  /-- The codebook %cb; an unlisted entry is +0 (R40). -/
  cb : Sparse Half
  /-- The pending tags (R109). -/
  tags : BitVec 6
  /-- The reuse latch (R113). -/
  latch : Option Latch
  /-- The open windows, oldest first (R108). -/
  windows : List Window
  /-- The results not yet written, oldest first (R111). -/
  pend : List Pending
  /-- The partial-completion mask of the word at the PC (R183, R341). -/
  pcmask : BitVec 32
  /-- The word under re-execution. -/
  cont : Option Cont
  /-- Trap state. -/
  trap : Trap
  /-- The open weir. -/
  weir : Option Weir
  /-- The parked word (R183). -/
  park : Option Park
  /-- The wait at issue. -/
  wait : Wait
  /-- Its place among the waiters of a local-store object (R145). -/
  queued : Option ObjWait
  /-- A precise cause and its argument that the member takes at its next step: the model's own name for a cause
  that a register write or a unit of the device raises at the parked word (R188, R342). -/
  due : Option (Nat × Nat)
  /-- Device time since which the member has been ready, for the order of R84. -/
  ready : Nat
  /-- Device time of its last issue. -/
  issued : Nat
  /-- The words that it has issued: the model's own count. -/
  words : Nat
  /-- The member has issue priority 8 (R84). -/
  aged : Bool
  deriving DecidableEq, Repr

/-! ### Teams and what they own -/

/-- A role of a launch (R306). -/
structure Role where
  /-- ENTRY. -/
  entry : Word
  /-- Groups. -/
  groups : Nat
  /-- Vector registers. -/
  regs : Nat
  deriving DecidableEq, Repr

/-- The kinds of local-store object (R138). -/
inductive ObjKind where
  | buffer | stash | sync
  deriving DecidableEq, Repr

/-- The states of a buffer (R143). -/
inductive BufState where
  | empty | filling | full | draining
  deriving DecidableEq, Repr

/-- An entry of the carving list (R307). -/
structure Carve where
  /-- KIND. -/
  kind : ObjKind
  /-- BYTES. -/
  bytes : Nat
  /-- INIT of a buffer. -/
  init : BufState
  /-- INIT of a full/empty word array: every word starts full. -/
  full : Bool
  /-- LAND. -/
  land : Bool
  /-- REC of a stash window. -/
  recd : Nat
  /-- OFFSET of a stash window. -/
  offset : Nat
  deriving DecidableEq, Repr

/-- A loop level (R70). -/
structure LoopLevel where
  /-- START. -/
  start : Int
  /-- LIMIT. -/
  limit : Int
  /-- STEP. -/
  step : Int
  deriving DecidableEq, Repr

/-- What a launch record declares (R306, R307), read once at take-up (R308). -/
structure Spec where
  /-- PASSKEY. -/
  passKey : Nat
  /-- ADOPT. -/
  adopt : Bool
  /-- KEEP. -/
  keep : Bool
  /-- GEN. -/
  gen : Bool
  /-- FLAT. -/
  flat : Bool
  /-- HALF. -/
  half : Bool
  /-- SRES. -/
  sres : Nat
  /-- PRIO. -/
  prio : Nat
  /-- WEIR. -/
  weir : Nat
  /-- PCLASS. -/
  pclass : Nat
  /-- TILE, in blocks. -/
  tile : Nat
  /-- VQ, in units of 64 KiB. -/
  vq : Nat
  /-- LOOP: levels 0 to 3. -/
  loops : List LoopLevel
  /-- ORDER: the declared levels, outermost first. -/
  order : List Nat
  /-- Cluster width w. -/
  cw : Nat
  /-- Cluster height h. -/
  ch : Nat
  /-- ACC. -/
  acc : Nat
  /-- Predicates. -/
  preds : Nat
  /-- Scalar registers. -/
  sregs : Nat
  /-- The declared roles. -/
  roles : List Role
  /-- The carving list. -/
  carve : List Carve
  /-- The record table. -/
  recs : List Rec
  /-- The code record. -/
  code : Rec
  deriving DecidableEq, Repr

/-- The states of a stash entry (R147). -/
inductive StashState where
  | invalid | alloc | valid
  deriving DecidableEq, Repr

/-- A stash entry that is not INVALID, or that holds dirty bytes (R147). -/
structure StashEntry where
  /-- Its state. -/
  st : StashState
  /-- The byte-dirty mask. -/
  dirty : BitVec 128
  deriving DecidableEq, Repr

/-- A local-store object (R138 to R152). -/
structure Obj where
  /-- The kind. -/
  kind : ObjKind
  /-- Its size in bytes. -/
  bytes : Nat
  /-- Its contents. -/
  data : Bytes
  /-- Buffer: the state (R143). -/
  st : BufState
  /-- Buffer: the land key (R155). -/
  land : Bool
  /-- Buffer: PENDW. -/
  pendw : Nat
  /-- Buffer: PENDR. -/
  pendr : Nat
  /-- Stash window: the record it binds (R147). -/
  recd : Rec
  /-- Stash window: its offset in the record. -/
  offset : Nat
  /-- Stash window: its entries; an unlisted entry is INVALID. -/
  entries : Sparse StashEntry
  /-- Full/empty word array: whether an unlisted word is full. -/
  dfull : Bool
  /-- Full/empty word array: the words' full/empty bits by word index, where they differ from `dfull`. -/
  fulls : Sparse Bool
  deriving DecidableEq, Repr

/-- The states of a token (R245). -/
inductive Token where
  /-- No command has produced it. -/
  | empty
  /-- Its command has been accepted and has not completed. -/
  | pending
  /-- Its command has completed. -/
  | complete
  /-- Its command ended with a cause; the address that failed goes with it (R248). -/
  | error (cause va : Nat)
  deriving DecidableEq, Repr

/-- An accumulator tile (R270). -/
structure Tile where
  /-- STATE is OPEN. -/
  opened : Bool
  /-- REMAIN. -/
  remain : Nat
  /-- OWNER. -/
  owner : Nat
  /-- The elements by 32 × m + n; an unlisted element is +0. -/
  data : Sparse Word
  deriving DecidableEq, Repr

/-- An arrival slot (R154): none of a team's slots is listed unless armed, running or pending. -/
structure ArrSlot where
  /-- The handler PC and the role, while armed. -/
  armed : Option (Word × Nat)
  /-- Pending starts, oldest first: the buffer's object number, the bytes landed, the sender's virtual core. -/
  starts : List (Nat × Nat × Nat)
  /-- The member that runs the slot. -/
  running : Option Nat
  deriving DecidableEq, Repr

/-- An eddy bin that holds lanes (R79). The team is the one that holds it. -/
structure Bin where
  /-- The bin's number on its core, 0 to 15. -/
  num : Nat
  /-- Key: the role. -/
  role : Nat
  /-- Key: the next PC. -/
  pc : Word
  /-- Key: the codebook. -/
  cb : Sparse Half
  /-- The lanes in filing order. -/
  lanes : List Lane
  /-- Device time of the filing of its oldest lane. -/
  since : Nat
  deriving DecidableEq, Repr

/-- A team's version (R204, R208, R211). -/
structure Version where
  /-- The bytes the version has written, by physical address, ascending; a listed byte may be zero. -/
  cells : List Host.Cell
  /-- Read marks: physical addresses of aligned words, ascending. -/
  reads : List Nat
  /-- Write marks. -/
  writes : List Nat
  /-- The number of commits the device had performed when the region began (R206). -/
  since : Nat
  /-- The commits the team has performed (R221). -/
  commits : Nat
  /-- A commit waits for horizon share (R212). -/
  waiting : Bool
  /-- A direct write has been performed since the last commit (R213, R350). -/
  dirw : Bool
  /-- The region has ended and no other has begun: the team's image has left the device (R209, R359). -/
  ended : Bool
  deriving DecidableEq, Repr

/-- The spring block that a generator team fills (R233, R237). -/
structure GenOf where
  /-- Its spring's number in the team's context. -/
  spring : Nat
  /-- The block index. -/
  block : Nat
  /-- The depth. -/
  depth : Nat
  /-- SFILL has been performed. -/
  filled : Bool
  /-- Where it was placed (R237): 0 ordinary resources, 1 a spring slot, 2 a nested slot. -/
  place : Nat
  deriving DecidableEq, Repr

/-- The abandonment that a team awaits (R350). -/
structure Doom where
  /-- REASON. -/
  reason : Nat
  /-- CAUSE. -/
  cause : Nat
  /-- PC of the word. -/
  pc : Word
  /-- SLOT of the word. -/
  slot : Nat
  /-- DETAIL of a failing generator (R234). -/
  detail : DWord
  /-- The CAUSE that a failing generator writes. -/
  genCause : Nat
  deriving DecidableEq, Repr

/-- Where a team stands (R312, R313, R356). -/
structure Seat where
  /-- The physical core number. -/
  core : Nat
  /-- The virtual core, in the %core layout. -/
  vcore : Nat
  /-- The bank. -/
  bank : Nat
  /-- %cluster. -/
  cluster : Word
  /-- The linear index of the first team of its cluster's run. -/
  run : Nat
  /-- Device time of its placement. -/
  placed : Nat
  /-- Its rise still counts in TPRED (R321). -/
  rising : Bool
  /-- Its refresh charge (R323). -/
  charge : Nat
  deriving DecidableEq, Repr

/-- The write-back of a STASH.FLUSH or STASH.INV that has issued (R151). -/
structure Flush where
  /-- The member whose word it is. -/
  mem : Nat
  /-- It is a handler's word. -/
  handler : Bool
  /-- The window. -/
  obj : Nat
  /-- The bytes of the snapshot that are not written back yet, by window offset. -/
  cells : List Host.Cell
  deriving DecidableEq, Repr

/-- A team (R73): one iteration of a launch on one core. -/
structure Team where
  /-- Its context. -/
  ctx : Nat
  /-- Its partition. -/
  part : Nat
  /-- The model's key of its launch; none for a generator. -/
  launch : Option Nat
  /-- %task. -/
  task : DWord
  /-- Its dispatches before this one (R350, RETRY). -/
  retry : Nat
  /-- Its place. -/
  seat : Seat
  /-- What its launch declares. -/
  spec : Spec
  /-- Its launch priority, which a generator's waiters may raise (R237). -/
  prio : Nat
  /-- Its groups and split groups. -/
  members : List Member
  /-- The next member name. -/
  fresh : Nat
  /-- Its eddy bins. -/
  bins : List Bin
  /-- k0 to k63; an unlisted token is EMPTY. -/
  tokens : Sparse Token
  /-- acc0 to acc31; an unlisted tile is FREE and holds +0. -/
  tiles : Sparse Tile
  /-- The metadata units' bytes: byte b of unit u at 128 × u + b. -/
  units : Bytes
  /-- The local-store objects. -/
  objs : List Obj
  /-- The write-backs of STASH words that are under way. -/
  flushes : List Flush
  /-- Its releases that have issued and are not performed yet, oldest first. -/
  rels : List Release
  /-- The version. -/
  ver : Version
  /-- The tile holding, in bytes. -/
  hold : Nat
  /-- The tile reservation, in bytes (R290). -/
  tres : Nat
  /-- The bytes of the tile holding. -/
  tdata : Bytes
  /-- %tilecfg. -/
  tilecfg : Word
  /-- DROP of %tilehold. -/
  drop : Nat
  /-- The arrival slots; an unlisted slot is disarmed. -/
  arrivals : Sparse ArrSlot
  /-- %arrmiss. -/
  arrmiss : Nat
  /-- %fpenable. -/
  fpenable : BitVec 5
  /-- %tvec. -/
  tvec : Word
  /-- %debug.PRC. -/
  prc : Bool
  /-- The shape slots' registers sB to sB+8; an unlisted slot is empty (R257). -/
  shapes : Sparse (List Word)
  /-- It has arrived at these cluster barriers (R219). -/
  arrived : List Nat
  /-- The cluster barrier at which its arrival by a slot's end waits for its commit (R212, R219). -/
  arriving : Option Nat
  /-- The block it fills, of a spring generator. -/
  gen : Option GenOf
  /-- Its abandonment, once decided. -/
  doom : Option Doom
  /-- It is saved in its context's image (R352). -/
  saved : Bool
  deriving DecidableEq, Repr

/-- A translation cached in a core's L1 TLB or in a die's last-level TLB (R179). -/
structure TlbEntry where
  /-- The die. -/
  die : Nat
  /-- The core whose L1 TLB holds it; none in the last-level TLB. -/
  core : Option Nat
  /-- The context. -/
  ctx : Nat
  /-- The first virtual address that the entry covers. -/
  va : Nat
  /-- Its size in bytes. -/
  size : Nat
  /-- The leaf entry. -/
  leaf : DWord
  /-- The physical address of the leaf entry, for access counting (R189). -/
  leafPa : Nat
  deriving DecidableEq, Repr

/-- A set of committed marks held until its horizon (R209). -/
structure Marks where
  /-- The team that committed. -/
  team : Nat
  /-- Its task id. -/
  task : DWord
  /-- Its die. -/
  die : Nat
  /-- Its partition. -/
  part : Nat
  /-- Its place in the commit order, from 1. -/
  num : Nat
  /-- Read marks. -/
  reads : List Nat
  /-- Write marks. -/
  writes : List Nat
  /-- The bytes of the version store that the team's placement reserved (R212). -/
  share : Nat
  deriving DecidableEq, Repr

/-- A write that not every party reads yet (R195, R198, R200): the word as it stood before the write, which a lane may still
read that neither made the write, nor has read it or a later one, nor lies in a scope at which it has been performed. Memory
and the objects hold the last value of each word. -/
structure Late where
  /-- The space of the word: physical memory, or an object of a team. -/
  space : Option (Nat × Nat)
  /-- The word's address or offset, a multiple of 4. -/
  word : Nat
  /-- The write went into the version of the writer's team, which its team alone sees (R204). -/
  ver : Bool
  /-- The word's four bytes before the write. -/
  old : List Byte
  /-- The bytes of the word that the write has written, 0 to 3. -/
  cut : List Nat
  /-- The writer's team. -/
  team : Nat
  /-- %tid of the writing lane. -/
  lane : Word
  /-- Its group slot. -/
  slot : Nat
  /-- 0 when the write has been performed for its lane alone, and else 1 more than the widest SCOPE at which it has been
  performed (R192, R195). -/
  upto : Nat
  /-- The lanes that have read the write or a later one: team and %tid (R198). -/
  seen : List (Nat × Word)
  deriving DecidableEq, Repr

/-! ### Springs -/

/-- Who waits on a spring block (R229, R261). -/
inductive Waiter where
  /-- A parked member. -/
  | member (team mem : Nat)
  /-- An engine command. -/
  | command (id : Nat)
  deriving DecidableEq, Repr

/-- A miss on its way to the block's home (R228). -/
structure Miss where
  /-- The context. -/
  ctx : Nat
  /-- The spring. -/
  spring : Nat
  /-- The block. -/
  block : Nat
  /-- The requester. -/
  who : Waiter
  deriving DecidableEq, Repr

/-- A generator that waits to be placed (R237). -/
structure GenWait where
  /-- The block. -/
  block : Nat
  /-- The depth. -/
  depth : Nat
  /-- The priority. -/
  prio : Nat
  /-- The order of enqueueing. -/
  order : Nat
  /-- The reach of the first requester (depth 0), or the core of the generator that started it. -/
  origin : Nat
  deriving DecidableEq, Repr

/-- A declared spring (R222). -/
structure Spring where
  /-- Its context. -/
  ctx : Nat
  /-- NUM. -/
  num : Nat
  /-- BASE. -/
  base : Nat
  /-- SIZE. -/
  size : Nat
  /-- BLK. -/
  blk : Nat
  /-- RLIM. -/
  rlim : Nat
  /-- MAPBASE. -/
  mapBase : Nat
  /-- POOLBASE. -/
  poolBase : Nat
  /-- POOLSIZE. -/
  poolSize : Nat
  /-- ARG. -/
  arg : Rec
  /-- ENTRY. -/
  entry : Word
  /-- The copy of the launch record at TEMPLATE. -/
  spec : Spec
  /-- The launch id of its generators (R225). -/
  launchId : Half
  /-- Waiters by block, in order of arrival. -/
  waiters : List (Nat × Waiter)
  /-- Blocks in FILLING that wait for a frame (R238): block, depth, priority, origin. -/
  noFrame : List (Nat × Nat × Nat × Nat)
  /-- Generators that wait to be placed. -/
  queue : List GenWait
  /-- FILLED blocks in order of fill (R238). -/
  fills : List Nat
  /-- Evictions under way: block, and the member and tag that wait for its end (R242). -/
  evicting : List (Nat × Option (Nat × Nat × Nat))
  deriving DecidableEq, Repr

/-! ### Engine commands -/

/-- An endpoint of an engine command (R252): an object, or a record as it stood at acceptance. -/
inductive End where
  /-- A local-store object and a byte offset. -/
  | obj (n off : Nat)
  /-- A record and a byte offset. -/
  | glob (r : Rec) (off : Nat)
  deriving DecidableEq, Repr

/-- What an engine command does, with the operands it captured at acceptance. -/
inductive Job where
  /-- XCOPY .lin and .shp: byte runs as (source byte, destination byte, length) relative to the endpoints. -/
  | copy (src dst : End) (shape : Option (List Word)) (n : Nat)
  /-- XCOPY .zero. -/
  | zero (dst : End) (n : Nat)
  /-- XSEND: target index, target virtual core, object, offset, handler PC. -/
  | send (src : End) (shape : Option (List Word)) (n : Nat) (index vcore obj off : Nat) (pc : Word)
  /-- XGATH: lane and source byte pairs. -/
  | gath (src dst : End) (size : Nat) (lanes : List (Nat × Nat))
  /-- COLL: operation, type, scope, id, participants, element count. -/
  | coll (src dst : End) (op ty sc id np cnt : Nat)
  /-- BEAM: the BVH record, the block's registers sB+1 to sB+18, the destination. -/
  | beam (bvh : Rec) (blk : List Word) (dst : End)
  /-- MMA, MMAS: tile, types, FTZ, scaling, B object and offset, scale offset, first unit (sparse only),
  captured rows of A by element register, lane and value, captured scales by lane, captured codebook. -/
  | mma (tile aty bty : Nat) (ftz scl : Bool) (bobj boff soff : Nat) (unit : Option Nat)
      (rows : List (Nat × Nat × Word)) (scales : List (Nat × Word)) (cb : Sparse Half)
  /-- The zeroing of ACC.OPEN.z and ACC.ZERO. -/
  | accZero (tile : Nat)
  /-- ACC.RET: tile, destination, format word. -/
  | accRet (tile : Nat) (dst : End) (fmt : Word)
  /-- META.LD: first unit, source, bytes. -/
  | metaLd (unit : Nat) (src : End) (n : Nat)
  deriving DecidableEq, Repr

/-- How far an accepted command has come (R247, R248, R264). -/
inductive Phase where
  /-- Accepted. -/
  | accepted
  /-- Started. -/
  | started
  /-- An XSEND that has read its source, whose landing is on its way or held (R155), with its place in the order of sending. -/
  | landing (data : List Byte) (sent : Nat)
  /-- An XSEND whose landing the target has accepted, by team and object, and whose last byte has not landed (R155). -/
  | arriving (team obj : Nat) (data : List Byte)
  /-- A COLL that has joined instance `i` (R262). -/
  | joined (i : Nat)
  /-- A COLL whose instance has completed with this result for its destination (R262). -/
  | result (data : List Byte)
  /-- Its accesses are done: it holds a ring index, and whether the entry is written (none before RESERVE is taken), its status, cause,
  address and bytes. -/
  | record (i : Option (Nat × Bool)) (status cause va bytes : Nat)
  deriving DecidableEq, Repr

/-- What stops a command (R261). -/
inductive Stop where
  /-- Nothing. -/
  | none
  /-- A translation fault, recorded. -/
  | fault
  /-- A translation fault whose record the ring has not taken yet (R187). -/
  | unrecorded
  /-- A spring block. -/
  | miss (spring block : Nat)
  deriving DecidableEq, Repr

/-- An accepted engine command: an entry of the issue journal (R255) or of the matrix queue (R272). -/
structure Command where
  /-- The model's name; names rise in order of acceptance. -/
  id : Nat
  /-- The core. -/
  core : Nat
  /-- The team. -/
  team : Nat
  /-- The member. -/
  mem : Nat
  /-- The slot. -/
  slot : Nat
  /-- PC of the word. -/
  pc : Word
  /-- It is an entry of the matrix queue. -/
  matrix : Bool
  /-- The produced token; none for the zeroings. -/
  token : Option Nat
  /-- The consumed tokens, K1 first. -/
  uses : List Nat
  /-- The completion ring's record, when a completion record was asked for. -/
  ring : Option Rec
  /-- What it does. -/
  job : Job
  /-- Where it stands. -/
  phase : Phase
  /-- What stops it there. -/
  stop : Stop
  /-- Device time of its start. -/
  startAt : Nat
  deriving DecidableEq, Repr

/-- An open collective instance (R262). -/
structure Coll where
  /-- The launch. -/
  launch : Nat
  /-- The scope code. -/
  sc : Nat
  /-- The scope instance: the run of the cluster, the die, or 0. -/
  inst : Nat
  /-- The collective number. -/
  id : Nat
  /-- Operation, type, count, participants of the first. -/
  shape : Nat × Nat × Nat × Nat
  /-- The participants: linear index, command, source bytes read at the join. A .bcast captures them only if they
  could be read then, since only position 0's are needed. -/
  parts : List (Nat × Nat × Option (List Byte))
  deriving DecidableEq, Repr

/-- A screen write on its way to its owner (R298). -/
structure Screen where
  /-- The issuing team. -/
  sender : Nat
  /-- The issuing member. -/
  mem : Nat
  /-- %tid of the issuing lane, which names it through splits and joins (R100, R299). -/
  lane : Word
  /-- The die that sent it. -/
  die : Nat
  /-- The tag of its word. -/
  tag : Option Nat
  /-- The context. -/
  ctx : Nat
  /-- The launch of both teams. -/
  launch : Nat
  /-- The owner's linear index. -/
  owner : Nat
  /-- Local x. -/
  x : Nat
  /-- Local y. -/
  y : Nat
  /-- The planes, then the sequence number. -/
  key : List Word
  deriving DecidableEq, Repr

/-- A kept tile holding (R293). -/
structure Kept where
  /-- The context. -/
  ctx : Nat
  /-- The pass key. -/
  passKey : Nat
  /-- The linear index of the team that left it. -/
  index : Nat
  /-- The launch that left it. -/
  launch : Nat
  /-- The core that holds it, in the %core layout, virtual. -/
  vcore : Nat
  /-- The physical core. -/
  core : Nat
  /-- Its size in bytes. -/
  hold : Nat
  /-- Its bytes. -/
  data : Bytes
  /-- Its %tilecfg. -/
  tilecfg : Word
  deriving DecidableEq, Repr

/-! ### Launches and the dispatchers -/

/-- A launch taken up by the dispatchers (R308 to R310). -/
structure Launch where
  /-- The context. -/
  ctx : Nat
  /-- The partition. -/
  part : Nat
  /-- The launch id (R308). -/
  lid : Half
  /-- The queue, and the packet's number on it, that it completes. -/
  packet : Nat × Nat
  /-- What the launch record declares. -/
  spec : Spec
  /-- The die mask. -/
  dies : BitVec 4
  /-- The walk cursor: iterations drawn (R309). -/
  cursor : Nat
  /-- Tasks to dispatch again: linear index, dispatches before. -/
  again : List (Nat × Nat)
  /-- Rises of the effective priority since the last placement (R310). -/
  rises : Nat
  /-- Device time of its last placement, or of its acceptance. -/
  since : Nat
  /-- By die, the device time from which it has been blocked (R310). -/
  blocked : Sparse Nat
  /-- The dies on which it holds its partition (R310). -/
  holds : List Nat
  deriving DecidableEq, Repr

/-- How an abandoned task waits (R351, R434). -/
inductive AbandState where
  /-- It waits for TASK.CTL. -/
  | waiting
  /-- The device dispatches it again by itself. -/
  | auto
  /-- A TASK.CTL packet, by queue and number, dispatched it again. -/
  | again (queue num : Nat)
  deriving DecidableEq, Repr

/-- An abandoned task (R351). -/
structure Aband where
  /-- The context. -/
  ctx : Nat
  /-- The launch. -/
  launch : Nat
  /-- The task id. -/
  task : DWord
  /-- Its dispatches so far, less one. -/
  retry : Nat
  /-- How it waits. -/
  st : AbandState
  deriving DecidableEq, Repr

/-- Where a context stands between pre-emption and resume (R352 to R354). -/
inductive CtxState where
  /-- Running. -/
  | live
  /-- A pre-emption was requested at this device time. -/
  | preempting (since : Nat)
  /-- Saved. -/
  | saved
  deriving DecidableEq, Repr

/-- A context (R434, CTX.CREATE). -/
structure Context where
  /-- The partition. -/
  part : Nat
  /-- The table root. -/
  root : Nat
  /-- The save area's PA. -/
  save : Nat
  /-- The save area's bytes. -/
  saveBytes : Nat
  /-- The flat privilege. -/
  flat : Bool
  /-- The initial %debug.PRC. -/
  prc : Bool
  /-- Pre-emption state. -/
  st : CtxState
  /-- The packets that wait for the save. -/
  preempters : List (Nat × Nat)
  /-- The virtual-reach map, where it is not the identity: virtual reach, physical reach if mapped (R356). -/
  map : Sparse (Option Nat)
  deriving DecidableEq, Repr

/-- A resize under way (R360). -/
structure Resize where
  /-- The packet, by queue and number. -/
  packet : Nat × Nat
  /-- The packet's body. -/
  body : List DWord
  /-- QGET at the packet, which a queue error of its resumes carries (R355, R436). -/
  get : Word
  deriving DecidableEq, Repr

/-- A partition (R26, R434). -/
structure Partition where
  /-- The reaches. -/
  reaches : BitVec 128
  /-- The way masks. -/
  ways : DWord
  /-- The version-store shares in units of 64 KiB. -/
  vshare : DWord
  /-- The vault share. -/
  vaults : BitVec 128
  /-- The encoder share. -/
  enc : Nat
  /-- The stream share. -/
  streams : Nat
  /-- A resize under way. -/
  resize : Option Resize
  deriving DecidableEq, Repr

/-! ### Queues, event rings and the host block -/

/-- A packet issued and not completed, in issue order (R431, R433). -/
structure Flight where
  /-- Its number on the queue. -/
  num : Nat
  /-- SIGVAL, when SIG is 1. -/
  sig : Option DWord
  /-- It has completed. -/
  done : Bool
  deriving DecidableEq, Repr

/-- A queue (R428). -/
structure Queue where
  /-- QBASE. -/
  base : DWord
  /-- QSIZE. -/
  size : Word
  /-- QPUT. -/
  put : Word
  /-- QGET. -/
  get : Word
  /-- QSTAT.EN. -/
  en : Bool
  /-- QSTAT.HALT. -/
  halt : Bool
  /-- QSTAT.WAIT. -/
  wait : Bool
  /-- QSTAT.PART. -/
  part : Nat
  /-- TLVAL. -/
  tlval : DWord
  /-- TLMIR. -/
  tlmir : DWord
  /-- QERR. -/
  err : DWord
  /-- The greatest SIGVAL accepted (R433). -/
  last : DWord
  /-- QPUT as the queue engine last read it (R443). -/
  seen : Word
  /-- The head packet, taken up and not issued. -/
  head : Option Packet
  /-- Packets issued and not completed, and completed ones not yet given to the timeline. -/
  flights : List Flight
  /-- The number of the next packet. -/
  next : Nat
  /-- QUEUE.DESTROY waits for its packets: the destroying packet's number on queue 0. -/
  closing : Option Nat
  deriving DecidableEq, Repr

/-- An event ring (R437). -/
structure Ring where
  /-- EVBASE. -/
  base : DWord
  /-- EVSIZE. -/
  size : Word
  /-- EVPUT. -/
  put : Word
  /-- EVGET. -/
  get : Word
  /-- EVLOST. -/
  lost : Word
  /-- Abandonment and queue-error events that wait for room: EVT and body, oldest first. -/
  held : List (Nat × List Byte)
  /-- Events that have room and whose write a port or a halted vault holds, oldest first (R319, R445). -/
  out : List (Nat × List Byte)
  /-- Entries written, for the sequence number. -/
  seq : Word
  deriving DecidableEq, Repr

/-- The host block and the firmware complexes (R438 to R442). -/
structure HostBlock where
  /-- FWSTAT. -/
  fwstat : Word
  /-- FWVER. -/
  fwver : Word
  /-- BOOTIMG. -/
  bootimg : DWord
  /-- BOOTCFG. -/
  bootcfg : DWord
  /-- SUMSEQ. -/
  sumseq : Word
  /-- DIEOFF. -/
  dieoff : BitVec 4
  /-- The active image's bytes' SHA-384, the standby image's, the configuration record's (R444). -/
  digests : BitVec 384 × BitVec 384 × BitVec 384
  /-- The least image SVN of the configuration record (R439). -/
  minSvn : Nat
  /-- Interrupt messages sent since reset, oldest first: ring numbers 0 to 64; 65 + die for a fault buffer, 69 + die
  for a notification ring, 73 + vault for a halt. The model's own record of R425's messages. -/
  interrupts : List Nat
  deriving DecidableEq, Repr

/-! ### Dies, vaults, reaches and links -/

/-- The memory-unit block of a die (R186). -/
structure MemUnit where
  /-- FBBASE. -/
  fbbase : DWord
  /-- FBPUT. -/
  fbput : Word
  /-- FBGET. -/
  fbget : Word
  /-- FBSTAT.OVF. -/
  fbovf : Bool
  /-- FBOVFCNT. -/
  fbovfcnt : Word
  /-- NQBASE. -/
  nqbase : DWord
  /-- NQSIZE. -/
  nqsize : Word
  /-- NQPUT. -/
  nqput : Word
  /-- NQGET. -/
  nqget : Word
  /-- NQSTAT.OVF. -/
  nqovf : Bool
  /-- ACTHR. -/
  acthr : Word
  /-- VSCARVE: ways. -/
  vscarve : Nat
  /-- SUMMAP: the set bits, ascending. -/
  summap : List Nat
  /-- Fault records whose write a link, a port or a vault holds, oldest first (R21, R319, R445). -/
  fbout : List (List Byte)
  /-- Notifications whose write is held, oldest first. -/
  nqout : List (List Byte)
  deriving DecidableEq, Repr

/-- A vault (R318 to R325). -/
structure Vault where
  /-- VSTAT.HALT. -/
  halt : Bool
  /-- VSTAT.PRESS. -/
  press : Bool
  /-- VSTAT.IVL. -/
  ivl : Nat
  /-- VSTAT.TMEAS, in units of 0.25 °C. -/
  tmeas : Nat
  /-- VRES.PIN. -/
  pin : Nat
  /-- VRES.FLOOR. -/
  floor : Nat
  /-- MR. -/
  mr : Nat
  /-- Device time since which readings have stayed 3 °C below the row's lower bound (R319). -/
  cool : Option Nat
  /-- Device time of the last vault-pressure event (R324). -/
  event : Option Nat
  deriving DecidableEq, Repr

/-- A hop of a reach's lane clock (R337). -/
structure Hop where
  /-- The rate it moves to. -/
  new : Nat
  /-- The rate it came from. -/
  old : Nat
  /-- Device time of its start. -/
  since : Nat
  /-- Device time at which the new source had locked while step 3 must wait for a stretch to end. -/
  locked : Option Nat
  deriving DecidableEq, Repr

/-- A reach's clocks, millpond and weir grants (R326). -/
structure Reach where
  /-- CLKCFG.VID. -/
  vid : Nat
  /-- CLKCFG.LRATE. -/
  lrate : Nat
  /-- The hop in progress. -/
  hop : Option Hop
  /-- The rate and VID last written during the hop (R327). -/
  nextCfg : Option (Nat × Nat)
  /-- A VID that a hop to a slower rate applies at its end (R327). -/
  nextVid : Option Nat
  /-- A stretch is in progress (R336). -/
  stretch : Bool
  /-- MPCFG. -/
  mpcfg : Word
  /-- MPFILL: target refill. -/
  target : Nat
  /-- MPFILL: refill in effect. -/
  refill : Nat
  /-- The last microsecond of device time whose refill the millpond has gained (R330). -/
  filled : Nat
  /-- Device time of the refill's last move (R330). -/
  moved : Option Nat
  /-- The refill is in a rise by more than SLOPE, which steps up at the phase slot alone (R334). -/
  phased : Bool
  /-- MPLVL. -/
  level : Nat
  /-- MPWGT0 and MPWGT1: the class weights. -/
  weights : DWord
  /-- WGRANT: GMAX. -/
  gmax : Nat
  /-- WGRANT: GPOOL. -/
  gpool : Nat
  /-- WLIM0 to WLIM3: the limits of levels 0 to 7. -/
  wlim : BitVec 128
  /-- DRPCNT. -/
  drpcnt : Word
  /-- HOPCNT. -/
  hopcnt : Word
  /-- HOPMAX. -/
  hopmax : Word
  /-- SPSLOT. -/
  spslot : Nat
  deriving DecidableEq, Repr

/-- A die link or a CXL port (R21, R445). -/
structure Link where
  /-- It retrains, and its traffic is held. -/
  retraining : Bool
  /-- Failed attempts in a row. -/
  tries : Nat
  /-- It is marked failed. -/
  failed : Bool
  deriving DecidableEq, Repr

/-- A core's own state beside its teams (R184, R289). -/
structure CoreState where
  /-- The issuing bank. -/
  bank : Nat
  /-- Device time at which its last switch of banks ends (R184). -/
  switched : Nat
  /-- The matrix engine is in reset. -/
  mreset : Bool
  /-- Device time at which the reset ends. -/
  mend : Nat
  /-- The fe-cycle in which each issue port last issued a word (R84). -/
  ports : Sparse Nat
  deriving DecidableEq, Repr

/-- A pool line cached in its home die's LLC and tracked by the snoop filter (R181). -/
structure PoolLine where
  /-- Its physical address. -/
  pa : Nat
  /-- The bytes that the pool itself holds while the cached line is dirty. -/
  stale : Option (List Byte)
  /-- The die that homes it and whose LLC caches it. -/
  home : Nat
  /-- The way of that LLC that holds it (R18). -/
  way : Nat
  deriving DecidableEq, Repr

/-- The device's configuration record as the boot read it (R24, R25). -/
structure Device where
  /-- CAP0 to CAP3. -/
  caps : List Word
  /-- The half-width cores. -/
  halfw : List Nat
  /-- The disabled cores. -/
  disabled : List Nat
  deriving DecidableEq, Repr

/-! ### The E-die: line cores and streams -/

/-- An ST slot that is performed after the blocked LD of its word (R389): what it writes, and whether it fills. -/
structure StHeld where
  /-- The bytes, by line-store address. -/
  cells : List Host.Cell
  /-- The tiles it touches. -/
  tiles : List Nat
  /-- FILL. -/
  fill : Bool
  deriving DecidableEq, Repr

/-- An LD slot blocked on an empty tile (R389), with its address and destination as they stood at issue. -/
structure LdWait where
  /-- The rows it reads: address and length of each. -/
  rows : List (Nat × Nat)
  /-- The physical w register it writes, or else the x register. -/
  dst : Nat × Bool
  /-- TAKE. -/
  take : Bool
  /-- The ST of the same word that must follow it. -/
  st : Option StHeld
  /-- The semaphore that its word signals when it completes (R393). -/
  sig : Option (BitVec 5)
  /-- Its POST update: register and value. -/
  post : Option (Nat × Word)
  /-- PC of its word. -/
  pc : Nat
  deriving DecidableEq, Repr

/-- One stream of a line core (R361). -/
structure LStream where
  /-- The code section's bytes by offset. -/
  code : Bytes
  /-- The section's loaded length in bytes. -/
  len : Nat
  /-- PC, a 15-bit word index. -/
  pc : Nat
  /-- x0 to x31; an unlisted register holds 0. -/
  x : Sparse Word
  /-- The held copies of the loaded template slots. -/
  tpl : Sparse (BitVec 256)
  /-- sg0 to sg7. -/
  sg : BitVec 8
  /-- LC. -/
  lc : Word
  /-- EC. -/
  ec : Word
  /-- The stream runs: it has started and has not ended. -/
  on : Bool
  /-- It has ended by END. -/
  ended : Bool
  /-- It waits at issue, as CSTATE and VSTATE show (R372). -/
  waiting : Bool
  /-- An LD slot of the last word that waits for a full tile (R389). -/
  blocked : Option LdWait
  deriving DecidableEq, Repr

/-- A semaphore that has been initialised (R391). -/
structure Sem where
  /-- The count. -/
  count : Nat
  /-- The ceiling. -/
  ceiling : Nat
  deriving DecidableEq, Repr

/-- A command of a load, store or matrix queue (R396, R398). -/
structure LCmd where
  /-- The PC of the word that pushed it. -/
  pc : Nat
  /-- Its wait semaphore. -/
  ws : Option (BitVec 5)
  /-- Its signal semaphore. -/
  ss : Option (BitVec 5)
  /-- The command block's four words. -/
  blk : List Word
  /-- The physical address that a copy command's window and offset name at the push. -/
  pa : Nat
  /-- SETF, WAITF. -/
  f0 : Bool
  /-- CLRF. -/
  f1 : Bool
  /-- It has consumed its wait unit. -/
  consumed : Bool
  /-- It has started (R397). -/
  started : Bool
  /-- The bytes read at its start: the window's of a load command, A, B and, when it accumulates, C of a matrix command (R399). -/
  data : List Byte
  deriving DecidableEq, Repr

/-- What a line core runs (R403, R412, R463). -/
inductive Run where
  /-- No program. -/
  | none
  /-- A slice program: stream, frame, slice, and the values that SRD 16 to 31 read (R414). -/
  | slice (stream frame slice : Nat) (vals : List Word)
  /-- A .section program. -/
  | section_
  deriving DecidableEq, Repr

/-- A write of the line store that some party may still read past (R400). -/
structure LRace where
  /-- The party that wrote (R395). -/
  party : Nat
  /-- The aligned words it wrote, with their values before it. -/
  old : List (Nat × Word)
  /-- The parties whose next accesses are ordered after it. -/
  after : List Nat
  /-- The semaphores that its party has signalled since. -/
  sems : List Nat
  /-- The tiles that its party has filled since and nobody has cleared. -/
  tiles : List Nat
  /-- The queue registers that its stream has pushed since, with the number of values up to the first of those. -/
  cqs : Sparse Nat
  deriving DecidableEq, Repr

/-- A line core (R361). -/
structure LineCore where
  /-- The control stream. -/
  cs : LStream
  /-- The vector stream. -/
  vs : LStream
  /-- w0 to w63, physical; an unlisted register is zero. -/
  w : Sparse (BitVec 4096)
  /-- shp. -/
  shp : Word
  /-- lb. -/
  lb : BitVec 5
  /-- The V0 ring, newest first. -/
  o0 : List (BitVec 4096)
  /-- The V1 ring, newest first. -/
  o1 : List (BitVec 4096)
  /-- The line store. -/
  ls : Bytes
  /-- The tiles whose full bit is set, ascending. -/
  full : List Nat
  /-- The initialised semaphores. -/
  sems : Sparse Sem
  /-- cq0 to cq3, oldest value first. -/
  cqs : Sparse (List Word)
  /-- The load queue, oldest first. -/
  ldq : List LCmd
  /-- The store queue. -/
  stq : List LCmd
  /-- The matrix queue. -/
  mq : List LCmd
  /-- Who waits on semaphores: party (0 control stream, 1 vector stream, 2 load, 3 store, 4 matrix queue) and
  semaphore, in order of the beginning of the wait (R395). -/
  waiters : List (Nat × Nat)
  /-- The writes of the line store that some party may still read past, newest first (R400). -/
  races : List LRace
  /-- LCSTAT.HALT. -/
  halt : Bool
  /-- A slice program was stopped at its deadline (R415). -/
  stopped : Bool
  /-- LCERR0. -/
  err0 : Word
  /-- LCERR1. -/
  err1 : Word
  /-- LCERR2. -/
  err2 : Word
  /-- LCHTIME. -/
  htime : DWord
  /-- LWBASE0 to LWBASE7. -/
  lwbase : Sparse DWord
  /-- LWEXT0 to LWEXT7. -/
  lwext : Sparse DWord
  /-- LCLEN (R463): the sections' lengths. -/
  lclen : DWord
  /-- What it runs. -/
  run : Run
  deriving DecidableEq, Repr

/-- A pose (R411): TIME, then QW, QX, QY, QZ, PX, PY, PZ. -/
structure Pose where
  /-- TIME. -/
  time : DWord
  /-- QW, QX, QY, QZ, PX, PY, PZ as FP32 bits. -/
  q : List Word
  deriving DecidableEq, Repr

/-- A slice on the launch list (R412). -/
structure Listed where
  /-- The frame. -/
  frame : Nat
  /-- The slice. -/
  slice : Nat
  /-- Its deadline in p-cycles. -/
  deadline : Nat
  /-- Its latched pose. -/
  pose : Pose
  deriving DecidableEq, Repr

/-- How a slice of a frame ended (R415, R418). -/
inductive SliceEnd where
  /-- It completed. -/
  | complete
  /-- It was missed and awaits the backwater copy. -/
  | missed
  /-- It was missed and copied. -/
  | copied
  deriving DecidableEq, Repr

/-- A frame whose first slice has been latched (R409, R416). -/
structure Frame where
  /-- The frame number. -/
  num : Nat
  /-- The latched index. -/
  index : Word
  /-- The latched pose of its slice 0. -/
  pose : Pose
  /-- The slices that have ended. -/
  ends : Sparse SliceEnd
  /-- The slices whose deadline has passed. -/
  passed : List Nat
  /-- The backwater slices as computed at the latches, of the slices that have not ended or await their copy (R417). -/
  bw : Sparse (List Byte)
  /-- Backwater slices whose reads of the present buffer a link or a port holds: the slice's latched pose, and the last complete
  present buffer at the latch (R21, R417). -/
  owed : Sparse (Pose × Option (Nat × Pose))
  deriving DecidableEq, Repr

/-- The registers of a stream that is not open (R423): they hold what they held, and the host's writes. -/
structure StreamRegs where
  /-- SBWCNT. -/
  sbwcnt : Word
  /-- SEVCNT. -/
  sevcnt : Word
  /-- SLASTBW. -/
  slastbw : Word
  /-- SBSPUT. -/
  sbsput : Word
  /-- SBSGET. -/
  sbsget : Word
  /-- SBSDROP. -/
  sbsdrop : Word
  /-- SBADIDX. -/
  sbadidx : Word
  deriving DecidableEq, Repr

/-- A presentation stream that is open (R405, R423). -/
structure PStream where
  /-- The partition. -/
  part : Nat
  /-- The 128-byte descriptor. -/
  desc : BitVec 1024
  /-- TF of the frame that `frame` names, in p-cycles (R408). -/
  tf : Nat
  /-- The frame in scan-out; none before frame 0 starts. -/
  frame : Option Nat
  /-- The next latch: frame and slice. -/
  latch : Nat × Nat
  /-- The pose of the previous slice (R411). -/
  pose : Pose
  /-- The last latched index (R409). -/
  index : Word
  /-- The launch list. -/
  listed : List Listed
  /-- The frames that are not finished, and the last complete one. -/
  frames : List Frame
  /-- The last complete present buffer: frame number and present pose (R416). -/
  last : Option (Nat × Pose)
  /-- SBWCNT. -/
  sbwcnt : Word
  /-- SEVCNT. -/
  sevcnt : Word
  /-- SLASTBW. -/
  slastbw : Word
  /-- SBSPUT. -/
  sbsput : Word
  /-- SBSGET. -/
  sbsget : Word
  /-- SBSDROP. -/
  sbsdrop : Word
  /-- SBADIDX. -/
  sbadidx : Word
  /-- The encode pipelines of the stream, by position (R419). -/
  pipes : List Nat
  /-- The next encoded frame is a key frame (R420). -/
  key : Bool
  /-- The frame whose remaining chunks are dropped (R420). -/
  dropping : Option Nat
  /-- The tile rows of frames encoded so far: frame, row. -/
  encoded : List (Nat × Nat)
  /-- STREAM.CLOSE: the packet, and whether the next frame start has come (R407). -/
  closing : Option ((Nat × Nat) × Bool)
  deriving DecidableEq, Repr

/-! ### The whole machine -/

/-- Who moves next: the model's own schedule, and with it the inputs of the outside world (R425; the environment
of the sensors, links and clocks). -/
inductive Agent where
  /-- A member issues its next word. -/
  | member (team mem : Nat)
  /-- A stream of a line core issues its next patch word; `vec` names the vector stream. -/
  | stream (lc : Nat) (vec : Bool)
  /-- An event of the device's units or of the host happens. -/
  | event (i : Instr)
  /-- Device time passes. -/
  | elapse (ns : Nat)
  /-- The host reads a register: offset in the device register space, and width (R425). -/
  | hostRead (off width : Nat)
  /-- The device time comes under the discipline of IEEE 1588, and is its time, or loses it and counts on: PHCFG.LOCK (R328, R334). -/
  | timeLock (on : Bool) (time : Nat)
  deriving DecidableEq, Repr

/-- The state of the KV4. -/
structure State where
  /-- Device time in ns (R334). -/
  now : Nat
  /-- The model's step counter, from which the default schedule is read. -/
  turn : Nat
  /-- The model's counter of free values (log entry 3). -/
  free : Nat
  /-- The model's schedule of what happens next; empty leaves the choice to the default order. -/
  agenda : List Agent
  /-- The member whose word issues. -/
  cur : Option (Nat × Nat)
  /-- The other groups that are ready on the core of the word that issues, when it is a YIELD (R88): team, member, and the
  words that the member had issued. -/
  rivals : List (Nat × Nat × Nat)
  /-- The line-core stream whose word issues: core, vector stream. -/
  curLc : Option (Nat × Bool)
  /-- Physical memory: stacked DRAM, handoff pool and CXL pool window (R14). -/
  mem : Bytes
  /-- The configuration record's content. -/
  device : Device
  /-- The host block. -/
  host : HostBlock
  /-- The queues; an unlisted queue is as after reset. -/
  queues : Sparse Queue
  /-- The event rings. -/
  rings : Sparse Ring
  /-- The memory-unit blocks by die. -/
  units : Sparse MemUnit
  /-- The vaults by package number. -/
  vaults : Sparse Vault
  /-- The reaches by package number. -/
  reaches : Sparse Reach
  /-- PCHG by 64 × die + partition. -/
  pchg : Sparse DWord
  /-- PHCFG: LOCK and PHOFF. -/
  phcfg : Bool × Nat
  /-- PKGCAP. -/
  pkgcap : Word
  /-- The die links by 8 × lower die + higher die, 4 for the E-die; an unlisted link is trained. -/
  links : Sparse Link
  /-- The CXL ports. -/
  ports : Sparse Link
  /-- Tracked pool lines, least recently used first (R181). -/
  snoop : List PoolLine
  /-- The writes that not every party reads yet, oldest first. -/
  late : List Late
  /-- Cached translations, those of each TLB oldest first. -/
  tlb : List TlbEntry
  /-- Partitions. -/
  parts : Sparse Partition
  /-- Contexts by number. -/
  ctxs : Sparse Context
  /-- Springs by 64 × context + number. -/
  springs : Sparse Spring
  /-- Misses on their way. -/
  misses : List Miss
  /-- Launches by the model's key. -/
  launches : Sparse Launch
  /-- The next launch key. -/
  freshLaunch : Nat
  /-- The last launch id given, by context (R308). -/
  lids : Sparse Half
  /-- The launch last served in a rotation, by 8 × die + level (R310). -/
  served : Sparse Nat
  /-- By die, the device time from which its dispatcher may place a team again (R310). -/
  dispatch : Sparse Nat
  /-- Abandoned tasks not yet released or retired. -/
  abands : List Aband
  /-- Teams by the model's key. -/
  teams : Sparse Team
  /-- The next team key. -/
  freshTeam : Nat
  /-- Cores; an unlisted core issues from bank 0 and its matrix engine is not in reset. -/
  cores : Sparse CoreState
  /-- Accepted commands, in order of acceptance. -/
  cmds : List Command
  /-- The next command name. -/
  freshCmd : Nat
  /-- Open collectives by the model's key. -/
  colls : Sparse Coll
  /-- Screen writes not yet delivered. -/
  screens : List Screen
  /-- Kept holdings. -/
  kept : List Kept
  /-- Commits performed on the device (R205). -/
  commits : Nat
  /-- Committed marks that are held. -/
  marks : List Marks
  /-- The order number of the next parking (R188) and of the next generator enqueued. -/
  order : Nat
  /-- The line cores. -/
  lcs : Sparse LineCore
  /-- The presentation streams that are open. -/
  streams : Sparse PStream
  /-- The registers of the streams that are not open; an unlisted stream's hold 0. -/
  sregs : Sparse StreamRegs
  /-- Writes of the host link to memory that a port or a halted vault holds, oldest first (R319, R445). -/
  heldWrites : List (Nat × Option (List Byte))
  deriving DecidableEq, Repr

/-- The reasons a step stops. -/
inductive Fault where
  /-- Raised by exec for a Calud word when no member of any team is issuing, and for a patch word or a slot when no
  stream of a line core is: the word stands nowhere. Safe: the hardware issues no word without an issuer. -/
  | noIssuer
  deriving DecidableEq, Repr

/-- The instructions without a meaning. -/
inductive Refusal where
  /-- The instruction of this mnemonic has no meaning yet. Safe. -/
  | notModelled (mnemonic : String)
  deriving DecidableEq, Repr

/-- A queue as after reset (R428), but for QSIZE, whose reset value is not given (log entry 2). -/
def Queue.zero : Queue :=
  { base := 0, size := 0, put := 0, get := 0, en := false, halt := false, wait := false, part := 0, tlval := 0,
    tlmir := 0, err := 0, last := 0, seen := 0, head := none, flights := [], next := 0, closing := none }

/-- An event ring as after reset (R437). -/
def Ring.zero : Ring := { base := 0, size := 0, put := 0, get := 0, lost := 0, held := [], out := [], seq := 0 }

/-- A memory-unit block as after reset (R186). -/
def MemUnit.zero : MemUnit :=
  { fbbase := 0, fbput := 0, fbget := 0, fbovf := false, fbovfcnt := 0, nqbase := 0, nqsize := 0, nqput := 0,
    nqget := 0, nqovf := false, acthr := 0, vscarve := 4, summap := [], fbout := [], nqout := [] }

/-- A vault as after reset (R325). -/
def Vault.zero : Vault :=
  { halt := false, press := false, ivl := 0, tmeas := 0, pin := 0, floor := 0, mr := 0, cool := none, event := none }

/-- A reach as after reset (R326). -/
def Reach.zero : Reach :=
  { vid := 0x50, lrate := 1, hop := none, nextCfg := none, nextVid := none, stretch := false, mpcfg := 0, target := 0,
    refill := 0, filled := 0, moved := none, phased := false, level := 0, weights := 0, gmax := 0, gpool := 0, wlim := 0, drpcnt := 0, hopcnt := 0, hopmax := 0,
    spslot := 2 }

/-- A link that is trained. -/
def Link.zero : Link := { retraining := false, tries := 0, failed := false }

/-- The registers of a stream that has never been open. -/
def StreamRegs.zero : StreamRegs := { sbwcnt := 0, sevcnt := 0, slastbw := 0, sbsput := 0, sbsget := 0, sbsdrop := 0, sbadidx := 0 }

/-- A core that has issued nothing. -/
def CoreState.zero : CoreState := { bank := 0, switched := 0, mreset := false, mend := 0, ports := [] }

/-- A stream of a line core before any program start. -/
def LStream.zero : LStream :=
  { code := [], len := 0, pc := 0, x := [], tpl := [], sg := 0, lc := 0, ec := 0, on := false, ended := false,
    waiting := false, blocked := none }

/-- A line core before any program start. -/
def LineCore.zero : LineCore :=
  { cs := LStream.zero, vs := LStream.zero, w := [], shp := 0x207F0000, lb := 0, o0 := [], o1 := [], ls := [],
    full := [], sems := [], cqs := [], ldq := [], stq := [], mq := [], waiters := [], races := [], halt := false, stopped := false,
    err0 := 0, err1 := 0, err2 := 0, htime := 0, lwbase := [], lwext := [], lclen := 0, run := .none }

/-- The trap state of a member at team start (R341, R342). -/
def Trap.zero : Trap :=
  { tcause := 0, tepc := 0, inh := false, mask := false, ppend := false, budget := 0, aside := none, pcm := 0, cont := none, raceva := 0,
    racetask := 0, springva := 0, gentask := 0, springdet := 0, kerr := 0, kerrva := 0 }

/-- The host block as after reset (R438). -/
def HostBlock.zero : HostBlock :=
  { fwstat := 0, fwver := 0, bootimg := 0, bootcfg := 0, sumseq := 0, dieoff := 0, digests := (0, 0, 0), minSvn := 0,
    interrupts := [] }

/-- The capability words of a full KV4 with no harvested core, as the Reset columns of R25 give them. -/
def Device.full : Device :=
  { caps := [0x01F80701, 0x08008000, 0x8084FE74, 0x82042401], halfw := [], disabled := [] }

/-- The machine right after device reset: no partition, context, queue or team exists (R26, R434), every register
holds its reset value, and nothing is in memory. -/
def State.reset : State :=
  { now := 0, turn := 0, free := 0, agenda := [], cur := none, rivals := [], curLc := none, mem := [], device := Device.full,
    host := HostBlock.zero, queues := [], rings := [], units := [], vaults := [], reaches := [], pchg := [],
    phcfg := (false, 0), pkgcap := 0, links := [], ports := [], snoop := [], late := [], tlb := [], parts := [], ctxs := [],
    springs := [], misses := [], launches := [], freshLaunch := 0, lids := [], served := [], dispatch := [], abands := [], teams := [],
    freshTeam := 0, cores := [], cmds := [], freshCmd := 0, colls := [], screens := [], kept := [], commits := 0,
    marks := [], order := 0, lcs := [], streams := [], sregs := [], heldWrites := [] }

end Sys2Proof.Machine
end

