-- ==== Sys2Proof/Machine/Tables.lean ====
section
/-! DEFINITION. Tables by number, memory by byte, and the state's tables read and written through one name each. -/

namespace Sys2Proof.Machine

/-! ### Tables -/

/-- The entry of a key, if listed. -/
def look {α : Type} (t : Sparse α) (k : Nat) : Option α :=
  match t with
  | [] => none
  | (k', x) :: r => if k' = k then some x else look r k

/-- The entry of a key, `d` for a key that is not listed. -/
def get {α : Type} (d : α) (t : Sparse α) (k : Nat) : α := (look t k).getD d

/-- Sets the entry of a key. -/
def set {α : Type} (t : Sparse α) (k : Nat) (x : α) : Sparse α :=
  match t with
  | [] => [(k, x)]
  | (k', y) :: r => if k < k' then (k, x) :: (k', y) :: r else if k = k' then (k, x) :: r else (k', y) :: set r k x

/-- Removes the entry of a key. -/
def del {α : Type} (t : Sparse α) (k : Nat) : Sparse α := t.filter (fun e => e.1 != k)

/-- Sets the entry of a key, and leaves a key that holds the default unlisted. -/
def setD {α : Type} [DecidableEq α] (d : α) (t : Sparse α) (k : Nat) (x : α) : Sparse α :=
  if x = d then del t k else set t k x

/-- Changes the entry of a listed key. -/
def upd {α : Type} (t : Sparse α) (k : Nat) (f : α → α) : Sparse α :=
  t.map (fun e => if e.1 = k then (e.1, f e.2) else e)

/-- The elements of a list in ascending order without repeats, with `k` among them. -/
def insertNat (k : Nat) : List Nat → List Nat
  | [] => [k]
  | x :: r => if k < x then k :: x :: r else if k = x then x :: r else x :: insertNat k r

/-- The numbers of a list in ascending order without repeats. -/
def sortNats (l : List Nat) : List Nat := l.foldl (fun acc k => insertNat k acc) []

/-- Sum of a list. -/
def sumNat (l : List Nat) : Nat := l.foldl (· + ·) 0

/-- The greatest element, 0 for none. -/
def maxNat (l : List Nat) : Nat := l.foldl max 0

/-- The element with the least key by `f`, the first of equals. -/
def leastBy {α : Type} (f : α → Nat) (l : List α) : Option α :=
  l.foldl (fun acc x => match acc with
    | none => some x
    | some y => if f x < f y then some x else some y) none

/-- Puts an element into a list that ascends by `f`, after its equals. -/
def insertBy {α : Type} (f : α → Nat) (x : α) : List α → List α
  | [] => [x]
  | y :: r => if f x < f y then x :: y :: r else y :: insertBy f x r

/-- A list in ascending order of `f`. -/
def sortBy {α : Type} (f : α → Nat) (l : List α) : List α := l.foldl (fun acc x => insertBy f x acc) []

/-! ### Memory by byte (log entry 1) -/

/-- What a byte holds: zero when it is not listed. -/
def Mem.read (m : Bytes) (a : Nat) : Byte := get 0 m a

/-- The cells of a run of bytes from an address, zero bytes left out. -/
def Mem.cells : Nat → List Byte → Bytes
  | _, [] => []
  | a, b :: r => if b = 0 then Mem.cells (a + 1) r else (a, b) :: Mem.cells (a + 1) r

/-- Writes a run of bytes at an address. -/
def Mem.write (m : Bytes) (a : Nat) (bs : List Byte) : Bytes :=
  m.filter (fun c => decide (c.1 < a)) ++ Mem.cells a bs ++ m.filter (fun c => decide (a + bs.length ≤ c.1))

/-- The `n` bytes from an address. -/
def Mem.readN (m : Bytes) (a n : Nat) : List Byte := (List.range n).map (fun i => Mem.read m (a + i))

/-- The canonical form: strictly rising addresses, no zero byte. -/
def Memory.wf : Bytes → Bool
  | [] => true
  | [c] => c.2 != 0
  | c :: c' :: r => c.2 != 0 && decide (c.1 < c'.1) && Memory.wf (c' :: r)

/-- The number of little-endian bytes (R3). -/
def leVal (bs : List Byte) : Nat := bs.foldr (fun b acc => b.toNat + 256 * acc) 0

/-- The `n` little-endian bytes of a number (R3). -/
def toBytes : Nat → Nat → List Byte
  | 0, _ => []
  | n + 1, x => BitVec.ofNat 8 x :: toBytes n (x / 256)

/-- Bits [hi:lo] of a number. -/
def bits (x hi lo : Nat) : Nat := x / 2 ^ lo % 2 ^ (hi + 1 - lo)

/-- Bit i of a number. -/
def bit (x i : Nat) : Bool := x / 2 ^ i % 2 = 1

/-- A Bool as a number. -/
def b2n (b : Bool) : Nat := if b then 1 else 0

/-- The signed value of the low `n` bits. -/
def sgn (n x : Nat) : Int := let y := x % 2 ^ n; if y < 2 ^ (n - 1) then (y : Int) else (y : Int) - 2 ^ n

/-- The low `n` bits of an integer (R46, wrap). -/
def wrapI (n : Nat) (x : Int) : Nat := (x % (2 ^ n : Int)).toNat

/-- x clamped to [lo, hi]. -/
def clampI (lo hi x : Int) : Int := if x < lo then lo else if hi < x then hi else x

/-- R46, satSigned, as the low n bits. -/
def satS (n : Nat) (x : Int) : Nat := wrapI n (clampI (-(2 ^ (n - 1))) (2 ^ (n - 1) - 1) x)

/-- R46, satUnsigned. -/
def satU (n : Nat) (x : Int) : Nat := (clampI 0 (2 ^ n - 1) x).toNat

/-- Reads a physical little-endian value of `n` bytes. -/
def State.peek (s : State) (pa n : Nat) : Nat := leVal (Mem.readN s.mem pa n)

/-- Writes physical bytes for a party whose writes every party reads at once (the host, a line core, a unit of the device): no lane
reads an earlier value of their words. -/
def State.poke (s : State) (pa : Nat) (bs : List Byte) : State :=
  { s with mem := Mem.write s.mem pa bs
           late := s.late.filter (fun x => x.space.isSome || x.ver || decide (x.word + 4 ≤ pa ∨ pa + bs.length ≤ x.word)) }

/-! ### The state's tables -/

/-- A queue. -/
def State.queue (s : State) (q : Nat) : Queue := get Queue.zero s.queues q
/-- Sets a queue. -/
def State.setQueue (s : State) (q : Nat) (x : Queue) : State := { s with queues := setD Queue.zero s.queues q x }
/-- An event ring. -/
def State.ring (s : State) (n : Nat) : Ring := get Ring.zero s.rings n
/-- Sets an event ring. -/
def State.setRing (s : State) (n : Nat) (x : Ring) : State := { s with rings := setD Ring.zero s.rings n x }
/-- A die's memory-unit block. -/
def State.unit (s : State) (d : Nat) : MemUnit := get MemUnit.zero s.units d
/-- Sets a memory-unit block. -/
def State.setUnit (s : State) (d : Nat) (x : MemUnit) : State := { s with units := setD MemUnit.zero s.units d x }
/-- A vault. -/
def State.vault (s : State) (v : Nat) : Vault := get Vault.zero s.vaults v
/-- Sets a vault. -/
def State.setVault (s : State) (v : Nat) (x : Vault) : State := { s with vaults := setD Vault.zero s.vaults v x }
/-- A reach. -/
def State.reach (s : State) (r : Nat) : Reach := get Reach.zero s.reaches r
/-- Sets a reach. -/
def State.setReach (s : State) (r : Nat) (x : Reach) : State := { s with reaches := setD Reach.zero s.reaches r x }
/-- A core. -/
def State.core (s : State) (c : Nat) : CoreState := get CoreState.zero s.cores c
/-- Sets a core. -/
def State.setCore (s : State) (c : Nat) (x : CoreState) : State := { s with cores := setD CoreState.zero s.cores c x }
/-- A line core. -/
def State.lc (s : State) (n : Nat) : LineCore := get LineCore.zero s.lcs n
/-- Sets a line core. -/
def State.setLc (s : State) (n : Nat) (x : LineCore) : State := { s with lcs := setD LineCore.zero s.lcs n x }
/-- Changes a team that exists. -/
def State.updTeam (s : State) (k : Nat) (f : Team → Team) : State := { s with teams := upd s.teams k f }
/-- A team's member. -/
def Team.member (t : Team) (id : Nat) : Option Member := t.members.find? (fun m => m.id == id)
/-- Changes a member. -/
def Team.updMember (t : Team) (id : Nat) (f : Member → Member) : Team :=
  { t with members := t.members.map (fun m => if m.id = id then f m else m) }
/-- Changes a member of a team. -/
def State.updMember (s : State) (k id : Nat) (f : Member → Member) : State := s.updTeam k (fun t => t.updMember id f)

/-- Takes a free value's number and advances the counter (log entry 3). -/
def State.freed (s : State) (n : Nat) : State := { s with free := s.free + n }

/-- The die of a core number (R10). -/
def dieOf (core : Nat) : Nat := core / 512
/-- The package reach number of a core number (R11). -/
def reachOf (core : Nat) : Nat :=
  let y := core % 512 / 16
  let x := core % 16
  core / 512 * 32 + y / 4 * 4 + x / 4
/-- The offset of a core within its reach. -/
def offsetIn (core : Nat) : Nat := core % 512 / 16 % 4 * 4 + core % 16 % 4
/-- The core at an offset within a reach. -/
def coreAt (reach off : Nat) : Nat :=
  reach / 32 * 512 + (reach % 32 / 4 * 4 + off / 4) * 16 + reach % 4 * 4 + off % 4

/-- A die is present and in service (R23, R435). -/
def State.dieUp (s : State) (d : Nat) : Bool :=
  d ≤ 3 && bit ((s.device.caps.head?.getD 0).toNat) (20 + d) && !s.host.dieoff.getLsbD d
/-- A die is present (R22). -/
def State.diePresent (s : State) (d : Nat) : Bool := d ≤ 3 && bit ((s.device.caps.head?.getD 0).toNat) (20 + d)
/-- The E-die is present (R25). -/
def State.edie (s : State) : Bool := bit ((s.device.caps.head?.getD 0).toNat) 19

/-- A field of CAP3: the E-die units that the configuration record leaves (R24, R25). -/
def State.cap3 (s : State) (hi lo : Nat) : Nat := bits ((s.device.caps[3]?.getD 0).toNat) hi lo
/-- LCORES. -/
def State.lcores (s : State) : Nat := s.cap3 31 26
/-- STREAMS. -/
def State.maxStreams (s : State) : Nat := s.cap3 25 19
/-- ENC. -/
def State.encoders (s : State) : Nat := s.cap3 18 14
/-- DPCNT. -/
def State.dpOutputs (s : State) : Nat := s.cap3 13 11
/-- POOLMIB, in bytes. -/
def State.poolSize (s : State) : Nat := s.cap3 10 4 * 2 ^ 20

end Sys2Proof.Machine
end

