-- ==== Sys2Proof/Machine/Num.lean ====
section
/-! DEFINITION. Numbers (R29 to R46): formats, exact values, the one rounding function, the fixed summation order,
the rounding generator and the codebook. Flags are bits IV 4, DZ 3, OF 2, UF 1, IX 0 of R41. -/

namespace Sys2Proof.Machine

/-- A floating-point format (R32, R33). -/
structure Fmt32 where
  /-- Bits of a pattern. -/
  width : Nat
  /-- Mantissa bits. -/
  mant : Nat
  /-- Exponent bias. -/
  bias : Nat
  /-- The magnitude pattern of the largest finite value. -/
  maxPat : Nat
  /-- The magnitude pattern of infinity. -/
  infPat : Option Nat
  /-- The canonical NaN. -/
  nanPat : Option Nat
  /-- A narrow format. -/
  narrow : Bool
  deriving DecidableEq, Repr

/-- FP32. -/
def f32 : Fmt32 := { width := 32, mant := 23, bias := 127, maxPat := 0x7F7FFFFF, infPat := some 0x7F800000, nanPat := some 0x7FC00000, narrow := false }
/-- FP16. -/
def f16 : Fmt32 := { width := 16, mant := 10, bias := 15, maxPat := 0x7BFF, infPat := some 0x7C00, nanPat := some 0x7E00, narrow := false }
/-- BF16. -/
def bf16 : Fmt32 := { width := 16, mant := 7, bias := 127, maxPat := 0x7F7F, infPat := some 0x7F80, nanPat := some 0x7FC0, narrow := false }
/-- E4M3. -/
def e4m3 : Fmt32 := { width := 8, mant := 3, bias := 7, maxPat := 0x7E, infPat := none, nanPat := some 0x7F, narrow := true }
/-- E5M2. -/
def e5m2 : Fmt32 := { width := 8, mant := 2, bias := 15, maxPat := 0x7B, infPat := some 0x7C, nanPat := some 0x7E, narrow := true }
/-- E3M2. -/
def e3m2 : Fmt32 := { width := 6, mant := 2, bias := 3, maxPat := 0x1F, infPat := none, nanPat := none, narrow := true }
/-- E2M3. -/
def e2m3 : Fmt32 := { width := 6, mant := 3, bias := 1, maxPat := 0x1F, infPat := none, nanPat := none, narrow := true }
/-- E2M1. -/
def e2m1 : Fmt32 := { width := 4, mant := 1, bias := 1, maxPat := 0x7, infPat := none, nanPat := none, narrow := true }

/-- An extended real: a signed fraction, whose zero keeps its sign, an infinity or a NaN (R46, real). -/
inductive Ex where
  | nan
  | inf (neg : Bool)
  | num (neg : Bool) (n d : Nat)
  deriving DecidableEq, Repr

/-- The zero of a sign. -/
def Ex.zero (neg : Bool) : Ex := .num neg 0 1

/-- An integer as an exact value. -/
def Ex.ofInt (x : Int) : Ex := .num (x < 0) x.natAbs 1

/-- The value is a NaN. -/
def Ex.isNan : Ex → Bool
  | .nan => true
  | _ => false

/-- The value is a zero. -/
def Ex.isZero : Ex → Bool
  | .num _ n _ => n = 0
  | _ => false

/-- The value is an infinity. -/
def Ex.isInf : Ex → Bool
  | .inf _ => true
  | _ => false

/-- The sign. -/
def Ex.neg : Ex → Bool
  | .nan => false
  | .inf s => s
  | .num s _ _ => s

/-- The value with its sign changed. -/
def Ex.opp : Ex → Ex
  | .nan => .nan
  | .inf s => .inf (!s)
  | .num s n d => .num (!s) n d

/-- The magnitude. -/
def Ex.abs : Ex → Ex
  | .nan => .nan
  | .inf _ => .inf false
  | .num _ n d => .num false n d

/-- The exact product; none for 0 × ∞ (R35). -/
def Ex.mul? (a b : Ex) : Option Ex :=
  match a, b with
  | .inf s, .inf t => some (.inf (s != t))
  | .inf s, .num t n _ => if n = 0 then none else some (.inf (s != t))
  | .num s n _, .inf t => if n = 0 then none else some (.inf (s != t))
  | .num s n d, .num t m e => some (.num (s != t) (n * m) (d * e))
  | _, _ => some .nan

/-- The exact product, NaN for 0 × ∞. -/
def Ex.mul (a b : Ex) : Ex := (Ex.mul? a b).getD .nan

/-- A fraction from a signed numerator, a zero taking the sign `z`. -/
def Ex.ofFrac (x : Int) (d : Nat) (z : Bool) : Ex := if x = 0 then .num z 0 1 else .num (x < 0) x.natAbs d

/-- The signed numerator. -/
def signedNum (s : Bool) (n : Nat) : Int := if s then -(n : Int) else (n : Int)

/-- The exact sum under a rounding mode, which decides the sign of an exact zero (R35); none for ∞ − ∞. -/
def Ex.add? (rm : Nat) (a b : Ex) : Option Ex :=
  match a, b with
  | .inf s, .inf t => if s = t then some (.inf s) else none
  | .inf s, .num .. => some (.inf s)
  | .num .., .inf t => some (.inf t)
  | .num s n d, .num t m e =>
    if n = 0 ∧ m = 0 ∧ s ∧ t then some (.num true 0 1)
    else if d = e then some (Ex.ofFrac (signedNum s n + signedNum t m) d (rm = 3))
    else some (Ex.ofFrac (signedNum s n * e + signedNum t m * d) (d * e) (rm = 3))
  | _, _ => some .nan

/-- The exact sum, NaN for ∞ − ∞. -/
def Ex.add (rm : Nat) (a b : Ex) : Ex := (Ex.add? rm a b).getD .nan

/-- The exact order of two values that are no NaN: −1, 0 or 1, with +0 equal to −0. -/
def Ex.cmp (a b : Ex) : Int :=
  match a, b with
  | .inf s, .inf t => if s = t then 0 else if s then -1 else 1
  | .inf s, _ => if s then -1 else 1
  | _, .inf t => if t then 1 else -1
  | .num s n d, .num t m e =>
    let x := signedNum s n * e - signedNum t m * d
    if x < 0 then -1 else if x = 0 then 0 else 1
  | _, _ => 0

/-- `decode` of R46. -/
def decode (f : Fmt32) (b : Nat) : Ex :=
  let p := b % 2 ^ f.width
  let s := decide (2 ^ (f.width - 1) ≤ p)
  let mag := p % 2 ^ (f.width - 1)
  if mag > f.maxPat then
    if f.infPat = some mag then .inf s else .nan
  else if mag < 2 ^ f.mant then .num s mag (2 ^ (f.bias - 1 + f.mant))
  else .num s ((2 ^ f.mant + mag % 2 ^ f.mant) * 2 ^ (mag / 2 ^ f.mant - 1)) (2 ^ (f.bias - 1 + f.mant))

/-- The pattern is subnormal and not zero. -/
def isSubnormal (f : Fmt32) (b : Nat) : Bool := let mag := b % 2 ^ (f.width - 1); 0 < mag && mag < 2 ^ f.mant

/-- `decodeFtz` of R46. -/
def decodeFtz (f : Fmt32) (b : Nat) : Ex :=
  match decode f b with
  | .num s n d => if isSubnormal f b then .num s 0 1 else .num s n d
  | x => x

/-- decode, or decodeFtz under .ftz. -/
def decodeZ (ftz : Bool) (f : Fmt32) (b : Nat) : Ex := if ftz then decodeFtz f b else decode f b

/-- The sign bit of a format. -/
def signBit (f : Fmt32) (neg : Bool) : Nat := if neg then 2 ^ (f.width - 1) else 0

/-- Flags: IV. -/
def flIV : BitVec 5 := 16
/-- Flags: DZ. -/
def flDZ : BitVec 5 := 8
/-- Flags: OF and IX. -/
def flOF : BitVec 5 := 5
/-- Flags: UF and IX. -/
def flUF : BitVec 5 := 3
/-- Flags: IX. -/
def flIX : BitVec 5 := 1

/-- A rounded pattern with the flags it raises. -/
abbrev Rounded := Nat × BitVec 5

/-- `overflowOf` of R46. -/
def overflowOf (f : Fmt32) (neg : Bool) (rm : Nat) (satInf : Bool) : Rounded :=
  let fin := signBit f neg + f.maxPat
  let inf := signBit f neg + f.infPat.getD f.maxPat
  if f.narrow then (if satInf then inf else fin, flOF)
  else if rm = 0 ∨ rm = 4 then (inf, flOF)
  else if rm = 1 then (fin, flOF)
  else if (rm = 2 ∧ !neg) ∨ (rm = 3 ∧ neg) then (inf, flOF) else (fin, flOF)

/-- A positive real by its scaled floors: `sc k` is the floor of x × 2^k, and whether x × 2^k is that integer;
`lg` is the floor of log2 x. -/
structure Real2 where
  /-- The scaled floors. -/
  sc : Int → Nat × Bool
  /-- floor(log2 x). -/
  lg : Int

/-- The floor of n × 2^k ÷ d, and whether it is exact. -/
def scaledFloor (n d : Nat) (k : Int) : Nat × Bool :=
  match k with
  | .ofNat j => (n * 2 ^ j / d, n * 2 ^ j % d = 0)
  | .negSucc j => (n / (d * 2 ^ (j + 1)), n % (d * 2 ^ (j + 1)) = 0)

/-- floor(log2 (n ÷ d)) of a positive fraction. -/
def lgFrac (n d : Nat) : Int :=
  let g : Int := (Nat.log2 n : Int) - (Nat.log2 d : Int)
  let ge : Bool := match g with
    | .ofNat j => decide (d * 2 ^ j ≤ n)
    | .negSucc j => decide (d ≤ n * 2 ^ (j + 1))
  if ge then g else g - 1

/-- A positive fraction as a real. -/
def realFrac (n d : Nat) : Real2 := { sc := scaledFloor n d, lg := lgFrac n d }

/-- Whether a magnitude rounds up (R37): q the floor in units of the last place, h the next bit, `exH` and `ex`
whether the value is exact to the half and to the unit, `fr` the next 32 bits with their exactness. -/
def roundsUp (rm : Nat) (neg : Bool) (q h : Nat) (exH ex : Bool) (fr : Nat × Bool) (r : Nat) : Bool :=
  if rm = 0 then h = 1 && (!exH || q % 2 = 1)
  else if rm = 1 then false
  else if rm = 2 then !ex && !neg
  else if rm = 3 then !ex && neg
  else r < fr.1 || (r = fr.1 && !fr.2)

/-- `encode` of R46 for a non-zero finite magnitude. -/
def encodeReal (f : Fmt32) (neg : Bool) (x : Real2) (rm : Nat) (ftz satInf : Bool) (r : Nat) : Rounded :=
  let least : Int := 1 - (f.bias : Int)
  let e := if x.lg < least then least else x.lg
  let k : Int := (f.mant : Int) - e
  let (q, ex) := x.sc k
  let (q2, exH) := x.sc (k + 1)
  let (q32, ex32) := x.sc (k + 32)
  let up := roundsUp rm neg q (q2 % 2) exH ex (q32 % 2 ^ 32, ex32) r
  let v := if up then q + 1 else q
  let pat := (e - least).toNat * 2 ^ f.mant + v
  if pat > f.maxPat then overflowOf f neg rm satInf
  else
    let ix : BitVec 5 := if ex then 0 else flIX
    if pat < 2 ^ f.mant ∧ ftz ∧ pat ≠ 0 then (signBit f neg, flUF)
    else if pat < 2 ^ f.mant ∧ !ex then (signBit f neg + pat, if ftz then flUF else ix ||| flUF)
    else (signBit f neg + pat, ix)

/-- `encode` of R46; `r` is the generator value that .rsr has drawn. -/
def encode (f : Fmt32) (x : Ex) (rm : Nat) (ftz satInf : Bool) (r : Nat) : Rounded :=
  match x with
  | .nan => match f.nanPat with
    | some p => (p, 0)
    | none => (0, flIV)
  | .inf s => if f.narrow then overflowOf f s rm satInf else (signBit f s + f.infPat.getD 0, 0)
  | .num s n d => if n = 0 then (signBit f s, 0) else encodeReal f s (realFrac n d) rm ftz satInf r

/-- encode without flags, of a word that raises none. -/
def encodeQuiet (f : Fmt32) (x : Ex) (rm : Nat) (ftz : Bool) : Nat := (encode f x rm ftz false 0).1

/-- The floor of an exact finite value. -/
def floorEx (s : Bool) (n d : Nat) : Int := if s then -(((n + d - 1) / d : Nat) : Int) else ((n / d : Nat) : Int)

/-- The integer that an exact value rounds to, with its flag, before clamping (R31). -/
def roundInt (s : Bool) (n d rm r : Nat) : Int × Bool :=
  let q := n / d
  let rem := n % d
  let up := roundsUp rm s q (if 2 * rem ≥ d then 1 else 0) (2 * rem = d ∨ rem = 0) (rem = 0)
    (rem * 2 ^ 32 / d, rem * 2 ^ 32 % d = 0) r
  (signedNum s (if up then q + 1 else q), rem = 0)

/-- R31: a float converted to an integer type of n bits, clamped. -/
def floatToInt (x : Ex) (rm : Nat) (signed : Bool) (n : Nat) (r : Nat) : Rounded :=
  let lo : Int := if signed then -(2 ^ (n - 1)) else 0
  let hi : Int := if signed then 2 ^ (n - 1) - 1 else 2 ^ n - 1
  match x with
  | .nan => (0, flIV)
  | .inf s => (wrapI n (if s then lo else hi), flIV)
  | .num s k d =>
    let (v, ex) := roundInt s k d rm r
    if v < lo then (wrapI n lo, flIV) else if hi < v then (wrapI n hi, flIV) else (wrapI n v, if ex then 0 else flIX)

/-- `blockScale` of R46. -/
def blockScale (e : Nat) : Ex :=
  if e = 255 then .nan else if e ≥ 127 then .num false (2 ^ (e - 127)) 1 else .num false 1 (2 ^ (127 - e))

/-- The order of R96 for .f32 .min and .max: the lesser (or greater) pattern. -/
def minMaxF (f : Fmt32) (ftz isMax : Bool) (a b : Nat) : Nat :=
  let x := decodeZ ftz f a
  let y := decodeZ ftz f b
  let pa := encodeQuiet f x 0 false
  let pb := encodeQuiet f y 0 false
  match x, y with
  | .nan, .nan => f.nanPat.getD 0
  | .nan, _ => pb
  | _, .nan => pa
  | _, _ =>
    let c := Ex.cmp x y
    let less := if c = 0 then x.neg && !y.neg else c < 0
    if less then (if isMax then pb else pa) else if c = 0 ∧ x.neg = y.neg then pa else (if isMax then pa else pb)

/-- `dotBlock` of R43: the block's FP32 result and whether it raises IV. -/
def dotBlock (ps : List (Option Ex)) : Ex × BitVec 5 :=
  let bad := ps.any (fun p => match p with
    | none => true
    | some x => x.isNan)
  let pos := ps.any (fun p => p = some (.inf false))
  let neg := ps.any (fun p => p = some (.inf true))
  if bad ∨ (pos ∧ neg) then (.nan, flIV)
  else if pos then (.inf false, 0)
  else if neg then (.inf true, 0)
  else
    let xs := ps.filterMap id
    let full := xs.length ≥ 32
    let sum := xs.foldl (fun acc x => Ex.add 0 acc x) (.num true 0 1)
    if sum.isZero then (.zero (full && xs.all (fun x => x.isZero && x.neg)), 0)
    else (decode f32 (encodeQuiet f32 sum 0 false), 0)

/-! ### Trees (R45) -/

/-- One level of the pairwise tree: adjacent pairs, a single child unchanged. -/
def treeLevel {α : Type} (f : α → α → α) : List (Option α) → List (Option α)
  | a :: b :: r =>
    (match a, b with
      | some x, some y => some (f x y)
      | some x, none => some x
      | none, y => y) :: treeLevel f r
  | l => l

/-- `n` levels of the tree. -/
def treeUp {α : Type} (f : α → α → α) : Nat → List (Option α) → List (Option α)
  | 0, l => l
  | n + 1, l => treeUp f n (treeLevel f l)

/-- The root over any number of leaves: enough levels for `2 ^ n` of them. -/
def treeRoot {α : Type} (f : α → α → α) (n : Nat) (l : List (Option α)) : Option α := (treeUp f n l).head?.join

/-- The aligned power-of-two spans that cover the first `k` leaves, as (level, node index), left to right. -/
def spansOf (k : Nat) : List (Nat × Nat) :=
  ((List.range 6).reverse.filter (fun j => bit k j)).map (fun j => (j, k / 2 ^ (j + 1) * 2))

/-- `scanTree` of R45: the combination of the nodes that cover leaves 0 to i. -/
def scanTree {α : Type} (f : α → α → α) (l : List (Option α)) (i : Nat) : Option α :=
  ((spansOf (i + 1)).map (fun e => (treeUp f e.1 l)[e.2]?.join)).foldl (fun acc x =>
    match acc, x with
    | some a, some b => some (f a b)
    | some a, none => some a
    | none, b => b) none

/-! ### The rounding generator (R39, R46) -/

/-- `rngSeed`. -/
def rngSeed (task : DWord) (tid : Word) : Word :=
  let lo : Word := task.extractLsb' 0 32
  let hi : Word := task.extractLsb' 32 32
  let h := lo ^^^ hi.rotateLeft 16 ^^^ (tid * 0x9E3779B9#32)
  let h := (h ^^^ (h >>> 16)) * 0x85EBCA6B#32
  let h := (h ^^^ (h >>> 13)) * 0xC2B2AE35#32
  let h := h ^^^ (h >>> 16)
  if h = 0 then 0x6D2B79F5#32 else h

/-- `rngNext`: the value, which is also the new state. -/
def rngNext (x : Word) : Word :=
  let x := x ^^^ (x <<< 13)
  let x := x ^^^ (x >>> 17)
  x ^^^ (x <<< 5)

/-! ### The codebook (R40) -/

/-- `cbDecode`. -/
def cbDecode (cb : Nat → Nat) (i : Nat) : Ex := decode bf16 (cb (i % 16))

/-- The distance of two finite exact values, as a fraction. -/
def distEx (a b : Ex) : Ex := (Ex.add 0 a b.opp).abs

/-- `cbEncode`. -/
def cbEncode (cb : Nat → Nat) (x : Ex) : Nat :=
  let es := (List.range 16).map (fun i => (i, cbDecode cb i))
  let nums := es.filter (fun e => !e.2.isNan)
  let pick (better : Ex → Ex → Bool) : Nat :=
    (nums.foldl (fun acc e => match acc with
      | none => some e
      | some b => if better e.2 b.2 then some e else some b) (none : Option (Nat × Ex))).elim 15 (fun e => e.1)
  match x with
  | .nan => 15
  | .inf true => pick (fun a b => Ex.cmp a b < 0)
  | .inf false => pick (fun a b => Ex.cmp b a < 0)
  | v => pick (fun a b => Ex.cmp (distEx v a) (distEx v b) < 0)

/-! ### Elements and type codes (R29, R63, R130) -/

/-- The float format of a type code of R63. -/
def fmtOfTy (ty : Nat) : Fmt32 :=
  if ty = 0x11 then bf16 else if ty = 0x12 then f16 else if ty = 0x13 then e4m3 else if ty = 0x14 then e5m2
  else if ty = 0x15 then e3m2 else if ty = 0x16 then e2m3 else if ty = 0x17 then e2m1 else f32

/-- Bits of an integer type code of R63. -/
def intBits (ty : Nat) : Nat := if ty % 4 = 0 then 8 else if ty % 4 = 1 then 16 else if ty % 4 = 2 then 32 else 64

/-- An integer type code is signed. -/
def intSigned (ty : Nat) : Bool := ty < 4

/-- The value of the low bits of a register under an integer type code (R114). -/
def intVal (ty x : Nat) : Int := if intSigned ty then sgn (intBits ty) x else ((x % 2 ^ intBits ty : Nat) : Int)

/-- An n-bit result as it stands in a register or pair: sign-extended to 32 bits for the .i types (R29). -/
def widen (ty y : Nat) : Nat :=
  if intSigned ty ∧ intBits ty < 32 then wrapI 32 (sgn (intBits ty) y) else y

/-- The elements of a narrow type per register (R130). -/
def narrowCount (ty : Nat) : Nat := if ty ≥ 0x17 then 8 else 4

/-- Element i of a register in the layout of R29 for a narrow type code. -/
def narrowElem (ty x i : Nat) : Nat :=
  if ty ≥ 0x17 then bits x (4 * i + 3) (4 * i) else bits x (8 * i + (fmtOfTy ty).width - 1) (8 * i)

end Sys2Proof.Machine
end

