-- ==== Sys2Proof/Machine/Operands.lean ====
section
/-! DEFINITION. Operands of a Calud word: how a word sees its member's registers (R106, R108, R111), its active lanes
(R53), and every operand form of R59 and R60. -/

namespace Sys2Proof.Machine

/-- A word in the issuing member, with what it sees. -/
structure Ctx where
  /-- The state before the word. -/
  s : State
  /-- The team's key. -/
  tk : Nat
  /-- The team. -/
  t : Team
  /-- The member. -/
  m : Member
  /-- The word. -/
  w : CWord
  /-- Its opcode. -/
  op : Nat
  /-- The pending results that each lane sees as written (R111): lane, place, value. -/
  seen : List (Nat × Place × Nat)
  /-- The active lanes, ascending %lane; without those that an earlier issue of the word has completed. -/
  act : List Nat
  deriving DecidableEq, Repr

/-- A lane of a member. -/
def Member.lane (m : Member) (l : Nat) : Option Lane := look m.lanes l

/-- A value as its place holds it: 32 bits, one bit of a predicate, 16 bits of a codebook entry, 256 bits of a record. -/
def Place.cut (p : Place) (x : Nat) : Nat :=
  match p with
  | .v .. | .s .. => x % 2 ^ 32
  | .p .. => x % 2
  | .cb .. => x % 2 ^ 16
  | .d .. => x % 2 ^ 256

/-- The value in the register file. -/
def Member.file (m : Member) (p : Place) : Nat :=
  match p with
  | .v l r => match m.lane l with
    | some x => (get 0 x.v r).toNat
    | none => 0
  | .s r => (get 0 m.s r).toNat
  | .p l r => match m.lane l with
    | some x => b2n (x.p.getLsbD r)
    | none => 0
  | .cb i => (get 0 m.cb i).toNat
  | .d r => (get 0 m.d r).toNat

/-- Writes the register file. -/
def Member.put (m : Member) (p : Place) (x : Nat) : Member :=
  match p with
  | .v l r => { m with lanes := upd m.lanes l (fun y => { y with v := setD 0 y.v r (BitVec.ofNat 32 x) }) }
  | .s r => { m with s := setD 0 m.s r (BitVec.ofNat 32 x) }
  | .p l r => { m with lanes := upd m.lanes l (fun y =>
      { y with p := if x % 2 = 1 then y.p ||| (1#48 <<< r) else y.p &&& ~~~(1#48 <<< r) }) }
  | .cb i => { m with cb := setD 0 m.cb i (BitVec.ofNat 16 x) }
  | .d r => { m with d := setD 0 m.d r (BitVec.ofNat 256 x) }

/-- The value that a place has under the open windows: the oldest window's old value, or the file's (R106). A
handler word sees only the windows that handler words opened (R108). -/
def Member.windowed (m : Member) (p : Place) : Nat :=
  match (m.windows.filter (fun w => !m.trap.inh || w.handler)).findSome? (fun w => (w.old.find? (fun e => e.1 == p)).map (·.2)) with
  | some x => x
  | none => m.file p

/-- The value that a lane reads from a place: the latest pending result that it sees as written, or else what the windows and the
file give (R106, R111). -/
def Member.readIn (m : Member) (seen : List (Nat × Place × Nat)) (l : Nat) (p : Place) : Nat :=
  match seen.reverse.find? (fun e => e.1 == l && e.2.1 == p) with
  | some e => e.2.2
  | none => m.windowed p

/-- The value that a word reads from a place in a lane (R106, R111). -/
def Ctx.rdIn (c : Ctx) (l : Nat) (p : Place) : Nat := c.m.readIn c.seen l p

/-- The value that a word reads once for all its lanes (a descriptor, a codebook entry, a scalar of its entry): the choice of R111 is that
of its lowest active lane (the model's choice, log entry 100). -/
def Ctx.rd (c : Ctx) (p : Place) : Nat := c.rdIn (c.act.headD 0) p

/-- The places that pending words write, oldest first, leaving out those of words whose tag is waited on. -/
def Member.pendWrites (m : Member) : List (Place × Nat) := m.pend.flatMap (·.writes)

/-- The pending results that a word can see: those whose loads have been performed (R99, R111). -/
def Member.readable (m : Member) : List (Place × Nat) :=
  m.pend.flatMap (fun q => q.writes.filter (fun e => !q.loads.any (fun x => x.place == e.1)))

/-- The pending results that each lane sees, by a free choice for each (R111, log entry 3). -/
def chooseSeen (free : Nat) (ws : List (Place × Nat)) : List (Nat × Place × Nat) :=
  ws.zipIdx.flatMap (fun e => ((List.range 32).filter (fun l => Config.freeBit (free + 32 * e.2 + l))).map (fun l => (l, e.1)))

/-- Vector register `r` of lane `l`. -/
def Ctx.v (c : Ctx) (l r : Nat) : Nat := c.rdIn l (.v l r)
/-- Scalar register `r`. -/
def Ctx.sc (c : Ctx) (r : Nat) : Nat := c.rd (.s r)
/-- Predicate `r` of lane `l`. -/
def Ctx.p (c : Ctx) (l r : Nat) : Bool := c.rdIn l (.p l r) = 1
/-- Codebook entry `i`. -/
def Ctx.cb (c : Ctx) (i : Nat) : Nat := c.rd (.cb i)
/-- Descriptor register `r`. -/
def Ctx.d (c : Ctx) (r : Nat) : Rec := BitVec.ofNat 256 (c.rd (.d r))
/-- Operand of class x: the scalar register under its selector, else the lane's vector register (R60). -/
def Ctx.x (c : Ctx) (sel : Bool) (l r : Nat) : Nat := if sel then c.rdIn l (.s r) else c.v l r
/-- A class-x operand of 32 or 64 bits (R29). -/
def Ctx.xw (c : Ctx) (wide sel : Bool) (l r : Nat) : Nat :=
  if wide then c.x sel l r + 2 ^ 32 * c.x sel l (r + 1) else c.x sel l r
/-- A scalar register pair. -/
def Ctx.scPair (c : Ctx) (r : Nat) : Nat := c.sc r + 2 ^ 32 * c.sc (r + 1)

/-- Operand A of class x in lane `l`. -/
def Ctx.a (c : Ctx) (wide : Bool) (l : Nat) : Nat := c.xw wide (selA c.w) l (fA c.w)
/-- Operand B of class x in lane `l`; the immediate in format I (R56). -/
def Ctx.b (c : Ctx) (wide : Bool) (l : Nat) : Nat :=
  if fmtOf c.w = .i then (fImm c.w).toNat else c.xw wide (selB c.w) l (fB c.w)
/-- Operand C of class x in lane `l`. -/
def Ctx.c' (c : Ctx) (wide : Bool) (l : Nat) : Nat := c.xw wide (selC c.w) l (fC c.w)

/-- The present lanes by %lane. -/
def Member.present (m : Member) : List Nat := m.lanes.map (·.1)

/-- The lowest present lane. -/
def Member.low (m : Member) : Nat := (m.present.head?).getD 0

/-- The never-guard (R53). -/
def neverGuard (w : CWord) : Bool := w.common.g = 63 && w.common.gn

/-- The guard's value in a lane, as the word sees it (R53). -/
def guardHolds (m : Member) (seen : List (Nat × Place × Nat)) (w : CWord) (l : Nat) : Bool :=
  if w.common.g = 63 then !w.common.gn else (m.readIn seen l (.p l w.common.g.toNat) = 1) != w.common.gn

/-- The writes of a 32-bit or 64-bit value into x destination D of a lane (R29), or into the scalar under SD. -/
def dstX (c : Ctx) (wide : Bool) (l x : Nat) : List (Place × Nat) :=
  let d := fD c.w
  let at' (r : Nat) : Place := if selD c.w then .s r else .v l r
  if wide then [(at' d, x % 2 ^ 32), (at' (d + 1), x / 2 ^ 32 % 2 ^ 32)] else [(at' d, x % 2 ^ 32)]

/-- The lanes that a word computes for: once, for the lowest active lane, when it is uniform (R54). -/
def Ctx.lanes (c : Ctx) (uniform : Bool) : List Nat := if uniform then c.act.take 1 else c.act

/-- The registers that an operand field names, as places. -/
def placesOf (act : List Nat) (cls : Cls) (sel : Bool) (f span : Nat) : List Place :=
  let regs := (List.range span).map (fun i => f + i)
  match cls with
  | .v => act.flatMap (fun l => regs.map (fun r => Place.v l r))
  | .s => regs.map Place.s
  | .x | .y => if sel then regs.map Place.s else act.flatMap (fun l => regs.map (fun r => Place.v l r))
  | .p => act.flatMap (fun l => regs.map (fun r => Place.p l r))
  | .d => [Place.d f]
  | _ => []

/-- Every register that a word names (for R112 and R59); operand B of format I is an immediate (R56). -/
def Ctx.places (c : Ctx) (r : CRow) : List Place :=
  let sp := r.span c.w
  placesOf c.act r.sig.1 (selD c.w) (fD c.w) sp.1 ++ placesOf c.act r.sig.2.1 (selA c.w) (fA c.w) sp.2.1 ++
  (if fmtOf c.w = .i then [] else placesOf c.act r.sig.2.2.1 (selB c.w) (fB c.w) sp.2.2.1) ++ placesOf c.act r.sig.2.2.2 (selC c.w) (fC c.w) sp.2.2.2

/-- An operand field beyond the team's or role's allotment (R59, check 3 of R65). -/
def beyond (t : Team) (m : Member) (cls : Cls) (sel : Bool) (f span : Nat) : Bool :=
  let regs := ((t.spec.roles[m.role]?).map (·.regs)).getD 0
  match cls with
  | .v => f + span > regs
  | .s => f + span > t.spec.sregs
  | .x | .y => if sel then f + span > t.spec.sregs else f + span > regs
  | .p => f + span > t.spec.preds
  | .a => f ≥ t.spec.acc
  | _ => false

/-- Check 3 of R65. -/
def allotmentFails (t : Team) (m : Member) (r : CRow) (w : CWord) : Bool :=
  let sp := r.span w
  beyond t m r.sig.1 (selD w) (fD w) sp.1 || beyond t m r.sig.2.1 (selA w) (fA w) sp.2.1 ||
  beyond t m r.sig.2.2.1 (selB w) (fB w) sp.2.2.1 || beyond t m r.sig.2.2.2 (selC w) (fC w) sp.2.2.2 ||
  (w.common.g.toNat ≤ 47 && w.common.g.toNat ≥ t.spec.preds)

end Sys2Proof.Machine
end

