-- ==== Sys2Proof/Machine/Flags.lean ====
section
/-! DEFINITION. The floating-point flags (R41, R42), the rounding draws of a word (R39), and the sequence-counting
comparisons of event rings and timelines (R432). -/

namespace Sys2Proof.Machine

/-- What a word has gathered lane by lane: its writes, its flags by lane, and the generator states by lane. -/
structure Acc where
  /-- Register writes. -/
  writes : List (Place × Nat)
  /-- Flags raised, by lane. -/
  flags : List (Nat × BitVec 5)
  /-- Generator states, by lane. -/
  rng : List (Nat × Word)
  deriving DecidableEq, Repr

/-- Nothing yet. -/
def Acc.nil : Acc := { writes := [], flags := [], rng := [] }

/-- The generator of a lane before the word. -/
def Ctx.rng (c : Ctx) (l : Nat) : Word := ((c.m.lane l).map (·.rng)).getD 0

/-- The generator values that a lane draws for `n` elements under a rounding mode, and its state afterwards (R39). -/
def draws (rm : Nat) (x : Word) : Nat → List Nat × Word
  | 0 => ([], x)
  | n + 1 =>
    if rm = 4 then
      let y := rngNext x
      let r := draws rm y n
      (y.toNat :: r.1, r.2)
    else
      let r := draws rm x n
      (0 :: r.1, r.2)

/-- The lanes in which a word raises a flag: the lane itself, or every active lane of a uniform word (R41). -/
def flagLanes (c : Ctx) (uniform : Bool) (l : Nat) : List Nat := if uniform then c.act else [l]

/-- Collects a word of class x or v lane by lane. `f` gets the lane and its draws, and answers the writes and the
flags. `n` is how many elements the word rounds in each lane. -/
def perLane (c : Ctx) (uniform : Bool) (rm n : Nat) (f : Nat → List Nat → List (Place × Nat) × BitVec 5) : Acc :=
  (c.lanes uniform).foldl (fun acc l =>
    let dr := draws rm (c.rng l) n
    let res := f l dr.1
    { writes := acc.writes ++ res.1
      flags := acc.flags ++ (flagLanes c uniform l).map (fun k => (k, res.2))
      rng := if rm = 4 then acc.rng ++ [(l, dr.2)] else acc.rng }) Acc.nil

/-- ORs flags into the lanes of a member. -/
def Member.raise (m : Member) (fl : List (Nat × BitVec 5)) : Member :=
  { m with lanes := m.lanes.map (fun e =>
      (e.1, { e.2 with flags := (fl.filter (fun x => x.1 = e.1)).foldl (fun acc x => acc ||| x.2) e.2.flags })) }

/-- Stores generator states into the lanes of a member. -/
def Member.reseed (m : Member) (rs : List (Nat × Word)) : Member :=
  { m with lanes := m.lanes.map (fun e =>
      (e.1, (rs.filter (fun x => x.1 = e.1)).foldl (fun acc x => { acc with rng := x.2 }) e.2)) }

/-- A word raises a flag that the team has enabled (R42). -/
def trapsFp (t : Team) (fl : List (Nat × BitVec 5)) : Bool := fl.any (fun e => (e.2 &&& t.fpenable) != 0)

end Sys2Proof.Machine
end

