-- ==== Sys2Proof/Machine/Ops.lean ====
section
/-! DEFINITION. The shared operations of a Calud word: who issues it, when it waits, the checks of R65, what its
outcome does to the member (windows R105 to R108, tags R109, pending results R111, weirs R333, splits R77, partial
completion R183), taking a cause (R338, R339) and returning from a handler (R345). -/

namespace Sys2Proof.Machine

/-- What a word that passed its checks does beside the effects already in the state it answers. -/
structure Out where
  /-- Register writes. -/
  writes : List (Place × Nat)
  /-- Floating-point flags by lane. -/
  flags : List (Nat × BitVec 5)
  /-- Generator states by lane. -/
  rng : List (Nat × Word)
  /-- Next PCs other than PC + 1, by lane. -/
  next : List (Nat × Word)
  /-- The result is written later (R101). -/
  var : Bool
  /-- The queue of R103 it enters. -/
  queue : Option Nat
  /-- Its tag stays pending beyond the word (R242). -/
  keepTag : Bool
  /-- Its result is an acquire's: later memory words of the member issue once it is written (R217). -/
  acq : Bool
  /-- The loads of direct words in its result, which may be performed as late as the result is written (R99, R195). -/
  loads : List LateLoad := []
  deriving DecidableEq, Repr

/-- No effect. -/
def Out.none : Out := { writes := [], flags := [], rng := [], next := [], var := false, queue := .none, keepTag := false, acq := false }

/-- A fixed-latency result. -/
def Out.fixed (ws : List (Place × Nat)) : Out := { Out.none with writes := ws }
/-- A variable-latency result. -/
def Out.late (ws : List (Place × Nat)) : Out := { Out.none with writes := ws, var := true }
/-- What a lane-by-lane computation gathered, as a fixed-latency result. -/
def Out.ofAcc (a : Acc) : Out := { Out.none with writes := a.writes, flags := a.flags, rng := a.rng }

/-- Where the unfinished lanes of a memory word stand (R183, R231). -/
structure Stuck where
  /-- Lanes with translation faults. -/
  faults : BitVec 32
  /-- Lanes that wait on spring blocks. -/
  misses : List Missing
  /-- The KIND of the word's fault records (R185). -/
  kind : Nat
  /-- Fault records that did not fit (R187). -/
  unrecorded : Bool
  /-- Lanes that are tried again with the others (R302). -/
  along : BitVec 32 := 0
  deriving DecidableEq, Repr

/-- The outcome of a word's own entry. The state carries every effect but those that `Out` names. -/
inductive Res where
  /-- A precise cause with its argument. -/
  | cause (s : State) (c arg : Nat)
  /-- The word waits at issue. -/
  | wait (s : State)
  /-- The word completes. -/
  | done (s : State) (o : Out)
  /-- Some lanes complete, and the others wait where the word issued, or park. -/
  | part (s : State) (o : Out) (fin : BitVec 32) (stuck : Option Stuck)
  /-- Some lanes complete, and the word takes a cause (R167). -/
  | partCause (s : State) (o : Out) (fin : BitVec 32) (c arg : Nat)

/-- The team and member whose word issues. -/
def issuer (s : State) : Option (Nat × Team × Member) :=
  match s.cur with
  | none => none
  | some (tk, mid) => match look s.teams tk with
    | none => none
    | some t => (t.member mid).map (fun m => (tk, t, m))

/-- A set of lanes as a mask. -/
def maskOf (ls : List Nat) : BitVec 32 := ls.foldl (fun acc l => acc ||| (1#32 <<< l)) 0
/-- The lanes of a mask. -/
def lanesOf (x : BitVec 32) : List Nat := (List.range 32).filter (fun l => x.getLsbD l)

/-! ### Windows, pending results and tags -/

/-- Ends the old values that the open windows hold for a place: the next read sees the file (R106). -/
def Member.unshadow (m : Member) (p : Place) : Member :=
  { m with windows := m.windows.map (fun w => { w with old := w.old.filter (fun e => e.1 != p) }) }

/-- Writes places at once. -/
def Member.writeNow (m : Member) (ws : List (Place × Nat)) : Member :=
  ws.foldl (fun m e => (m.unshadow e.1).put e.1 e.2) m

/-- Writes places under a window of `n` words (R105, R108). -/
def Member.writeUnder (m : Member) (n : Nat) (ws : List (Place × Nat)) : Member :=
  let old := ws.map (fun e => (e.1, m.file e.1))
  let m := ws.foldl (fun m e => m.put e.1 e.2) m
  { m with windows := m.windows ++ [{ left := n, handler := m.trap.inh, word := m.words, dest := ws.map (·.1), old := old }] }

/-- The windows that stay open, less the shadows that a later closing window ends. -/
def keepWindows (p : Window → Bool) : List Window → List Window
  | [] => []
  | w :: r =>
    let later := r.filter p
    let w' := { w with old := w.old.filter (fun e => !later.any (fun x => x.old.any (fun y => y.1 == e.1))) }
    if p w then keepWindows p r else w' :: keepWindows p r

/-- Closes windows: a place of a closed window loses its older shadows, since the closed window's word is the
latest that now counts (R106). -/
def Member.closeWindows (m : Member) (p : Window → Bool) : Member :=
  { m with windows := keepWindows p m.windows }

/-- A handler's write closes the windows of the interrupted words on its destination (R108). -/
def Member.handlerWrites (m : Member) (ws : List (Place × Nat)) : Member :=
  if m.trap.inh then m.closeWindows (fun w => !w.handler && w.dest.any (fun p => ws.any (fun x => x.1 == p))) else m

/-- One more word of the member's stream has gone by (R105, R108). -/
def Member.countWord (m : Member) : Member :=
  let tick (w : Window) : Window := if w.handler = m.trap.inh then { w with left := w.left - 1 } else w
  let less (p : Pending) : Pending := { p with words := p.words.map (· - 1) }
  { m with windows := m.windows.map tick, pend := m.pend.map less }.closeWindows (fun w => w.left = 0)

/-- The tag bits that pending results hold. -/
def pendTags (ps : List Pending) : BitVec 6 :=
  ps.foldl (fun acc p => match p.tag with
    | some t => acc ||| (1#6 <<< t)
    | none => acc) 0

/-- The result of a pending word stands at a place: always where no other result of R111 has been written over it, and else by a
free choice (R111, log entry 3). -/
def Pending.stands (q : Pending) (p : Place) : Bool :=
  !q.overs.contains p || Config.freeBit (q.free + q.writes.findIdx (fun x => x.1 == p))

/-- One write of a pending result lands. A later word whose open window holds the place keeps its own result in the file, unless the
landing stands; inside that window the place reads as the landing left it, for the pending word comes before the window's (R106,
R111). -/
def Member.landOne (m : Member) (q : Pending) (e : Place × Nat) : Member :=
  match m.windows.find? (fun w => decide (q.word < w.word) && w.old.any (fun x => x.1 == e.1)) with
  | none => if q.stands e.1 then (m.unshadow e.1).put e.1 e.2 else m
  | some f =>
    let turn (w : Window) : Window :=
      if w.word ≤ q.word then { w with old := w.old.filter (fun x => x.1 != e.1) }
      else if w.word = f.word then { w with old := w.old.map (fun x => if x.1 == e.1 then (x.1, e.1.cut e.2) else x) }
      else w
    let m := { m with windows := m.windows.map turn }
    if q.stands e.1 then m.put e.1 e.2 else m

/-- The result of a pending word lands. -/
def Member.land (m : Member) (q : Pending) : Member := q.writes.foldl (fun m e => m.landOne q e) m

/-- Another result has been written over the places of a pending one (R111). -/
def Pending.mark (q : Pending) (ws : List (Place × Nat)) : Pending :=
  { q with overs := q.overs ++ (q.writes.map (·.1)).filter (fun p => ws.any (fun x => x.1 == p)) }

/-- Writes every pending result in issue order and releases the tags (R77, R80, R183, R339). -/
def Member.drain (m : Member) : Member :=
  { m.pend.foldl Member.land m with pend := [], tags := m.tags &&& ~~~ pendTags m.pend }

/-- Writes the result of the `i`-th pending word (R109). What is still pending lands over it (R111). -/
def Member.writeBack (m : Member) (i : Nat) : Member :=
  match m.pend[i]? with
  | none => m
  | some q => { m.land q with pend := (m.pend.eraseIdx i).map (·.mark q.writes), tags := m.tags &&& ~~~ pendTags [q] }

/-- Writes over pending results: each lane of the place holds either result once both stand (R111). Inside the window of a word that
overwrote a pending result, a read sees the value before that word: the value before both until the pending result lands, and the landed
one from then on (R106; the model's choice, log entry 94). -/
def Member.overPending (m : Member) (ws : List (Place × Nat)) : Member := { m with pend := m.pend.map (·.mark ws) }

/-- The issue port of a group slot. The spec gives neither the count of a core's ports nor a group's port: the count is a
constant of the implementation, and the slots go round the ports (log entry 6). -/
def portOf (slot : Nat) : Nat := slot % (Config.morePorts + 1)

/-- Writes those pending results of a member that a test picks, oldest first. -/
def Member.landWhere (f : Pending → Bool) : Nat → Member → Member
  | 0, m => m
  | n + 1, m => if m.pend.any f then Member.landWhere f n (m.writeBack (m.pend.findIdx f)) else m

/-- A queue has accepted a result before the last of these (R103). -/
def queuedBefore (last : List Pending) (q : Pending) : Bool :=
  q.queue.isSome && last.any (fun x => x.queue == q.queue && decide (q.since < x.since))

/-- A member whose results are about to be drained: a queue writes its results in the order in which it accepted them, so that those
which other groups of the port have in it before the member's own are written first (R103). -/
def State.settleQueues (s : State) (tk mid : Nat) : State :=
  match (look s.teams tk).bind (fun t => (t.member mid).map (fun m => (t, m))) with
  | none => s
  | some (t, m) =>
    if m.pend.all (fun q => q.queue.isNone) then s
    else
      let first (k : Nat) (x : Member) : Member :=
        if (k = tk && x.id = mid) || portOf x.slot ≠ portOf m.slot then x
        else Member.landWhere (queuedBefore m.pend) x.pend.length x
      { s with teams := s.teams.map (fun e =>
          if e.2.seat.core = t.seat.core then (e.1, { e.2 with members := e.2.members.map (first e.1) }) else e) }

/-! ### Taking a cause (R338 to R340) -/

/-- The reason code of an abandonment by a cause (R350). -/
def reasonOf (c : Nat) : Nat := if c = 0x2C then 2 else if c = 0x1A then 3 else 1

/-- A member in a state in which a cause abandons the task (R338). -/
def abandons (t : Team) (m : Member) (c : Nat) : Bool :=
  c = 0x1A || c = 0x2C || m.trap.inh || m.trap.mask || t.tvec = 0xFFFFFFFF

/-- The entry of a handler: the drain, the trap registers, INH and BUDGET, and the PC at %tvec (R339, R341, R342). -/
def Member.enter (m : Member) (tvec : Word) (c arg : Nat) (epc : Word) : Member :=
  let m := m.drain
  { m with
    pc := tvec
    park := none
    wait := .none
    queued := none
    due := none
    cont := none
    pcmask := 0
    weir := if c = 0x20 then m.weir.map (fun w => { w with window := [] }) else m.weir
    trap := { m.trap with
      tcause := BitVec.ofNat 32 (arg * 0x10000 + c),
      tepc := epc
      inh := true
      budget := 65536
      aside := if m.trap.mask then some m.trap.budget else none
      pcm := m.pcmask
      cont := m.cont } }

/-- A word of a member takes a precise cause (R338). `epc` is where TRET resumes. A spring generator fails with CAUSE
0x0A (R234). -/
def takeCauseAt (s : State) (tk mid c arg : Nat) (epc : Word) : State :=
  match look s.teams tk with
  | none => s
  | some t => match t.member mid with
    | none => s
    | some m =>
      if t.gen.isSome || abandons t m c then
        let d : Doom :=
          { reason := reasonOf c, cause := c, pc := m.pc, slot := m.slot, genCause := 0x0A,
            detail := BitVec.ofNat 64 (m.pc.toNat * 2 ^ 32 + c) }
        s.updTeam tk (fun t => { t with doom := some d })
      else (s.settleQueues tk mid).updMember tk mid (fun m => m.enter t.tvec c arg epc)

/-- A word takes a precise cause: TRET resumes at the word, but after a TRAP (R338, R341). -/
def takeCause (s : State) (tk mid c arg : Nat) : State :=
  match (look s.teams tk).bind (fun t => t.member mid) with
  | none => s
  | some m => takeCauseAt s tk mid c arg (if c = 0x28 then m.pc + 1 else m.pc)

/-- Return from a handler (R345): INH clears, MASK keeps the value that TMASK last set, BUDGET takes its value, and
the member resumes at %tepc with the partial-completion mask. -/
def Member.resume (m : Member) : Member :=
  let m := m.drain.closeWindows (·.handler)
  { m with
    pc := m.trap.tepc
    pcmask := m.trap.pcm
    cont := m.trap.cont
    trap := { m.trap with
      inh := false
      budget := if m.trap.mask then m.trap.aside.getD 65536 else 0
      aside := none
      pcm := 0
      cont := none
      ppend := m.trap.ppend && m.trap.mask } }

/-! ### When a word waits at issue (R83) -/

/-- The operation class of R329. `aty` is the ATY field of a matrix block. -/
def opClass (op aty : Nat) : Nat :=
  if op = 0x1E1 || op = 0x1E2 then (if aty ≤ 1 then 6 else 7)
  else if [0x042, 0x043, 0x044].contains op || (0x0C0 ≤ op && op ≤ 0x0CD) then 1
  else if (0x0CE ≤ op && op ≤ 0x0D1) || (0x140 ≤ op && op ≤ 0x147) || op = 0x015 || op = 0x016 then 2
  else if (0x170 ≤ op && op ≤ 0x179) || (0x1A0 ≤ op && op ≤ 0x1A4) || op = 0x1C3 then 3
  else if (0x160 ≤ op && op ≤ 0x163) || [0x1CA, 0x1CB, 0x1CD].contains op then 4
  else if [0x1D0, 0x1D1, 0x1D4, 0x1D5, 0x1E6, 0x1E3, 0x1CC].contains op then 5
  else 0

/-- Byte `c` of the class weights. -/
def weightIn (ws : List Nat) (c : Nat) : Nat := ws[c]?.getD 0

/-- The eight class weights of a reach (R326, MPWGT0 and MPWGT1). -/
def Reach.classWeights (r : Reach) : List Nat := (List.range 8).map (fun c => bits r.weights.toNat (8 * c + 7) (8 * c))

/-- The operation class of a word in its member, ATY read from the block (R329). -/
def Ctx.opClass (c : Ctx) : Nat := Machine.opClass c.op (bits (c.sc (fB c.w)) 19 16)

/-- The weight that a word draws from the millpond (R329, R330). -/
def Ctx.millWeight (c : Ctx) : Nat :=
  if neverGuard c.w then 0 else weightIn (c.s.reach (reachOf c.t.seat.core)).classWeights c.opClass

/-- The word re-executes for unfinished lanes (R109, R188). -/
def Member.again (m : Member) : Bool :=
  match m.cont with
  | some k => k.pc = m.pc
  | none => false

/-- The tag under which a re-executed word continues. -/
def Member.contTag (m : Member) : BitVec 6 :=
  match m.cont with
  | some k => if k.pc = m.pc then (match k.tag with
    | some t => 1#6 <<< t
    | none => 0) else 0
  | none => 0

/-- The words that hold an entry of a port's SFU or reduction queue (R103). -/
def queueWords (s : State) (core port q : Nat) : List Pending :=
  s.teams.flatMap (fun t => if t.2.seat.core = core then
    t.2.members.flatMap (fun m => m.pend.filter (fun p => p.queue == some q && portOf m.slot == port)) else [])

/-- The `i`-th pending result of a member may be written: it holds no entry of a queue, or its queue accepted no word before
it that still waits (R103). -/
def inTurn (s : State) (t : Team) (m : Member) (i : Nat) : Bool :=
  match m.pend[i]? with
  | none => false
  | some p => match p.queue with
    | none => true
    | some q => (m.pend.take i).all (fun x => x.queue != some q) &&
      (queueWords s t.seat.core (portOf m.slot) q).all (fun x => decide (p.since ≤ x.since))

/-- The SFU or reduction queue that a word enters (R103). -/
def queueOfOp (op : Nat) : Option Nat :=
  if 0x140 ≤ op ∧ op ≤ 0x147 then some 0 else if op = 0x015 ∨ op = 0x016 then some 1 else none

/-- A context that is being pre-empted, or is saved, stops its members at the word boundary, but for those in a
handler or under MASK (R352). -/
def stopped (s : State) (t : Team) (m : Member) : Bool :=
  t.saved || t.doom.isSome || (match look s.ctxs t.ctx with
    | some c => decide (c.st ≠ .live) && ((!m.trap.inh && !m.trap.mask) || m.park.isSome)
    | none => false)

/-- The member cannot issue any word now (R83, R105, R183); with a budget of 0 it takes cause 0x2C first (R342). -/
def held (s : State) (t : Team) (m : Member) : Bool :=
  stopped s t m || decide (m.wait ≠ .none ∧ m.wait ≠ .join ∧ m.wait ≠ .committed) || m.due.isSome ||
  (match m.park with
   | some p => p.retry = 0 || p.unrecorded
   | none => false) ||
  m.pend.any (fun p => p.words = some 0) || ((m.trap.inh || m.trap.mask) && m.trap.budget = 0) || m.weir.any (fun x => x.regrant.isSome)

/-- A core issues from one bank at a time, and from none during a switch (R184). -/
def offBank (s : State) (t : Team) : Bool :=
  (s.core t.seat.core).bank != t.seat.bank || decide (s.now < (s.core t.seat.core).switched)

/-- The core's bank holds back a member's word. The retry of a parked word only translates and performs what has issued: it waits for
no bank (R184, R188). -/
def bankHeld (s : State) (t : Team) (m : Member) : Bool := m.park.isNone && offBank s t

/-- The tags in the way of a word (R109, R110). -/
def tagBlocked (m : Member) (w : CWord) : Bool :=
  ((m.tags &&& ~~~ m.contTag) &&& w.common.tw) != 0 ||
  (decide (w.common.ta.toNat ≤ 5) && !m.again && m.tags.getLsbD w.common.ta.toNat)

/-- The commands that stand in the journals and matrix queues: those of teams that are not saved (R268, R288). -/
def liveCmds (s : State) : List Command :=
  s.cmds.filter (fun k => match look s.teams k.team with
    | some t => !t.saved
    | none => false)

/-- The job is a BEAM. -/
def Job.isBeam : Job → Bool
  | .beam .. => true
  | _ => false

/-- A word that takes an entry of the issue journal (R255, R303). -/
def journalOp (op : Nat) : Bool := [0x1D0, 0x1D1, 0x1D4, 0x1D5, 0x1CC].contains op
/-- A word that takes an entry of the matrix queue (R272). -/
def matrixOp (op : Nat) (w : CWord) : Bool := [0x1E1, 0x1E2, 0x1E3, 0x1E5, 0x1E6].contains op || (op = 0x1E0 && mBit w 12)
/-- A word that produces a token (R245). -/
def producesToken (op : Nat) : Bool := journalOp op || [0x1E1, 0x1E2, 0x1E3, 0x1E6].contains op

/-- An engine word waits at issue: its produced token is PENDING (R246), its journal or queue is full (R255, R272), its
beam unit holds 32 commands (R305), or the matrix engine is in reset (R289). -/
def Ctx.engineBusy (c : Ctx) : Bool :=
  let live := liveCmds c.s
  let here := live.filter (fun k => k.core = c.t.seat.core)
  (producesToken c.op && get Token.empty c.t.tokens (fD c.w) == .pending) ||
  (journalOp c.op && decide (64 ≤ (here.filter (fun k => !k.matrix)).length)) ||
  (matrixOp c.op c.w && decide (16 ≤ (here.filter (fun k => k.matrix)).length)) ||
  (c.op = 0x1CC && decide (32 ≤ (live.filter (fun k => k.job.isBeam && reachOf k.core = reachOf c.t.seat.core)).length)) ||
  (decide (0x1E0 ≤ c.op ∧ c.op ≤ 0x1E6) && (c.s.core c.t.seat.core).mreset)

/-- A word that accesses memory or the local store, or orders such accesses (R153, R170 to R174, R214 to R218, R299). -/
def memoryOp (op : Nat) : Bool :=
  (0x160 ≤ op && op ≤ 0x163) || (0x170 ≤ op && op ≤ 0x177) || (0x1A0 ≤ op && op ≤ 0x1A8) || op = 0x1C3 ||
  [0x1CA, 0x1CB, 0x1CD].contains op

/-- A store, an atomic, or a word with a role of R196: later ones of a lane wait for a release of it that is not performed yet (R218). -/
def orderedOp (op : Nat) (w : CWord) : Bool :=
  [0x171, 0x173, 0x174, 0x1A0, 0x1A1, 0x1A2, 0x1A4, 0x1A5, 0x1A6, 0x1A7, 0x1A8, 0x1C0, 0x1CB].contains op ||
  (op = 0x1A3 && (mBits w 7 6 = 1 || mBits w 7 6 = 3))

/-- The word comes after a release of one of its lanes that is not performed yet (R217, R218). -/
def Ctx.behindRelease (c : Ctx) : Bool :=
  orderedOp c.op c.w && c.t.rels.any (fun r => c.m.lanes.any (fun e => r.lanes.contains e.2.tid))

/-- A word waits at issue for a queue of its port, for the millpond, for an engine, for the value of an acquire before it, or for a
release before it (R103, R217, R218, R330). -/
def Ctx.unitBusy (c : Ctx) : Bool :=
  !neverGuard c.w &&
  ((memoryOp c.op && c.m.pend.any (·.acq)) || c.behindRelease ||
   (match queueOfOp c.op with
    | some q => decide ((if q = 0 then 8 else 4) ≤ (queueWords c.s c.t.seat.core (portOf c.m.slot) q).length)
    | none => false) ||
   (!c.m.again && decide ((c.s.reach (reachOf c.t.seat.core)).level < c.millWeight)) || c.engineBusy)

/-! ### The checks of R65 and the pending-read check -/

/-- Registers per element of an element access (R170). -/
def eszRegs (d : Rec) : Nat := max 1 (2 ^ bits d.toNat 243 241 / 4)

/-- The spans of a word, the element accesses reading theirs from the record. A field whose last register would
exceed 255 is left to the entry's own check (R170). The offset of an access through the flat record counts as its register B alone, so
that an odd B at the end of the allotment passes check 3 and takes 0x04 at the entry (R163; the model's choice, log entry 93). -/
def Ctx.row (c : Ctx) (r : CRow) : CRow :=
  let n (f : Nat) : Nat := if f + eszRegs (c.d (fA c.w)) ≤ 256 then eszRegs (c.d (fA c.w)) else 1
  if r.op = 0x172 then { r with span := fun w => (n (fD w), 1, 1, 1) }
  else if r.op = 0x173 then { r with span := fun w => (1, 1, 1, n (fC w)) }
  else r

/-- The places whose results are pending. -/
def Member.pendPlaces (m : Member) : List Place := m.pendWrites.map (·.1)

/-- The word takes the register from its reuse latch and does not read it (R113). -/
def Ctx.latched (c : Ctx) (p : Place) : Bool :=
  match c.m.latch, p with
  | some x, .v l r => (c.op = 0x1E1 || c.op = 0x1E2) && x.reg = fA c.w && x.rows.any (fun e => x.reg + e.1 = r && e.2.1 = l)
  | _, _ => false

/-- A word that would read or write a register with a pending result (R111, R112), lane by lane: a pending write of one lane does not
stop a word that acts in others alone. A word with no active lane reads no register but its guard (the model's choice, log entry 95). -/
def Ctx.touchesPending (c : Ctx) (r : CRow) : Bool :=
  let named := (if c.act = [] then [] else (c.places (c.row r)).filter (fun p => !c.latched p)) ++
    (if c.w.common.g.toNat ≤ 47 then c.m.present.map (fun l => Place.p l c.w.common.g.toNat) else [])
  named.any (fun p => c.m.pendPlaces.contains p)

/-- The physical core of a virtual core of a context (R356, R357): none when its virtual reach is not mapped. -/
def physCore (s : State) (ctx v : Nat) : Option Nat :=
  match look s.ctxs ctx with
  | none => some v
  | some x => (get (some (reachOf v)) x.map (reachOf v)).map (fun r => coreAt r (offsetIn v))

/-- The physical core of a virtual core of a context, where it is one of a reach of the context's partition on a die in service. -/
def standCore (s : State) (ctx v : Nat) : Option Nat :=
  (physCore s ctx v).bind (fun core =>
    if s.dieUp (dieOf core) && (match (look s.ctxs ctx).bind (fun c => look s.parts c.part) with
      | some p => p.reaches.getLsbD (reachOf core)
      | none => false) then some core else none)

/-- A context is saved in its image (R352). -/
def ctxSaved (s : State) (ctx : Nat) : Bool := (look s.ctxs ctx).any (fun c => c.st = .saved)

/-- The core whose tile store a kept holding takes; none while it is in its context's image, or its virtual reach is not mapped
(R290, R293). -/
def keptCore (s : State) (k : Kept) : Option Nat :=
  if ctxSaved s k.ctx || standCore s k.ctx k.vcore ≠ some k.core then none else some k.core

/-- The die of a virtual core is absent, or the configuration record disables the core (R23, R259). -/
def absentCore (s : State) (ctx v : Nat) : Bool :=
  match physCore s ctx v with
  | some p => !s.diePresent (dieOf p) || s.device.disabled.contains p
  | none => false

/-- The issuing team is a generator whose block is FILLING (R240, R241). -/
def Team.filling (t : Team) : Bool := t.gen.any (fun g => !g.filled)

/-- Check 2 of R65: an XSEND to a core that is disabled or of an absent die (R23, R259), a TRET outside a handler (R345), a SYSWR to a register
that is RO (R349), and an SFILL or SFAIL of a team that fills no block (R240, R241). No other word names a unit that a
variant may lack or needs a privilege. -/
def Ctx.unitFails (c : Ctx) : Bool :=
  if c.op = 0x1D1 then absentCore c.s c.t.ctx (bits (c.sc (fB c.w)) 10 0)
  else if c.op = 0x1F1 then !c.m.trap.inh
  else if c.op = 0x1F5 then !srWritable (fA c.w)
  else if c.op = 0x1C0 || c.op = 0x1C1 then !c.t.filling
  else false

/-- Check 3 and the pending-read check (R65, R112). -/
def Ctx.earlyCause (c : Ctx) (r : CRow) : Option Nat :=
  if allotmentFails c.t c.m (c.row r) c.w then some 0x03
  else if c.t.prc && c.touchesPending r then some 0x30
  else none

/-! ### Committing a word -/

/-- The charge of a weir's window (R333). -/
def Weir.charge (x : Weir) : Nat := sumNat x.window

/-- The word would raise the charge above the latched limit (R333): cause 0x20. -/
def Ctx.overCharge (c : Ctx) : Bool :=
  match c.m.weir with
  | none => false
  | some x =>
    let g := if neverGuard c.w then 0 else weightIn x.weights c.opClass
    decide (g ≠ 0) && !c.m.trap.inh && !(c.m.cont.any (fun k => k.charged && k.pc = c.m.pc)) &&
      decide (x.limit < g + sumNat (x.window.take 31))

/-- The weir's window after the word (R333). -/
def Ctx.chargedWeir (c : Ctx) (m : Member) : Option Weir :=
  if m.trap.inh || (c.m.cont.any (fun k => k.charged && k.pc = c.m.pc)) then m.weir
  else m.weir.map (fun x => { x with
    window := ((if neverGuard c.w then 0 else weightIn x.weights c.opClass) :: x.window).take 32 })

/-- A word draws its weight from the millpond (R330). -/
def Ctx.draw (c : Ctx) (s : State) : State :=
  if c.m.again || c.millWeight = 0 then s
  else
    let n := reachOf c.t.seat.core
    let r := s.reach n
    s.setReach n { r with level := r.level - c.millWeight }

/-- The member's issue time, and the restart of its ready time by Y = 1 (R84). -/
def Member.stamp (m : Member) (now : Nat) (y : Bool) : Member :=
  { m with issued := now, words := m.words + 1, aged := false, ready := if y then now else m.ready }

/-- The tag field as a tag. -/
def taOf (w : CWord) : Option Nat := if w.common.ta.toNat ≤ 5 then some w.common.ta.toNat else none

/-- The tag under which a word's result stands: that of a word that acts again, and else its own. -/
def Member.wordTag (m : Member) (w : CWord) : Option Nat :=
  match m.cont with
  | some k => if k.pc = m.pc then k.tag else taOf w
  | none => taOf w

/-- A bit of the tag set. -/
def tagBit (t : Option Nat) : BitVec 6 :=
  match t with
  | some t => 1#6 <<< t
  | none => 0

/-- Puts the result of a completed word into the member: at once, under its window, or among the pending results
with its tag (R104 to R111). Which of its loads are performed with the write-back alone is a free choice (R99, log entry 52). A
variable-latency word with PD = 0 is read as one whose next word waits for its result: R105
gives it no window, and the model takes a window of no words (log entry 53). -/
def Member.result (m : Member) (w : CWord) (free now : Nat) (o : Out) : Member :=
  let tag := m.wordTag w
  let m := (m.handlerWrites o.writes).countWord
  if o.writes = [] then
    { m with tags := if o.keepTag then m.tags ||| tagBit tag else m.tags &&& ~~~ tagBit tag }
  else if o.var then
    { m with
      tags := m.tags ||| tagBit tag
      pend := m.pend ++ [{ writes := o.writes, loads := (o.loads.zipIdx.filter (fun e => Config.freeBit (free + o.writes.length + e.2))).map (·.1),
                           tag := tag, queue := o.queue, since := now, acq := o.acq, word := m.words, overs := [], free := free,
                           words := if w.common.pd = 7 then none else some w.common.pd.toNat }] }
  else
    let m := m.overPending o.writes
    let m := { m with tags := m.tags &&& ~~~ tagBit tag }
    if w.common.pd = 0 then m.writeNow o.writes else m.writeUnder w.common.pd.toNat o.writes

/-- The next PC of each present lane (R76). -/
def nextPcs (m : Member) (next : List (Nat × Word)) : List (Nat × Word) :=
  m.present.map (fun l => (l, ((next.find? (fun e => e.1 = l)).map (·.2)).getD (m.pc + 1)))

/-- The distinct next PCs in the order of their lowest lane. -/
def distinctPcs (l : List (Nat × Word)) : List Word :=
  l.foldl (fun acc e => if acc.contains e.2 then acc else acc ++ [e.2]) []

/-- The split group of a member for one next PC (R77): tags free, latch released, own copies of the rest. It has a name of its
own, so that nothing which still names the member releases a tag of it. -/
def Member.splitTo (m : Member) (np : List (Nat × Word)) (pc : Word) (id : Nat) : Member :=
  { m with
    id := id
    pc := pc
    lanes := m.lanes.filter (fun e => np.any (fun x => x.1 = e.1 && x.2 = pc))
    tags := 0
    latch := none }

/-- Moves the member on to its lanes' next PCs, splitting it when they differ (R76, R77). A member left with no
present lane ends (R89). -/
def advance (s : State) (tk mid : Nat) (next : List (Nat × Word)) : State :=
  let splits := ((look s.teams tk).bind (fun t => t.member mid)).any (fun m => decide (1 < (distinctPcs (nextPcs m next)).length))
  (if splits then s.settleQueues tk mid else s).updTeam tk (fun t => match t.member mid with
    | none => t
    | some m =>
      let np := nextPcs m next
      match distinctPcs np with
      | [] => { t with members := t.members.filter (fun x => x.id != mid) }
      | [pc] => t.updMember mid (fun m => { m with pc := pc })
      | pcs =>
        let m := (m.drain).closeWindows (fun _ => true)
        let split := pcs.zipIdx.map (fun e => m.splitTo np e.1 (t.fresh + e.2))
        { t with members := t.members.flatMap (fun x => if x.id = mid then split else [x])
                 fresh := t.fresh + pcs.length })

/-- The word completes: its flags and draws, its result, its charge, and its lanes' next PCs. -/
def complete (c : Ctx) (s : State) (o : Out) : State :=
  let s := s.updMember c.tk c.m.id (fun m =>
    let m := (m.raise o.flags).reseed o.rng
    let m := { m with weir := c.chargedWeir m }
    let m := m.result c.w s.free s.now o
    { (m.stamp s.now c.w.common.y) with pcmask := 0, cont := none, park := none, queued := none })
  advance (c.draw (s.freed (if o.var then o.writes.length + o.loads.length else 0))) c.tk c.m.id o.next

/-- A word completes some of its lanes and stays (R183): their results are written, every earlier result too, the
mask records them, and the tag stays pending. -/
def stay (c : Ctx) (s : State) (o : Out) (fin : BitVec 32) (park : Option Park) : State :=
  let s := (if park.isSome then s.settleQueues c.tk c.m.id else s).updMember c.tk c.m.id (fun m =>
    let m := { m with weir := c.chargedWeir m }
    let tag := m.wordTag c.w
    let m := ((if park.isSome then m.drain else m.overPending o.writes).handlerWrites o.writes).writeNow o.writes
    { (m.stamp s.now c.w.common.y) with
      pcmask := m.pcmask ||| fin
      tags := m.tags ||| tagBit tag
      cont := some { pc := m.pc, op := c.op, w := c.w, tag := tag, charged := true }
      park := park })
  c.draw s

/-- The park of a word after an attempt: what it waited for before, less the lanes just tried, and what they met. -/
def parkOf (c : Ctx) (s : State) (k : Stuck) : Park :=
  let old := c.m.park
  let keep := match old with
    | some p => { p with retry := 0, along := p.along &&& ~~~ p.retry }
    | none => { kind := k.kind, faults := 0, misses := [], retry := 0, failed := [], unrecorded := false, order := s.order, fetch := false }
  { keep with
    kind := k.kind
    faults := keep.faults ||| k.faults
    misses := keep.misses ++ k.misses
    unrecorded := k.unrecorded
    fetch := false
    along := keep.along ||| k.along }

/-- The lanes on blocks that failed. -/
def Park.failedLanes (p : Park) : BitVec 32 := p.failed.foldl (fun acc e => acc ||| e.lanes) 0
/-- The lanes that wait on blocks. -/
def Park.missingLanes (p : Park) : BitVec 32 := p.misses.foldl (fun acc e => acc ||| e.lanes) 0

/-- A screen write of a lane that is present in the issuing member is under way, whichever member of its family issued it (R100,
R299). -/
def Ctx.screensOut (c : Ctx) : Bool :=
  c.s.screens.any (fun x => x.sender = c.tk && c.m.lanes.any (fun e => e.2.tid = x.lane))

/-- Lanes of the word that neither have completed nor are tried now (R188). -/
def Ctx.others (c : Ctx) (fin : BitVec 32) : BitVec 32 :=
  match c.m.park with
  | some p => (p.faults ||| p.missingLanes ||| p.failedLanes ||| p.along) &&& ~~~ fin
  | none => 0

/-- Applies the outcome of a word's entry. -/
def settle (c : Ctx) (r : CRow) : Res → State
  | .cause s k arg => c.draw (takeCause s c.tk c.m.id k arg)
  | .wait s => s
  | .done s o =>
    if trapsFp c.t o.flags then
      takeCause (c.draw (c.s.updMember c.tk c.m.id (fun m => m.raise o.flags))) c.tk c.m.id 0x24 0
    else if c.overCharge then takeCause (c.draw c.s) c.tk c.m.id 0x20 0
    else if !r.uniform c.w && c.others (maskOf c.act) != 0 then
      stay c s o (maskOf c.act) (some (parkOf c s { faults := 0, misses := [], kind := (c.m.park.map (·.kind)).getD 0, unrecorded := false }))
    else complete c s o
  | .part s o fin stuck =>
    if c.overCharge then takeCause (c.draw c.s) c.tk c.m.id 0x20 0
    else match stuck with
      | none => stay c s o fin none
      | some k => { stay c s o fin (some (parkOf c s k)) with order := s.order + 1 }
  | .partCause s o fin k arg =>
    let s := (s.settleQueues c.tk c.m.id).updMember c.tk c.m.id (fun m =>
      let tag := m.wordTag c.w
      let m := (m.handlerWrites o.writes).drain.writeNow o.writes
      { m with
        pcmask := m.pcmask ||| fin
        tags := m.tags ||| tagBit tag
        cont := some { pc := m.pc, op := c.op, w := c.w, tag := tag, charged := m.cont.any (fun x => x.charged && x.pc = m.pc) }
        park := none })
    takeCause (c.draw s) c.tk c.m.id k arg

/-- The context of a word in its member: what it sees and its active lanes (R53, R111). A retried word acts on the
lanes that are to be retried, and a re-executed one on the lanes that have not completed (R109, R188). -/
def ctxOf (s : State) (tk : Nat) (t : Team) (m : Member) (op : Nat) (w : CWord) : Ctx :=
  let seen := chooseSeen s.free m.readable
  let act := (m.present.filter (fun l => guardHolds m seen w l)).filter (fun l => !(m.again && m.pcmask.getLsbD l))
  let act := match m.park with
    | some p => act.filter (fun l => p.retry.getLsbD l)
    | none => act
  { s := s.freed (32 * m.pendWrites.length), tk := tk, t := t, m := m, w := w, op := op, seen := seen, act := act }

/-- A word that can issue: the checks of R65 in their order, then its own entry. -/
def issue (c : Ctx) (r : CRow) (entry : Ctx → Res) : State :=
  if !r.legal c.w then settle c r (.cause c.s 0x01 0)
  else if c.unitFails then settle c r (.cause c.s 0x02 0)
  else if neverGuard c.w then settle c r (.done c.s Out.none)
  else match c.earlyCause r with
    | some k => settle c r (.cause c.s k 0)
    | none => if c.act = [] then settle c r (.done c.s Out.none) else settle c r (entry c)

/-- A Calud word of row `r`, whose entry in the spec is `entry`, in the member that issues. -/
def calud (r : CRow) (entry : Ctx → Res) (w : CWord) (s : State) : Host.Outcome State Fault Refusal :=
  match issuer s with
  | none => .fault .noIssuer
  | some (tk, t, m) =>
    let c := ctxOf s tk t m r.op w
    if held s t m || bankHeld s t m || tagBlocked m w || c.unitBusy then .next s else .next (issue c r entry)

/-- The row of an opcode. -/
def rowAt (op : Nat) : CRow :=
  (rowsCalud.find? (fun r => r.op == op)).getD (plainRow op [] false (.none, .none, .none, .none) .nop)

end Sys2Proof.Machine
end

