-- ==== Sys2Proof/Machine/Int.lean ====
section
/-! DEFINITION. Integer and bit instructions (R114 to R123). -/

namespace Sys2Proof.Machine

/-- A fixed-latency x destination written lane by lane (R29, R101). -/
def laneWise (c : Ctx) (wide : Bool) (f : Nat → Nat) : Res :=
  .done c.s (Out.fixed ((c.lanes (selD c.w)).flatMap (fun l => dstX c wide l (f l))))

/-- A predicate destination written lane by lane. -/
def predWise (c : Ctx) (f : Nat → Bool) : Res :=
  .done c.s (Out.fixed (c.act.map (fun l => (Place.p l (fD c.w), b2n (f l)))))

/-- The result of an exact value under a type: wrapped, or clamped under .sat, and written under R29 (R30). -/
def intResult (ty : Nat) (sat : Bool) (x : Int) : Nat :=
  widen ty (if sat then (if intSigned ty then satS (intBits ty) x else satU (intBits ty) x) else wrapI (intBits ty) x)

/-- The arithmetic family of R115 by its exact value. -/
def arith (f : Int → Int → Int → Int) (c : Ctx) : Res :=
  let ty := tyOr 2 c.w
  let wide := is64 ty
  laneWise c wide (fun l =>
    intResult ty (satOf c.w) (f (intVal ty (c.a wide l)) (intVal ty (c.b wide l)) (intVal ty (c.c' wide l))))

/-- The width of an integer or raw type code. -/
def tyBits (ty : Nat) : Nat := if is64 ty then 64 else 32

/-- The shift count of R116: reduced under .wrap. -/
def shiftCount (c : Ctx) (n l : Nat) : Nat := if mBit c.w 10 then c.b false l % n else c.b false l

/-- SHL (R116). -/
def entryShl (c : Ctx) : Res :=
  let ty := tyOr 2 c.w
  let n := tyBits ty
  laneWise c (is64 ty) (fun l =>
    let k := shiftCount c n l
    if n ≤ k then 0 else c.a (is64 ty) l * 2 ^ k % 2 ^ n)

/-- SHR: arithmetic for .i types, logical for the others (R116). -/
def entryShr (c : Ctx) : Res :=
  let ty := tyOr 2 c.w
  let n := tyBits ty
  laneWise c (is64 ty) (fun l =>
    let k := shiftCount c n l
    let a := c.a (is64 ty) l
    if intSigned ty then wrapI n (sgn n a / (2 ^ min k n : Int)) else if n ≤ k then 0 else a / 2 ^ k)

/-- FSH (R117). -/
def entryFsh (c : Ctx) : Res :=
  laneWise c false (fun l =>
    let k := if mBit c.w 10 then c.c' false l % 32 else min (c.c' false l) 32
    let t := c.a false l * 2 ^ 32 + c.b false l
    (if mBit c.w 11 then t * 2 ^ k / 2 ^ 32 else t / 2 ^ k) % 2 ^ 32)

/-- BFE (R118). -/
def entryBfe (c : Ctx) : Res :=
  laneWise c false (fun l =>
    let pos := min (c.b false l) 32
    let n := min (c.c' false l) (32 - pos)
    let x := c.a false l / 2 ^ pos % 2 ^ n
    if n = 0 then 0 else if intSigned (tyOr 2 c.w) then wrapI 32 (sgn n x) else x)

/-- BFI (R118). -/
def entryBfi (c : Ctx) : Res :=
  laneWise c false (fun l =>
    let pos := min (bits (c.c' false l) 7 0) 32
    let n := min (bits (c.c' false l) 15 8) (32 - pos)
    let b := c.b false l
    b % 2 ^ pos + c.a false l % 2 ^ n * 2 ^ pos + b / 2 ^ (pos + n) * 2 ^ (pos + n))

/-- The set bits of an n-bit value. -/
def ones (n x : Nat) : List Nat := (List.range n).filter (fun i => bit x i)

/-- POPC (R119). -/
def entryPopc (c : Ctx) : Res :=
  let wide := is64 (tyOr 2 c.w)
  laneWise c false (fun l => (ones 64 (c.a wide l)).length)

/-- CLZ (R119). -/
def entryClz (c : Ctx) : Res :=
  let wide := is64 (tyOr 2 c.w)
  let n := tyBits (tyOr 2 c.w)
  laneWise c false (fun l =>
    let a := c.a wide l
    if a = 0 then n else n - 1 - Nat.log2 a)

/-- BREV (R119). -/
def entryBrev (c : Ctx) : Res :=
  let wide := is64 (tyOr 2 c.w)
  let n := tyBits (tyOr 2 c.w)
  laneWise c wide (fun l => sumNat ((ones n (c.a wide l)).map (fun i => 2 ^ (n - 1 - i))))

/-- The bit that a split function gives: table `h` where `k` is 1, table `g` elsewhere, at index 2a + b (R91, R120). -/
def splitBit (h g : Nat) (k a b : Bool) : Bool := bit (if k then h else g) (2 * b2n a + b2n b)

/-- BFN (R120). -/
def entryBfn (c : Ctx) : Res :=
  laneWise c false (fun l =>
    let a := c.a false l
    let b := c.b false l
    let k := c.c' false l
    sumNat ((List.range 32).map (fun j =>
      if splitBit (mBits c.w 7 4) (mBits c.w 3 0) (bit k j) (bit a j) (bit b j) then 2 ^ j else 0)))

/-- The relation of a CMP code of R121, from the sign of a − b. -/
def cmpHolds (code : Nat) (d : Int) : Bool :=
  if code = 0 then d = 0 else if code = 1 then d ≠ 0 else if code = 2 then d < 0 else if code = 3 then d ≤ 0
  else if code = 4 then 0 < d else 0 ≤ d

/-- ICMP (R121). -/
def entryIcmp (c : Ctx) : Res :=
  let ty := mBits c.w 4 0
  predWise c (fun l => cmpHolds (mBits c.w 11 9) (intVal ty (c.a (is64 ty) l) - intVal ty (c.b (is64 ty) l)))

/-- SEL (R122). -/
def entrySel (c : Ctx) : Res :=
  let wide := mBits c.w 4 0 = 11
  laneWise c wide (fun l => if c.p l (fC c.w) then c.a wide l else c.b wide l)

/-- MOV (R122). -/
def entryMov (c : Ctx) : Res :=
  let wide := tyOr 2 c.w = 11
  laneWise c wide (fun l => c.a wide l)

/-- MOVI (R123). -/
def entryMovi (c : Ctx) : Res := laneWise c false (fun _ => (fImm c.w).toNat)

/-- SMOVI (R123). -/
def entrySmovi (c : Ctx) : Res := .done c.s (Out.fixed [(.s (fD c.w), (fImm c.w).toNat)])

/-- IADD (R115). -/
def execIadd (w : CWord) (s : State) : Host.Outcome State Fault Refusal :=
  calud (rowAt 0x040) (arith (fun a b _ => a + b)) w s

/-- ISUB (R115). -/
def execIsub (w : CWord) (s : State) : Host.Outcome State Fault Refusal :=
  calud (rowAt 0x041) (arith (fun a b _ => a - b)) w s

/-- IMUL (R115). -/
def execImul (w : CWord) (s : State) : Host.Outcome State Fault Refusal :=
  calud (rowAt 0x042) (arith (fun a b _ => a * b)) w s

/-- IMULH (R115). -/
def execImulh (w : CWord) (s : State) : Host.Outcome State Fault Refusal :=
  calud (rowAt 0x043) (arith (fun a b _ => a * b / 2 ^ 32)) w s

/-- IMAD (R115). -/
def execImad (w : CWord) (s : State) : Host.Outcome State Fault Refusal :=
  calud (rowAt 0x044) (arith (fun a b c => a * b + c)) w s

/-- IMIN (R115). -/
def execImin (w : CWord) (s : State) : Host.Outcome State Fault Refusal :=
  calud (rowAt 0x045) (arith (fun a b _ => min a b)) w s

/-- IMAX (R115). -/
def execImax (w : CWord) (s : State) : Host.Outcome State Fault Refusal :=
  calud (rowAt 0x046) (arith (fun a b _ => max a b)) w s

/-- IABS (R115). -/
def execIabs (w : CWord) (s : State) : Host.Outcome State Fault Refusal :=
  calud (rowAt 0x047) (arith (fun a _ _ => a.natAbs)) w s

/-- SHL (R116). -/
def execShl (w : CWord) (s : State) : Host.Outcome State Fault Refusal :=
  calud (rowAt 0x048) entryShl w s

/-- SHR (R116). -/
def execShr (w : CWord) (s : State) : Host.Outcome State Fault Refusal :=
  calud (rowAt 0x049) entryShr w s

/-- FSH (R117). -/
def execFsh (w : CWord) (s : State) : Host.Outcome State Fault Refusal :=
  calud (rowAt 0x04A) entryFsh w s

/-- BFE (R118). -/
def execBfe (w : CWord) (s : State) : Host.Outcome State Fault Refusal :=
  calud (rowAt 0x04B) entryBfe w s

/-- BFI (R118). -/
def execBfi (w : CWord) (s : State) : Host.Outcome State Fault Refusal :=
  calud (rowAt 0x04C) entryBfi w s

/-- POPC (R119). -/
def execPopc (w : CWord) (s : State) : Host.Outcome State Fault Refusal :=
  calud (rowAt 0x04D) entryPopc w s

/-- CLZ (R119). -/
def execClz (w : CWord) (s : State) : Host.Outcome State Fault Refusal :=
  calud (rowAt 0x04E) entryClz w s

/-- BREV (R119). -/
def execBrev (w : CWord) (s : State) : Host.Outcome State Fault Refusal :=
  calud (rowAt 0x04F) entryBrev w s

/-- BFN (R120). -/
def execBfn (w : CWord) (s : State) : Host.Outcome State Fault Refusal :=
  calud (rowAt 0x050) entryBfn w s

/-- ICMP (R121). -/
def execIcmp (w : CWord) (s : State) : Host.Outcome State Fault Refusal :=
  calud (rowAt 0x051) entryIcmp w s

/-- SEL (R122). -/
def execSel (w : CWord) (s : State) : Host.Outcome State Fault Refusal :=
  calud (rowAt 0x052) entrySel w s

/-- MOV (R122). -/
def execMov (w : CWord) (s : State) : Host.Outcome State Fault Refusal :=
  calud (rowAt 0x053) entryMov w s

/-- MOVI (R123). -/
def execMovi (w : CWord) (s : State) : Host.Outcome State Fault Refusal :=
  calud (rowAt 0x054) entryMovi w s

/-- SMOVI (R123). -/
def execSmovi (w : CWord) (s : State) : Host.Outcome State Fault Refusal :=
  calud (rowAt 0x055) entrySmovi w s

end Sys2Proof.Machine
end

