-- ==== Sys2Proof/Machine/Control.lean ====
section
/-! DEFINITION. Control flow, eddies and predicates (R76 to R92). -/

namespace Sys2Proof.Machine

/-- A branch: the target of each active lane (R86). -/
def branch (c : Ctx) (ws : List (Place × Nat)) (target : Nat → Word) : Res :=
  .done c.s { Out.fixed ws with next := c.act.map (fun l => (l, target l)) }

/-- NOP (R90). -/
def entryNop (c : Ctx) : Res := .done c.s Out.none
/-- BRA (R86). -/
def entryBra (c : Ctx) : Res := branch c [] (fun _ => c.m.pc + fOff c.w)
/-- BRX (R86). -/
def entryBrx (c : Ctx) : Res := branch c [] (fun l => c.m.pc + fOff c.w + BitVec.ofNat 32 (c.v l (fA c.w)))
/-- CALL (R86). -/
def entryCall (c : Ctx) : Res :=
  branch c (c.act.map (fun l => (Place.v l (fD c.w), (c.m.pc + 1).toNat))) (fun _ => c.m.pc + fOff c.w)
/-- RET (R86). -/
def entryRet (c : Ctx) : Res := branch c [] (fun l => BitVec.ofNat 32 (c.v l (fA c.w)))

/-- A member after the drain of a REFORM or a REFORM.join: results written, windows closed (R80, R108). -/
def Member.settled (m : Member) : Member := m.drain.closeWindows (fun _ => true)

/-- The members of the issuing member's family, the member itself left out (R77). -/
def Ctx.siblings (c : Ctx) : List Member := c.t.members.filter (fun x => x.slot = c.m.slot && x.id != c.m.id)

/-- The bins that teams other than `tk` use on a core: those of the teams that are resident (R79, R82). -/
def binsOn (s : State) (tk core : Nat) : List Nat :=
  s.teams.flatMap (fun t => if t.1 ≠ tk ∧ t.2.seat.core = core ∧ t.2.saved = false then t.2.bins.map (·.num) else [])

/-- Files one lane (R80): into the first bin of its key with room, else into the empty bin of lowest number; none
when there is no such bin. -/
def fileLane (now : Nat) (used : List Nat) (key : Bin) (x : Lane) (bins : List Bin) : Option (List Bin) :=
  let fits (b : Bin) : Bool := b.role = key.role && b.pc = key.pc && b.cb = key.cb && decide (b.lanes.length < 32)
  match bins.find? fits with
  | some b => some (bins.map (fun y => if y.num = b.num then { y with lanes := y.lanes ++ [x] } else y))
  | none =>
    match (List.range 16).find? (fun n => !(used ++ bins.map (·.num)).contains n) with
    | some n => some (bins ++ [{ key with num := n, lanes := [x], since := now }])
    | none => none

/-- Files the active lanes in ascending %lane: the bins after it and the lanes filed (R80). -/
def fileLanes (now : Nat) (used : List Nat) (key : Bin) : List (Nat × Lane) → List Bin → List Bin × List Nat
  | [], bins => (bins, [])
  | (l, x) :: r, bins =>
    match fileLane now used key x bins with
    | some bins' =>
      let y := fileLanes now used key r bins'
      (y.1, l :: y.2)
    | none => fileLanes now used key r bins

/-- REFORM (R80, R82; cause 0x21 by R331). A tag that no result holds is waited for. Under an open weir the cause comes before
the drain, in a handler too: R331 puts it before the word's effect and R82 names no exception (log entry 72). -/
def entryReform (c : Ctx) : Res :=
  if c.m.weir.isSome then .cause c.s 0x21 0
  else if c.m.settled.tags != 0 then .wait c.s
  else
    let m := c.m.settled
    let s := c.s.settleQueues c.tk c.m.id
    if c.m.trap.inh then .done (s.updMember c.tk c.m.id (fun _ => m)) Out.none
    else
      let key : Bin := { num := 0, role := m.role, pc := m.pc + 1, cb := m.cb, lanes := [], since := 0 }
      let y := fileLanes c.s.now (binsOn c.s c.tk c.t.seat.core) key (m.lanes.filter (fun e => c.act.contains e.1)) c.t.bins
      let m := { m with latch := none, lanes := m.lanes.filter (fun e => !y.2.contains e.1) }
      .done (s.updTeam c.tk (fun t => { t.updMember c.m.id (fun _ => m) with bins := y.1 })) Out.none

/-- The lanes of several members in ascending %lane. -/
def mergeLanes (ms : List Member) : List (Nat × Lane) :=
  (sortNats (ms.flatMap (·.present))).filterMap (fun l => (ms.findSome? (fun m => m.lane l)).map (fun x => (l, x)))

/-- The group that members waiting at one PC with one codebook become (R87): the state of the one that holds the
lowest %lane, with every lane. Their tags are free, since each has drained. R113 releases the reuse latch at 'a REFORM', and
the model reads REFORM.join as one (log entry 73). -/
def mergeMembers (ms : List Member) : Option Member :=
  (leastBy Member.low ms).map (fun m => { m with lanes := mergeLanes ms, wait := .none, tags := 0, latch := none })

/-- A member's REFORM.join committed while it waited: its weight of class 0 enters its weir window (R333). -/
def Member.chargeJoin (m : Member) : Member :=
  { m with weir := m.weir.map (fun x => { x with window := (weightIn x.weights 0 :: x.window).take 32 }) }

/-- Splits a list of members into the sets that stand at one PC with one codebook. -/
def joinSets : Nat → List Member → List (List Member)
  | _, [] => []
  | 0, _ => []
  | n + 1, m :: r =>
    let same (x : Member) : Bool := x.pc = m.pc && x.cb = m.cb
    (m :: r.filter same) :: joinSets n (r.filter (fun x => !same x))

/-- The members of a family after their REFORM.join: each set merged and moved on (R87). `keep` is the member that
`complete` moves on itself. -/
def joined (keep : Nat) (ms : List Member) : List Member :=
  (joinSets ms.length ms).filterMap (fun set =>
    (mergeMembers set).map (fun m =>
      if set.any (fun x => x.id = keep) then { m with id := keep }
      else { m.chargeJoin with pc := m.pc + 1, words := m.words + 1 }))

/-- The weight of class 0, drawn from the millpond of the team's reach for each of `n` words (R329, R330). -/
def Ctx.drawJoins (c : Ctx) (n : Nat) : State :=
  let k := reachOf c.t.seat.core
  let r := c.s.reach k
  c.s.setReach k { r with level := r.level - n * weightIn r.classWeights 0 }

/-- The millpond does not hold the weights of the word and of the joins that issue with it (R330). -/
def Ctx.joinsWait (c : Ctx) : Bool :=
  let r := c.s.reach (reachOf c.t.seat.core)
  decide (r.level < (if c.m.again then 0 else c.millWeight) + c.siblings.length * weightIn r.classWeights 0)

/-- REFORM.join (R87). In a handler it has no effect beyond its drain (R82). A tag that no result holds is waited for. The
joins of the members that waited issue with it: each draws its weight, and they wait until the level holds them all (R330). -/
def entryReformJoin (c : Ctx) : Res :=
  let m := c.m.settled
  if m.tags = 0 && !c.m.trap.inh && c.overCharge then .cause c.s 0x20 0 else
  let c := { c with s := c.s.settleQueues c.tk c.m.id }
  if m.tags != 0 then .wait c.s
  else if c.m.trap.inh then .done (c.s.updMember c.tk c.m.id (fun _ => { m with wait := .none })) Out.none
  else if c.siblings.all (fun x => x.wait = .join && !x.trap.inh) then
    if c.joinsWait then .wait c.s else
    let fam := (m :: c.siblings).map Member.settled
    .done ((c.drawJoins c.siblings.length).updTeam c.tk (fun t => { t with
      members := t.members.filter (fun x => x.slot != m.slot) ++ joined m.id fam })) Out.none
  else .wait (c.s.updMember c.tk c.m.id (fun _ => { m with wait := .join, tags := m.tags, latch := none }))

/-- YIELD (R88). The groups that were ready when it issued stand in its wait. -/
def entryYield (c : Ctx) : Res :=
  .done (c.s.updMember c.tk c.m.id (fun m => { m with
    ready := c.s.now, wait := if c.s.rivals = [] then .none else .yield c.s.rivals })) Out.none

/-- PLOG (R91). -/
def entryPlog (c : Ctx) : Res :=
  predWise c (fun l => splitBit (mBits c.w 7 4) (mBits c.w 3 0) (c.p l (fC c.w)) (c.p l (fA c.w)) (c.p l (fB c.w)))

/-- PRD (R92). -/
def entryPrd (c : Ctx) : Res :=
  .done c.s (Out.fixed (c.act.map (fun l => (Place.v l (fD c.w),
    sumNat ((List.range (mBits c.w 4 0 + 1)).map (fun i => b2n (c.p l (fA c.w + i)) * 2 ^ i))))))

/-- PWR (R92). -/
def entryPwr (c : Ctx) : Res :=
  .done c.s (Out.fixed (c.act.flatMap (fun l => (List.range (mBits c.w 4 0 + 1)).map (fun i =>
    (Place.p l (fD c.w + i), b2n (bit (c.a false l) i))))))

/-- NOP (R90). -/
def execNop (w : CWord) (s : State) : Host.Outcome State Fault Refusal :=
  calud (rowAt 0x000) entryNop w s

/-- BRA (R86). -/
def execBra (w : CWord) (s : State) : Host.Outcome State Fault Refusal :=
  calud (rowAt 0x001) entryBra w s

/-- BRX (R86). -/
def execBrx (w : CWord) (s : State) : Host.Outcome State Fault Refusal :=
  calud (rowAt 0x002) entryBrx w s

/-- CALL (R86). -/
def execCallW (w : CWord) (s : State) : Host.Outcome State Fault Refusal :=
  calud (rowAt 0x003) entryCall w s

/-- RET (R86). -/
def execRetW (w : CWord) (s : State) : Host.Outcome State Fault Refusal :=
  calud (rowAt 0x004) entryRet w s

/-- REFORM (R80). -/
def execReform (w : CWord) (s : State) : Host.Outcome State Fault Refusal :=
  calud (rowAt 0x005) entryReform w s

/-- REFORM.join (R87). -/
def execReformJoin (w : CWord) (s : State) : Host.Outcome State Fault Refusal :=
  calud (rowReformJoin) entryReformJoin w s

/-- YIELD (R88). -/
def execYieldW (w : CWord) (s : State) : Host.Outcome State Fault Refusal :=
  calud (rowAt 0x006) entryYield w s

/-- PLOG (R91). -/
def execPlog (w : CWord) (s : State) : Host.Outcome State Fault Refusal :=
  calud (rowAt 0x008) entryPlog w s

/-- PRD (R92). -/
def execPrd (w : CWord) (s : State) : Host.Outcome State Fault Refusal :=
  calud (rowAt 0x009) entryPrd w s

/-- PWR (R92). -/
def execPwr (w : CWord) (s : State) : Host.Outcome State Fault Refusal :=
  calud (rowAt 0x00A) entryPwr w s

end Sys2Proof.Machine
end

