-- ==== Sys2Proof/Machine/Sfu.lean ====
section
/-! DEFINITION. The special functions of R136 and R137, correctly rounded: each value as its scaled floors, from
fixed-point series with some 900 bits after the point, far beyond what any FP32 rounding can need. -/

namespace Sys2Proof.Machine

/-- Bits after the point of the fixed-point series. -/
def fxBits : Nat := 900

/-- The binary digits of a square root from digit `b` downwards. -/
def isqrtGo (n : Nat) : Nat → Nat → Nat
  | 0, r => r
  | b + 1, r => isqrtGo n b (if (r + 2 ^ b) * (r + 2 ^ b) ≤ n then r + 2 ^ b else r)

/-- The integer square root. -/
def isqrt (n : Nat) : Nat := isqrtGo n (Nat.log2 n / 2 + 1) 0

/-- The square root of a positive fraction as a real. -/
def realSqrt (n d : Nat) : Real2 :=
  { sc := fun k =>
      let (q, ex) := scaledFloor n d (2 * k)
      let r := isqrt q
      (r, ex && r * r = q)
    lg := (lgFrac n d) / 2 }

/-- A positive fixed-point value that is not exact, as a real. -/
def realFx (v : Nat) : Real2 :=
  { sc := fun k => ((scaledFloor v (2 ^ fxBits) k).1, false), lg := lgFrac v (2 ^ fxBits) }

/-- The sum of y^j ÷ j! from the term of index k. -/
def expGo (y : Nat) : Nat → Nat → Nat → Nat → Nat
  | 0, _, _, acc => acc
  | f + 1, k, term, acc => expGo y f (k + 1) (term * y / 2 ^ fxBits / (k + 1)) (acc + term)

/-- e^y for y in [0, 1). -/
def fxExp (y : Nat) : Nat := expGo y 200 0 (2 ^ fxBits) 0

/-- The sum of t^(2j+1) ÷ (2j+1), or the alternating sum, from the power `p` of index k. -/
def atanGo (t2 : Nat) (alt : Bool) : Nat → Nat → Nat → Int → Int
  | 0, _, _, acc => acc
  | f + 1, k, p, acc =>
    atanGo t2 alt f (k + 1) (p * t2 / 2 ^ fxBits) (if alt && k % 2 = 1 then acc - (p / (2 * k + 1) : Nat) else acc + (p / (2 * k + 1) : Nat))

/-- atanh of n ÷ d, at most 1/3. -/
def fxAtanh (n d : Nat) : Nat :=
  let t := n * 2 ^ fxBits / d
  (atanGo (t * t / 2 ^ fxBits) false 320 0 t 0).toNat

/-- atan of 1 ÷ d. -/
def fxAtanInv (d : Nat) : Nat :=
  let t := 2 ^ fxBits / d
  (atanGo (t * t / 2 ^ fxBits) true 220 0 t 0).toNat

/-- ln 2. -/
def fxLn2 : Nat := 2 * fxAtanh 1 3

/-- π ÷ 2. -/
def fxHalfPi : Nat := 8 * fxAtanInv 5 - 2 * fxAtanInv 239

/-- The sum of the alternating series of sine or cosine from the term of index k. -/
def trigGo (y2 : Nat) : Nat → Nat → Nat → Int → Int
  | 0, _, _, acc => acc
  | f + 1, k, term, acc =>
    trigGo y2 f (k + 2) (term * y2 / 2 ^ fxBits / ((k + 1) * (k + 2))) (if k / 2 % 2 = 1 then acc - (term : Int) else acc + (term : Int))

/-- sin y for y in [0, π/2). -/
def fxSin (y : Nat) : Nat := (trigGo (y * y / 2 ^ fxBits) 120 1 y 0).toNat
/-- cos y for y in [0, π/2). -/
def fxCos (y : Nat) : Nat := (trigGo (y * y / 2 ^ fxBits) 120 0 (2 ^ fxBits) 0).toNat

/-- Sine (cosine when `co`) of a fraction's magnitude: the sign and the magnitude. -/
def trigOf (co : Bool) (n d : Nat) : Bool × Nat :=
  let x := n * 2 ^ fxBits / d
  let k := x / fxHalfPi % 4
  let r := x % fxHalfPi
  let useCos := co != (k % 2 = 1)
  (if co then k = 1 || k = 2 else k ≥ 2, if useCos then fxCos r else fxSin r)

/-- 2^(n ÷ d), of either sign. -/
def exp2Of (s : Bool) (n d : Nat) : Real2 :=
  let x := floorEx s n d
  if x > 400 then realFrac (2 ^ 400) 1
  else if x < -400 then realFrac 1 (2 ^ 400)
  else
    let f := signedNum s n - x * d
    let v := fxExp (f.toNat * fxLn2 / d)
    { sc := fun k => if f = 0 then scaledFloor 1 1 (k + x) else ((scaledFloor v (2 ^ fxBits) (k + x)).1, false)
      lg := x }

/-- log2 of a positive fraction: the sign and the magnitude as a real. It is never called on 1. -/
def log2Of (n d : Nat) : Bool × Real2 :=
  let e := lgFrac n d
  let (mn, md) := match e with
    | .ofNat j => (n, d * 2 ^ j)
    | .negSucc j => (n * 2 ^ (j + 1), d)
  if mn = md then (e < 0, realFrac e.natAbs 1)
  else
    let l := 2 * fxAtanh (mn - md) (mn + md) * 2 ^ fxBits / fxLn2
    let v : Int := e * 2 ^ fxBits + l
    (v < 0, realFx v.natAbs)

/-- Squares a fixed-point value `n` times. -/
def fxSquare : Nat → Nat → Nat
  | 0, v => v
  | n + 1, v => fxSquare n (v * v / 2 ^ fxBits)

/-- tanh of a fraction's magnitude. -/
def tanhOf (n d : Nat) : Real2 :=
  if n > 60 * d then realFx (2 ^ fxBits - 1)
  else
    let e := fxSquare 7 (fxExp (2 * n * 2 ^ fxBits / (d * 128)))
    realFx ((e - 2 ^ fxBits) * 2 ^ fxBits / (e + 2 ^ fxBits))

/-- The functions of R136. -/
inductive Fun where
  | rcp | rsq | sqrt | exp2 | log2 | sin | cos | tanh
  deriving DecidableEq, Repr

/-- The canonical NaN of FP32 without a flag. -/
def sNan : Rounded := (0x7FC00000, 0)
/-- The canonical NaN of FP32 with IV. -/
def sInv : Rounded := (0x7FC00000, flIV)
/-- An infinity of FP32 with flags. -/
def sInf (neg : Bool) (fl : BitVec 5) : Rounded := (signBit f32 neg + 0x7F800000, fl)
/-- A zero of FP32. -/
def sZero (neg : Bool) : Rounded := (signBit f32 neg, 0)
/-- One, of a sign. -/
def sOne (neg : Bool) : Rounded := (signBit f32 neg + 0x3F800000, 0)

/-- A non-zero finite input's result (R136, R137). -/
def sfuFinite (fn : Fun) (s : Bool) (n d rm : Nat) (ftz : Bool) : Rounded :=
  let enc (neg : Bool) (x : Real2) : Rounded := encodeReal f32 neg x rm ftz false 0
  match fn with
  | .rcp => enc s (realFrac d n)
  | .rsq => if s then sInv else enc false (realSqrt d n)
  | .sqrt => if s then sInv else enc false (realSqrt n d)
  | .exp2 => enc false (exp2Of s n d)
  | .log2 => if s then sInv else if n = d then sZero false else let r := log2Of n d; enc r.1 r.2
  | .sin => let r := trigOf false n d; enc (s != r.1) (realFx r.2)
  | .cos => let r := trigOf true n d; enc r.1 (realFx r.2)
  | .tanh => enc s (tanhOf n d)

/-- The result of a special function with its flags (R136, R137). -/
def sfu (fn : Fun) (a : Nat) (rm : Nat) (ftz : Bool) : Rounded :=
  match decodeZ ftz f32 a with
  | .nan => sNan
  | .inf s =>
    match fn with
    | .rcp => sZero s
    | .rsq => if s then sInv else sZero false
    | .sqrt | .log2 => if s then sInv else sInf false 0
    | .exp2 => if s then sZero false else sInf false 0
    | .sin | .cos => sInv
    | .tanh => sOne s
  | .num s n d =>
    if n = 0 then
      match fn with
      | .rcp => sInf s flDZ
      | .rsq => sInf s flDZ
      | .log2 => sInf true flDZ
      | .sqrt | .sin | .tanh => sZero s
      | .exp2 | .cos => sOne false
    else sfuFinite fn s n d rm ftz

end Sys2Proof.Machine
end

