-- ==== Sys2Proof/Machine/Float.lean ====
section
/-! DEFINITION. Floating point, conversions, narrow types, dot products, the codebook and the special functions
(R124 to R137). -/

namespace Sys2Proof.Machine

/-- A float word that rounds one element in each lane, of fixed latency. -/
def floatWise (c : Ctx) (f : Nat → Nat → Rounded) : Res :=
  .done c.s (Out.ofAcc (perLane c (selD c.w) (rmOf c.w) 1 (fun l rs =>
    let x := f l (rs.headD 0)
    (dstX c false l x.1, x.2))))

/-- The sum of two exact values as R124 rounds it. -/
def roundSum (f : Fmt32) (rm : Nat) (ftz : Bool) (r : Nat) (p q : Ex) : Rounded :=
  match Ex.add? rm p q with
  | none => (f.nanPat.getD 0, flIV)
  | some x => encode f x rm ftz false r

/-- FADD of R124 in a format. -/
def fAdd (f : Fmt32) (rm : Nat) (ftz : Bool) (r a b : Nat) : Rounded :=
  roundSum f rm ftz r (decodeZ ftz f a) (decodeZ ftz f b)
/-- FSUB of R124 in a format. -/
def fSubtract (f : Fmt32) (rm : Nat) (ftz : Bool) (r a b : Nat) : Rounded :=
  roundSum f rm ftz r (decodeZ ftz f a) (decodeZ ftz f b).opp
/-- FMUL of R124 in a format. -/
def fMul (f : Fmt32) (rm : Nat) (ftz : Bool) (r a b : Nat) : Rounded :=
  match Ex.mul? (decodeZ ftz f a) (decodeZ ftz f b) with
  | none => (f.nanPat.getD 0, flIV)
  | some x => encode f x rm ftz false r
/-- FFMA of R124 in a format. -/
def fFma (f : Fmt32) (rm : Nat) (ftz : Bool) (r a b c : Nat) : Rounded :=
  match Ex.mul? (decodeZ ftz f a) (decodeZ ftz f b) with
  | none => (f.nanPat.getD 0, flIV)
  | some p => roundSum f rm ftz r p (decodeZ ftz f c)

/-- FADD, FSUB and FMUL by the operation of the element. -/
def float2 (f : Fmt32 → Nat → Bool → Nat → Nat → Nat → Rounded) (c : Ctx) : Res :=
  floatWise c (fun l r => f f32 (rmOf c.w) (ftzOf c.w) r (c.a false l) (c.b false l))

/-- FFMA (R124). -/
def entryFfma (c : Ctx) : Res :=
  floatWise c (fun l r => fFma f32 (rmOf c.w) (ftzOf c.w) r (c.a false l) (c.b false l) (c.c' false l))

/-- FMIN and FMAX (R125). -/
def floatMinMax (isMax : Bool) (c : Ctx) : Res :=
  laneWise c false (fun l => minMaxF f32 (ftzOf c.w) isMax (c.a false l) (c.b false l))

/-- The relation and the flags of FCMP (R126). -/
def fcmp (code : Nat) (a b : Ex) : Bool × BitVec 5 :=
  if a.isNan || b.isNan then (code = 1 || code = 6, if 2 ≤ code ∧ code ≤ 5 then flIV else 0)
  else if code = 6 then (false, 0)
  else if code = 7 then (true, 0)
  else (cmpHolds code (Ex.cmp a b), 0)

/-- FCMP (R126). -/
def entryFcmp (c : Ctx) : Res :=
  .done c.s (Out.ofAcc (perLane c false 0 0 (fun l _ =>
    let x := fcmp (mBits c.w 11 9) (decodeZ (ftzOf c.w) f32 (c.a false l)) (decodeZ (ftzOf c.w) f32 (c.b false l))
    ([(Place.p l (fD c.w), b2n x.1)], x.2))))

/-- FRND of one value (R127). -/
def frnd (rm : Nat) (ftz : Bool) (r a : Nat) : Rounded :=
  match decodeZ ftz f32 a with
  | .nan => (f32.nanPat.getD 0, 0)
  | .inf s => (signBit f32 s + 0x7F800000, 0)
  | .num s n d =>
    let v := roundInt s n d rm r
    (encodeQuiet f32 (.num s v.1.natAbs 1) 0 false, if v.2 then 0 else flIX)

/-- FRND (R127). -/
def entryFrnd (c : Ctx) : Res := floatWise c (fun l r => frnd (rmOf c.w) (ftzOf c.w) r (c.a false l))

/-- Element i of two packed 16-bit values (R29). -/
def half (x i : Nat) : Nat := bits x (16 * i + 15) (16 * i)

/-- A paired 16-bit word of R128 by the operation on one element. -/
def float16x2 (c : Ctx) (f : Fmt32 → Nat → Nat → Nat → Nat → Rounded) : Res :=
  let fm := fmtOfTy (mBits c.w 4 0)
  .done c.s (Out.ofAcc (perLane c false (rmOf c.w) 2 (fun l rs =>
    let e (i : Nat) : Rounded :=
      f fm (rs[i]?.getD 0) (half (c.v l (fA c.w)) i) (half (c.v l (fB c.w)) i) (half (c.v l (fC c.w)) i)
    ([(Place.v l (fD c.w), (e 0).1 + 2 ^ 16 * (e 1).1)], (e 0).2 ||| (e 1).2))))

/-- HADD2 (R128). -/
def entryHadd2 (c : Ctx) : Res := float16x2 c (fun fm r a b _ => fAdd fm (rmOf c.w) (ftzOf c.w) r a b)
/-- HMUL2 (R128). -/
def entryHmul2 (c : Ctx) : Res := float16x2 c (fun fm r a b _ => fMul fm (rmOf c.w) (ftzOf c.w) r a b)
/-- HFMA2 (R128). -/
def entryHfma2 (c : Ctx) : Res := float16x2 c (fun fm r a b k => fFma fm (rmOf c.w) (ftzOf c.w) r a b k)

/-- The float format of an STYPE code of R129. -/
def styFmt (st : Nat) : Fmt32 := if st = 9 then bf16 else if st = 10 then f16 else f32

/-- One conversion of R129. -/
def cvt (dt st rm : Nat) (ftz sat : Bool) (r x : Nat) : Rounded :=
  if st ≤ 7 then
    let a := intVal st x
    if dt ≤ 7 then (intResult dt sat a, 0)
    else encode (fmtOfTy dt) (.ofInt a) rm ftz false r
  else
    let a := decodeZ ftz (styFmt st) x
    if dt ≤ 7 then
      let y := floatToInt a rm (intSigned dt) (intBits dt) r
      (widen dt y.1, y.2)
    else encode (fmtOfTy dt) a rm ftz false r

/-- CVT (R129). -/
def entryCvt (c : Ctx) : Res :=
  let dt := mBits c.w 4 0
  let st := mBits c.w 11 8
  let wideS := st = 3 ∨ st = 7
  .done c.s (Out.ofAcc (perLane c (selD c.w) (rmOf c.w) 1 (fun l rs =>
    let y := cvt dt st (rmOf c.w) (mBit c.w 12) (mBit c.w 13) (rs.headD 0) (c.a wideS l)
    (dstX c (is64 dt) l y.1, y.2))))

/-- The bits of an element of a narrow type code. -/
def narrowBits (ty : Nat) : Nat := if ty ≥ 0x17 then 4 else 8

/-- A register with element i of a narrow type replaced: the pad bits of 6-bit elements are written as zero (R29, R130). -/
def setNarrow (ty x i e : Nat) : Nat :=
  let n := narrowBits ty
  let x := if ty = 0x15 ∨ ty = 0x16 then x &&& 0x3F3F3F3F else x
  x % 2 ^ (n * i) + e * 2 ^ (n * i) + x / 2 ^ (n * (i + 1)) * 2 ^ (n * (i + 1))

/-- An FP32 value encoded in a narrow format (R130). -/
def toNarrow (cb : Nat → Nat) (ty rm : Nat) (ftz satInf : Bool) (r x : Nat) : Rounded :=
  if ty = 0x18 then (cbEncode cb (decodeZ ftz f32 x), 0)
  else encode (fmtOfTy ty) (decodeZ ftz f32 x) rm ftz satInf r

/-- NPACK (R130). -/
def entryNpack (c : Ctx) : Res :=
  let ty := mBits c.w 4 0
  let k := mBits c.w 11 10
  let conv (r x : Nat) : Rounded := toNarrow c.cb ty (rmOf c.w) (ftzOf c.w) (mBit c.w 9) r x
  .done c.s (Out.ofAcc (perLane c false (rmOf c.w) 2 (fun l rs =>
    let e0 := conv (rs[0]?.getD 0) (c.v l (fA c.w))
    let e1 := conv (rs[1]?.getD 0) (c.v l (fB c.w))
    ([(Place.v l (fD c.w), setNarrow ty (setNarrow ty (c.v l (fD c.w)) (2 * k) e0.1) (2 * k + 1) e1.1)], e0.2 ||| e1.2))))

/-- The exact value of element i of a register under a narrow type, a subnormal flushed under .ftz (R131, R133). -/
def narrowValue (cb : Nat → Nat) (ty : Nat) (ftz : Bool) (x i : Nat) : Ex :=
  if ty = 0x18 then decodeZ ftz bf16 (cb (narrowElem ty x i)) else decodeZ ftz (fmtOfTy ty) (narrowElem ty x i)

/-- NUNPK (R131). -/
def entryNunpk (c : Ctx) : Res :=
  let ty := mBits c.w 4 0
  .done c.s (Out.ofAcc (perLane c false (rmOf c.w) 1 (fun l rs =>
    let b := c.x (mBit c.w 13) l (fB c.w)
    let v := narrowValue c.cb ty (ftzOf c.w) (c.v l (fA c.w)) (b % narrowCount ty)
    let v := if mBit c.w 10 then Ex.mul v (blockScale (bits b 15 8)) else v
    let y := encode f32 v (rmOf c.w) (ftzOf c.w) false (rs.headD 0)
    ([(Place.v l (fD c.w), y.1)], y.2))))

/-- The end of a float dot product: the block added to the accumulator (R133). -/
def dotFloat (ftz : Bool) (acc : Nat) (ps : List (Option Ex)) : Rounded :=
  let blk := dotBlock ps
  let y := roundSum f32 0 ftz 0 (decodeZ ftz f32 acc) blk.1
  (y.1, y.2 ||| blk.2)

/-- A product that stands in a block: none for 0 × ∞ (R43). -/
def dotProduct (a b : Ex) : Option Ex := Ex.mul? a b

/-- A dot word over floats: the element values and how many (R133). -/
def dotFloats (c : Ctx) (n : Nat) (acc : Nat → Nat) (val : Nat → Nat → Ex) (sa sb : Ex) : Res :=
  .done c.s (Out.ofAcc (perLane c false 0 0 (fun l _ =>
    let ps := (List.range n).map (fun i =>
      dotProduct ((val (c.v l (fA c.w)) i).mul sa) ((val (c.v l (fB c.w)) i).mul sb))
    let y := dotFloat (ftzOf c.w) (acc l) ps
    ([(Place.v l (fD c.w), y.1)], y.2))))

/-- A dot word over integers: elements of `n` bits (R133). -/
def dotInts (c : Ctx) (n : Nat) : Res :=
  let ty := mBits c.w 4 0
  let sg := intSigned ty
  let elem (x i : Nat) : Int := intVal ty (bits x (n * i + n - 1) (n * i))
  .done c.s (Out.fixed (c.act.map (fun l =>
    let acc : Int := if sg then sgn 32 (c.v l (fC c.w)) else (c.v l (fC c.w) : Int)
    let x := (List.range (32 / n)).foldl (fun s i => s + elem (c.v l (fA c.w)) i * elem (c.v l (fB c.w)) i) acc
    (Place.v l (fD c.w), if satOf c.w then (if sg then satS 32 x else satU 32 x) else wrapI 32 x))))

/-- DOT2 (R133). -/
def entryDot2 (c : Ctx) : Res :=
  let ty := mBits c.w 4 0
  if ty ≤ 7 then dotInts c 16
  else dotFloats c 2 (fun l => c.v l (fC c.w)) (fun x i => decodeZ (ftzOf c.w) (fmtOfTy ty) (half x i)) (.num false 1 1) (.num false 1 1)
/-- DOT4 (R133). -/
def entryDot4 (c : Ctx) : Res :=
  let ty := mBits c.w 4 0
  if ty ≤ 7 then dotInts c 8
  else dotFloats c 4 (fun l => c.v l (fC c.w)) (narrowValue c.cb ty (ftzOf c.w)) (.num false 1 1) (.num false 1 1)
/-- DOT8 (R133). -/
def entryDot8 (c : Ctx) : Res :=
  dotFloats c 8 (fun l => c.v l (fC c.w)) (narrowValue c.cb (mBits c.w 4 0) (ftzOf c.w)) (.num false 1 1) (.num false 1 1)
/-- DOTSC (R133). -/
def entryDotsc (c : Ctx) : Res :=
  let ty := mBits c.w 4 0
  dotFloats c (narrowCount ty) (fun l => c.v l (fD c.w)) (narrowValue c.cb ty (ftzOf c.w))
    (blockScale (bits (c.sc (fC c.w)) 7 0)) (blockScale (bits (c.sc (fC c.w)) 15 8))

/-- CB.LD (R134). -/
def entryCbLd (c : Ctx) : Res :=
  let f := fB c.w
  let two (e x : Nat) : List (Place × Nat) := [(.cb e, bits x 15 0), (.cb (e + 1), bits x 31 16)]
  .done c.s (Out.fixed (
    if selA c.w then two f (c.sc (fA c.w))
    else (c.m.present.filter (fun j => j ≤ (14 - f) / 2)).flatMap (fun j => two (f + 2 * j) (c.v j (fA c.w)))))

/-- CB.RD (R135). -/
def entryCbRd (c : Ctx) : Res := laneWise c false (fun _ => c.cb (fA c.w))

/-- A special function (R136): variable latency, through the SFU queue. -/
def entrySfu (fn : Fun) (c : Ctx) : Res :=
  let a := perLane c (selD c.w) 0 0 (fun l _ =>
    let y := sfu fn (c.a false l) (rmOf c.w) (ftzOf c.w)
    (dstX c false l y.1, y.2))
  .done c.s { Out.ofAcc a with var := true, queue := some 0 }

/-- FADD (R124). -/
def execFadd (w : CWord) (s : State) : Host.Outcome State Fault Refusal :=
  calud (rowAt 0x0C0) (float2 fAdd) w s

/-- FSUB (R124). -/
def execFsub (w : CWord) (s : State) : Host.Outcome State Fault Refusal :=
  calud (rowAt 0x0C1) (float2 fSubtract) w s

/-- FMUL (R124). -/
def execFmul (w : CWord) (s : State) : Host.Outcome State Fault Refusal :=
  calud (rowAt 0x0C2) (float2 fMul) w s

/-- FFMA (R124). -/
def execFfma (w : CWord) (s : State) : Host.Outcome State Fault Refusal :=
  calud (rowAt 0x0C3) entryFfma w s

/-- FMIN (R125). -/
def execFmin (w : CWord) (s : State) : Host.Outcome State Fault Refusal :=
  calud (rowAt 0x0C4) (floatMinMax false) w s

/-- FMAX (R125). -/
def execFmax (w : CWord) (s : State) : Host.Outcome State Fault Refusal :=
  calud (rowAt 0x0C5) (floatMinMax true) w s

/-- FCMP (R126). -/
def execFcmp (w : CWord) (s : State) : Host.Outcome State Fault Refusal :=
  calud (rowAt 0x0C6) entryFcmp w s

/-- FRND (R127). -/
def execFrnd (w : CWord) (s : State) : Host.Outcome State Fault Refusal :=
  calud (rowAt 0x0C7) entryFrnd w s

/-- HADD2 (R128). -/
def execHadd2 (w : CWord) (s : State) : Host.Outcome State Fault Refusal :=
  calud (rowAt 0x0C8) entryHadd2 w s

/-- HMUL2 (R128). -/
def execHmul2 (w : CWord) (s : State) : Host.Outcome State Fault Refusal :=
  calud (rowAt 0x0C9) entryHmul2 w s

/-- HFMA2 (R128). -/
def execHfma2 (w : CWord) (s : State) : Host.Outcome State Fault Refusal :=
  calud (rowAt 0x0CA) entryHfma2 w s

/-- CVT (R129). -/
def execCvt (w : CWord) (s : State) : Host.Outcome State Fault Refusal :=
  calud (rowAt 0x0CB) entryCvt w s

/-- NPACK (R130). -/
def execNpack (w : CWord) (s : State) : Host.Outcome State Fault Refusal :=
  calud (rowAt 0x0CC) entryNpack w s

/-- NUNPK (R131). -/
def execNunpk (w : CWord) (s : State) : Host.Outcome State Fault Refusal :=
  calud (rowAt 0x0CD) entryNunpk w s

/-- DOT2 (R133). -/
def execDot2 (w : CWord) (s : State) : Host.Outcome State Fault Refusal :=
  calud (rowAt 0x0CE) entryDot2 w s

/-- DOT4 (R133). -/
def execDot4 (w : CWord) (s : State) : Host.Outcome State Fault Refusal :=
  calud (rowAt 0x0CF) entryDot4 w s

/-- DOT8 (R133). -/
def execDot8 (w : CWord) (s : State) : Host.Outcome State Fault Refusal :=
  calud (rowAt 0x0D0) entryDot8 w s

/-- DOTSC (R133). -/
def execDotsc (w : CWord) (s : State) : Host.Outcome State Fault Refusal :=
  calud (rowAt 0x0D1) entryDotsc w s

/-- CB.LD (R134). -/
def execCbLd (w : CWord) (s : State) : Host.Outcome State Fault Refusal :=
  calud (rowAt 0x0D2) entryCbLd w s

/-- CB.RD (R135). -/
def execCbRd (w : CWord) (s : State) : Host.Outcome State Fault Refusal :=
  calud (rowAt 0x0D3) entryCbRd w s

/-- RCP (R136). -/
def execRcp (w : CWord) (s : State) : Host.Outcome State Fault Refusal :=
  calud (rowAt 0x140) (entrySfu .rcp) w s

/-- RSQ (R136). -/
def execRsq (w : CWord) (s : State) : Host.Outcome State Fault Refusal :=
  calud (rowAt 0x141) (entrySfu .rsq) w s

/-- SQRT (R136). -/
def execSqrtW (w : CWord) (s : State) : Host.Outcome State Fault Refusal :=
  calud (rowAt 0x142) (entrySfu .sqrt) w s

/-- EXP2 (R136). -/
def execExp2 (w : CWord) (s : State) : Host.Outcome State Fault Refusal :=
  calud (rowAt 0x143) (entrySfu .exp2) w s

/-- LOG2 (R136). -/
def execLog2 (w : CWord) (s : State) : Host.Outcome State Fault Refusal :=
  calud (rowAt 0x144) (entrySfu .log2) w s

/-- SIN (R136). -/
def execSinW (w : CWord) (s : State) : Host.Outcome State Fault Refusal :=
  calud (rowAt 0x145) (entrySfu .sin) w s

/-- COS (R136). -/
def execCosW (w : CWord) (s : State) : Host.Outcome State Fault Refusal :=
  calud (rowAt 0x146) (entrySfu .cos) w s

/-- TANH (R136). -/
def execTanhW (w : CWord) (s : State) : Host.Outcome State Fault Refusal :=
  calud (rowAt 0x147) (entrySfu .tanh) w s

end Sys2Proof.Machine
end

