-- ==== Sys2Proof/Machine/Translate.lean ====
section
/-! DEFINITION. Buffer records (R160 to R164), physical addresses (R14, R15), the page table walk and its cached
translations (R176 to R179), spring ranges (R224, R227), fault records (R185 to R187), access counters (R189 to
R191), tracked pool lines (R181), versions and races (R204 to R211), and the accesses of a memory word (R166, R167). -/

namespace Sys2Proof.Machine

/-! ### Records (R160, R161) -/

/-- Bits [hi:lo] of a record. -/
def rbits (r : Rec) (hi lo : Nat) : Nat := bits r.toNat hi lo
/-- BASE. -/
def recBase (r : Rec) : Nat := rbits r 56 0
/-- EXTENT. -/
def recExtent (r : Rec) : Nat := rbits r 111 64
/-- WIDTH. -/
def recWidth (r : Rec) : Nat := rbits r 127 112
/-- STRIDE. -/
def recStride (r : Rec) : Nat := rbits r 191 160
/-- R. -/
def recR (r : Rec) : Bool := r.getLsbD 234
/-- W. -/
def recW (r : Rec) : Bool := r.getLsbD 235
/-- X. -/
def recX (r : Rec) : Bool := r.getLsbD 236
/-- MODE is V. -/
def recV (r : Rec) : Bool := r.getLsbD 237
/-- S. -/
def recS (r : Rec) : Bool := r.getLsbD 238
/-- I. -/
def recI (r : Rec) : Bool := r.getLsbD 239
/-- FLAT. -/
def recFlat (r : Rec) : Bool := r.getLsbD 240
/-- ESZ. -/
def recEsz (r : Rec) : Nat := rbits r 243 241
/-- SWZ. -/
def recSwz (r : Rec) : Nat := rbits r 247 244
/-- SFMT. -/
def recSfmt (r : Rec) : Nat := rbits r 255 248

/-- The span of a swizzle mode (R164). -/
def swzSpan (swz stride : Nat) : Nat :=
  if swz = 0 then 1 else if swz = 4 then 64 * stride else 512 * 2 ^ swz

/-- A valid record but for the flat one (R161). -/
def recPlain (r : Rec) : Bool :=
  rbits r 63 57 = 0 && rbits r 159 128 = 0 && rbits r 233 192 = 0 && recEsz r ≤ 4 && recSwz r ≤ 4 && recSfmt r ≤ 4 &&
  decide (recBase r + recExtent r ≤ 2 ^ 57) && !recFlat r &&
  (if recSwz r = 4 then recStride r ≠ 0 && recStride r % 64 = 0 && recExtent r % (64 * recStride r) = 0
   else recExtent r % swzSpan (recSwz r) 0 = 0)

/-- The flat record (R163). -/
def flatRec : Rec := BitVec.ofNat 256 (2 ^ 240 + 2 ^ 238 + 2 ^ 235 + 2 ^ 234)

/-- A valid record (R161). -/
def recValid (r : Rec) : Bool := recPlain r || r = flatRec

/-- The swizzle of R164: the byte address in the record of offset `o`. -/
def swizzle (swz stride o : Nat) : Nat :=
  if swz = 4 then
    let y := o / stride
    let x := o % stride
    (y / 64 * (stride / 64) + x / 64) * 4096 + y % 64 * 64 + x % 64
  else if swz = 0 then o
  else
    let sh := 3 + swz
    o - bits o (sh + 2) sh * 2 ^ sh + (bits o (sh + 2) sh ^^^ bits o (sh + 5) (sh + 3)) * 2 ^ sh

/-- The virtual address of a record offset; through the flat record the offset is the address (R163, R164). -/
def recVa (r : Rec) (o : Nat) : Nat :=
  if recFlat r then o % 2 ^ 57 else recBase r + swizzle (recSwz r) (recStride r) o

/-! ### Physical addresses (R14, R15) -/

/-- The CXL pool window. -/
def inPool (pa : Nat) : Bool := 2 ^ 48 ≤ pa && pa < 2 ^ 52
/-- The handoff pool. -/
def inHandoff (pa : Nat) : Bool := 0x10000000000 ≤ pa && pa < 0x10004000000
/-- The device register space. -/
def inRegs (pa : Nat) : Bool := 0x20000000000 ≤ pa && pa < 0x20100000000
/-- Stacked DRAM. -/
def inDram (pa : Nat) : Bool := pa < 2 ^ 38

/-- R15: an access to the address takes cause 0x02. -/
def paBad (s : State) (pa : Nat) : Bool :=
  !((inDram pa && s.dieUp (pa / 2 ^ 36)) || (inHandoff pa && s.edie && decide (pa < 0x10000000000 + s.poolSize)) || inPool pa)

/-! ### Links and ports (R20, R21, R181, R445) -/

/-- The link between two dies; 4 for the E-die. -/
def State.link (s : State) (a b : Nat) : Link := get Link.zero s.links (8 * min a b + max a b)
/-- Sets a link. -/
def State.setLink (s : State) (a b : Nat) (x : Link) : State := { s with links := setD Link.zero s.links (8 * min a b + max a b) x }
/-- A CXL port. -/
def State.port (s : State) (n : Nat) : Link := get Link.zero s.ports n
/-- Sets a CXL port. -/
def State.setPort (s : State) (n : Nat) (x : Link) : State := { s with ports := setD Link.zero s.ports n x }

/-- The die that homes a pool line (R181), or else the next die in service after it (R435). -/
def poolHome (s : State) (pa : Nat) : Nat :=
  let h := if s.diePresent 2 || s.diePresent 3 then bits pa 13 12 ^^^ bits pa 15 14 else bits pa 12 12 ^^^ bits pa 14 14
  ((List.range 4).map (fun i => (h + i) % 4)).find? s.dieUp |>.getD h

/-- The die that homes a line (R16, R181); 4 for the E-die. -/
def homeDie (s : State) (pa : Nat) : Nat := if inDram pa then pa / 2 ^ 36 else if inPool pa then poolHome s pa else 4

/-- An access from a die to an address is held by a link or a port that retrains (R21, R445), or by a vault that has halted
(R319). -/
def pathHeld (s : State) (die pa : Nat) : Bool :=
  let h := homeDie s pa
  (h != die && (s.link die h).retraining) || (inPool pa && (s.port h).retraining) ||
    (inDram pa && (s.vault (pa / 2 ^ 31)).halt)

/-! ### The page table walk (R176 to R178) -/

/-- What an access needs of a leaf (R178). -/
inductive Need where
  | read | write | atomic | fetch
  deriving DecidableEq, Repr

/-- How a walk ends. -/
inductive Walk where
  /-- A leaf: its level, the entry, and the entry's physical address. -/
  | leaf (level entry pa : Nat)
  /-- The entry that stopped the walk: its level, and whether it is malformed. -/
  | stop (level : Nat) (mal : Bool)
  /-- A link, a port or a vault holds the read of an entry. -/
  | held
  deriving DecidableEq, Repr

/-- The physical address that an entry names (PFN). -/
def entryPfn (e : Nat) : Nat := bits e 51 12 * 4096

/-- A leaf entry of a level is malformed (R177, R178). -/
def leafBad (level e : Nat) : Bool :=
  bit e 11 || bits e 10 9 ≥ 2 || (level = 2 && bits e 29 12 ≠ 0) || (level = 1 && bits e 20 12 ≠ 0) || level ≥ 3

/-- A non-leaf entry of a level is malformed (R177, R178). -/
def nodeBad (s : State) (e : Nat) : Bool := bit e 11 || bits e 63 52 ≠ 0 || paBad s (entryPfn e)

/-- The walk from the table of a level (R178). `hold` says which entries cannot be read now (R21, R319, R445). -/
def walkAt (s : State) (hold : Nat → Bool) : Nat → Nat → Nat → Walk
  | 0, tbl, va =>
    let pa := tbl + 8 * bits va 20 12
    let e := s.peek pa 8
    if hold pa then .held
    else if !bit e 0 then .stop 0 false else if !bit e 1 || leafBad 0 e then .stop 0 true else .leaf 0 e pa
  | n + 1, tbl, va =>
    let pa := tbl + 8 * bits va (20 + 9 * (n + 1)) (12 + 9 * (n + 1))
    let e := s.peek pa 8
    if hold pa then .held
    else if !bit e 0 then .stop (n + 1) false
    else if bit e 1 then (if leafBad (n + 1) e then .stop (n + 1) true else .leaf (n + 1) e pa)
    else if nodeBad s e then .stop (n + 1) true
    else walkAt s hold n (entryPfn e) va

/-- The walk of a context (R178). A root that no access may reach stops it at L4. -/
def walk (s : State) (hold : Nat → Bool) (root va : Nat) : Walk := if paBad s root then .stop 4 true else walkAt s hold 4 root va

/-- Bytes that a leaf of a level maps. -/
def leafSize (level : Nat) : Nat := 2 ^ (12 + 9 * level)

/-- The leaf grants what the access needs (R178). -/
def grants (need : Need) (e : Nat) : Bool :=
  match need with
  | .read => bit e 2
  | .write => bit e 3
  | .atomic => bit e 2 && bit e 3
  | .fetch => bit e 4

/-! ### Springs (R222, R224, R227) -/

/-- The key of a spring. -/
def springKey (ctx num : Nat) : Nat := 64 * ctx + num

/-- The declared spring of a context whose range holds a virtual address. -/
def springAt (s : State) (ctx va : Nat) : Option Spring :=
  (s.springs.map (·.2)).find? (fun p => p.ctx = ctx && decide (p.base ≤ va ∧ va < p.base + p.size))

/-- The physical address of a block's fill-map entry (R227). -/
def Spring.entryPa (p : Spring) (b : Nat) : Nat := p.mapBase + 32 * b
/-- A block's fill-map entry. -/
def State.fillEntry (s : State) (p : Spring) (b : Nat) : Nat := s.peek (p.entryPa b) 32
/-- STATE. -/
def entState (e : Nat) : Nat := bits e 1 0
/-- EVP. -/
def entEvp (e : Nat) : Bool := bit e 3
/-- The frame. -/
def entFrame (e : Nat) : Nat := bits e 51 12 * 4096
/-- CAUSE. -/
def entCause (e : Nat) : Nat := bits e 59 52
/-- DEPTH. -/
def entDepth (e : Nat) : Nat := bits e 65 64
/-- The block of a virtual address. -/
def Spring.blockOf (p : Spring) (va : Nat) : Nat := (va - p.base) / 2 ^ p.blk

/-- The team fills the block (R224). -/
def fills (t : Team) (num b : Nat) : Bool :=
  match t.gen with
  | some g => g.spring = num && g.block = b && !g.filled
  | none => false

/-! ### Translating a line (R166, R167, R182, R229) -/

/-- An access to memory, as the translation sees it. -/
structure Want where
  /-- The die of the accessing core. -/
  die : Nat
  /-- The core whose L1 TLB the access uses; none for an engine's, which uses the die's last-level TLB. -/
  core : Option Nat
  /-- The context. -/
  ctx : Nat
  /-- What it needs of a leaf. -/
  need : Need
  /-- The record's S. -/
  spring : Bool
  /-- A read that R229 makes a requester. -/
  requester : Bool
  /-- A fill of a stash window, or the write-back of a STASH word, which never takes cause 0x06 (R149, log entry 79). -/
  back : Bool := false
  deriving DecidableEq, Repr

/-- The translation of a line. -/
inductive Trans where
  /-- The line's physical address; whether a read of it places no mark (R180, R229); the leaf's address and
  page, for counting (R189). -/
  | ok (pa : Nat) (quiet : Bool) (leaf leafPa : Nat)
  /-- A cause of R167. -/
  | cause (c : Nat)
  /-- A translation fault: level, malformed, refused by a present leaf. -/
  | fault (level : Nat) (mal perm : Bool)
  /-- A spring miss. -/
  | miss (spring block : Nat)
  /-- A read of the walk is held (R21, R319, R445). -/
  | held
  deriving DecidableEq, Repr

/-- An access that may not be performed where it goes: cause 0x06, or the translation fault of a fill or of a STASH word (R149, R167,
R229, log entry 79). -/
def Want.barred (q : Want) (level : Nat) : Trans := if q.back then .fault level false true else .cause 0x06

/-- A line inside a declared spring range (R224, R229). A fetch through a record with S = 0 takes cause 0x06 whatever the
block holds. -/
def transSpring (s : State) (t : Team) (q : Want) (p : Spring) (va : Nat) : Trans :=
  let b := p.blockOf va
  let e := s.fillEntry p b
  let pa := entFrame e + (va - p.base) % 2 ^ p.blk
  if fills t p.num b then .ok pa true 0 0
  else if q.need = .fetch && !q.spring then .cause 0x06
  else if (q.need = .read || q.need = .fetch) && q.requester then
    if entState e = 2 && !entEvp e then .ok pa true 0 0
    else if q.spring then .miss p.num b
    else q.barred 0
  else q.barred 0

/-- A cached translation of an address in a TLB (R179). -/
def tlbFind (s : State) (die : Nat) (core : Option Nat) (ctx va : Nat) : Option TlbEntry :=
  s.tlb.find? (fun e => e.die = die && e.core == core && e.ctx = ctx && decide (e.va ≤ va ∧ va < e.va + e.size))

/-- Enters a translation into its TLB: a core's L1 TLB holds 64 entries and a die's last-level TLB 16,384 (R28, R179). Where it is
full, the oldest entry goes; the spec gives no policy (log entry 75). -/
def tlbAdd (l : List TlbEntry) (e : TlbEntry) : List TlbEntry :=
  let same (x : TlbEntry) : Bool := x.die = e.die && x.core == e.core
  (if (if e.core.isSome then 64 else 16384) ≤ (l.filter same).length then l.eraseP same else l) ++ [e]

/-- Enters a translation into the die's last-level TLB, when a walk found it, and into the accessing core's L1 TLB. -/
def tlbFill (s : State) (core : Option Nat) (walked : Bool) (e : TlbEntry) : State :=
  let l := if walked then tlbAdd s.tlb { e with core := none } else s.tlb
  { s with tlb := if core.isSome then tlbAdd l { e with core := core } else l }

/-- The outcome of a leaf for an access (R167, R178). A write to a shared-immutable page takes cause 0x06 whatever the leaf
grants (R178, R180), or 0x02 where its page lies at such an address. -/
def useLeaf (s : State) (q : Want) (level leaf leafPa size va : Nat) : Trans :=
  let pa := entryPfn leaf / size * size + va % size
  if (q.need = .write || q.need = .atomic) && bit leaf 5 then (if paBad s pa then .cause 0x02 else q.barred level)
  else if !grants q.need leaf then .fault level false true
  else if paBad s pa then .cause 0x02
  else .ok pa (bit leaf 5) leaf leafPa

/-- The level whose leaf maps a size. -/
def levelOf (size : Nat) : Nat := if size = leafSize 2 then 2 else if size = leafSize 1 then 1 else 0

/-- Translates the line at a virtual address, through the spring, the cached translations of the die, or a walk
whose leaf is cached (R176, R179, R224). -/
def transLine (s : State) (t : Team) (q : Want) (va : Nat) : State × Trans :=
  match springAt s q.ctx va with
  | some p => (s, transSpring s t q p va)
  | none =>
    let use (e : TlbEntry) : Trans := useLeaf s q (levelOf e.size) e.leaf.toNat e.leafPa e.size va
    match (if q.core.isSome then tlbFind s q.die q.core q.ctx va else none), tlbFind s q.die none q.ctx va with
    | some e, _ => (s, use e)
    | none, some e => (tlbFill s q.core false e, use e)
    | none, none =>
      match walk s (pathHeld s q.die) (((look s.ctxs q.ctx).map (·.root)).getD 0) va with
      | .held => (s, .held)
      | .stop level mal => (s, .fault level mal false)
      | .leaf level e pa =>
        let size := leafSize level
        (tlbFill s q.core true { die := q.die, core := none, ctx := q.ctx, va := va / size * size, size := size,
                                 leaf := BitVec.ofNat 64 e, leafPa := pa },
         useLeaf s q level e pa size va)

/-- Translates lines in order. -/
def transLines (t : Team) (q : Want) : State → List Nat → State × List (Nat × Trans)
  | s, [] => (s, [])
  | s, va :: r =>
    let x := transLine s t q va
    let y := transLines t q x.1 r
    (y.1, (va, x.2) :: y.2)

/-! ### Interrupts and fault records (R185 to R187) -/

/-- Records an interrupt message (R425). -/
def State.interrupt (s : State) (n : Nat) : State :=
  { s with host := { s.host with interrupts := s.host.interrupts ++ [n] } }

/-- A fault record of R185 as a number. -/
structure FaultRec where
  gentask : Nat := 0
  spring : Nat := 0
  time : Nat
  pc : Nat
  lanes : Nat
  slot : Nat
  bank : Nat
  core : Nat
  task : Nat
  va : Nat
  ctx : Nat
  mal : Bool := false
  part : Nat
  perm : Bool := false
  level : Nat := 0
  kind : Nat
  cause : Nat
  deriving DecidableEq, Repr

/-- The 64 bytes of a fault record (R185). -/
def FaultRec.bytes (f : FaultRec) : List Byte :=
  toBytes 8 (f.cause + f.kind * 2 ^ 8 + f.level * 2 ^ 12 + b2n f.perm * 2 ^ 15 + f.part * 2 ^ 16 + b2n f.mal * 2 ^ 22 +
    2 ^ 31 + f.ctx % 2 ^ 32 * 2 ^ 32) ++
  toBytes 8 f.va ++ toBytes 8 f.task ++
  toBytes 8 (f.core + f.bank * 2 ^ 11 + f.slot * 2 ^ 12 + f.lanes * 2 ^ 32) ++
  toBytes 8 f.pc ++ toBytes 8 f.time ++ toBytes 8 f.spring ++ toBytes 8 f.gentask

/-- Records in a die's fault buffer (R186). -/
def MemUnit.fbCount (u : MemUnit) : Nat := (u.fbput - u.fbget).toNat

/-- Writes one fault record into the ring (R186). -/
def putFault (s : State) (die : Nat) (bs : List Byte) : State :=
  let u := s.unit die
  let s := if u.fbCount = 0 then s.interrupt (65 + die) else s
  (s.poke (u.fbbase.toNat + 64 * (u.fbput.toNat % 4096)) bs).setUnit die { u with fbput := u.fbput + 1 }

/-- A link, a port or a vault holds the write of the die's next fault record (R21, R319, R445). -/
def faultHeld (s : State) (die : Nat) : Bool :=
  pathHeld s die ((s.unit die).fbbase.toNat + 64 * ((s.unit die).fbput.toNat % 4096))

/-- Writes the fault records that were held, as long as nothing holds them. -/
def flushFaults (die : Nat) : State → List (List Byte) → State
  | s, [] => s.setUnit die { s.unit die with fbout := [] }
  | s, b :: r => if faultHeld s die then s.setUnit die { s.unit die with fbout := b :: r } else flushFaults die (putFault s die b) r

/-- A fault record goes into the ring, behind those whose write is held. -/
def writeFault (s : State) (die : Nat) (f : FaultRec) : State :=
  let u := s.unit die
  if u.fbout = [] && !faultHeld s die then putFault s die f.bytes else s.setUnit die { u with fbout := u.fbout ++ [f.bytes] }

/-- A count that saturates at 2^32 − 1. -/
def satAdd (x : Word) (n : Nat) : Word := BitVec.ofNat 32 (min (x.toNat + n) (2 ^ 32 - 1))

/-- Writes the fault records of a word, all of them or, when they do not fit, none: then OVF is set and each counts in
FBOVFCNT (R187, log entry 10). Answers whether they were written. -/
def postFaults (s : State) (die : Nat) (fs : List FaultRec) : State × Bool :=
  let u := s.unit die
  if u.fbCount + u.fbout.length + fs.length ≤ 4096 then (fs.foldl (fun s f => writeFault s die f) s, true)
  else ((s.setUnit die { u with fbovf := true, fbovfcnt := satAdd u.fbovfcnt fs.length }).interrupt (65 + die), false)

/-! ### Access counters (R189 to R191) -/

/-- Notifications in a die's ring. -/
def MemUnit.nqCount (u : MemUnit) : Nat := (u.nqput - u.nqget).toNat

/-- The hash of R191. -/
def sumHash (va : Nat) : Nat := bits va 23 12 ^^^ bits va 35 24 ^^^ bits va 47 36 ^^^ bits va 56 48

/-- The address of a die's next notification. -/
def MemUnit.nqSlot (u : MemUnit) : Nat := u.nqbase.toNat + 16 * (u.nqput.toNat % u.nqsize.toNat)

/-- Writes one notification into its ring (R190). -/
def putNote (s : State) (die : Nat) (bs : List Byte) : State :=
  let u := s.unit die
  let s := if u.nqCount = 0 then s.interrupt (69 + die) else s
  (s.poke u.nqSlot bs).setUnit die { u with nqput := u.nqput + 1 }

/-- Writes the notifications that were held, as long as nothing holds them (R21, R319, R445). -/
def flushNotes (die : Nat) : State → List (List Byte) → State
  | s, [] => s.setUnit die { s.unit die with nqout := [] }
  | s, b :: r => if pathHeld s die (s.unit die).nqSlot then s.setUnit die { s.unit die with nqout := b :: r } else flushNotes die (putNote s die b) r

/-- Posts the notification of a crossing, or records it in SUMMAP when the ring is full (R190, R191). -/
def notify (s : State) (die va part cnt : Nat) : State :=
  let u := s.unit die
  if u.nqCount + u.nqout.length < u.nqsize.toNat then
    let bs := toBytes 16 (1 + part * 2 ^ 6 + va / 4096 * 4096 % 2 ^ 57 + cnt * 2 ^ 64)
    if u.nqout = [] && !pathHeld s die u.nqSlot then putNote s die bs else s.setUnit die { u with nqout := u.nqout ++ [bs] }
  else s.setUnit die { u with summap := insertNat (sumHash va) u.summap, nqovf := true }

/-- An access that counts (R189): its page is counted, and far from the accessing die. -/
def countsAccess (die pa leaf : Nat) : Bool := bit leaf 7 && (inPool pa || (inDram pa && pa / 2 ^ 36 ≠ die))

/-- Adds one to the leaf's CNT, with the crossing of R190. -/
def countAccess (s : State) (die part va leafPa : Nat) : State :=
  let e := s.peek leafPa 8
  let cnt := bits e 63 52
  let cnt' := min (cnt + 1) 4095
  let thr := bits (s.unit die).acthr.toNat 11 0
  let cross := decide (thr ≠ 0 ∧ cnt < thr ∧ thr ≤ cnt') && !bit e 8
  let e' := e % 2 ^ 52 + cnt' * 2 ^ 52 + (if cross then 2 ^ 8 else 0)
  let s := s.poke leafPa (toBytes 8 e')
  if cross then notify s die va part cnt' else s

/-! ### Tracked pool lines (R181) -/

/-- The ways of a die's LLC that a partition may fill: those of its mask that are not in the version-store carve, which takes ways
from 15 downwards (R17, R18). An access of no partition fills any way outside the carve. -/
def fillWays (s : State) (part : Option Nat) (die : Nat) : List Nat :=
  let mask := match part with
    | none => 0xFFFF
    | some p => ((look s.parts p).map (fun x => bits x.ways.toNat (16 * die + 15) (16 * die))).getD 0xFFFF
  (List.range (16 - (s.unit die).vscarve)).filter (bit mask)

/-- An access to a line of the CXL pool window through the caches: the line becomes the most recently used of the
tracked ones, and a write makes it dirty. A line that no cache holds is filled only where its home die has a way for the partition;
else the access is performed at the home with no fill (R18). A way holds 8 MiB, 131,072 lines (R16), and the snoop filter 2,097,152
lines of the device (R181): where one is full, its least recently used line goes, written back if it is dirty (log entry 75). -/
def touchPool (s : State) (part : Option Nat) (pa : Nat) (write : Bool) : State :=
  if !inPool pa then s
  else
    let ln := pa / 64 * 64
    let home := poolHome s pa
    let ways := fillWays s part home
    let rest := s.snoop.filter (fun e => e.pa != ln)
    let dirty (stale : Option (List Byte)) : Option (List Byte) :=
      if write && stale.isNone then some (Mem.readN s.mem ln 64) else stale
    match s.snoop.find? (fun e => e.pa = ln) with
    | some e => { s with snoop := rest ++ [{ e with stale := dirty e.stale }] }
    | none => match ways[Config.fillWay ln % ways.length]? with
      | none => s
      | some w =>
        let inWay (e : PoolLine) : Bool := e.home = home && e.way = w
        let rest := if 131072 ≤ (rest.filter inWay).length then rest.eraseP inWay
          else if 2097152 ≤ rest.length then rest.tail else rest
        { s with snoop := rest ++ [{ pa := ln, stale := dirty none, home := home, way := w }] }

/-- What performing an access to a translated line does beside its bytes. -/
def touchLine (s : State) (die part : Nat) (write : Bool) (x : Nat × Trans) : State :=
  match x.2 with
  | .ok pa _ leaf leafPa =>
    let s := if countsAccess die pa leaf then countAccess s die part x.1 leafPa else s
    if bits leaf 10 9 = 1 then s else touchPool s (some part) pa write
  | _ => s

/-! ### The accesses of a memory word (R166, R167) -/

/-- One lane's access: the virtual address of each byte, in order. -/
structure LaneReq where
  /-- The lane. -/
  lane : Nat
  /-- The bytes. -/
  vas : List Nat
  deriving DecidableEq, Repr

/-- The distinct lines of the accesses, ascending. -/
def linesOf (ls : List LaneReq) : List Nat := sortNats (ls.flatMap (fun l => l.vas.map (fun a => a / 64 * 64)))

/-- The translation of the line of a byte. -/
def lineOf (tr : List (Nat × Trans)) (va : Nat) : Option Trans := look tr (va / 64 * 64)

/-- The physical address of a translated byte. -/
def bytePa (tr : List (Nat × Trans)) (va : Nat) : Nat :=
  match lineOf tr va with
  | some (.ok pa ..) => pa + va % 64
  | _ => 0

/-- Every line of the lane's access translated. -/
def laneOk (tr : List (Nat × Trans)) (l : LaneReq) : Bool :=
  l.vas.all (fun a => match lineOf tr a with
    | some (.ok ..) => true
    | _ => false)

/-- The translated accesses of a word. -/
structure Reached where
  /-- The translation of each line. -/
  tr : List (Nat × Trans)
  /-- The lanes whose every line translated. -/
  ok : List LaneReq
  /-- The lanes that did not. -/
  bad : List LaneReq
  /-- The cause of R167, 0x02 before 0x06. -/
  cause : Option Nat
  deriving DecidableEq, Repr

/-- A cause among the translations. -/
def transCause (tr : List (Nat × Trans)) : Option Nat :=
  if tr.any (fun e => e.2 == .cause 0x02) then some 0x02
  else if tr.any (fun e => e.2 == .cause 0x06) then some 0x06
  else none

/-- Translates every line of a word once (R166). -/
def reachLines (s : State) (t : Team) (q : Want) (ls : List LaneReq) : State × Reached :=
  let y := transLines t q s (linesOf ls)
  (y.1, { tr := y.2, ok := ls.filter (laneOk y.2), bad := ls.filter (fun l => !laneOk y.2 l), cause := transCause y.2 })

/-- The faulting byte addresses of a lane. -/
def faultBytes (tr : List (Nat × Trans)) (l : LaneReq) : List Nat :=
  l.vas.filter (fun a => match lineOf tr a with
    | some (.fault ..) => true
    | _ => false)

/-- The blocks that a lane misses. -/
def missBlocks (tr : List (Nat × Trans)) (l : LaneReq) : List (Nat × Nat) :=
  (l.vas.filterMap (fun a => match lineOf tr a with
    | some (.miss n b) => some (n, b)
    | _ => none)).dedup

/-- A lane has a translation fault. -/
def laneFaults (tr : List (Nat × Trans)) (l : LaneReq) : Bool := faultBytes tr l != []

/-- The fault record of one page of a word (R183, R185). -/
def faultRecOf (s : State) (t : Team) (m : Member) (kind : Nat) (tr : List (Nat × Trans)) (bad : List LaneReq) (page : Nat) : FaultRec :=
  let on := bad.filter (fun l => (faultBytes tr l).any (fun a => a / 4096 = page))
  let va := match leastBy (·.lane) on with
    | some l => ((faultBytes tr l).filter (fun a => a / 4096 = page)).foldl min (2 ^ 57)
    | none => 0
  let info := match lineOf tr va with
    | some (.fault level mal perm) => (level, mal, perm)
    | _ => (0, false, false)
  { time := s.now, pc := m.pc.toNat, lanes := (maskOf (on.map (·.lane))).toNat, slot := m.slot, bank := t.seat.bank,
    core := t.seat.vcore, task := t.task.toNat, va := va, ctx := t.ctx, mal := info.2.1, part := t.part,
    perm := info.2.2, level := info.1, kind := kind, cause := 0x08 }

/-- The distinct faulting pages of a word, ascending. -/
def faultPages (tr : List (Nat × Trans)) (bad : List LaneReq) : List Nat :=
  sortNats (bad.flatMap (fun l => (faultBytes tr l).map (fun a => a / 4096)))

/-- Parks the lanes that did not translate: fault records for the faults, misses sent to the blocks' homes (R183,
R231). -/
def stuckOf (s : State) (tk : Nat) (t : Team) (m : Member) (kind : Nat) (x : Reached) : State × Stuck :=
  let fl := x.bad.filter (laneFaults x.tr)
  let ml := x.bad.filter (fun l => missBlocks x.tr l != [])
  let recs := (faultPages x.tr x.bad).map (faultRecOf s t m kind x.tr x.bad)
  let y := postFaults s (dieOf t.seat.core) recs
  let blocks := (ml.flatMap (missBlocks x.tr)).dedup
  let on (b : Nat × Nat) : List LaneReq := ml.filter (fun l => (missBlocks x.tr l).contains b)
  let misses := blocks.map (fun b =>
    ({ spring := b.1, block := b.2, lanes := maskOf ((on b).map (·.lane)),
       va := ((leastBy (·.lane) (on b)).bind (fun l => l.vas.find? (fun a => lineOf x.tr a == some (.miss b.1 b.2)))).getD 0 } : Missing))
  ({ y.1 with misses := y.1.misses ++ blocks.map (fun b =>
       { ctx := t.ctx, spring := b.1, block := b.2, who := .member tk m.id }) },
   { faults := maskOf (fl.map (·.lane)), misses := misses, kind := kind, unrecorded := !y.2 })

/-! ### Versions (R204, R207, R211) -/

/-- The aligned words that a translated access touches, by physical address, with the virtual address of each. -/
def wordsOf (tr : List (Nat × Trans)) (l : LaneReq) : List (Nat × Nat) :=
  (l.vas.map (fun a => (bytePa tr a / 4 * 4, a / 4 * 4))).dedup

/-- The words of a lane that place marks: all of a write's, and of a read's those on no immutable page and in no
filled spring block (R180, R229). -/
def markWords (tr : List (Nat × Trans)) (write : Bool) (l : LaneReq) : List (Nat × Nat) :=
  (wordsOf tr l).filter (fun w => write || (match lineOf tr w.2 with
    | some (.ok _ q ..) => !q
    | _ => false))

/-- A mark of another team that conflicts with an access to a word (R207, R208): write mark, committed, task. -/
def conflicts (s : State) (tk : Nat) (t : Team) (write : Bool) (w : Nat) : List (Bool × Bool × DWord) :=
  let opens := s.teams.flatMap (fun e =>
    if e.1 = tk then []
    else (if e.2.ver.writes.contains w then [(true, false, e.2.task)] else []) ++
      (if write && e.2.ver.reads.contains w then [(false, false, e.2.task)] else []))
  let held := s.marks.flatMap (fun k =>
    if k.team = tk ∨ k.num ≤ t.ver.since then []
    else (if k.writes.contains w then [(true, true, k.task)] else []) ++
      (if write && k.reads.contains w then [(false, true, k.task)] else []))
  opens ++ held

/-- The race that a word completes: the conflicting word's virtual address for the lowest lane that touches one, and
one of its marks, by a free choice (R207, R210, log entry 3). -/
def raceOf (s : State) (tk : Nat) (t : Team) (tr : List (Nat × Trans)) (write : Bool) (ls : List LaneReq) :
    Option (Nat × Bool × Bool × DWord) :=
  ls.findSome? (fun l => (markWords tr write l).findSome? (fun w =>
    let k := conflicts s tk t write w.1
    (k[Config.freeNat s.free % k.length]?).map (fun c => (w.2, c))))

/-- The charge of marks in bytes (R211). -/
def chargeOf (reads writes : List Nat) : Nat :=
  let wl := (writes.map (· / 64)).dedup
  let rl := ((reads.map (· / 64)).dedup).filter (fun l => !wl.contains l)
  128 * wl.length + 32 * rl.length

/-- A version after an access places its marks. -/
def Version.mark (v : Version) (write : Bool) (ws : List Nat) : Version :=
  if write then { v with writes := ws.foldl (fun acc w => insertNat w acc) v.writes }
  else { v with reads := ws.foldl (fun acc w => insertNat w acc) v.reads }

/-- %raceva and %racetask (R210). -/
def raceRegs (m : Member) (x : Nat × Bool × Bool × DWord) : Member :=
  { m with trap := { m.trap with
      raceva := BitVec.ofNat 64 (x.1 + b2n x.2.2.1 * 2 ^ 62 + b2n x.2.1 * 2 ^ 63)
      racetask := x.2.2.2 } }

/-- The bytes of a version's quota (R70). -/
def Team.quota (t : Team) : Nat := t.spec.vq * 65536

/-- The race check, the quota check and the marks of a versioned word (R207, R211): a cause, or the state with the
marks placed. -/
def versionWord (s : State) (tk : Nat) (t : Team) (m : Member) (tr : List (Nat × Trans)) (write : Bool) (ls : List LaneReq) :
    State × Option Nat :=
  match raceOf s tk t tr write ls with
  | some x => ((s.freed 1).updMember tk m.id (fun m => raceRegs m x), some 0x10)
  | none =>
    let ws := (ls.flatMap (markWords tr write)).map (·.1)
    let v := t.ver.mark write ws
    if t.quota < chargeOf v.reads v.writes then (s, some 0x11)
    else (s.updTeam tk (fun t => { t with ver := t.ver.mark write ws }), none)

/-- A line of a word, or an entry of its walk, is held by a link, a port or a vault (R21, R319, R445). -/
def linesHeld (s : State) (t : Team) (tr : List (Nat × Trans)) : Bool :=
  tr.any (fun e => match e.2 with
    | .ok pa .. => pathHeld s (dieOf t.seat.core) pa
    | .held => true
    | _ => false)

/-! ### Reading and writing bytes -/

/-- A byte as a team reads it, through a record of either MODE: its version's byte, which no other team sees, else memory's
(R195, R204). -/
def readByte (s : State) (t : Team) (pa : Nat) : Byte := (look t.ver.cells pa).getD (Mem.read s.mem pa)

/-! ### Writes that not every lane reads yet (R195, R198, R200) -/

/-- %tid of a lane of the issuing member. -/
def Ctx.tid (c : Ctx) (l : Nat) : Word := ((c.m.lane l).map (·.tid)).getD 0

/-- Two teams lie in one cluster (R192, R312): of one launch with a cluster shape, in one run. -/
def sameCluster (t u : Team) : Bool :=
  t.launch.isSome && t.launch = u.launch && t.seat.run = u.seat.run && decide (1 < t.spec.cw * t.spec.ch)

/-- Two teams lie on one compute die: by their virtual cores where one context holds both (R192), and else by where they stand. -/
def sameDie (t u : Team) : Bool :=
  if t.ctx = u.ctx then dieOf t.seat.vcore = dieOf u.seat.vcore else dieOf t.seat.core = dieOf u.seat.core

/-- A lane of a team, by its group slot and %tid, reads the write or a later one: it made it, it has read it, or it lies in the scope
instance in which the write has been performed (R192, R195, R198). -/
def readsLate (s : State) (tk : Nat) (t : Team) (slot : Nat) (tid : Word) (x : Late) : Bool :=
  x.team = tk && (x.lane = tid || decide (2 ≤ x.upto) || (x.upto = 1 && x.slot = slot)) ||
  x.seen.contains (tk, tid) ||
  (match look s.teams x.team with
   | some u => (decide (3 ≤ x.upto) && sameCluster u t) || (decide (4 ≤ x.upto) && sameDie u t)
   | none => true)

/-- A lane of the issuing member reads the write or a later one. -/
def Ctx.reads (c : Ctx) (s : State) (l : Nat) (x : Late) : Bool := readsLate s c.tk c.t c.m.slot (c.tid l) x

/-- A write of a word as the issuing team sees the word: its version's writes where its version holds a byte of the word, and else
those to memory. -/
def Ctx.lateOn (c : Ctx) (space : Option (Nat × Nat)) (w : Nat) (x : Late) : Bool :=
  let mine := space.isNone && c.t.ver.cells.any (fun e => e.1 / 4 * 4 = w)
  x.space == space && x.word = w && x.ver = mine && (!mine || x.team = c.tk)

/-- The writes of a word that a lane need not read yet, newest first. -/
def Ctx.unread (c : Ctx) (s : State) (l : Nat) (space : Option (Nat × Nat)) (w : Nat) : List Late :=
  (s.late.reverse.filter (c.lateOn space w)).takeWhile (fun x => !c.reads s l x)

/-- How many of these writes the lane's read leaves out: a free value within what R200 allows (log entry 52). -/
def Ctx.behind (c : Ctx) (s : State) (l : Nat) (space : Option (Nat × Nat)) (w : Nat) : Nat :=
  if (c.unread s l space w).isEmpty then 0
  else Config.staleRead c.tk c.m.words (c.tid l).toNat w % ((c.unread s l space w).length + 1)

/-- A byte as a lane reads it, of a word that holds `cur` last. All bytes of the word come from one state (R200). -/
def Ctx.seesByte (c : Ctx) (s : State) (l : Nat) (space : Option (Nat × Nat)) (a : Nat) (cur : Byte) : Byte :=
  match c.behind s l space (a / 4 * 4) with
  | 0 => cur
  | n + 1 => (((c.unread s l space (a / 4 * 4))[n]?).bind (fun x => x.old[a % 4]?)).getD cur

/-- A byte of memory as a lane of the issuing member reads it. -/
def Ctx.laneByte (c : Ctx) (l pa : Nat) : Byte := c.seesByte c.s l none pa (readByte c.s c.t pa)

/-- Marks, from the newest on, every write but the first `n` of a word as read. -/
def markRead (on : Late → Bool) (who : Nat × Word) : Nat → List Late → List Late
  | _, [] => []
  | n, x :: r =>
    if !on x then x :: markRead on who n r
    else match n with
      | 0 => (if x.seen.contains who then x else { x with seen := who :: x.seen }) :: markRead on who 0 r
      | n + 1 => x :: markRead on who n r

/-- The lane has read words: it never goes back behind what it read (R198). -/
def Ctx.sawWords (c : Ctx) (l : Nat) (space : Option (Nat × Nat)) (s : State) (ws : List Nat) : State :=
  ws.foldl (fun s w =>
    if s.late = [] then s
    else { s with late := (markRead (c.lateOn space w) (c.tk, c.tid l) (c.behind s l space w) s.late.reverse).reverse }) s

/-- The lane has read the last value of words of memory: what a read-modify-write reads (R198, R201). -/
def Ctx.sawLast (c : Ctx) (l : Nat) (s : State) (ws : List Nat) : State :=
  { s with late := ws.foldl (fun late w =>
      (markRead (fun x => x.space.isNone && x.word = w && !x.ver) (c.tk, c.tid l) 0 late.reverse).reverse) s.late }

/-- The words of byte addresses. -/
def wordsIn (as : List Nat) : List Nat := (as.map (· / 4 * 4)).dedup

/-- The bytes that a lane's translated access reads. -/
def readLane (c : Ctx) (s : State) (tr : List (Nat × Trans)) (l : LaneReq) : List Byte :=
  l.vas.map (fun a => c.seesByte s l.lane none (bytePa tr a) (readByte s c.t (bytePa tr a)))

/-- The state once lanes have read their translated accesses. -/
def Ctx.sawLanes (c : Ctx) (s : State) (tr : List (Nat × Trans)) (ls : List LaneReq) : State :=
  ls.foldl (fun s l => c.sawWords l.lane none s (wordsIn (l.vas.map (bytePa tr)))) s

/-- What lanes' writes leave behind, lane by lane: each word as it stood before the lane's bytes. `before` gives the bytes before
the first lane's. -/
def Ctx.lateOf (c : Ctx) (space : Option (Nat × Nat)) (ver : Bool) (upto : Nat) (before : Nat → Byte) :
    List (Nat × List Host.Cell) → List Host.Cell → List Late
  | [], _ => []
  | (l, cs) :: r, done =>
    (wordsIn (cs.map (·.1))).map (fun w =>
      ({ space := space, word := w, ver := ver, team := c.tk, lane := c.tid l, slot := c.m.slot, upto := upto, seen := [],
         cut := (List.range 4).filter (fun i => cs.any (fun e => e.1 = w + i))
         old := (List.range 4).map (fun i => ((done.reverse.find? (fun e => e.1 = w + i)).map (·.2)).getD (before (w + i))) } : Late)) ++
    c.lateOf space ver upto before r (done ++ cs)

/-- The writes that some lane need not read yet, newest first: none that is performed at device scope (R192), and none before such a
one of its word (R198). `done` names the words found performed so far. -/
def liveLate (done : List (Option (Nat × Nat) × Nat × Bool)) : List Late → List Late
  | [] => []
  | x :: r =>
    if 5 ≤ x.upto then liveLate ((x.space, x.word, x.ver) :: done) r
    else if done.contains (x.space, x.word, x.ver) then liveLate done r
    else x :: liveLate done r

/-- Keeps the writes that some lane need not read yet. -/
def State.withLate (s : State) (l : List Late) : State := { s with late := (liveLate [] l.reverse).reverse }

/-- Writes join those that not every lane reads yet. -/
def State.addLate (s : State) (ls : List Late) : State := s.withLate (s.late ++ ls)

/-- Bytes of a space have been written by a party whose writes are performed at once for all (an engine, a commit, the host, a line
core): no lane reads an earlier value of their words. -/
def State.overLate (s : State) (space : Option (Nat × Nat)) (as : List Nat) : State :=
  { s with late := s.late.filter (fun x => x.space != space || x.ver || !(wordsIn as).contains x.word) }

/-- A team ends: its version and its objects go, and every party reads its writes to memory. -/
def State.withoutLate (s : State) (tk : Nat) : State :=
  s.withLate ((s.late.filter (fun x => !(x.ver && x.team = tk) && !x.space.any (fun o => o.1 = tk))).map (fun x =>
    if x.team = tk then { x with upto := 5 } else x))

/-- Loads of a team that a test picks have been performed: their results stand as they were accepted (R195, R198). -/
def State.firmLoads (s : State) (tk : Nat) (p : LateLoad → Bool) : State :=
  s.updTeam tk (fun t => { t with members := t.members.map (fun m =>
    { m with pend := m.pend.map (fun q => { q with loads := q.loads.filter (fun x => !p x) }) }) })

/-- Lanes of the issuing member access words again: their earlier loads of these words have been performed (R195). -/
def Ctx.accessAgain (c : Ctx) (s : State) (tr : List (Nat × Trans)) (ls : List LaneReq) : State :=
  s.firmLoads c.tk (fun x => ls.any (fun l => c.tid l.lane = x.lane && l.vas.any (fun a => x.pas.any (fun b => b / 4 = bytePa tr a / 4))))

/-- Writes that lanes of a team, by their group slot and %tid, have made or read are performed at a scope (R195, R217, R218): every party
of the scope instance now reads them, and at device scope every lane. At group scope these are the lanes of the slot's family, in
whatever slot a lane made the write (R100). The lanes' loads have been performed. `on` names the writes that the operation orders. -/
def State.performFor (s : State) (tk : Nat) (t : Team) (slot : Nat) (lanes : List Word) (scope : Nat) (on : Late → Bool) : State :=
  let family := (t.members.filter (fun x => x.slot = slot)).flatMap (fun x => x.lanes.map (fun e => (tk, e.2.tid)))
  let s := s.firmLoads tk (fun x => lanes.contains x.lane)
  s.withLate (s.late.map (fun x =>
    if on x && lanes.any (fun l => readsLate s tk t slot l x) then
      { x with upto := max x.upto (scope + 1), seen := if scope = 0 then family.filter (fun y => !x.seen.contains y) ++ x.seen else x.seen }
    else x))

/-- The writes of the present lanes of the issuing member are performed at a scope. -/
def Ctx.performAt (c : Ctx) (scope : Nat) (on : Late → Bool) (s : State) : State :=
  s.performFor c.tk c.t c.m.slot (c.m.present.map c.tid) scope on

/-- Writes one byte of memory. -/
def Mem.put (m : Bytes) (a : Nat) (b : Byte) : Bytes := setD 0 m a b

/-- Writes bytes at physical addresses, in order. -/
def pokeCells (s : State) (cells : List Host.Cell) : State :=
  { s with mem := cells.foldl (fun m c => Mem.put m c.1 c.2) s.mem }

/-- Writes bytes for a team: into its version under MODE V, else into memory, which is a direct write (R204, R213). A direct write of
a byte that the team's version holds comes after the version's write of it, which then no longer stands (R195, log entry 76). -/
def writeCells (s : State) (tk : Nat) (v : Bool) (cells : List Host.Cell) : State :=
  if cells = [] then s
  else if v then s.updTeam tk (fun t => { t with ver := { t.ver with cells := cells.foldl (fun m c => set m c.1 c.2) t.ver.cells } })
  else (pokeCells s cells).updTeam tk (fun t => { t with ver := { t.ver with
    dirw := true, cells := t.ver.cells.filter (fun e => !cells.any (fun x => x.1 = e.1)) } })

/-- Touches every translated line of the performed lanes. -/
def touchLines (s : State) (t : Team) (write : Bool) (tr : List (Nat × Trans)) (ls : List LaneReq) : State :=
  let on := linesOf ls
  (tr.filter (fun e => on.contains e.1)).foldl (fun s e => touchLine s (dieOf t.seat.core) t.part write e) s

/-! ### A memory word as a whole -/

/-- What a memory word asks of the memory unit. -/
structure MemAsk where
  /-- The record. -/
  r : Rec
  /-- KIND of its fault records (R185). -/
  kind : Nat
  /-- What it needs. -/
  need : Need
  /-- It is a read that R229 makes a requester. -/
  requester : Bool
  /-- The lanes' accesses. -/
  lanes : List LaneReq
  /-- It is a fill of a stash window, or the write-back of a STASH word (R149). -/
  back : Bool := false
  deriving DecidableEq, Repr

/-- The access as the translation sees it. -/
def wantOf (t : Team) (a : MemAsk) : Want :=
  { die := dieOf t.seat.core, core := some t.seat.core, ctx := t.ctx, need := a.need, spring := recS a.r, requester := a.requester,
    back := a.back }

/-- A memory word writes. -/
def Need.writes : Need → Bool
  | .write | .atomic => true
  | _ => false

/-- Translates, checks versions, performs the lanes that translated by `perform`, and parks, completes or takes the
cause (R166, R167, R183, R207, R211). `perform` gets the state, the translations and a lane list, and answers the state
and the outcome for them. A word waits at issue while a link or a port holds its path (R21, log entry 15). -/
def memWord (c : Ctx) (uniform : Bool) (a : MemAsk) (perform : State → List (Nat × Trans) → List LaneReq → State × Out) : Res :=
  let v := recV a.r
  if v && c.t.ver.waiting && a.lanes.any (fun l => l.vas != []) then .wait c.s
  else
    let y := reachLines c.s c.t (wantOf c.t a) a.lanes
    let x := y.2
    if linesHeld y.1 c.t x.tr then .wait c.s else
    let chk := if v && !recI a.r || v && a.need.writes then versionWord y.1 c.tk c.t c.m x.tr a.need.writes x.ok else (y.1, none)
    match chk.2 with
    | some k => .cause chk.1 k 0
    | none =>
      let s := c.accessAgain (touchLines chk.1 c.t a.need.writes x.tr x.ok) x.tr x.ok
      let p := perform s x.tr x.ok
      let fin := if uniform then (if x.bad = [] then maskOf c.act else 0)
        else maskOf (c.act.filter (fun l => !x.bad.any (fun b => b.lane = l)))
      match x.cause with
      | some k => .partCause p.1 p.2 fin k 0
      | none =>
        if x.bad = [] then .done p.1 p.2
        else
          let z := stuckOf p.1 c.tk c.t c.m a.kind x
          .part z.1 p.2 fin (some z.2)

end Sys2Proof.Machine
end

