-- ==== Sys2Proof/Machine/Records.lean ====
section
/-! DEFINITION. Loads and stores through records, texture sampling and the record words (R165, R169 to R175). -/

namespace Sys2Proof.Machine

/-- The size in bytes of a type code of R63. -/
def tySize (ty : Nat) : Nat := intBits ty / 8

/-- The record of a word whose field A names a descriptor. -/
def Ctx.recA (c : Ctx) : Rec := c.d (fA c.w)

/-- The offset of a lane: 32 bits, or the pair through the flat record (R163, R169). -/
def Ctx.off (c : Ctx) (l : Nat) : Nat := c.xw (recFlat c.recA) (selB c.w) l (fB c.w)

/-- The lanes that a word with an x destination works for. -/
def Ctx.dLanes (c : Ctx) : List Nat := c.lanes (selD c.w)

/-- An offset out of bounds for `n` bytes (R163, R165). -/
def outOfBounds (r : Rec) (o n : Nat) : Bool := if recFlat r then decide (2 ^ 57 ≤ o) else decide (recExtent r < o + n)

/-- Permission for a need (R165). -/
def permits (r : Rec) (need : Need) : Bool :=
  match need with
  | .read => recR r
  | .write => recW r && !recI r
  | .atomic => recR r && recW r && !recI r
  | .fetch => recX r

/-- Checks 2 to 4 of R165 on accesses of `n` bytes at the lanes' offsets. `odd` is a register alignment that the word
breaks. -/
def recChecks (r : Rec) (need : Need) (n : Nat) (odd : Bool) (offs : List Nat) : Option Nat :=
  if odd || offs.any (fun o => o % n ≠ 0) then some 0x04
  else if offs.any (fun o => outOfBounds r o n) then some 0x05
  else if !permits r need then some 0x06
  else none

/-- The virtual addresses of `n` bytes from a record offset (R164). -/
def recVas (r : Rec) (o n : Nat) : List Nat := (List.range n).map (fun i => recVa r (o + i))

/-- Lane accesses of `n` bytes. -/
def laneReqs (r : Rec) (n : Nat) (off : Nat → Nat) (ls : List Nat) : List LaneReq :=
  ls.map (fun l => { lane := l, vas := recVas r (off l) n })

/-- A word's offset pair through the flat record starts at an odd register (R163). -/
def Ctx.oddFlat (c : Ctx) : Bool := recFlat c.recA && fB c.w % 2 = 1

/-- A loaded value under R29: sign-extended for .i8 and .i16. -/
def loaded (ty : Nat) (bs : List Byte) : Nat := widen ty (leVal bs)

/-- The direct loads of a lane into registers, four bytes each: those within one aligned word, of no spring (R99, R200). -/
def Ctx.laneLoads (c : Ctx) (tr : List (Nat × Trans)) (ty : Nat) (l : LaneReq) (ps : List Place) : List LateLoad :=
  if recV c.recA || recS c.recA then []
  else (ps.zipIdx.map (fun p =>
    ({ place := p.1, lane := c.tid l.lane, pas := ((l.vas.map (bytePa tr)).drop (4 * p.2)).take 4, ty := ty } : LateLoad))).filter
      (fun x => (wordsIn x.pas).length = 1)

/-- LDR (R170). -/
def entryLdr (c : Ctx) : Res :=
  let r := c.recA
  let ty := mBits c.w 4 0
  let n := tySize ty
  let ls := c.dLanes
  match recChecks r .read n c.oddFlat (ls.map c.off) with
  | some k => .cause c.s k 0
  | none =>
    memWord c (selD c.w) { r := r, kind := 0, need := .read, requester := true, lanes := laneReqs r n c.off ls }
      (fun s tr ok => (c.sawLanes s tr ok, { Out.late (ok.flatMap (fun l => dstX c (ty = 11) l.lane (loaded ty (readLane c s tr l)))) with
        loads := ok.flatMap (fun l => c.laneLoads tr (if ty = 11 then 2 else ty) l ((dstX c (ty = 11) l.lane 0).map (·.1))) }))

/-- The cells that a lane's bytes write. -/
def laneCells (tr : List (Nat × Trans)) (l : LaneReq) (bs : List Byte) : List Host.Cell :=
  (l.vas.zip bs).map (fun e => (bytePa tr e.1, e.2))

/-- The cells that each lane of a store writes. -/
def cellsOf (data : Nat → List Byte) (tr : List (Nat × Trans)) (ok : List LaneReq) : List (Nat × List Host.Cell) :=
  ok.map (fun l => (l.lane, laneCells tr l (data l.lane)))

/-- The writes of a word, newest first, once one more is among them, which comes before the `n` newest that `on` picks; and the bytes of
the word that those have written (R198). `e` is the write, with what the word held before it if it is the newest; `cells` are its bytes. -/
def slipUnder (on : Late → Bool) (e : Late) (cells : List Host.Cell) : Nat → List Late → List Late × List Nat
  | 0, l => (e :: l, [])
  | _ + 1, [] => ([e], [])
  | n + 1, x :: r =>
    if on x then
      let y := slipUnder on { e with old := x.old } cells n r
      let put (b : Byte × Nat) : Byte :=
        if y.2.contains b.2 then b.1 else ((cells.find? (fun z => z.1 = e.word + b.2)).map (·.2)).getD b.1
      ({ x with old := x.old.zipIdx.map put } :: y.1, y.2 ++ x.cut)
    else
      let y := slipUnder on e cells (n + 1) r
      (x :: y.1, y.2)

/-- A lane's bytes of one word are written (R195, R200): to a version, or to memory. Other lanes read them once they are performed, at a
scope below `upto` at once. A plain store, of `upto` 0, may come before other lanes' writes of the word that nothing orders before it, by
a free value, but not before those that lanes `done` of its own word have made (R99, R166, R198; log entry 52). A direct write to a word
that the team's version holds is performed at once (log entry 76). -/
def State.storeWord (s : State) (tk slot : Nat) (tid : Word) (words : Nat) (v : Bool) (upto : Nat) (done : List Word) (w : Nat)
    (cells : List Host.Cell) : State :=
  match look s.teams tk with
  | none => s
  | some t =>
    let on (x : Late) : Bool := x.space.isNone && x.word = w && x.ver = v && (!v || x.team = tk)
    let e : Late := { space := none, word := w, ver := v, team := tk, lane := tid, slot := slot, upto := upto, seen := []
                      cut := (List.range 4).filter (fun i => cells.any (fun x => x.1 = w + i))
                      old := (List.range 4).map (fun i => if v then readByte s t (w + i) else Mem.read s.mem (w + i)) }
    if !v && t.ver.cells.any (fun x => x.1 / 4 * 4 = w) then writeCells s tk v cells
    else
      let free := (s.late.reverse.filter on).takeWhile (fun x => !readsLate s tk t slot tid x && !(x.team = tk && done.contains x.lane))
      let n := if decide (upto ≠ 0) || free.isEmpty then 0 else Config.racingStore tk words tid.toNat w % (free.length + 1)
      let y := slipUnder on e cells n s.late.reverse
      ((writeCells s tk v (cells.filter (fun x => !y.2.contains (x.1 - w)))).updTeam tk (fun t =>
        { t with ver := { t.ver with dirw := t.ver.dirw || !v } })).withLate y.1.reverse

/-- Lanes' bytes are written one lane after the other; `done` are those written before. -/
def Ctx.storeFrom (c : Ctx) (v : Bool) (upto : Nat) (done : List (Nat × List Host.Cell)) : State → List (Nat × List Host.Cell) → State
  | s, [] => s
  | s, (l, cs) :: r =>
    let below (w : Nat) : List Word := (done.filter (fun e => e.2.any (fun x => x.1 / 4 * 4 = w))).map (fun e => c.tid e.1)
    let put (s : State) (w : Nat) : State :=
      s.storeWord c.tk c.m.slot (c.tid l) c.m.words v upto (below w) w (cs.filter (fun x => x.1 / 4 * 4 = w))
    c.storeFrom v upto (done ++ [(l, cs)]) ((wordsIn (cs.map (·.1))).foldl put s) r

/-- Lanes' bytes are written, a higher lane's last (R166). -/
def Ctx.storeCells (c : Ctx) (s : State) (v : Bool) (upto : Nat) (cs : List (Nat × List Host.Cell)) : State := c.storeFrom v upto [] s cs

/-- Performs a store: each lane's bytes, a higher lane last (R166). -/
def storeLanes (c : Ctx) (v : Bool) (data : Nat → List Byte) (s : State) (tr : List (Nat × Trans)) (ok : List LaneReq) :
    State × Out :=
  (c.storeCells s v 0 (cellsOf data tr ok), { Out.none with var := true })

/-- STR (R170). -/
def entryStr (c : Ctx) : Res :=
  let r := c.recA
  let ty := mBits c.w 4 0
  let n := tySize ty
  match recChecks r .write n c.oddFlat (c.act.map c.off) with
  | some k => .cause c.s k 0
  | none =>
    memWord c false { r := r, kind := 1, need := .write, requester := false, lanes := laneReqs r n c.off c.act }
      (storeLanes c (recV r) (fun l => toBytes n (c.c' (ty = 11) l)))

/-- The offset of an element access (R170). -/
def Ctx.elemOff (c : Ctx) (l : Nat) : Nat := c.v l (fB c.w) * recStride c.recA

/-- Word i of a run of bytes. -/
def wordOf (bs : List Byte) (i : Nat) : Nat := leVal ((bs.drop (4 * i)).take 4)

/-- The register that an element access names breaks R170. -/
def elemOdd (r : Rec) (f : Nat) : Bool := f % eszRegs r ≠ 0 || 256 < f + eszRegs r

/-- LDG (R170). -/
def entryLdg (c : Ctx) : Res :=
  let r := c.recA
  let n := 2 ^ recEsz r
  if recFlat r then .cause c.s 0x06 0
  else match recChecks r .read n (elemOdd r (fD c.w)) (c.act.map c.elemOff) with
  | some k => .cause c.s k 0
  | none =>
    memWord c false { r := r, kind := 3, need := .read, requester := true, lanes := laneReqs r n c.elemOff c.act }
      (fun s tr ok => (c.sawLanes s tr ok, { Out.late (ok.flatMap (fun l =>
        let bs := readLane c s tr l
        (List.range (eszRegs r)).map (fun i => (Place.v l.lane (fD c.w + i), wordOf bs i)))) with
        loads := ok.flatMap (fun l => c.laneLoads tr 2 l ((List.range (eszRegs r)).map (fun i => Place.v l.lane (fD c.w + i)))) }))

/-- STG (R170). -/
def entryStg (c : Ctx) : Res :=
  let r := c.recA
  let n := 2 ^ recEsz r
  if recFlat r then .cause c.s 0x06 0
  else match recChecks r .write n (elemOdd r (fC c.w)) (c.act.map c.elemOff) with
  | some k => .cause c.s k 0
  | none =>
    memWord c false { r := r, kind := 4, need := .write, requester := false, lanes := laneReqs r n c.elemOff c.act }
      (storeLanes c (recV r) (fun l =>
        ((List.range (eszRegs r)).flatMap (fun i => toBytes 4 (c.v l (fC c.w + i)))).take n))

/-- The bytes that STU selects in a lane (R171). -/
def Ctx.stuBytes (c : Ctx) (n l : Nat) : List Nat := (List.range n).filter (fun j => bit (c.v l (fD c.w)) j)

/-- STU (R171). Through the flat record the offset is checked, and a selected byte past address 2^57 − 1 wraps to address 0 on:
no rule states its address (log entry 77). -/
def entryStu (c : Ctx) : Res :=
  let r := c.recA
  let wide := mBits c.w 4 0 = 11
  let n := if wide then 8 else 4
  let ls := c.act.filter (fun l => c.stuBytes n l ≠ [])
  if c.oddFlat then .cause c.s 0x04 0
  else if ls.any (fun l => (c.stuBytes n l).any (fun j => if recFlat r then outOfBounds r (c.off l) 1 else outOfBounds r (c.off l + j) 1)) then .cause c.s 0x05 0
  else if ls ≠ [] ∧ !permits r .write then .cause c.s 0x06 0
  else
    let data (l : Nat) : Nat := c.v l (fC c.w) + (if wide then 2 ^ 32 * c.v l (fC c.w + 1) else 0)
    memWord c false { r := r, kind := 5, need := .write, requester := false,
                      lanes := ls.map (fun l => { lane := l, vas := (c.stuBytes n l).map (fun j => recVa r (c.off l + j)) }) }
      (storeLanes c (recV r) (fun l => (c.stuBytes n l).map (fun j => BitVec.ofNat 8 (data l / 2 ^ (8 * j)))))

/-- PREF: no architectural effect (R172). -/
def entryPref (c : Ctx) : Res := .done c.s Out.none

/-! ### Sampling (R173) -/

/-- Texel size of a sample format. -/
def texelSize (f : Nat) : Nat := if f = 2 then 8 else if f = 4 then 16 else 4

/-- Channel k of a texel. -/
def texelChannel (f : Nat) (bs : List Byte) (k : Nat) : Ex :=
  if f = 1 then .num false ((bs[k]?.getD 0).toNat) 255
  else if f = 2 then decode f16 (leVal ((bs.drop (2 * k)).take 2))
  else if f = 3 then (if k = 0 then decode f32 (leVal bs) else if k = 3 then .num false 1 1 else .num false 0 1)
  else decode f32 (wordOf bs k)

/-- The position u × n − 1/2 × h of a coordinate as a floor and the fraction in 256ths, clamped to a wide range when
infinite (R173); `h` is 1 for bilinear filtering. -/
def texPos (u : Ex) (n h : Nat) (wrap : Bool) : Int × Nat :=
  let far : Int := 2 ^ 200
  match u with
  | .nan => ((-(h : Int)) / 2, if h = 1 then 128 else 0)
  | .inf neg => if wrap then ((-(h : Int)) / 2, if h = 1 then 128 else 0) else (if neg then -far else far, 0)
  | .num neg p q =>
    let num : Int := 2 * signedNum neg (p * n) - (h : Int) * q
    let den : Int := 2 * q
    let i := num / den
    (i, ((num - i * den) * 256 / den).toNat)

/-- A texel index under wrapping or clamping. -/
def texIndex (wrap : Bool) (n : Nat) (i : Int) : Nat :=
  if wrap then (i % (n : Int)).toNat else (clampI 0 ((n : Int) - 1) i).toNat

/-- The taps of a sample that are read: column, row, weight in 65536ths. -/
def taps (lin wrap : Bool) (w h : Nat) (u v : Ex) : List (Nat × Nat × Nat) :=
  let x := texPos u w (b2n lin) wrap
  let y := texPos v h (b2n lin) wrap
  let all : List (Int × Int × Nat) :=
    if lin then
      [(x.1, y.1, (256 - x.2) * (256 - y.2)), (x.1 + 1, y.1, x.2 * (256 - y.2)),
       (x.1, y.1 + 1, (256 - x.2) * y.2), (x.1 + 1, y.1 + 1, x.2 * y.2)]
    else [(x.1, y.1, 65536)]
  (all.filter (fun t => t.2.2 ≠ 0)).map (fun t => (texIndex wrap w t.1, texIndex wrap h t.2.1, t.2.2))

/-- An exact sum with the special cases of R43. -/
def exactSum (ps : List Ex) : Ex :=
  if ps.any Ex.isNan || (ps.contains (.inf false) && ps.contains (.inf true)) then .nan
  else if ps.contains (.inf false) then .inf false
  else if ps.contains (.inf true) then .inf true
  else
    let sum := ps.foldl (fun acc x => Ex.add 0 acc x) (.num true 0 1)
    if sum.isZero then .zero (ps.all (fun x => x.isZero && x.neg)) else sum

/-- Columns of a texture. -/
def texWidth (r : Rec) : Nat := if recWidth r = 0 then recStride r / texelSize (recSfmt r) else recWidth r
/-- Rows of a texture. -/
def texHeight (r : Rec) : Nat := recExtent r / recStride r

/-- The taps of a lane. -/
def Ctx.taps (c : Ctx) (l : Nat) : List (Nat × Nat × Nat) :=
  Machine.taps (mBit c.w 11) (mBit c.w 10) (texWidth c.recA) (texHeight c.recA)
    (decode f32 (c.v l (fB c.w))) (decode f32 (c.v l (fC c.w)))

/-- SAMPLE (R173). -/
def entrySample (c : Ctx) : Res :=
  let r := c.recA
  let t := texelSize (recSfmt r)
  let w := texWidth r
  if recFlat r || recSfmt r = 0 then .cause c.s 0x06 0
  else if recStride r % t ≠ 0 then .cause c.s 0x04 0
  else if w = 0 ∨ texHeight r = 0 ∨ recStride r < w * t then .cause c.s 0x05 0
  else if !recR r then .cause c.s 0x06 0
  else
    let off (k : Nat × Nat × Nat) : Nat := k.2.1 * recStride r + k.1 * t
    memWord c false { r := r, kind := 6, need := .read, requester := true,
                      lanes := c.act.map (fun l => { lane := l, vas := (c.taps l).flatMap (fun k => recVas r (off k) t) }) }
      (fun s tr ok => (c.sawLanes s tr ok, Out.late (ok.flatMap (fun l =>
        let bs := readLane c s tr l
        let ks := c.taps l.lane
        (List.range 4).map (fun ch =>
          let e := exactSum (ks.zipIdx.map (fun k =>
            (texelChannel (recSfmt r) ((bs.drop (t * k.2)).take t) ch).mul (.num false k.1.2.2 65536)))
          (Place.v l.lane (fD c.w + ch), encodeQuiet f32 e 0 false))))))

/-! ### Record words (R174, R175) -/

/-- RECLD (R174): a record that is not valid is written as the null record. -/
def entryRecld (c : Ctx) : Res :=
  let r := c.recA
  let o := c.sc (fB c.w)
  let ls := c.act.take 1
  if recFlat r then .cause c.s 0x06 0
  else match recChecks r .read 32 false [o] with
  | some k => .cause c.s k 0
  | none =>
    memWord c true { r := r, kind := 7, need := .read, requester := true, lanes := laneReqs r 32 (fun _ => o) ls }
      (fun s tr ok => (c.sawLanes s tr ok, Out.late (ok.map (fun l =>
        let x : Rec := BitVec.ofNat 256 (leVal (readLane c s tr l))
        (Place.d (fD c.w), if recPlain x then x.toNat else 0)))))

/-- A record with bits [hi:lo] replaced. -/
def setBits (r : Rec) (hi lo x : Nat) : Rec :=
  BitVec.ofNat 256 (r.toNat - rbits r hi lo * 2 ^ lo + x % 2 ^ (hi + 1 - lo) * 2 ^ lo)

/-- What RECSET of a field code makes of a record (R175); none for a slice beyond the extent. The BASE of a slice that starts at
2^57, at the end of a record that ends there, does not fit 57 bits and wraps to 0, with EXTENT 0 (log entry 77). -/
def recset (n x : Nat) (r : Rec) : Option Rec :=
  if n = 2 then some (setBits r 111 64 (min (recExtent r) x))
  else if n = 4 then some (setBits r 191 160 x)
  else if n = 5 then some (setBits r 127 112 x)
  else if n = 6 then some (setBits (setBits r 236 234 (rbits r 236 234 &&& bits x 2 0)) 237 237 (bits x 3 3))
  else if n = 7 then
    (if x ≤ recExtent r then some (setBits (setBits r 56 0 (recBase r + x)) 111 64 (recExtent r - x)) else none)
  else some (setBits (setBits (setBits r 243 241 (bits x 2 0)) 247 244 (bits x 7 4)) 255 248 (bits x 15 8))

/-- RECSET (R175). That a dA which is the flat record takes 0x02 here, after causes 0x03 and 0x30, is the model's choice (log entry 91). -/
def entryRecset (c : Ctx) : Res :=
  if recFlat c.recA then .cause c.s 0x02 0
  else match recset (fB c.w) (c.sc (fC c.w)) c.recA with
  | none => .cause c.s 0x05 0
  | some r => if recPlain r then .done c.s (Out.fixed [(.d (fD c.w), r.toNat)]) else .cause c.s 0x06 0

/-- What RECQRY of a field code reads (R175). -/
def recqry (n : Nat) (r : Rec) : Nat :=
  if n = 0 then rbits r 31 0
  else if n = 1 then rbits r 56 32
  else if n = 2 then rbits r 95 64
  else if n = 3 then rbits r 111 96
  else if n = 4 then recStride r
  else if n = 5 then recWidth r
  else if n = 6 then rbits r 240 234
  else recSfmt r * 2 ^ 8 + recSwz r * 2 ^ 4 + recEsz r

/-- RECQRY (R175). -/
def entryRecqry (c : Ctx) : Res := .done c.s (Out.fixed [(.s (fD c.w), recqry (fB c.w) c.recA)])

/-- LDR (R170). -/
def execLdr (w : CWord) (s : State) : Host.Outcome State Fault Refusal :=
  calud (rowAt 0x170) entryLdr w s

/-- STR (R170). -/
def execStr (w : CWord) (s : State) : Host.Outcome State Fault Refusal :=
  calud (rowAt 0x171) entryStr w s

/-- LDG (R170). -/
def execLdg (w : CWord) (s : State) : Host.Outcome State Fault Refusal :=
  calud (rowAt 0x172) entryLdg w s

/-- STG (R170). -/
def execStg (w : CWord) (s : State) : Host.Outcome State Fault Refusal :=
  calud (rowAt 0x173) entryStg w s

/-- STU (R171). -/
def execStu (w : CWord) (s : State) : Host.Outcome State Fault Refusal :=
  calud (rowAt 0x174) entryStu w s

/-- PREF (R172). -/
def execPref (w : CWord) (s : State) : Host.Outcome State Fault Refusal :=
  calud (rowAt 0x175) entryPref w s

/-- SAMPLE (R173). -/
def execSample (w : CWord) (s : State) : Host.Outcome State Fault Refusal :=
  calud (rowAt 0x176) entrySample w s

/-- RECLD (R174). -/
def execRecld (w : CWord) (s : State) : Host.Outcome State Fault Refusal :=
  calud (rowAt 0x177) entryRecld w s

/-- RECSET (R175). -/
def execRecset (w : CWord) (s : State) : Host.Outcome State Fault Refusal :=
  calud (rowAt 0x178) entryRecset w s

/-- RECQRY (R175). -/
def execRecqry (w : CWord) (s : State) : Host.Outcome State Fault Refusal :=
  calud (rowAt 0x179) entryRecqry w s

end Sys2Proof.Machine
end

