-- ==== Sys2Proof/Machine/Local.lean ====
section
/-! DEFINITION. Local store: buffers, stash windows, full/empty words and arrival slots (R138 to R154). -/

namespace Sys2Proof.Machine

/-- A team's object. -/
def Team.obj (t : Team) (n : Nat) : Option Obj := t.objs[n]?
/-- Changes a team's object. -/
def State.updObj (s : State) (tk n : Nat) (f : Obj → Obj) : State :=
  s.updTeam tk (fun t => { t with objs := t.objs.modify n f })

/-- The checks of R141: the object of field A, of an accepted kind. -/
def Ctx.objOf (c : Ctx) (kinds : List ObjKind) : Except Nat Obj :=
  match c.t.obj (fA c.w) with
  | none => .error 0x03
  | some o => if kinds.contains o.kind then .ok o else .error 0x14

/-! ### Stash windows (R147 to R151) -/

/-- An entry that is not listed. -/
def StashEntry.zero : StashEntry := { st := .invalid, dirty := 0 }
/-- Entry i of a window. -/
def Obj.entry (o : Obj) (i : Nat) : StashEntry := get StashEntry.zero o.entries i
/-- Sets entry i of a window. -/
def Obj.setEntry (o : Obj) (i : Nat) (e : StashEntry) : Obj := { o with entries := setD StashEntry.zero o.entries i e }

/-- The checks of R149 on accesses of `n` bytes at window offsets. -/
def stashChecks (o : Obj) (write : Bool) (n : Nat) (offs : List Nat) : Option Nat :=
  if offs.any (fun x => decide (recExtent o.recd < o.offset + x + n)) then some 0x05
  else if !permits o.recd (if write then .write else .read) then some 0x06
  else none

/-- The record bytes that a fill of entry i reads, as window offsets: those that are not dirty and lie within the
extent (R148). -/
def Obj.fillBytes (o : Obj) (i : Nat) : List Nat :=
  if (o.entry i).st = .valid then []
  else ((List.range 128).filter (fun j => !(o.entry i).dirty.getLsbD j && decide (o.offset + 128 * i + j < recExtent o.recd))).map
    (fun j => 128 * i + j)

/-- The entry after its fill: the bytes read stand at their offsets, bytes beyond the extent are zero (R148). -/
def Obj.filled (o : Obj) (i : Nat) (offs : List Nat) (bs : List Byte) : Obj :=
  if (o.entry i).st = .valid then o
  else
    let clear := (List.range 128).filter (fun j => !(o.entry i).dirty.getLsbD j)
    let data := clear.foldl (fun m j => Mem.put m (128 * i + j) 0) o.data
    { o.setEntry i { o.entry i with st := .valid } with data := (offs.zip bs).foldl (fun m e => Mem.put m e.1 e.2) data }

/-- The bytes of a store merged into a window (R148). -/
def Obj.stashStore (o : Obj) (off : Nat) (bs : List Byte) : Obj :=
  let i := off / 128
  let e := o.entry i
  let mask := (List.range bs.length).foldl (fun m j => m ||| (1#128 <<< (off % 128 + j))) e.dirty
  { o.setEntry i { st := if e.st = .invalid then .alloc else e.st, dirty := mask } with data := Mem.write o.data off bs }

/-- The dirty bytes of a window's entry, as window offsets. -/
def Obj.dirtyBytes (o : Obj) (i : Nat) : List Nat :=
  ((List.range 128).filter (fun j => (o.entry i).dirty.getLsbD j)).map (fun j => 128 * i + j)

/-- The entries of a window that hold dirty bytes. -/
def Obj.dirtyEntries (o : Obj) : List Nat := (o.entries.filter (fun e => e.2.dirty != 0)).map (·.1)

/-- An entry after its write-back (R150). -/
def Obj.cleaned (o : Obj) (i : Nat) : Obj :=
  let e := o.entry i
  o.setEntry i (if e.st = .valid then { e with dirty := 0 } else StashEntry.zero)

/-- The bytes of a window's entries, as window offsets with their values. -/
def Obj.dirtyCells (o : Obj) : List Host.Cell := o.dirtyEntries.flatMap (fun i => (o.dirtyBytes i).map (fun x => (x, Mem.read o.data x)))

/-- The bytes of window `n` that a write-back stores: those that STASH words have taken and not yet written back (R151), under the dirty
ones. -/
def Team.backCells (t : Team) (n : Nat) (o : Obj) : List Host.Cell :=
  (((t.flushes.filter (fun f => f.obj = n)).flatMap (·.cells)).filter (fun e => !o.dirtyCells.any (fun x => x.1 = e.1))) ++ o.dirtyCells

/-- Stores bytes of a window, by window offset, through its record: byte-masked stores, one access for each entry (R150). `after` says
what becomes of the entries whose bytes translated, and `quiet` that a STASH word stores (R149). -/
def storeBack (c : Ctx) (quiet : Bool) (o : Obj) (cells : List Host.Cell) (after : List Nat → State → State) : Res :=
  let lane := c.act.headD 0
  let va (x : Nat) : Nat := recVa o.recd (o.offset + x)
  let ents := (cells.map (·.1 / 128)).dedup
  let on (i : Nat) : List Host.Cell := cells.filter (fun e => e.1 / 128 = i)
  memWord c true { r := o.recd, kind := 9, need := .write, requester := false,
                   lanes := ents.map (fun i => { lane := lane, vas := (on i).map (fun e => va e.1) }), back := quiet }
    (fun s tr ok =>
      let done := ents.filter (fun i => ok.any (fun l => l.vas == (on i).map (fun e => va e.1)))
      let put := (done.flatMap on).map (fun e => (bytePa tr (va e.1), e.2))
      (after done (c.storeCells s (recV o.recd) 2 [(lane, put)]), Out.none))

/-- Entries' bytes of the snapshots of window `n` that a test picks are written back (R151). -/
def Team.flushed (t : Team) (n : Nat) (pick : Flush → Bool) (done : List Nat) : Team :=
  { t with flushes := (t.flushes.map (fun f =>
      if f.obj = n && pick f then { f with cells := f.cells.filter (fun e => !done.contains (e.1 / 128)) } else f)).filter (·.cells != []) }

/-- The write-back of a team's window `n` by a word (R150): entries whose bytes translated are clean afterwards, and no snapshot holds a
byte of theirs. -/
def writeBack (c : Ctx) (n : Nat) (o : Obj) : Res :=
  storeBack c false o (c.t.backCells n o) (fun done s =>
    (s.updObj c.tk n (fun o => done.foldl (fun o i => o.cleaned i) o)).updTeam c.tk (fun t => t.flushed n (fun _ => true) done))

/-- A park of a write-back on behalf of a word that has performed no lane: every active lane waits for it. -/
def Res.forAll (c : Ctx) : Res → Res
  | .part s o _ (some k) => .part s o 0 (some { k with faults := maskOf c.act })
  | .partCause s o _ k arg => .partCause s o 0 k arg
  | r => r

/-- The write-back of every window, and of what STASH words of the team have not written back yet, before a release of cluster scope or wider (R150): then the word goes on by `k`. -/
def writeBackAll (c : Ctx) (k : Ctx → Res) : List Nat → Res
  | [] => k c
  | n :: r =>
    match c.t.obj n with
    | some o =>
      if o.kind = .stash && c.t.backCells n o != [] then
        match writeBack c n o with
        | .done s _ =>
          (match look s.teams c.tk with
           | some t => writeBackAll { c with s := s, t := t } k r
           | none => .done s Out.none)
        | x => x.forAll c
      else writeBackAll c k r
    | none => writeBackAll c k r

/-- No window of the team holds a dirty byte (R150), and no STASH word has bytes to write back (R151). -/
def Team.clean (t : Team) : Bool := t.flushes = [] && t.objs.all (fun o => !(o.kind = .stash && o.dirtyEntries != []))

/-- A release of cluster scope or wider by the word: the windows' write-back first (R150). -/
def afterWriteBack (c : Ctx) (k : Ctx → Res) : Res := writeBackAll c k (List.range c.t.objs.length)

/-- An acquire of cluster scope or wider: every VALID entry of every window drops its clean bytes (R150). -/
def Team.dropClean (t : Team) : Team :=
  { t with objs := t.objs.map (fun o =>
      if o.kind = .stash then
        { o with entries := o.entries.filterMap (fun e =>
            if e.2.st = .valid then (if e.2.dirty = 0 then none else some (e.1, { e.2 with st := .alloc })) else some e) }
      else o) }

/-! ### LDL and STL (R142) -/

/-- The window or object offset of a lane. -/
def Ctx.lsOff (c : Ctx) (l : Nat) : Nat := c.x (selB c.w) l (fB c.w)

/-- The checks of R142 after the object's own: alignment, then bounds. -/
def lsChecks (o : Obj) (n : Nat) (offs : List Nat) : Option Nat :=
  if offs.any (fun x => x % n ≠ 0) then some 0x04
  else if offs.any (fun x => decide (o.bytes < x + n)) then some 0x05
  else none

/-- Bytes that a fill of window `n` has read, at window offsets: those that a STASH word has issued to write back and that are not
written yet are the window's own (R151). -/
def Team.underFlush (t : Team) (n : Nat) (offs : List Nat) (bs : List Byte) : List Byte :=
  let cells := (t.flushes.filter (fun f => f.obj = n)).flatMap (·.cells)
  (offs.zip bs).map (fun e => ((cells.reverse.find? (fun x => x.1 = e.1)).map (·.2)).getD e.2)

/-- The bytes that a lane reads of a buffer or of a full/empty word array (R142, R153). -/
def Ctx.objBytes (c : Ctx) (o : Obj) (off n l : Nat) : List Byte :=
  (List.range n).map (fun i => c.seesByte c.s l (some (c.tk, fA c.w)) (off + i) (Mem.read o.data (off + i)))

/-- The state once lanes have read a buffer or a full/empty word array. -/
def Ctx.sawObj (c : Ctx) (n : Nat) (ls : List Nat) : State :=
  ls.foldl (fun s l => c.sawWords l (some (c.tk, fA c.w)) s (wordsIn ((List.range n).map (fun i => c.lsOff l + i)))) c.s

/-- LDL (R142, R148). A stash window is one copy for the team (R151); a buffer or a full/empty word array is read under R153. -/
def entryLdl (c : Ctx) : Res :=
  let ty := mBits c.w 4 0
  let n := tySize ty
  let ls := c.dLanes
  let offs := ls.map c.lsOff
  match c.objOf [.buffer, .stash, .sync] with
  | .error k => .cause c.s k 0
  | .ok o =>
    if o.kind = .buffer && o.st = .empty then .cause c.s 0x14 0
    else match lsChecks o n offs with
    | some k => .cause c.s k 0
    | none =>
      if o.kind ≠ .stash then
        .done (c.sawObj n ls) (Out.late (ls.flatMap (fun l => dstX c (ty = 11) l (loaded ty (c.objBytes o (c.lsOff l) n l)))))
      else match stashChecks o false n offs with
      | some k => .cause c.s k 0
      | none =>
        let ent (l : Nat) : Nat := c.lsOff l / 128
        memWord c (selD c.w) { r := o.recd, kind := 8, need := .read, requester := true,
                               lanes := ls.map (fun l => { lane := l, vas := (o.fillBytes (ent l)).map (fun x => recVa o.recd (o.offset + x)) }),
                               back := true }
          (fun s tr ok =>
            let bytes (l : LaneReq) : List Byte := c.t.underFlush (fA c.w) (o.fillBytes (ent l.lane)) (readLane c s tr l)
            let o' := ok.foldl (fun x l => x.filled (ent l.lane) (o.fillBytes (ent l.lane)) (bytes l)) o
            ((c.sawLanes s tr ok).updObj c.tk (fA c.w) (fun _ => o'),
             Out.late (ok.flatMap (fun l => dstX c (ty = 11) l.lane (loaded ty (Mem.readN o'.data (c.lsOff l.lane) n))))))

/-- What an STL to a buffer or a full/empty word array leaves to be read by the other groups of the team (R153). -/
def Ctx.lateObj (c : Ctx) (o : Obj) (n : Nat) (bs : Nat → List Byte) : List Late :=
  c.lateOf (some (c.tk, fA c.w)) false 0 (Mem.read o.data)
    (c.act.map (fun l => (l, ((List.range n).map (fun i => c.lsOff l + i)).zip (bs l)))) []

/-- STL (R142, R148). -/
def entryStl (c : Ctx) : Res :=
  let ty := mBits c.w 4 0
  let n := tySize ty
  let offs := c.act.map c.lsOff
  match c.objOf [.buffer, .stash, .sync] with
  | .error k => .cause c.s k 0
  | .ok o =>
    if o.kind = .buffer && o.st ≠ .filling then .cause c.s 0x14 0
    else match lsChecks o n offs with
    | some k => .cause c.s k 0
    | none =>
      match (if o.kind = .stash then stashChecks o true n offs else none) with
      | some k => .cause c.s k 0
      | none =>
        let bs (l : Nat) : List Byte := toBytes n (c.c' (ty = 11) l)
        let put (o : Obj) (l : Nat) : Obj :=
          if o.kind = .stash then o.stashStore (c.lsOff l) (bs l) else { o with data := Mem.write o.data (c.lsOff l) (bs l) }
        let s := c.s.updObj c.tk (fA c.w) (fun o => c.act.foldl put o)
        .done (if o.kind = .stash then s else s.addLate (c.lateObj o n bs)) { Out.none with var := true }

/-! ### Full/empty words (R152) -/

/-- The full/empty bit of word i. -/
def Obj.isFull (o : Obj) (i : Nat) : Bool := get o.dfull o.fulls i
/-- Sets the full/empty bit of word i. -/
def Obj.setFull (o : Obj) (i : Nat) (b : Bool) : Obj := { o with fulls := setD o.dfull o.fulls i b }

/-- Serves lanes in ascending order until one must wait: the object, the lanes served, the values taken (R152). `turn` says whether
it is the member's turn at a word (R145). -/
def serveLanes (load : Bool) (turn : Obj → Nat → Bool) (off data : Nat → Nat) : Obj → List Nat → Obj × List (Nat × Nat)
  | o, [] => (o, [])
  | o, l :: r =>
    let i := off l / 4
    if o.isFull i = load && turn o i then
      let x := leVal (Mem.readN o.data (off l) 4)
      let o' := if load then o.setFull i false else { o.setFull i true with data := Mem.write o.data (off l) (toBytes 4 (data l)) }
      let y := serveLanes load turn off data o' r
      (y.1, (l, x) :: y.2)
    else (o, [])

/-- The member's wait on word `i` of the named object: it goes on, or begins now (R145). -/
def Ctx.waitOn (c : Ctx) (i : Nat) : ObjWait :=
  match c.m.queued with
  | some q => if q.obj = fA c.w ∧ q.op = c.op ∧ q.word = i then q else { obj := fA c.w, op := c.op, word := i, since := c.s.now }
  | none => { obj := fA c.w, op := c.op, word := i, since := c.s.now }

/-- No group that can be served at word `i` of the named object has waited longer than the member, ties to the lower group slot
(R145, R152). `can` says whether a waiting word could be served now. -/
def Ctx.objTurn (c : Ctx) (can : ObjWait → Bool) (i : Nat) : Bool :=
  !c.t.members.any (fun m => m.id != c.m.id && m.queued.any (fun q => q.obj = fA c.w && q.word = i && can q &&
    decide (q.since < (c.waitOn i).since ∨ q.since = (c.waitOn i).since ∧ m.slot < c.m.slot)))

/-- The member waits on word `i` of the named object. -/
def Ctx.enqueue (c : Ctx) (i : Nat) (s : State) : State :=
  s.updMember c.tk c.m.id (fun m => { m with queued := some (c.waitOn i) })

/-- LDS.SYNC and STS.SYNC (R152). An STS.SYNC is a release at team scope of the lane's local-store accesses (R153). -/
def entrySync (load : Bool) (c : Ctx) : Res :=
  match c.objOf [.sync] with
  | .error k => .cause c.s k 0
  | .ok o => match lsChecks o 4 (c.act.map c.lsOff) with
    | some k => .cause c.s k 0
    | none =>
      let turn (o : Obj) (i : Nat) : Bool := c.objTurn (fun q => o.isFull i == (q.op == 0x162)) i
      let y := serveLanes load turn c.lsOff (fun l => c.v l (fC c.w)) o c.act
      let out := if load then Out.late (y.2.map (fun e => (Place.v e.1 (fD c.w), e.2))) else { Out.none with var := true }
      let s := (c.s.updObj c.tk (fA c.w) (fun _ => y.1)).overLate (some (c.tk, fA c.w)) (y.2.map (fun e => c.lsOff e.1))
      let s := if load || y.2 = [] then s else c.performAt 1 (fun x => x.space.isSome) s
      match c.act[y.2.length]? with
      | none => .done s out
      | some l =>
        if y.2 = [] && c.m.again then .wait (c.enqueue (c.lsOff l / 4) c.s)
        else .part (c.enqueue (c.lsOff l / 4) s) out (maskOf (y.2.map (·.1))) none

/-! ### Buffer words (R144, R146) -/

/-- A move of a buffer that the table of R144 gives, or the wait for a count; none is the dash. -/
inductive Move where
  | to (st : BufState)
  | waits
  | dash
  deriving DecidableEq, Repr

/-- BUF.FILL, BUF.DONE, BUF.DRAIN and BUF.FREE by the table of R144. -/
def bufMove (op : Nat) (o : Obj) : Move :=
  if op = 0x164 then (if o.st = .empty then .to .filling else .dash)
  else if op = 0x165 then (if o.st = .filling then (if o.pendw = 0 then .to .full else .waits) else .dash)
  else if op = 0x166 then (if o.st = .full || o.st = .draining then .to .draining else .dash)
  else match o.st with
    | .empty => .to .empty
    | .filling => if o.pendw = 0 then .to .empty else .waits
    | _ => if o.pendr = 0 then .to .empty else .waits

/-- The word of a waiter would move the buffer now (R144, R145). -/
def movesNow (o : Obj) (q : ObjWait) : Bool :=
  match bufMove q.op o with
  | .to _ => true
  | _ => false

/-- A BUF word (R144). A word that waits reads the table anew at each attempt, by the buffer's state of that moment (log entry 78). At
BUF.DONE every STL to the buffer is performed for every group (R144, R153). -/
def entryBuf (c : Ctx) : Res :=
  match c.objOf [.buffer] with
  | .error k => .cause c.s k 0
  | .ok o => match bufMove c.op o with
    | .to st =>
      if c.objTurn (movesNow o) 0 then
        let s := c.s.updObj c.tk (fA c.w) (fun o => { o with st := st })
        .done (if c.op = 0x165 then { s with late := s.late.filter (fun x => x.space != some (c.tk, fA c.w)) } else s) Out.none
      else .wait (c.enqueue 0 c.s)
    | .waits => .wait (c.enqueue 0 c.s)
    | .dash => if mBit c.w 10 then .wait (c.enqueue 0 c.s) else .cause c.s 0x14 0

/-- The code of a buffer state. -/
def BufState.code : BufState → Nat
  | .empty => 0
  | .filling => 1
  | .full => 2
  | .draining => 3

/-- The value of BUF.STAT (R146). -/
def Obj.stat (o : Obj) : Nat :=
  match o.kind with
  | .buffer => o.st.code + min o.pendw 255 * 2 ^ 8 + min o.pendr 255 * 2 ^ 16
  | .stash => min o.dirtyEntries.length 255 * 2 ^ 8 + 2 ^ 24
  | .sync => 2 * 2 ^ 24

/-- BUF.STAT (R146). -/
def entryBufStat (c : Ctx) : Res :=
  match c.objOf [.buffer, .stash, .sync] with
  | .error k => .cause c.s k 0
  | .ok o => .done c.s (Out.fixed [(.s (fD c.w), o.stat)])

/-- A snapshot that the member's STASH word took, in a handler or outside. -/
def Ctx.ownFlush (c : Ctx) (f : Flush) : Bool := f.mem = c.m.id && f.handler = c.m.trap.inh && f.obj = fA c.w

/-- The bytes that the member's latest STASH word has still to write back. -/
def Ctx.flush (c : Ctx) : List Host.Cell := ((c.t.flushes.reverse.find? c.ownFlush).map (·.cells)).getD []

/-- A STASH word takes its snapshot: an older one gives up the bytes that it holds (R151). -/
def Team.takeFlush (t : Team) (f : Flush) : Team :=
  { t with flushes := (t.flushes.map (fun x =>
      if x.obj = f.obj then { x with cells := x.cells.filter (fun e => !f.cells.any (fun y => y.1 = e.1)) } else x)).filter (·.cells != []) ++
    (if f.cells = [] then [] else [f]) }

/-- A word that does not issue after all leaves the windows as they stood. -/
def Res.unflushed (c : Ctx) : Res → Res
  | .cause s k arg => .cause (s.updTeam c.tk (fun t => { t with objs := c.t.objs, flushes := c.t.flushes })) k arg
  | .wait s => .wait (s.updTeam c.tk (fun t => { t with objs := c.t.objs, flushes := c.t.flushes }))
  | r => r

/-- A STASH word (R151): at issue a snapshot of the window's dirty bytes is taken and the window stands as after the word, its entries
clean, or INVALID after STASH.INV; then the snapshot is written back. A word that re-executes goes on with what is left of it. -/
def stashWord (inv : Bool) (c : Ctx) : Res :=
  match c.objOf [.stash] with
  | .error k => .cause c.s k 0
  | .ok o =>
    let n := fA c.w
    let rest (c : Ctx) (cells : List Host.Cell) : Res :=
      if cells = [] then .done c.s Out.none
      else storeBack c true o cells (fun done s => s.updTeam c.tk (fun t => t.flushed n c.ownFlush done))
    if c.m.again then rest c c.flush
    else
      let o' := if inv then { o with entries := [] } else o.dirtyEntries.foldl (fun o i => o.cleaned i) o
      let s := c.s.updTeam c.tk (fun t => { t with objs := t.objs.set n o' }.takeFlush
        { mem := c.m.id, handler := c.m.trap.inh, obj := n, cells := o.dirtyCells })
      match look s.teams c.tk with
      | some t => (rest { c with s := s, t := t } o.dirtyCells).unflushed c
      | none => .done s Out.none

/-- STASH.FLUSH (R151). -/
def entryStashFlush : Ctx → Res := stashWord false
/-- STASH.INV (R151). -/
def entryStashInv : Ctx → Res := stashWord true

/-! ### Arrival slots (R154) -/

/-- A disarmed slot. -/
def ArrSlot.zero : ArrSlot := { armed := none, starts := [], running := none }

/-- ARM (R154). -/
def entryArm (c : Ctx) : Res :=
  let h := c.sc (fB c.w)
  .done (c.s.updTeam c.tk (fun t =>
    let a := get ArrSlot.zero t.arrivals (fA c.w)
    let a := if h = 0xFFFFFFFF then { a with armed := none, starts := [] } else { a with armed := some (BitVec.ofNat 32 h, c.m.role) }
    { t with arrivals := setD ArrSlot.zero t.arrivals (fA c.w) a })) Out.none

/-- LDL (R142). -/
def execLdl (w : CWord) (s : State) : Host.Outcome State Fault Refusal :=
  calud (rowAt 0x160) entryLdl w s

/-- STL (R142). -/
def execStl (w : CWord) (s : State) : Host.Outcome State Fault Refusal :=
  calud (rowAt 0x161) entryStl w s

/-- LDS.SYNC (R152). -/
def execLdsSync (w : CWord) (s : State) : Host.Outcome State Fault Refusal :=
  calud (rowAt 0x162) (entrySync true) w s

/-- STS.SYNC (R152). -/
def execStsSync (w : CWord) (s : State) : Host.Outcome State Fault Refusal :=
  calud (rowAt 0x163) (entrySync false) w s

/-- BUF.FILL (R144). -/
def execBufFill (w : CWord) (s : State) : Host.Outcome State Fault Refusal :=
  calud (rowAt 0x164) entryBuf w s

/-- BUF.DONE (R144). -/
def execBufDone (w : CWord) (s : State) : Host.Outcome State Fault Refusal :=
  calud (rowAt 0x165) entryBuf w s

/-- BUF.DRAIN (R144). -/
def execBufDrain (w : CWord) (s : State) : Host.Outcome State Fault Refusal :=
  calud (rowAt 0x166) entryBuf w s

/-- BUF.FREE (R144). -/
def execBufFree (w : CWord) (s : State) : Host.Outcome State Fault Refusal :=
  calud (rowAt 0x167) entryBuf w s

/-- BUF.STAT (R146). -/
def execBufStat (w : CWord) (s : State) : Host.Outcome State Fault Refusal :=
  calud (rowAt 0x168) entryBufStat w s

/-- STASH.FLUSH (R151). -/
def execStashFlush (w : CWord) (s : State) : Host.Outcome State Fault Refusal :=
  calud (rowAt 0x169) entryStashFlush w s

/-- STASH.INV (R151). -/
def execStashInv (w : CWord) (s : State) : Host.Outcome State Fault Refusal :=
  calud (rowAt 0x16A) entryStashInv w s

/-- ARM (R154). -/
def execArmW (w : CWord) (s : State) : Host.Outcome State Fault Refusal :=
  calud (rowAt 0x16B) entryArm w s

end Sys2Proof.Machine
end

