-- ==== Sys2Proof/Machine/Order.lean ====
section
/-! DEFINITION. Commits, regions, atomic and synchronising accesses, fences and barriers (R196, R203 to R221). -/

namespace Sys2Proof.Machine

/-! ### Commits (R205, R209, R212) -/

/-- A committed mark whose horizon has not come: some other team's region was open at the commit, and that team is not
at its own commit point (R209). -/
def markHeld (s : State) (k : Marks) : Bool :=
  s.teams.any (fun e => e.1 != k.team && !e.2.ver.waiting && !e.2.ver.ended && decide (e.2.ver.since < k.num))

/-- The lines of committed marks that a team's horizon share holds (R212). -/
def shareLines (s : State) (tk : Nat) : List Nat :=
  ((s.marks.filter (fun k => k.team = tk && markHeld s k)).flatMap (fun k => (k.reads ++ k.writes).map (· / 64))).dedup

/-- A commit of a team can be performed: its marks fit in its horizon share (R212), and no link, port or vault holds the way of one
of its writes (R21, R319, R445). -/
def commitFits (s : State) (tk : Nat) (t : Team) : Bool :=
  decide (32 * (shareLines s tk ++ (t.ver.reads ++ t.ver.writes).map (· / 64)).dedup.length ≤ t.quota) &&
  !t.ver.cells.any (fun x => pathHeld s (dieOf t.seat.core) x.1)

/-- A team once its commit is performed: the version is empty, and every member that waited for a commit of it has it (R205, R212,
R220); a late arrival that waited for it is made (R219). -/
def Team.committed (t : Team) : Team :=
  { t with
    arrived := match t.arriving with
      | some n => insertNat n t.arrived
      | none => t.arrived
    arriving := none
    rels := t.rels.map (fun r => { r with committed := true })
    ver := { t.ver with cells := [], reads := [], writes := [], commits := min (t.ver.commits + 1) 0xFFFFFFFF,
                        waiting := false, dirw := false }
    members := t.members.map (fun m => if m.wait = .commit then { m with wait := .committed } else m) }

/-- Performs a commit (R205): the version's writes at once, for every party, its marks into the horizon, the version empty. A version
without marks changes nothing but the team's own count. -/
def commitVersion (s : State) (tk : Nat) (t : Team) : State :=
  let v := t.ver
  if v.reads = [] ∧ v.writes = [] then s.updTeam tk Team.committed
  else
    let s := (((v.cells.map (fun x => x.1 / 64 * 64)).dedup).foldl (fun s a => touchPool s (some t.part) a true) s)
    let s := (pokeCells s v.cells).overLate none (v.cells.map (·.1))
    let k : Marks := { team := tk, task := t.task, die := dieOf t.seat.core, part := t.part, num := s.commits + 1,
                       reads := v.reads, writes := v.writes, share := 2 * t.quota }
    { s with commits := s.commits + 1, marks := s.marks ++ [k]
             late := s.late.filter (fun x => !(x.ver && x.team = tk)) }.updTeam tk Team.committed

/-- A region of the team ends and the next begins (R203, R206). -/
def newRegion (s : State) (tk : Nat) : State := s.updTeam tk (fun t => { t with ver := { t.ver with since := s.commits } })

/-- A cluster barrier has completed: the region in which no access has been made since the arrival's boundary begins now (R203, R206, R219,
log entry 11). -/
def beginRegion (s : State) (tk : Nat) : State :=
  if (look s.teams tk).any (fun t => t.ver.reads = [] && t.ver.writes = []) then newRegion s tk else s

/-- The commit of a word that is a commit point: performed, or waited for (R205, R212). A word over its weir's limit takes cause 0x20
before it waits, unless its own accesses will take another cause (`bad`), which comes first (R333). -/
def commitPoint (c : Ctx) (bad : Bool) (k : Ctx → Res) : Res :=
  if commitFits c.s c.tk c.t then
    let s := (commitVersion c.s c.tk c.t).updMember c.tk c.m.id (fun m => { m with wait := .committed })
    match look s.teams c.tk with
    | some t => k { c with s := s, t := t }
    | none => .wait c.s
  else if c.overCharge && !bad then .cause c.s 0x20 0
  else .wait ((c.s.updTeam c.tk (fun t => { t with ver := { t.ver with waiting := true } })).updMember c.tk c.m.id
    (fun m => { m with wait := .commit }))

/-- A boundary takes effect when its word is performed: the mark of its commit goes, the team's region ends, and at an acquire the
clean stash bytes are dropped (R150, R196, R203). -/
def boundaryState (c : Ctx) (acq : Bool) (s : State) : State :=
  let s := (newRegion s c.tk).updMember c.tk c.m.id (fun m => if m.wait = .committed then { m with wait := .none } else m)
  if acq then s.updTeam c.tk Team.dropClean else s

/-- The effect of a boundary on a word that is performed. -/
def Res.atBoundary (c : Ctx) (acq : Bool) : Res → Res
  | .done s o => .done (boundaryState c acq s) o
  | r => r

/-- A release performs, at its scope, the writes that its member's lanes have made or read (R195, R217). -/
def Ctx.released (c : Ctx) (scope : Nat) : Ctx := { c with s := c.performAt scope (fun _ => true) c.s }

/-- The release of the word joins those that are not performed yet, with its own accesses (R217, R218). -/
def Ctx.defer (c : Ctx) (scope : Nat) (accesses : List Deferred) (s : State) : State :=
  let r : Release := { mem := c.m.id, tag := c.m.wordTag c.w, slot := c.m.slot, scope := scope, lanes := c.m.present.map c.tid,
                       accesses := accesses, committed := false }
  s.updTeam c.tk (fun t => { t with rels := t.rels ++ [r] })

/-- The roles of R196 at a scope: a release waits for the screen writes of the member's lanes (R299) and performs their earlier writes
(R217); from cluster scope on, it writes the windows back and commits; then the word goes on by `k`, and the region ends once it is
performed. A word that only releases issues by `later` where its release must wait for these screen writes or for the commit, and is
performed after its member has gone on (R205, R218). A word that also acquires or returns a value waits at issue (log entry 88). `bad`
says that the word's own accesses will take a cause. -/
def boundary (c : Ctx) (scope : Nat) (rel acq : Bool) (k : Ctx → Res) (bad : Bool := false) (later : Option (Ctx → Res) := none) : Res :=
  let perform (c : Ctx) : Ctx := if rel then c.released scope else c
  if rel && c.screensOut then
    match later with
    | some d => if scope < 2 then d c else afterWriteBack c d
    | none => .wait c.s
  else if scope < 2 || (!rel && !acq) then k (perform c)
  else if !rel || c.m.wait = .committed then (k (perform c)).atBoundary c acq
  else afterWriteBack c (fun c =>
    if commitFits c.s c.tk c.t then (commitPoint (perform c) bad k).atBoundary c acq
    else match later with
    | some d => d { c with s := c.s.updTeam c.tk (fun t => { t with ver := { t.ver with waiting := true } }) }
    | none => commitPoint c bad k)

/-! ### Atomic and synchronising accesses (R214 to R217) -/

/-- ORD of R214 is a release. -/
def ordRel (w : CWord) : Bool := mBits w 7 6 = 2 || mBits w 7 6 = 3
/-- ORD of R214 is an acquire. -/
def ordAcq (w : CWord) : Bool := mBits w 7 6 = 1 || mBits w 7 6 = 3
/-- SCOPE of R192. -/
def scopeOf (w : CWord) : Nat := mBits w 5 3

/-- `combine` of R216. -/
def combineA (aop aty old x : Nat) : Nat :=
  let n := if aty ≥ 4 then 64 else 32
  let val (b : Nat) : Int := if aty = 1 ∨ aty = 5 then sgn n b else (b : Int)
  if aop = 0 then (if aty = 3 then (fAdd f32 0 false 0 old x).1 else (old + x) % 2 ^ n)
  else if aop = 1 then (if aty = 3 then minMaxF f32 false false old x else wrapI n (min (val old) (val x)))
  else if aop = 2 then (if aty = 3 then minMaxF f32 false true old x else wrapI n (max (val old) (val x)))
  else if aop = 3 then old &&& x
  else if aop = 4 then old ||| x
  else if aop = 5 then old ^^^ x
  else x

/-- The bytes of a translated lane access as memory holds them last: what a read-modify-write reads (R201, log entry 76). -/
def lastBytes (s : State) (tr : List (Nat × Trans)) (l : LaneReq) : List Byte := l.vas.map (fun a => Mem.read s.mem (bytePa tr a))

/-- Performs a read-modify-write lane by lane, in ascending %lane (R201, R216): `f` gives the new value, none to leave
the word. Answers each lane's old value. The write is performed at the access's scope at once (R198). -/
def rmw (c : Ctx) (scope n : Nat) (tr : List (Nat × Trans)) (f : Nat → Nat → Option Nat) :
    State → List LaneReq → State × List (Nat × Nat)
  | s, [] => (s, [])
  | s, l :: r =>
    let old := leVal (lastBytes s tr l)
    let s' := match f l.lane old with
      | some x => c.storeCells s false (scope + 1) [(l.lane, laneCells tr l (toBytes n x))]
      | none => c.sawLast l.lane s (wordsIn (l.vas.map (bytePa tr)))
    let y := rmw c scope n tr f s' r
    (y.1, (l.lane, old) :: y.2)

/-- The checks of a word of R214, then its roles at its scope, then its accesses by `perform`. -/
def synced (need : Need) (kind : Nat) (returns : Bool) (c : Ctx)
    (perform : Ctx → State → List (Nat × Trans) → List LaneReq → State × Out) : Res :=
  let r := c.recA
  let wide := atom64 c.w
  let n := if wide then 8 else 4
  let ls := if returns then c.dLanes else c.act
  match recChecks r need n c.oddFlat (ls.map c.off) with
  | some k => .cause c.s k 0
  | none =>
    if recV r then .cause c.s 0x06 0
    else
      let a : MemAsk := { r := r, kind := kind, need := need, requester := false, lanes := laneReqs r n c.off ls }
      let y := reachLines c.s c.t (wantOf c.t a) a.lanes
      boundary c (scopeOf c.w) (ordRel c.w) (ordAcq c.w) (fun c => memWord c (returns && selD c.w) a (perform c)) y.2.cause.isSome
        (if !returns && !ordAcq c.w && y.2.cause.isNone && y.2.bad == [] then some (fun c => memWord c false a (fun s tr ok =>
          (c.defer (scopeOf c.w) (ok.map (fun l => { lane := c.tid l.lane, pas := l.vas.map (bytePa tr), x := c.c' wide l.lane
                                                     op := if kind = 2 then some (mBits c.w 11 8, mBits c.w 2 0) else none })) s,
           { Out.none with var := true, keepTag := true }))) else none)

/-- ATOM, ATOM.CAS, RED and STRL: what it writes, and whether it returns the old value (R216). An .acq word holds the member's later
memory words until its value is returned (R217). -/
def atomic (need : Need) (kind : Nat) (f : Ctx → Nat → Nat → Option Nat) (returns : Bool) (c : Ctx) : Res :=
  let wide := atom64 c.w
  synced need kind returns c (fun c s tr ok =>
    let y := rmw c (scopeOf c.w) (if wide then 8 else 4) tr (f c) s ok
    (y.1, if returns then { Out.late (y.2.flatMap (fun e => dstX c wide e.1 e.2)) with acq := ordAcq c.w } else { Out.none with var := true }))

/-- Operand C of an atomic word in a lane. -/
def Ctx.atomC (c : Ctx) (l : Nat) : Nat := c.c' (atom64 c.w) l

/-- The new value of ATOM.CAS: the registers after the compare value (R214). -/
def Ctx.casNew (c : Ctx) (l : Nat) : Nat :=
  c.xw (atom64 c.w) (selC c.w) l (fC c.w + (if atom64 c.w then 2 else 1))

/-- ATOM (R216). -/
def entryAtom : Ctx → Res :=
  atomic .atomic 2 (fun c l old => some (combineA (mBits c.w 11 8) (mBits c.w 2 0) old (c.atomC l))) true
/-- ATOM.CAS (R216). -/
def entryCas : Ctx → Res :=
  atomic .atomic 2 (fun c l old => if old = c.atomC l then some (c.casNew l) else none) true
/-- RED (R216). -/
def entryRed : Ctx → Res :=
  atomic .atomic 2 (fun c l old => some (combineA (mBits c.w 11 8) (mBits c.w 2 0) old (c.atomC l))) false
/-- LDA (R217): each lane reads as a load does. -/
def entryLda (c : Ctx) : Res :=
  synced .read 0 true c (fun c s tr ok =>
    (c.sawLanes s tr ok, { Out.late (ok.flatMap (fun l => dstX c (atom64 c.w) l.lane (leVal (readLane c s tr l)))) with acq := ordAcq c.w }))
/-- STRL (R217). -/
def entryStrl : Ctx → Res := atomic .write 1 (fun c l _ => some (c.atomC l)) false

/-! ### Fences, barriers and commits (R218 to R221) -/

/-- FENCE (R218). One that acquires waits until every earlier load and atomic of the member has returned its value; one that
releases, and every fence of group scope (R100), performs the lanes' earlier writes at the scope, by its role in R196. A FENCE.rel of team
scope or wider whose release must wait issues, and its tag stays pending until it is performed. -/
def entryFence (c : Ctx) : Res :=
  if ordAcq c.w && c.m.pend.any (fun p => p.queue.isNone) then .wait c.s
  else boundary c (scopeOf c.w) (ordRel c.w || scopeOf c.w = 0) (ordAcq c.w) (fun c => .done c.s Out.none) false
    (if ordAcq c.w || scopeOf c.w = 0 then none else some (fun c => .done (c.defer (scopeOf c.w) [] c.s) { Out.none with keepTag := true }))

/-- The members of a team that take part in a barrier (R219). -/
def Team.participants (t : Team) : List Member := t.members.filter (fun m => m.arrival.isNone && m.lanes != [])

/-- Every participant of the team but `mid` waits at barrier n (R219). -/
def othersArrived (t : Team) (mid : Nat) (clu : Bool) (n : Nat) : Bool :=
  t.participants.all (fun m => m.id = mid || m.wait = .barrier clu n)

/-- The member arrives, its lanes' earlier writes performed at the barrier's scope and their screen writes delivered (R219, R299), and
does not issue again until the barrier completes. -/
def arrive (c : Ctx) (clu : Bool) (n : Nat) : Res :=
  if c.screensOut then .wait c.s
  else .done ((c.released (if clu then 2 else 1)).s.updMember c.tk c.m.id (fun m => { m with wait := .barrier clu n })) Out.none

/-- BAR.TEAM (R219). In an arrival group it acts as FENCE.ar.team. -/
def entryBarTeam (c : Ctx) : Res :=
  if c.m.arrival.isSome then
    (if c.m.pend.any (fun p => p.queue.isNone) then .wait c.s else boundary c 1 true true (fun c => .done c.s Out.none))
  else arrive c false (fA c.w)

/-- BAR.CLU (R219): the team's last arrival writes back and commits. In an arrival group it acts as FENCE.ar.clu. -/
def entryBarClu (c : Ctx) : Res :=
  let n := fA c.w
  if c.m.arrival.isSome then
    (if c.m.pend.any (fun p => p.queue.isNone) then .wait c.s else boundary c 2 true true (fun c => .done c.s Out.none))
  else if othersArrived c.t c.m.id true n then
    boundary c 2 true false (fun c =>
      arrive { c with s := c.s.updTeam c.tk (fun t => { t with arrived := insertNat n t.arrived }) } true n)
  else arrive c true n

/-- The team once the active lanes of a word have ended. -/
def Ctx.ended (c : Ctx) : Team :=
  let t := c.t.updMember c.m.id (fun m => { m with lanes := m.lanes.filter (fun e => !c.act.contains e.1) })
  { t with members := t.members.filter (fun m => m.lanes != []) }

/-- No lane of the team is live, and no arrival start is pending (R156, R317). -/
def Team.idle (t : Team) : Bool :=
  t.members.all (fun m => m.lanes == []) && t.bins == [] && t.arrivals.all (fun a => a.2.starts == [])

/-- A command, a screen write or an accepted landing that a team waits for before it retires (R140, R317). -/
def unfinished (s : State) (tk : Nat) : Bool :=
  s.screens.any (fun x => x.sender = tk) || s.cmds.any (fun k => k.team = tk || (match k.phase with
    | .arriving dest .. => dest = tk
    | _ => false))

/-- The cluster barrier at which the remaining participants of a team all wait, not yet arrived (R219). -/
def Team.lastArrival (t : Team) : Option Nat :=
  (List.range 4).find? (fun n => !t.arrived.contains n && t.participants != [] && othersArrived t t.fresh true n)

/-- A running arrival slot whose 32 lanes, known by their %tid, have all ended is armed again (R156). Lanes that a REFORM
filed or moved are live. -/
def Team.endArrivals (t : Team) : Team :=
  let live (n : Nat) (x : Lane) : Bool := decide (1024 + 32 * n ≤ x.tid.toNat ∧ x.tid.toNat < 1024 + 32 * n + 32)
  { t with arrivals := t.arrivals.map (fun a =>
      if a.2.running.isNone || t.members.any (fun m => m.lanes.any (fun e => live a.1 e.2)) || t.bins.any (fun b => b.lanes.any (live a.1)) then a
      else (a.1, { a.2 with running := none })) }

/-- EXIT (R89): the active lanes end. The EXIT that ends the team carries the write-back of its windows (R150), which waits for the
team's commands and screen writes (R317), and the one that leaves every other participant at a cluster barrier carries the team's
arrival (R219). -/
def entryExit (c : Ctx) : Res :=
  let fin (c : Ctx) : Res :=
    .done (c.s.updTeam c.tk (fun t =>
      (t.updMember c.m.id (fun m => { m with lanes := m.lanes.filter (fun e => !c.act.contains e.1) })).endArrivals)) Out.none
  if c.ended.idle then (if !c.t.clean && unfinished c.s c.tk then .wait c.s else afterWriteBack c fin)
  else match c.ended.lastArrival with
    | some n => boundary c 2 true false (fun c => fin { c with s := c.s.updTeam c.tk (fun t => { t with arrived := insertNat n t.arrived }) })
    | none => fin c

/-- COMMIT (R220): the region ends with the commit, which a COMMIT that waited has had by VERSION_COMMIT. -/
def entryCommit (c : Ctx) : Res :=
  if c.m.wait = .committed then .done (c.s.updMember c.tk c.m.id (fun m => { m with wait := .none })) Out.none
  else (commitPoint c false (fun c => .done c.s Out.none)).atBoundary c false

/-- The values of VQRY (R221). -/
def vqry (s : State) (tk : Nat) (t : Team) (n : Nat) : Nat :=
  if n = 0 then t.quota
  else if n = 1 then chargeOf t.ver.reads t.ver.writes
  else if n = 2 then 32 * (shareLines s tk).length
  else t.ver.commits

/-- VQRY (R221). -/
def entryVqry (c : Ctx) : Res := .done c.s (Out.fixed [(.s (fD c.w), vqry c.s c.tk c.t (fA c.w))])

/-- ATOM (R216). -/
def execAtom (w : CWord) (s : State) : Host.Outcome State Fault Refusal :=
  calud (rowAt 0x1A0) entryAtom w s

/-- ATOM.CAS (R216). -/
def execAtomCas (w : CWord) (s : State) : Host.Outcome State Fault Refusal :=
  calud (rowAt 0x1A1) entryCas w s

/-- RED (R216). -/
def execRedA (w : CWord) (s : State) : Host.Outcome State Fault Refusal :=
  calud (rowAt 0x1A2) entryRed w s

/-- LDA (R217). -/
def execLda (w : CWord) (s : State) : Host.Outcome State Fault Refusal :=
  calud (rowAt 0x1A3) entryLda w s

/-- STRL (R217). -/
def execStrl (w : CWord) (s : State) : Host.Outcome State Fault Refusal :=
  calud (rowAt 0x1A4) entryStrl w s

/-- FENCE (R218). -/
def execFence (w : CWord) (s : State) : Host.Outcome State Fault Refusal :=
  calud (rowAt 0x1A5) entryFence w s

/-- BAR.TEAM (R219). -/
def execBarTeam (w : CWord) (s : State) : Host.Outcome State Fault Refusal :=
  calud (rowAt 0x1A6) entryBarTeam w s

/-- BAR.CLU (R219). -/
def execBarClu (w : CWord) (s : State) : Host.Outcome State Fault Refusal :=
  calud (rowAt 0x1A7) entryBarClu w s

/-- EXIT (R89). -/
def execExitW (w : CWord) (s : State) : Host.Outcome State Fault Refusal :=
  calud (rowAt 0x007) entryExit w s

/-- COMMIT (R220). -/
def execCommitW (w : CWord) (s : State) : Host.Outcome State Fault Refusal :=
  calud (rowAt 0x1A8) entryCommit w s

/-- VQRY (R221). -/
def execVqry (w : CWord) (s : State) : Host.Outcome State Fault Refusal :=
  calud (rowAt 0x1A9) entryVqry w s

/-- No screen write of the release's lanes is under way (R299). -/
def Release.ready (s : State) (tk : Nat) (r : Release) : Bool := !s.screens.any (fun x => x.sender = tk && r.lanes.contains x.lane)

/-- An access of a release is performed: the store of an STRL, or the read-modify-write of a RED (R201, R216). -/
def Release.access (s : State) (tk : Nat) (r : Release) (a : Deferred) : State :=
  let old := leVal (a.pas.map (Mem.read s.mem))
  let x := match a.op with
    | some (aop, aty) => combineA aop aty old a.x
    | none => a.x
  let cells := a.pas.zip (toBytes a.pas.length x)
  (wordsIn a.pas).foldl (fun s w => s.storeWord tk r.slot a.lane 0 false (r.scope + 1) [] w (cells.filter (fun e => e.1 / 4 * 4 = w))) s

/-- A release is performed: its lanes' earlier writes at its scope, then its own accesses, at a scope of cluster or wider the end of the
region, and its tag (R109, R196, R205, R217, R218). -/
def performRelease (s : State) (tk : Nat) (r : Release) : State :=
  match look s.teams tk with
  | none => s
  | some t =>
    let s := s.performFor tk t r.slot r.lanes r.scope (fun _ => true)
    let s := r.accesses.foldl (fun s a => r.access s tk a) s
    let s := if 2 ≤ r.scope then newRegion s tk else s
    s.updTeam tk (fun t => { t.updMember r.mem (fun m => { m with tags := m.tags &&& ~~~ tagBit r.tag }) with rels := t.rels.erase r })

/-- The team's releases that nothing holds are performed, a commit before each of cluster scope or wider; a commit that does not fit is
waited for (R205, R212, R218). -/
def settleReleases (tk : Nat) : Nat → State → State
  | 0, s => s
  | n + 1, s => match look s.teams tk with
    | none => s
    | some t => match t.rels.find? (fun r => r.ready s tk && (r.committed || decide (r.scope < 2))) with
      | some r => settleReleases tk n (performRelease s tk r)
      | none =>
        if t.rels.any (fun r => r.ready s tk) then
          (if commitFits s tk t then settleReleases tk n (newRegion (commitVersion s tk t) tk)
           else s.updTeam tk (fun t => { t with ver := { t.ver with waiting := true } }))
        else s

/-- VERSION_COMMIT (R205, R212, R218): a waiting version commits once its marks fit, and releases that wait for it, or for a screen
write, are performed. -/
def execVersionCommit (team : Nat) (s : State) : Host.Outcome State Fault Refusal :=
  match look s.teams team with
  | none => .next s
  | some t =>
    let s := if t.ver.waiting && t.doom.isNone && commitFits s team t then newRegion (commitVersion s team t) team else s
    .next (if t.doom.isNone && !t.saved then settleReleases team (2 * t.rels.length) s else s)

/-- HORIZON (R209): committed marks whose horizon has come are discarded. -/
def execHorizon (s : State) : Host.Outcome State Fault Refusal :=
  .next { s with marks := s.marks.filter (markHeld s) }

/-- The live teams of a team's cluster (R219, R312): itself without a cluster shape. -/
def clusterOf (s : State) (tk : Nat) (t : Team) : List (Nat × Team) :=
  s.teams.filter (fun e => e.1 = tk || (t.launch.isSome && e.2.launch = t.launch && e.2.seat.run = t.seat.run && e.2.doom.isNone &&
    decide (1 < t.spec.cw * t.spec.ch)))

/-- Releases the members that wait at a barrier. -/
def Team.openBarrier (t : Team) (clu : Bool) (n now : Nat) : Team :=
  { t with
    arrived := if clu then t.arrived.filter (· ≠ n) else t.arrived
    members := t.members.map (fun m => if m.wait = .barrier clu n then { m with wait := .none, ready := now } else m) }

/-- A BAR.CLU word of no operands, in whose place a write-back is made for a team that has arrived by a slot's end. -/
def barWord : CWord :=
  { common := { gn := false, g := 63, y := false, ru := false, tw := 0, ta := 7, pd := 7 }, body := .r 0 0 0 0 0 }

/-- A waiting participant whose team's arrival meets a cause takes it at its BAR.CLU word, which TRET re-executes. -/
def causeAtBarrier (s : State) (tk mid k arg : Nat) : State :=
  takeCause (s.updMember tk mid (fun m => { m with pc := m.pc - 1, wait := .none })) tk mid k arg

/-- The write-back of a team's windows on behalf of a waiting participant whose team has arrived at a barrier by a slot's end
(R150, R219): the state once it is whole, or the state (error) in which it is not yet, the participant parked by its faults or
under its cause. -/
def backAll (s : State) (tk : Nat) (m : Member) : List Nat → Except State State
  | [] => .ok (s.updMember tk m.id (fun m => { m with park := none }))
  | n :: r => match look s.teams tk with
    | none => .ok s
    | some t => match t.obj n with
      | none => backAll s tk m r
      | some o =>
        let c : Ctx := { s := s, tk := tk, t := t, m := { m with park := none }, w := barWord, op := 0x1A7, seen := [], act := m.present }
        if o.kind ≠ .stash ∨ t.backCells n o = [] then backAll s tk m r
        else match (writeBack c n o).forAll c with
          | .done s _ => backAll s tk m r
          | .part s _ _ (some k) => .error { s.updMember tk m.id (fun m => { m with park := some (parkOf c s k) }) with order := s.order + 1 }
          | .partCause s _ _ k arg => .error (causeAtBarrier s tk m.id k arg)
          | .cause s k arg => .error (causeAtBarrier s tk m.id k arg)
          | .part s _ _ none => .error s
          | .wait s => .error s

/-- A team has arrived at a cluster barrier by a slot's end (a live team with no participant slot, all its lanes in bins, has not: the
model's choice, log entry 86): its windows are written back, for which its participant of the lowest slot
parks, and its commit is performed then, or waited for (R150, R212, R219). -/
def lateArrival (s : State) (tk n : Nat) : State :=
  match look s.teams tk with
  | none => s
  | some t =>
    if t.arrived.contains n || t.arriving.isSome || !othersArrived t t.fresh true n then s
    else match leastBy (·.slot) t.participants with
      | none => s
      | some m =>
        if m.park.any (fun p => p.retry = 0 || p.unrecorded) then s
        else match backAll s tk m (List.range t.objs.length) with
        | .error s => s
        | .ok s => match look s.teams tk with
          | none => s
          | some t =>
            if commitFits s tk t then
              (newRegion (commitVersion s tk t) tk).updTeam tk (fun t => { t with arrived := insertNat n t.arrived })
            else s.updTeam tk (fun t => { t with ver := { t.ver with waiting := true }, arriving := some n })

/-- BARRIER_COMPLETION (R219): every participant has arrived. A cluster barrier's completion is an acquire: each team's region, which its
arrival's boundary put at its start, begins (log entry 11). A live team with no participant slot has not arrived (log entry 86). -/
def execBarrierCompletion (clu : Bool) (team n : Nat) (s : State) : Host.Outcome State Fault Refusal :=
  match look s.teams team with
  | none => .next s
  | some t =>
    if !clu then
      if t.participants ≠ [] ∧ othersArrived t t.fresh false n then .next (s.updTeam team (fun t => t.openBarrier false n s.now))
      else .next s
    else
      let s := ((clusterOf s team t).map (·.1)).foldl (fun s k => lateArrival s k n) s
      let ks := clusterOf s team t
      if ks.all (fun e => e.2.arrived.contains n) then
        .next (ks.foldl (fun s e => (beginRegion s e.1).updTeam e.1 (fun t => (t.openBarrier true n s.now).dropClean)) s)
      else .next s


end Sys2Proof.Machine
end

