-- ==== Sys2Proof/Machine/Engines.lean ====
section
/-! DEFINITION. Asynchronous engines: tokens, command blocks and their acceptance, shapes, the journal's commands,
completion rings, collectives and landings (R245 to R268). -/

namespace Sys2Proof.Machine

/-! ### Tokens (R245) -/

/-- A team's token. -/
def Team.token (t : Team) (k : Nat) : Token := get Token.empty t.tokens k
/-- Sets a team's token. -/
def Team.setToken (t : Team) (k : Nat) (x : Token) : Team := { t with tokens := setD Token.empty t.tokens k x }

/-- A token in ERROR: its cause and address. -/
def Token.err : Token → Option (Nat × Nat)
  | .error c va => some (c, va)
  | _ => none

/-! ### Shapes (R257) -/

/-- Register i of a shape slot. -/
def shw (sh : List Word) (i : Nat) : Nat := (sh[i]?.getD 0).toNat
/-- The element size of a shape. -/
def shE (sh : List Word) : Nat := 2 ^ bits (shw sh 0) 2 0
/-- n0 to n3. -/
def shN (sh : List Word) (k : Nat) : Nat := bits (shw sh (1 + k / 2)) (16 * (k % 2) + 15) (16 * (k % 2)) + 1
/-- The strides, from register 3 for the source and from register 6 for the destination. -/
def shS (sh : List Word) (base k : Nat) : Nat := shw sh (base + k - 1)

/-- Every field of a shape is in its range. -/
def shapeLegal (sh : List Word) : Bool :=
  bits (shw sh 0) 31 6 = 0 && !bit (shw sh 0) 3 && bits (shw sh 0) 2 0 ≤ 4 &&
  [1, 2, 3].all (fun k => decide (k ≤ bits (shw sh 0) 5 4) || shN sh k = 1)

/-- The byte pairs of a shape: source and destination byte, relative to the two offsets. -/
def shapePairs (sh : List Word) : List (Nat × Nat) :=
  let d (base i1 i2 i3 : Nat) : Nat := i1 * shS sh base 1 + i2 * shS sh base 2 + i3 * shS sh base 3
  (List.range (shN sh 3)).flatMap (fun i3 => (List.range (shN sh 2)).flatMap (fun i2 => (List.range (shN sh 1)).flatMap (fun i1 =>
    (List.range (shN sh 0 * shE sh)).map (fun j => (d 3 i1 i2 i3 + j, d 6 i1 i2 i3 + j)))))

/-- The bytes of a shape's side from its offset to its greatest byte. -/
def shapeSpan (sh : List Word) (base : Nat) : Nat :=
  shN sh 0 * shE sh + sumNat ([1, 2, 3].map (fun k => (shN sh k - 1) * shS sh base k))

/-- The bytes that a shape moves. -/
def shapeBytes (sh : List Word) : Nat := shN sh 0 * shN sh 1 * shN sh 2 * shN sh 3 * shE sh

/-- The byte pairs of a command. -/
def pairsOf (shape : Option (List Word)) (n : Nat) : List (Nat × Nat) :=
  match shape with
  | some sh => shapePairs sh
  | none => (List.range n).map (fun j => (j, j))

/-! ### Blocks and their checks (R252, R253) -/

/-- A control word's own values: reserved bits, and SLOT when the word uses no shape. -/
def ctlBad (x : Nat) (shaped : Bool) : Bool :=
  bits x 30 29 ≠ 0 || bits x 23 21 ≠ 0 || bits x 15 0 ≠ 0 || (!shaped && bits x 20 16 ≠ 0)
/-- An endpoint word's own values. -/
def endBad (x : Nat) : Bool := bits x 30 6 ≠ 0 || (!bit x 31 && decide (31 < bits x 5 0))
/-- The endpoint in a register pair. -/
def Ctx.endpoint (c : Ctx) (r : Nat) : End :=
  let x := c.sc r
  if bit x 31 then .obj (bits x 5 0) (c.sc (r + 1)) else .glob (c.d (bits x 5 0)) (c.sc (r + 1))

/-- Step 2 of R253. -/
def endKind (t : Team) : End → Option Nat
  | .obj n _ => match t.obj n with
    | none => some 0x03
    | some o => if o.kind = .buffer then none else some 0x14
  | .glob r _ => if recFlat r then some 0x06 else none

/-- Step 4 of R253: a span of `n` bytes from the endpoint. -/
def endBounds (t : Team) (n : Nat) : End → Option Nat
  | .obj k off => match t.obj k with
    | some o => if n ≠ 0 ∧ o.bytes < off + n then some 0x05 else none
    | none => none
  | .glob r off => if n ≠ 0 ∧ recExtent r < off + n then some 0x05 else none

/-- Step 5 of R253. -/
def endPermit (need : Need) : End → Option Nat
  | .obj .. => none
  | .glob r _ => if permits r need then none else some 0x06

/-- Step 6 of R253. -/
def endState (t : Team) (st : BufState) : End → Option Nat
  | .obj n _ => match t.obj n with
    | some o => if o.st = st then none else some 0x14
    | none => none
  | .glob .. => none

/-- The interval of virtual addresses of a span, upper end excluded. -/
def vaSpan (r : Rec) (off n : Nat) : Nat × Nat :=
  if recSwz r = 0 then (recVa r off, recVa r off + n)
  else
    let vs := recVas r off n
    (vs.foldl min (2 ^ 57), maxNat vs + 1)

/-- Two intervals meet. -/
def meets (a b : Nat × Nat) : Bool := decide (a.1 < b.2 ∧ b.1 < a.2)

/-- Step 7 of R253 (R254). -/
def endOverlap (a b : End) (na nb : Nat) : Option Nat :=
  if na = 0 ∨ nb = 0 then none
  else match a, b with
    | .obj i x, .obj j y => if i = j && meets (x, x + na) (y, y + nb) then some 0x18 else none
    | .glob r x, .glob q y => if meets (vaSpan r x na) (vaSpan q y nb) then some 0x18 else none
    | _, _ => none

/-- A completion ring's record (R253 step 8, R265). -/
def ringCheck (r : Rec) : Option Nat :=
  if recV r || !permits r .atomic then some 0x06
  else if recExtent r < 64 || recExtent r % 32 ≠ 0 then some 0x05
  else none

/-- The ring that a word asks for, by its control word and CRQ. -/
def Ctx.ringOf (c : Ctx) (ctl : Nat) : Option Rec :=
  if bit ctl 31 || fCrq c.w then some (c.d (bits ctl 28 24)) else none

/-- Step 9: consumed tokens that are EMPTY (R247). -/
def Ctx.tokenCheck (c : Ctx) : Option Nat :=
  if (fTokens c.w).any (fun k => c.t.token k == .empty) then some 0x18 else none

/-- The first cause among checks in order. -/
def firstCause (l : List (Option Nat)) : Option Nat := l.findSome? id

/-- Steps 8 and 9 of R253. -/
def Ctx.lateChecks (c : Ctx) (ctl : Nat) : List (Option Nat) := [(c.ringOf ctl).bind ringCheck, c.tokenCheck]

/-! ### Acceptance (R246) -/

/-- The buffer that a job reads. -/
def Job.src : Job → Option Nat
  | .copy (.obj n _) .. => some n
  | .send (.obj n _) .. => some n
  | .coll (.obj n _) .. => some n
  | .metaLd _ (.obj n _) _ => some n
  | .mma _ _ _ _ _ b .. => some b
  | _ => none

/-- The buffer that a job writes. -/
def Job.dst : Job → Option Nat
  | .copy _ (.obj n _) .. => some n
  | .zero (.obj n _) _ => some n
  | .gath _ (.obj n _) .. => some n
  | .coll _ (.obj n _) .. => some n
  | .beam _ _ (.obj n _) => some n
  | .accRet _ (.obj n _) _ => some n
  | _ => none

/-- Changes a count of a buffer. -/
def countObj (s : State) (tk : Nat) (n : Option Nat) (f : Obj → Obj) : State :=
  match n with
  | some n => s.updObj tk n f
  | none => s

/-- PENDR and PENDW count an accepted command (R143). -/
def countIn (s : State) (k : Command) : State :=
  countObj (countObj s k.team k.job.src (fun o => { o with pendr := o.pendr + 1 })) k.team k.job.dst
    (fun o => { o with pendw := o.pendw + 1 })

/-- The last byte of the command's source has been read. -/
def readDone (s : State) (k : Command) : State := countObj s k.team k.job.src (fun o => { o with pendr := o.pendr - 1 })
/-- The last byte of the command's destination has landed. -/
def writeDone (s : State) (k : Command) : State := countObj s k.team k.job.dst (fun o => { o with pendw := o.pendw - 1 })

/-- PENDR counts the command still. -/
def Command.reading (k : Command) : Bool :=
  match k.phase, k.job with
  | .accepted, _ => true
  | .started, .mma .. => false
  | .started, _ => true
  | _, _ => false

/-- PENDW counts the command still. -/
def Command.writing (k : Command) : Bool :=
  match k.phase with
  | .record .. => false
  | _ => true

/-- An accepted landing no longer counts in the target buffer's PENDW (R155, R268). -/
def landDone (s : State) (k : Command) : State :=
  match k.phase with
  | .arriving tk n _ => s.updObj tk n (fun o => { o with pendw := o.pendw - 1 })
  | _ => s

/-- The counts once a command has stopped reading and writing. -/
def uncount (s : State) (k : Command) : State :=
  let s := if k.reading then readDone s k else s
  let s := if k.writing then writeDone s k else s
  landDone s k

/-- A word's command is accepted: it stands in its journal or queue, and its token is PENDING (R246). -/
def accept (c : Ctx) (matrix : Bool) (token : Option Nat) (ring : Option Rec) (job : Job) : Res :=
  let k : Command :=
    { id := c.s.freshCmd, core := c.t.seat.core, team := c.tk, mem := c.m.id, slot := c.m.slot, pc := c.m.pc, matrix := matrix,
      token := token, uses := fTokens c.w, ring := ring, job := job, phase := .accepted, stop := .none, startAt := 0 }
  let s := countIn { c.s with cmds := c.s.cmds ++ [k], freshCmd := c.s.freshCmd + 1 } k
  .done (match token with
    | some n => s.updTeam c.tk (fun t => t.setToken n .pending)
    | none => s) Out.none

/-- Checks in order, then acceptance. -/
def checked (c : Ctx) (l : List (Option Nat)) (k : Res) : Res :=
  match firstCause l with
  | some x => .cause c.s x 0
  | none => k

/-- A condition as a check. -/
def failIf (b : Bool) (x : Nat) : Option Nat := if b then some x else none

/-! ### The engine words -/

/-- The shape that a shaped word names. -/
def Ctx.shapeOf (c : Ctx) (ctl : Nat) : Option (List Word) := look c.t.shapes (bits ctl 20 16)

/-- XCOPY (R256). -/
def entryXcopy (c : Ctx) : Res :=
  let a := fA c.w
  let b := fB c.w
  let ctl := c.sc a
  let shp := fSub c.w = 1
  let dst := c.endpoint b
  let n := c.sc (a + 3)
  if fSub c.w = 2 then
    checked c ([failIf (ctlBad ctl false || c.sc (a + 1) ≠ 0 || c.sc (a + 2) ≠ 0 || endBad (c.sc b)) 0x01, endKind c.t dst,
        endBounds c.t n dst, endPermit .write dst, endState c.t .filling dst] ++ c.lateChecks ctl)
      (accept c false (some (fD c.w)) (c.ringOf ctl) (.zero dst n))
  else
    let src := c.endpoint (a + 1)
    let sh := if shp then c.shapeOf ctl else none
    let ns := match sh with
      | some x => shapeSpan x 3
      | none => n
    let nd := match sh with
      | some x => shapeSpan x 6
      | none => n
    checked c ([failIf (ctlBad ctl shp || endBad (c.sc (a + 1)) || endBad (c.sc b) || (shp && n ≠ 0)) 0x01, endKind c.t src,
        endKind c.t dst, failIf (shp && sh.isNone) 0x18, endBounds c.t ns src, endBounds c.t nd dst,
        failIf (decide (2 ^ 32 - 1 < (sh.map shapeBytes).getD n)) 0x05, endPermit .read src, endPermit .write dst,
        endState c.t .full src, endState c.t .filling dst, endOverlap src dst ns nd] ++ c.lateChecks ctl)
      (accept c false (some (fD c.w)) (c.ringOf ctl) (.copy src dst sh n))

/-- XSEND (R259). Its absent-die cause 0x02 is taken as check 2 of R65, before the 0x01 of this entry's own first check: no rule
gives their order (log entry 83). -/
def entryXsend (c : Ctx) : Res :=
  let a := fA c.w
  let b := fB c.w
  let ctl := c.sc a
  let shp := fSub c.w = 1
  let n := c.sc (a + 3)
  let src := c.endpoint (a + 1)
  let sh := if shp then c.shapeOf ctl else none
  let ns := match sh with
    | some x => shapeSpan x 3
    | none => n
  let x := c.sc b
  let y := c.sc (b + 2)
  checked c ([failIf (ctlBad ctl shp || endBad (c.sc (a + 1)) || (shp && n ≠ 0) || bits x 15 11 ≠ 0 || bits y 31 30 ≠ 0 || bits y 23 19 ≠ 0) 0x01,
      endKind c.t src, failIf (shp && sh.isNone) 0x18, endBounds c.t ns src,
      failIf (decide (2 ^ 32 - 1 < (sh.map shapeBytes).getD n)) 0x05, endPermit .read src, endState c.t .full src] ++ c.lateChecks ctl)
    (accept c false (some (fD c.w)) (c.ringOf ctl)
      (.send src sh n (bits x 31 16 * 2 ^ 32 + c.sc (b + 1)) (bits x 10 0) (bits y 29 24) (bits y 18 0) (BitVec.ofNat 32 (c.sc (b + 3)))))

/-- XGATH (R260). -/
def entryXgath (c : Ctx) : Res :=
  let a := fA c.w
  let ctl := c.sc a
  let src := c.endpoint (a + 1)
  let dst := c.endpoint (a + 3)
  let r := c.d (bits (c.sc (a + 1)) 5 0)
  let size := 2 ^ recEsz r
  let off (l : Nat) : Nat := c.sc (a + 2) + c.v l (fB c.w) * recStride r
  let doff := c.sc (a + 4)
  checked c ([failIf (ctlBad ctl false || endBad (c.sc (a + 1)) || endBad (c.sc (a + 3)) || bit (c.sc (a + 1)) 31 || !bit (c.sc (a + 3)) 31) 0x01,
      endKind c.t src, endKind c.t dst, failIf (c.act.any (fun l => outOfBounds r (off l) size)) 0x05,
      firstCause (c.act.map (fun l => match dst with
        | .obj n _ => endBounds c.t size (.obj n (doff + l * size))
        | .glob .. => none)),
      endPermit .read src, endState c.t .filling dst] ++ c.lateChecks ctl)
    (accept c false (some (fD c.w)) (c.ringOf ctl) (.gath src dst size (c.act.map (fun l => (l, c.v l (fB c.w) * recStride r)))))

/-- The element size of a collective type (R262). -/
def collSize (ty : Nat) : Nat := if ty = 1 then 2 else 4

/-- COLL (R262). -/
def entryColl (c : Ctx) : Res :=
  let a := fA c.w
  let b := fB c.w
  let ctl := c.sc a
  let src := c.endpoint (a + 1)
  let dst := c.endpoint b
  let x := c.sc (a + 3)
  let cnt := c.sc (a + 4)
  let np := bits x 27 16 + 1
  let n := cnt * collSize (bits x 2 0)
  let nd := if fSub c.w = 3 then np * n else n
  checked c ([failIf (ctlBad ctl false || endBad (c.sc (a + 1)) || endBad (c.sc b) || bits x 31 28 ≠ 0 || bit x 7 || bit x 3 ||
        !([2, 3, 4].contains (bits x 6 4)) || decide (3 < bits x 2 0) || cnt = 0 || decide (2 ^ 20 < cnt)) 0x01,
      endKind c.t src, endKind c.t dst, endBounds c.t n src, endBounds c.t nd dst, failIf (decide (2 ^ 32 - 1 < nd)) 0x05,
      endPermit .read src, endPermit .write dst, endState c.t .full src, endState c.t .filling dst,
      endOverlap src dst n nd] ++ c.lateChecks ctl)
    (accept c false (some (fD c.w)) (c.ringOf ctl)
      (.coll src dst (fSub c.w) (bits x 2 0) (bits x 6 4) (bits x 15 8) np cnt))

/-- SHAPE.LD (R258). -/
def entryShapeLd (c : Ctx) : Res :=
  let sh := (List.range 9).map (fun i => BitVec.ofNat 32 (c.sc (fB c.w + i)))
  if !shapeLegal sh then .cause c.s 0x01 0
  else .done (c.s.updTeam c.tk (fun t => { t with shapes := set t.shapes (fA c.w) sh })) Out.none

/-- SHAPE.EV (R258). -/
def entryShapeEv (c : Ctx) : Res := .done (c.s.updTeam c.tk (fun t => { t with shapes := del t.shapes (fA c.w) })) Out.none

/-- WAITK (R266). -/
def entryWaitk (c : Ctx) : Res :=
  let ks := fTokens c.w
  if ks.any (fun k => c.t.token k == .empty) then .cause c.s 0x18 0
  else if ks.any (fun k => c.t.token k == .pending) then .wait c.s
  else match ks.findSome? (fun k => (c.t.token k).err.map (fun e => (k, e))) with
    | none => .done c.s Out.none
    | some (k, x, va) =>
      .cause (c.s.updMember c.tk c.m.id (fun m => { m with trap := { m.trap with
        kerr := BitVec.ofNat 32 (k * 2 ^ 8 + x), kerrva := BitVec.ofNat 64 va } })) x 0

/-- KTEST (R267). -/
def entryKtest (c : Ctx) : Res :=
  let ks := fTokens c.w
  if ks.any (fun k => c.t.token k == .empty) then .cause c.s 0x18 0
  else
    let x := b2n (!ks.any (fun k => c.t.token k == .pending))
    .done c.s (Out.fixed (c.m.present.map (fun l => (Place.p l (fD c.w), x))))

/-- CREC (R265): it goes on once DONE − T, as a signed value, is zero or more, and its read of DONE is an acquire. DONE is read as
memory holds it last. In a spring range the read takes cause 0x06, whatever the block's state: R229 names CREC neither among its requesters
nor among the accesses that take 0x06 (the model's choice, log entry 96). -/
def entryCrec (c : Ctx) : Res :=
  let x := c.sc (fA c.w)
  let r := c.d (x % 32)
  let ls : List LaneReq := [{ lane := c.act.headD 0, vas := recVas r 8 8 }]
  let ask : MemAsk := { r := r, kind := 0, need := .read, requester := false, lanes := ls }
  if 32 ≤ x then .cause c.s 0x01 0
  else match ringCheck r with
  | some k => .cause c.s k 0
  | none =>
    let y := reachLines c.s c.t (wantOf c.t ask) ls
    if y.2.cause.isNone && y.2.bad == [] then
      let done := leVal ((recVas r 8 8).map (fun a => Mem.read c.s.mem (bytePa y.2.tr a)))
      if sgn 64 (done + 2 ^ 64 - c.scPair (fB c.w)) < 0 then .wait c.s
      else boundary c 4 false true (fun c => memWord c true ask (fun s _ _ => (s, Out.none)))
    else memWord c true ask (fun s _ _ => (s, Out.none))

/-! ### Performing a command's accesses (R261) -/

/-- How an access of a command ends. -/
inductive Try where
  /-- Done, with the bytes read. -/
  | ok (s : State) (bs : List Byte)
  /-- It stops the command. -/
  | halt (s : State) (st : Stop)
  /-- It ends the command in ERROR with a cause and an address. -/
  | err (s : State) (cause va : Nat)

/-- Goes on with what was read. -/
def Try.bind (x : Try) (f : State → List Byte → Try) : Try :=
  match x with
  | .ok s bs => f s bs
  | .halt s st => .halt s st
  | .err s k va => .err s k va

/-- The first byte of an access whose line has a property. -/
def firstByte (tr : List (Nat × Trans)) (ls : List LaneReq) (p : Trans → Bool) : Nat :=
  (ls.findSome? (fun l => l.vas.find? (fun a => match lineOf tr a with
    | some x => p x
    | none => false))).getD 0

/-- The fault record of a parked command (R261). -/
def cmdFault (s : State) (t : Team) (k : Command) (kind : Nat) (x : Reached) (mask : Bool) : FaultRec :=
  let va := firstByte x.tr x.bad (fun y => match y with
    | .fault .. => true
    | _ => false)
  let info := match lineOf x.tr va with
    | some (.fault level mal perm) => (level, mal, perm)
    | _ => (0, false, false)
  { time := s.now, pc := k.pc.toNat,
    lanes := if mask then (maskOf ((x.bad.filter (laneFaults x.tr)).map (·.lane))).toNat else 0,
    slot := k.slot, bank := t.seat.bank, core := t.seat.vcore, task := t.task.toNat, va := va, ctx := t.ctx, mal := info.2.1,
    part := t.part, perm := info.2.2, level := info.1, kind := kind, cause := 0x08 }

/-- Translates the accesses of a command through a record, and stops or ends the command where one cannot be
performed; else goes on with the translations. A read of a spring range through a record with S = 0 ends it with cause 0x06,
whatever the block's state (R261). -/
def cmdReach (s : State) (k : Command) (write mask : Bool) (r : Rec) (ls : List LaneReq)
    (f : State → Team → List (Nat × Trans) → Try) : Try :=
  match look s.teams k.team with
  | none => .err s 0 0
  | some t =>
    let ask : MemAsk := { r := r, kind := if write then 11 else 10, need := if write then .write else .read,
                          requester := recS r, lanes := ls }
    let y := reachLines s t (wantOf t ask) ls
    if linesHeld y.1 t y.2.tr then .halt s .none else
    match y.2.cause with
    | some c => .err y.1 c (firstByte y.2.tr y.2.bad (fun x => x == .cause c))
    | none =>
      if y.2.bad.any (laneFaults y.2.tr) then
        let z := postFaults y.1 (dieOf t.seat.core) [cmdFault y.1 t k ask.kind y.2 mask]
        .halt z.1 (if z.2 then .fault else .unrecorded)
      else match (y.2.bad.flatMap (missBlocks y.2.tr)).head? with
        | some b => .halt { y.1 with misses := y.1.misses ++ [{ ctx := t.ctx, spring := b.1, block := b.2, who := .command k.id }] }
            (.miss b.1 b.2)
        | none => f (touchLines y.1 t write y.2.tr ls) t y.2.tr

/-- Reads bytes at offsets from an endpoint; each with its lane. -/
def readEnd (s : State) (k : Command) (e : End) (mask : Bool) (offs : List (Nat × Nat)) : Try :=
  match e with
  | .obj n off => match (look s.teams k.team).bind (fun t => t.obj n) with
    | some o => .ok s (offs.map (fun x => Mem.read o.data (off + x.2)))
    | none => .err s 0 0
  | .glob r off =>
    let ls : List LaneReq := ((offs.map (·.1)).dedup).map (fun l => { lane := l, vas := (offs.filter (fun x => x.1 = l)).map (fun x => recVa r (off + x.2)) })
    cmdReach s k false mask r ls (fun s _ tr => .ok s (offs.map (fun x => Mem.read s.mem (bytePa tr (recVa r (off + x.2))))))

/-- An engine write to memory: a direct write of its team (R194, R213), performed for every party at once. -/
def engineCells (s : State) (tk : Nat) (cells : List Host.Cell) : State :=
  ((pokeCells s cells).overLate none (cells.map (·.1))).updTeam tk (fun t => { t with ver := { t.ver with dirw := true } })

/-- Writes bytes at offsets from an endpoint: an engine write (R194). One to an object is a direct write as well (R350), and lanes
read its bytes at once. -/
def writeEnd (s : State) (k : Command) (e : End) (bs : List (Nat × Byte)) : Try :=
  match e with
  | .obj n off =>
    let s := (s.updObj k.team n (fun o => { o with data := bs.foldl (fun m x => Mem.put m (off + x.1) x.2) o.data })).overLate
      (some (k.team, n)) (bs.map (fun x => off + x.1))
    .ok (if bs = [] then s else s.updTeam k.team (fun t => { t with ver := { t.ver with dirw := true } })) []
  | .glob r off =>
    if bs = [] then .ok s []
    else cmdReach s k true false r [{ lane := 0, vas := bs.map (fun x => recVa r (off + x.1)) }]
      (fun s _ tr => .ok (engineCells s k.team (bs.map (fun x => (bytePa tr (recVa r (off + x.1)), x.2)))) [])

/-! ### How a command goes on and ends (R247, R248, R264) -/

/-- Changes a command. -/
def State.updCmd (s : State) (id : Nat) (f : Command → Command) : State :=
  { s with cmds := s.cmds.map (fun k => if k.id = id then f k else k) }

/-- A command by name. -/
def State.cmd (s : State) (id : Nat) : Option Command := s.cmds.find? (fun k => k.id = id)

/-- The command leaves its journal or queue, and its token leaves PENDING (R248). -/
def leaveCmd (s : State) (k : Command) (x : Token) : State :=
  let s := { s with cmds := s.cmds.filter (fun y => y.id != k.id) }
  match k.token with
  | some n => s.updTeam k.team (fun t => t.setToken n x)
  | none => s

/-- The accesses of a command are done: it ends, or first writes its completion record (R248, R264). -/
def endCmd (s : State) (k : Command) (status cause va bytes : Nat) : State :=
  let s := uncount s k
  match k.ring with
  | some _ => s.updCmd k.id (fun k => { k with phase := .record none status cause va bytes, stop := .none })
  | none => leaveCmd s k (if status = 0 then .complete else .error cause va)

/-- A completion record (R263). -/
def ringRecord (now : Nat) (k : Command) (status cause bytes : Nat) : List Byte :=
  toBytes 8 (status + k.token.getD 0 * 2 ^ 8) ++ toBytes 4 cause ++ toBytes 4 k.pc.toNat ++ toBytes 8 bytes ++ toBytes 8 now

/-- A participant whose access has ended in error leaves an instance that has not completed (log entry 89). -/
def leaveColl (s : State) (k : Command) : State :=
  match k.phase with
  | .joined i => { s with colls := upd s.colls i (fun x => { x with parts := x.parts.filter (fun p => p.2.1 != k.id) }) }
  | _ => s

/-- Puts where an access stopped into the command, or ends it in ERROR. -/
def stopCmd (k : Command) : Try → State
  | .ok s _ => s
  | .halt s st => s.updCmd k.id (fun k => { k with stop := st })
  | .err s c va => match k.phase with
    | .record .. => leaveCmd s k (.error c va)
    | _ => endCmd (leaveColl s k) k 1 c va 0

/-- One step of R264: RESERVE is taken; the entry is written once the ring has room; DONE is written once its turn has come. -/
def ringStep (s : State) (k : Command) (r : Rec) (i : Option (Nat × Bool)) (status cause va bytes : Nat) : State :=
  let at' (o n : Nat) : List (Nat × Nat) := (List.range n).map (fun j => (0, o + j))
  let put (o : Nat) (bs : List Byte) : List (Nat × Byte) := bs.zipIdx.map (fun e => (o + e.2, e.1))
  let goOn (s : State) (i : Nat × Bool) : Try := .ok (s.updCmd k.id (fun k => { k with phase := .record (some i) status cause va bytes })) []
  match i with
  | none =>
    stopCmd k ((readEnd s k (.glob r 0) false (at' 0 8)).bind (fun s bs =>
      (writeEnd s k (.glob r 0) (put 0 (toBytes 8 (leVal bs + 1)))).bind (fun s _ => goOn s (leVal bs, false))))
  | some (i, false) =>
    let n := (recExtent r - 32) / 32
    stopCmd k ((readEnd s k (.glob r 0) false (at' 16 8)).bind (fun s bs =>
      if (n : Int) ≤ sgn 64 (i + 2 ^ 64 - leVal bs) then .ok s []
      else (writeEnd s k (.glob r 0) (put (32 + 32 * (i % n)) (ringRecord s.now k status cause bytes))).bind (fun s _ => goOn s (i, true))))
  | some (i, true) =>
    stopCmd k ((readEnd s k (.glob r 0) false (at' 8 8)).bind (fun s bs =>
      if leVal bs ≠ i then .ok s []
      else (writeEnd s k (.glob r 0) (put 8 (toBytes 8 (i + 1)))).bind (fun s _ =>
        .ok (leaveCmd s k (if status = 0 then .complete else .error cause va)) [])))

/-- Every consumed token has left PENDING, and every earlier entry of the same journal or queue has started (R247,
R255, R273). -/
def startable (s : State) (k : Command) : Bool :=
  match look s.teams k.team with
  | none => false
  | some t =>
    !t.saved && t.doom.isNone && k.phase == .accepted && k.stop == .none && !k.uses.any (fun u => t.token u == .pending) &&
    !(liveCmds s).any (fun x => x.core = k.core && x.matrix == k.matrix && decide (x.id < k.id) && x.phase == .accepted)

/-- The first consumed token in ERROR (R247). -/
def usedError (s : State) (k : Command) : Option (Nat × Nat) :=
  match look s.teams k.team with
  | some t => k.uses.findSome? (fun u => (t.token u).err)
  | none => none

/-- A command can go on: its team is there and not saved, and nothing stops it but a record that is to be retried. -/
def runnable (s : State) (k : Command) : Bool :=
  (match look s.teams k.team with
   | some t => !t.saved && t.doom.isNone
   | none => false) && (k.stop == .none || k.stop == .unrecorded)

/-! ### The commands of the journal -/

/-- A copy, a zeroing or a gather (R256, R260): the whole destination, or nothing yet. -/
def runCopy (s : State) (k : Command) : State :=
  match k.job with
  | .copy src dst sh n =>
    let ps := pairsOf sh n
    match (readEnd s k src false (ps.map (fun p => (0, p.1)))).bind (fun s bs => writeEnd s k dst ((ps.map (·.2)).zip bs)) with
    | .ok s _ => endCmd s k 0 0 0 ps.length
    | x => stopCmd k x
  | .zero dst n =>
    match writeEnd s k dst ((List.range n).map (fun j => (j, 0))) with
    | .ok s _ => endCmd s k 0 0 0 n
    | x => stopCmd k x
  | .gath src dst size lanes =>
    let offs := lanes.flatMap (fun e => (List.range size).map (fun j => (e.1, e.2 + j)))
    let slots := lanes.flatMap (fun e => (List.range size).map (fun j => e.1 * size + j))
    match (readEnd s k src true offs).bind (fun s bs => writeEnd s k dst (slots.zip bs)) with
    | .ok s _ => endCmd s k 0 0 0 slots.length
    | x => stopCmd k x
  | _ => s

/-- An XSEND reads its source; its landing is then on its way (R155, R259). -/
def runSend (s : State) (k : Command) : State :=
  match k.job with
  | .send src sh n .. =>
    match readEnd s k src false ((pairsOf sh n).map (fun p => (0, p.1))) with
    | .ok s bs => { (readDone s k).updCmd k.id (fun k => { k with phase := .landing bs s.order }) with order := s.order + 1 }
    | x => stopCmd k x
  | _ => s

/-- The linear loop-nest index of a team (R311). -/
def Team.index (t : Team) : Nat := t.task.toNat % 2 ^ 48

/-- The launch of a team, as a key that no other launch or spring has. -/
def Team.launchKey (t : Team) : Nat :=
  match t.launch, t.gen with
  | some n, _ => n
  | none, some g => 2 ^ 32 + springKey t.ctx g.spring
  | none, none => 2 ^ 32

/-- The scope instance of a collective (R262), a virtual one (R356). A generator is a cluster of its own (R192). -/
def collInst (t : Team) (sc : Nat) : Nat := if sc = 2 then (if t.gen.isSome then t.index else t.seat.run) else if sc = 3 then dieOf t.seat.vcore else 0

/-- The open instances of an ID in whose scope instance a team lies, one of its own SC first (R262). -/
def openColls (s : State) (t : Team) (sc id : Nat) : Sparse Coll :=
  let on := s.colls.filter (fun e => e.2.launch = t.launchKey && e.2.inst = collInst t e.2.sc && e.2.id = id &&
    decide (e.2.parts.length < e.2.shape.2.2.2))
  on.filter (fun e => e.2.sc = sc) ++ on.filter (fun e => e.2.sc ≠ sc)

/-- A COLL whose source has been read joins its instance, or forms it. One whose SUB, TY, SC, c or N is not the first
participant's ends in ERROR with cause 0x18 (R262). -/
def joinColl (s : State) (k : Command) (t : Team) (shape : Nat × Nat × Nat × Nat) (sc id : Nat) (bs : Option (List Byte)) : State :=
  let inst := collInst t sc
  match (openColls s t sc id).head? with
  | some e =>
    if e.2.sc ≠ sc || e.2.shape ≠ shape then endCmd s { k with phase := .joined e.1 } 1 0x18 0 0
    else { s with colls := upd s.colls e.1 (fun x => { x with parts := x.parts ++ [(t.index, k.id, bs)] }) }.updCmd k.id
      (fun k => { k with phase := .joined e.1 })
  | none =>
    let n := (maxNat (s.colls.map (fun e => e.1 + 1)))
    let x : Coll := { launch := t.launchKey, sc := sc, inst := inst, id := id, shape := shape, parts := [(t.index, k.id, bs)] }
    { s with colls := set s.colls n x }.updCmd k.id (fun k => { k with phase := .joined n })

/-- A started COLL reads its source and joins; one whose instance has completed writes its destination. -/
def runColl (s : State) (k : Command) : State :=
  match k.job, look s.teams k.team with
  | .coll src dst op ty sc id np cnt, some t =>
    let offs := (List.range (cnt * collSize ty)).map (fun j => (0, j))
    match k.phase with
    | .started =>
      if op = 2 then
        joinColl (readDone s k) k t (op, ty, cnt, np) sc id (match readEnd s k src false offs with
          | .ok _ bs => some bs
          | _ => none)
      else (match readEnd s k src false offs with
        | .ok s bs => joinColl (readDone s k) k t (op, ty, cnt, np) sc id (some bs)
        | x => stopCmd k x)
    | .result bs =>
      (match writeEnd s k dst (bs.zipIdx.map (fun e => (e.2, e.1))) with
       | .ok s _ => endCmd s k 0 0 0 bs.length
       | x => stopCmd k x)
    | _ => s
  | _, _ => s

/-- ENGINE_COMMAND_START (R247, R255, R305). -/
def execEngineCommandStart (id : Nat) (s : State) : Host.Outcome State Fault Refusal :=
  match s.cmd id with
  | none => .next s
  | some k =>
    let beams := (liveCmds s).filter (fun x => x.job.isBeam && reachOf x.core = reachOf k.core && decide (x.id < k.id))
    let room := !k.job.isBeam || (!beams.any (fun x => x.phase == .accepted) && decide ((beams.filter (fun x => x.phase == .started)).length < 4))
    if !k.matrix && startable s k && room then
      .next (match usedError s k with
        | some (c, va) => endCmd s k 1 c va 0
        | none => s.updCmd id (fun k => { k with phase := .started, startAt := s.now }))
    else .next s

/-- ENGINE_COMMAND_COMPLETION (R248): a started command of the journal performs its accesses, and a command whose
accesses are done writes its completion record. A collective that has joined and a landing on its way wait. -/
def execEngineCommandCompletion (id : Nat) (s : State) : Host.Outcome State Fault Refusal :=
  match s.cmd id with
  | none => .next s
  | some k =>
    if k.matrix || !runnable s k then .next s
    else
      let s := s.updCmd id (fun k => { k with stop := .none })
      .next (match k.phase, k.ring with
        | .record i status cause va bytes, some r => ringStep s k r i status cause va bytes
        | .started, _ => (match k.job with
          | .send .. => runSend s k
          | .coll .. => runColl s k
          | _ => runCopy s k)
        | .result _, _ => runColl s k
        | _, _ => s)

/-! ### Landings (R155) -/

/-- A disarmed or full arrival slot takes no start; the lowest armed slot whose PC is h takes it, else %arrmiss counts. -/
def addStart (t : Team) (pc : Word) (start : Nat × Nat × Nat) : Team :=
  match (List.range 4).find? (fun n => match (get ArrSlot.zero t.arrivals n).armed with
      | some a => a.1 = pc && decide ((get ArrSlot.zero t.arrivals n).starts.length < 255)
      | none => false) with
  | some n => { t with arrivals := upd t.arrivals n (fun a => { a with starts := a.starts ++ [start] }) }
  | none => { t with arrmiss := min (t.arrmiss + 1) 65535 }

/-- The task of an index of a launch has been drawn and stands nowhere: it has retired (R155). -/
def goneTask (s : State) (launch index : Nat) : Bool :=
  match look s.launches launch with
  | some l => decide (index < l.cursor) && !l.again.any (fun e => e.1 = index) &&
      !s.abands.any (fun a => a.launch = launch && a.task.toNat % 2 ^ 48 = index) &&
      !s.teams.any (fun e => e.2.launch = some launch && e.2.index = index)
  | none => true

/-- The task of an index of a team's own launch has retired; that of a generator once its block has left FILLING (R225). -/
def Team.peerGone (s : State) (t : Team) (index : Nat) : Bool :=
  match t.launch, t.gen with
  | some l, _ => goneTask s l index
  | none, some g => (look s.springs (springKey t.ctx g.spring)).any (fun p => decide (2 ≤ entState (s.fillEntry p index)))
  | none, none => false

/-- Two dies are parted by a link that retrains or has failed (R21). -/
def linkParts (s : State) (a b : Nat) : Bool := a != b && (s.link a b).retraining

/-- A landing's first byte arrives (R155): the checks, and PENDW of the target counts an accepted landing. -/
def landFirst (s : State) (k : Command) (tk obj off : Nat) (t : Team) (ps : List (Nat × Nat)) (bs : List Byte) : State :=
  match t.obj obj with
  | none => endCmd s k 1 0x14 0 0
  | some o =>
    if o.kind ≠ .buffer || !o.land || o.st ≠ .filling || t.doom.isSome then endCmd s k 2 0x14 0 0
    else if ps.any (fun p => decide (o.bytes ≤ off + p.2)) then endCmd s k 1 0x14 0 0
    else (s.updObj tk obj (fun o => { o with pendw := o.pendw + 1 })).updCmd k.id (fun k => { k with phase := .arriving tk obj bs })

/-- A landing's last byte arrives (R155): an engine write of the sender, which its DIRW counts (R143, R350), then the start. -/
def landLast (s : State) (k : Command) (tk obj off : Nat) (pc : Word) (vcore : Nat) (ps : List (Nat × Nat)) (bs : List Byte) : State :=
  let s := (s.updObj tk obj (fun o => { o with data := ((ps.map (·.2)).zip bs).foldl (fun m x => Mem.put m (off + x.1) x.2) o.data })).overLate
    (some (tk, obj)) (ps.map (fun p => off + p.2))
  let s := if ps = [] then s else s.updTeam k.team (fun t => { t with ver := { t.ver with dirw := true } })
  let s := if pc = 0xFFFFFFFF then s else s.updTeam tk (fun t => addStart t pc (obj, ps.length, vcore))
  endCmd s k 0 0 0 ps.length

/-- A landing from the same core to the same virtual reach was sent before and has not arrived (R20, R357). -/
def landBehind (s : State) (snd : Team) (vcore sent : Nat) : Bool :=
  s.cmds.any (fun y => match y.phase, y.job, look s.teams y.team with
    | .landing _ n, .send _ _ _ _ v .., some t =>
      decide (n < sent) && t.ctx = snd.ctx && t.seat.core = snd.seat.core && reachOf v = reachOf vcore
    | _, _, _ => false)

/-- XSEND_LANDING (R155, R259): the landing's first byte reaches its target, and then its last. It is held while its virtual reach is
not mapped, behind those sent before it (R357), its target is not resident, or a link between the dies is not trained (R21). -/
def execXsendLanding (id : Nat) (s : State) : Host.Outcome State Fault Refusal :=
  match s.cmd id with
  | none => .next s
  | some k => match k.phase, k.job, look s.teams k.team with
    | .landing bs sent, .send _ sh n index vcore obj off _, some snd =>
      if snd.saved || (physCore s snd.ctx vcore).isNone || landBehind s snd vcore sent then .next s
      else match s.teams.find? (fun e => e.2.launchKey = snd.launchKey && e.2.index = index && e.2.seat.vcore = vcore) with
      | none => .next (endCmd s k (if snd.peerGone s index then 2 else 1) 0x14 0 0)
      | some (tk, t) =>
        if t.saved || linkParts s (dieOf t.seat.core) (dieOf snd.seat.core) then .next s
        else .next (landFirst s k tk obj off t (pairsOf sh n) bs)
    | .arriving tk _ bs, .send _ sh n _ _ obj off pc, some snd =>
      (match look s.teams tk with
       | none => .next (endCmd s k 2 0x14 0 0)
       | some t =>
         if snd.saved || t.saved || linkParts s (dieOf t.seat.core) (dieOf snd.seat.core) then .next s
         else .next (landLast s k tk obj off pc snd.seat.vcore (pairsOf sh n) bs))
    | _, _, _ => .next s

/-! ### Collectives (R262) -/

/-- One element of .sum or .max over the positions (R262, R45, R96). -/
def collElem (op ty : Nat) (xs : List Nat) : Nat :=
  let up (x : Nat) : Nat := if ty = 1 then x * 65536 else x
  let node (a b : Nat) : Nat :=
    if op = 0 then (if ty ≤ 1 then (fAdd f32 0 false 0 a b).1 else (a + b) % 2 ^ 32)
    else if ty = 0 then minMaxF f32 false true a b
    else if ty = 1 then minMaxF bf16 false true a b
    else if ty = 2 then wrapI 32 (max (sgn 32 a) (sgn 32 b))
    else max a b
  let root (l : List Nat) : Nat := (treeRoot node 12 (l.map some)).getD 0
  if op = 0 && ty = 1 then encodeQuiet bf16 (decode f32 (root (xs.map up))) 0 false else root xs

/-- The destination bytes of a collective from the sources in order of position. -/
def collResult (op ty cnt : Nat) (srcs : List (List Byte)) : List Byte :=
  if op = 2 then srcs.headD []
  else if op = 3 then srcs.flatMap id
  else
    let z := collSize ty
    (List.range cnt).flatMap (fun i => toBytes z (collElem op ty (srcs.map (fun b => leVal ((b.drop (z * i)).take z)))))

/-- The participants by position. -/
def Coll.byIndex (x : Coll) : List (Nat × Nat × Option (List Byte)) := sortBy (·.1) x.parts

/-- Participants of an instance stand on dies that a link which is not trained parts (R21). -/
def Coll.parted (s : State) (x : Coll) : Bool :=
  let dies := x.parts.filterMap (fun p => (s.cmd p.2.1).map (fun k => dieOf k.core))
  dies.any (fun a => dies.any (linkParts s a))

/-- COLLECTIVE_COMPLETION (R262): an instance with N participants computes its result for their destinations. Where the read of a
.bcast's source ends in ERROR, position 0 leaves the instance, which completes once another COLL has joined in its place: R262 says
nothing of the other participants (log entry 89). -/
def execCollectiveCompletion (idx : Nat) (s : State) : Host.Outcome State Fault Refusal :=
  match look s.colls idx with
  | none => .next s
  | some x =>
    let op := x.shape.1
    let ty := x.shape.2.1
    let cnt := x.shape.2.2.1
    let ps := x.byIndex
    if x.parts.length < x.shape.2.2.2 || x.parted s then .next s
    else
      let finish (s : State) (srcs : List (List Byte)) : State :=
        let r := collResult op ty cnt srcs
        ps.foldl (fun s p => s.updCmd p.2.1 (fun k => { k with phase := .result r })) { s with colls := del s.colls idx }
      match op, ps with
      | 2, (_, id, none) :: _ =>
        (match s.cmd id with
         | some k => (match k.job with
           | .coll src .. =>
             if !runnable s k then .next s
             else (match readEnd s k src false ((List.range (cnt * collSize ty)).map (fun j => (0, j))) with
               | .ok s bs => .next (finish s [bs])
               | x => .next (stopCmd k x))
           | _ => .next s)
         | none => .next s)
      | _, _ => .next (finish s (ps.map (fun p => p.2.2.getD [])))

/-- XCOPY (R256). -/
def execXcopy (w : CWord) (s : State) : Host.Outcome State Fault Refusal :=
  calud (rowAt 0x1D0) entryXcopy w s

/-- XSEND (R259). -/
def execXsend (w : CWord) (s : State) : Host.Outcome State Fault Refusal :=
  calud (rowAt 0x1D1) entryXsend w s

/-- SHAPE.LD (R258). -/
def execShapeLd (w : CWord) (s : State) : Host.Outcome State Fault Refusal :=
  calud (rowAt 0x1D2) entryShapeLd w s

/-- SHAPE.EV (R258). -/
def execShapeEv (w : CWord) (s : State) : Host.Outcome State Fault Refusal :=
  calud (rowAt 0x1D3) entryShapeEv w s

/-- XGATH (R260). -/
def execXgath (w : CWord) (s : State) : Host.Outcome State Fault Refusal :=
  calud (rowAt 0x1D4) entryXgath w s

/-- COLL (R262). -/
def execColl (w : CWord) (s : State) : Host.Outcome State Fault Refusal :=
  calud (rowAt 0x1D5) entryColl w s

/-- WAITK (R266). -/
def execWaitk (w : CWord) (s : State) : Host.Outcome State Fault Refusal :=
  calud (rowAt 0x1D6) entryWaitk w s

/-- KTEST (R267). -/
def execKtest (w : CWord) (s : State) : Host.Outcome State Fault Refusal :=
  calud (rowAt 0x1D7) entryKtest w s

/-- CREC (R265). -/
def execCrec (w : CWord) (s : State) : Host.Outcome State Fault Refusal :=
  calud (rowAt 0x1D8) entryCrec w s

end Sys2Proof.Machine
end

