-- ==== Sys2Proof/Machine/Rings.lean ====
section
/-! DEFINITION. Event rings (R437) and the clock cycles of the device (R326, R334). -/

namespace Sys2Proof.Machine

/-- Front-end cycles up to a device time (R326: 940 MHz). -/
def feCycles (ns : Nat) : Nat := ns * 940 / 1000
/-- p-cycles up to a device time (R408: 1.2 GHz). -/
def pCycles (ns : Nat) : Nat := ns * 6 / 5
/-- The lane rate of a reach in MHz, by LRATE (R326). -/
def laneMhz (lrate : Nat) : Nat := if lrate = 0 then 470 else if lrate = 2 then 1880 else 940
/-- The ns that hold `n` lane cycles. -/
def laneNs (lrate n : Nat) : Nat := (n * 1000 + laneMhz lrate - 1) / laneMhz lrate

/-- A legal ring size (R437). -/
def ringSize (n : Nat) : Bool := [64, 128, 256, 512, 1024, 2048, 4096, 8192, 16384, 32768, 65536].contains n

/-! ### The host link's accesses to memory (R319, R425, R427, R445) -/

/-- An address of stacked DRAM or of the CXL pool window that an access may reach. -/
def hostPa (s : State) (pa : Nat) : Bool := (inDram pa || inPool pa) && !paBad s pa
/-- A span of such addresses: it lies in the pool window, or in the DRAM of dies in service (R427). -/
def hostSpan (s : State) (pa n : Nat) : Bool :=
  let last := pa + n - 1
  hostPa s pa && hostPa s last && inPool pa == inPool last &&
    (inPool pa || (List.range 4).all (fun d => decide (d < pa / 2 ^ 36 ∨ last / 2 ^ 36 < d) || s.dieUp d))

/-- What an address is reached through from the host link: the port of its pool line's home, or its vault. -/
def linkWay (s : State) (pa : Nat) : Nat := if inPool pa then poolHome s pa else 8 + pa / 2 ^ 31
/-- The ways of a span's lines. -/
def linkWays (s : State) (pa n : Nat) : List Nat :=
  ((List.range ((pa + n - 1) / 64 + 1 - pa / 64)).map (fun i => linkWay s ((pa / 64 + i) * 64))).dedup
/-- A port that retrains or has failed, or a halted vault, holds an access of the host link, a queue engine or an event ring to some
line of the span (R319, R445). -/
def linkHeld (s : State) (pa n : Nat) : Bool :=
  (s.ports.any (·.2.retraining) || s.vaults.any (·.2.halt)) &&
    (linkWays s pa n).any (fun w => if w < 8 then (s.port w).retraining else (s.vault (w - 8)).halt)

/-! ### The summary record (R443) -/

/-- The partition of a context. -/
def partOf (s : State) (ctx : Nat) : Nat := ((look s.ctxs ctx).map (·.part)).getD 0

/-- QSTAT (R428). -/
def Queue.qstat (x : Queue) : Nat := b2n x.en * 2 ^ 31 + b2n x.halt * 2 ^ 30 + b2n x.wait * 2 ^ 29 + x.part * 2 ^ 23

/-- A queue's entry of the summary record. -/
def queueEntry (x : Queue) : List Byte :=
  toBytes 4 x.qstat ++ toBytes 4 (x.err.toNat % 65536 / 256 * 2 ^ 16 + x.err.toNat % 256 * 2 ^ 24) ++ toBytes 4 x.seen.toNat ++
  toBytes 4 x.get.toNat ++ toBytes 8 x.last.toNat ++ toBytes 8 x.tlval.toNat

/-- The abandoned tasks that wait for TASK.CTL in a partition, or on the whole device for ring 64. -/
def abandCount (s : State) (n : Nat) : Nat :=
  (s.abands.filter (fun a => a.st = .waiting && (n = 64 || partOf s a.ctx = n))).length

/-- A ring's entry of the summary record. -/
def evRingEntry (s : State) (n : Nat) : List Byte :=
  let r := s.ring n
  let p := look s.parts n
  let f (g : Partition → Nat) : Nat := (p.map g).getD 0
  toBytes 4 0 ++ toBytes 8 (f (·.vshare.toNat)) ++ toBytes 8 (f (·.ways.toNat)) ++
  toBytes 2 (if n = 64 then 0 else (s.streams.filter (fun e => e.2.part = n)).length) ++
  toBytes 2 (if n = 64 then 0 else (s.ctxs.filter (fun e => e.2.part = n)).length) ++ toBytes 4 (abandCount s n) ++
  toBytes 4 r.lost.toNat ++ toBytes 4 r.get.toNat ++ toBytes 4 r.put.toNat ++ toBytes 8 r.base.toNat ++ toBytes 16 (f (·.reaches.toNat))

/-- The header of the summary record. -/
def summaryHead (s : State) : List Byte :=
  let cap (i : Nat) : Nat := (s.device.caps[i]?.getD 0).toNat
  toBytes 20 0 ++ toBytes 4 (s.host.sumseq + 1).toNat ++ toBytes 8 (sumNat (s.parts.map (fun e => 2 ^ e.1))) ++
  toBytes 4 s.host.fwver.toNat ++ toBytes 4 s.host.fwstat.toNat ++ (List.range 4).flatMap (fun i => toBytes 4 (cap i)) ++ toBytes 8 s.now

/-- Writes a summary record as it stands; SUMSEQ counts it. -/
def writeSummary (s : State) (pa : Nat) : State :=
  let bs := summaryHead s ++ (List.range 256).flatMap (fun q => queueEntry (s.queue q)) ++ (List.range 65).flatMap (evRingEntry s)
  let s := s.poke pa bs
  { s with host := { s.host with sumseq := s.host.sumseq + 1 } }

/-! ### Writes of the host link (R319, R443, R445) -/

/-- The bytes of a write over the host link; a summary record has 12,416 (R443). -/
def linkLen : Option (List Byte) → Nat
  | some bs => bs.length
  | none => 12416
/-- A write over the host link would be held, or would overtake one held before it on its way (R21, R319, R445). -/
def linkBlocked (s : State) (pa n : Nat) : Bool :=
  linkHeld s pa n || s.heldWrites.any (fun e => (linkWays s e.1 (linkLen e.2)).any (fun w => (linkWays s pa n).contains w))
/-- A write of bytes, or of a summary record, over the host link: performed, or held. -/
def State.linkWrite (s : State) (pa : Nat) (bs : Option (List Byte)) : State :=
  if linkBlocked s pa (linkLen bs) then { s with heldWrites := s.heldWrites ++ [(pa, bs)] }
  else match bs with
    | some bs => s.poke pa bs
    | none => writeSummary s pa
/-- Offers the held writes again, in their order; one whose address has gone out of service ends (R435). -/
def State.retryWrites (s : State) : State :=
  if s.heldWrites = [] then s
  else s.heldWrites.foldl (fun s e => if (inHandoff e.1 && !paBad s e.1) || hostSpan s e.1 (linkLen e.2) then s.linkWrite e.1 e.2 else s)
    { s with heldWrites := [] }

/-! ### Event rings (R437) -/

/-- The ring's base and size are ones that R427 and R437 allow. -/
def Ring.legal (s : State) (r : Ring) : Bool :=
  ringSize r.size.toNat && r.base.toNat % 4096 = 0 && hostSpan s r.base.toNat (64 * r.size.toNat)
/-- The ring has no room: full, or not set up (R437). -/
def Ring.isFull (s : State) (r : Ring) : Bool := !r.legal s || decide (r.size.toNat ≤ (r.put - r.get).toNat + r.out.length)

/-- A body of 32 bytes from fields: byte offset in the body, value. -/
def eventBody (fs : List (Nat × Nat)) : List Byte := toBytes 32 (sumNat (fs.map (fun f => f.2 * 2 ^ (8 * f.1))))

/-- Writes one entry into a ring with room. -/
def writeEvent (s : State) (n evt : Nat) (body : List Byte) : State :=
  let r := s.ring n
  let s := if r.put = r.get then s.interrupt n else s
  let entry := toBytes 8 (evt + (r.seq + 1).toNat * 2 ^ 32) ++ List.replicate 24 0 ++ body
  (s.poke (r.base.toNat + 64 * (r.put.toNat % r.size.toNat)) entry).setRing n { r with put := r.put + 1, seq := r.seq + 1 }

/-- The write of the ring's next entry is held (R319, R445). -/
def entryHeld (s : State) (n : Nat) : Bool :=
  let r := s.ring n
  linkHeld s (r.base.toNat + 64 * (r.put.toNat % r.size.toNat)) 64

/-- Writes the entries that have room, as long as nothing holds their write. -/
def flushOut (n : Nat) : State → List (Nat × List Byte) → State
  | s, [] => s.setRing n { s.ring n with out := [] }
  | s, h :: r => if entryHeld s n then s.setRing n { s.ring n with out := h :: r } else flushOut n (writeEvent s n h.1 h.2) r

/-- An event that has room in its ring: it is written, after those before it. -/
def giveRoom (s : State) (n evt : Nat) (body : List Byte) : State :=
  if (s.ring n).out = [] && !entryHeld s n then writeEvent s n evt body
  else s.setRing n { s.ring n with out := (s.ring n).out ++ [(evt, body)] }

/-- Posts an event: a full ring holds abandonments and queue errors, and drops and counts the others. -/
def postEvent (s : State) (n evt : Nat) (body : List Byte) : State :=
  let r := s.ring n
  if !r.isFull s && r.held = [] then giveRoom s n evt body
  else if evt = 1 ∨ evt = 2 then s.setRing n { r with held := r.held ++ [(evt, body)] }
  else s.setRing n { r with lost := satAdd r.lost 1 }

/-- Gives room to held entries as long as there is room. -/
def drainHeld (n : Nat) : State → List (Nat × List Byte) → State
  | s, [] => s.setRing n { s.ring n with held := [] }
  | s, h :: r =>
    if (s.ring n).isFull s then s.setRing n { s.ring n with held := h :: r } else drainHeld n (giveRoom s n h.1 h.2) r

/-- Room has appeared in a ring. -/
def drainRing (s : State) (n : Nat) : State := drainHeld n s (s.ring n).held

/-- Offers the writes that a link, a port or a halted vault held again: those of the host link, the entries of the event rings, fault
records and notifications. -/
def retryHeld (s : State) : State :=
  let s := ((s.rings.filter (fun e => e.2.out != [])).map (·.1)).foldl (fun s n => flushOut n s (s.ring n).out) s.retryWrites
  let s := ((s.units.filter (fun e => e.2.fbout != [])).map (·.1)).foldl (fun s d => flushFaults d s (s.unit d).fbout) s
  ((s.units.filter (fun e => e.2.nqout != [])).map (·.1)).foldl (fun s d => flushNotes d s (s.unit d).nqout) s

/-- A refusal event: the offset of the refused register write. -/
def refuse (s : State) (off : Nat) : State := postEvent s 64 3 (eventBody [(0, off)])

end Sys2Proof.Machine
end

