-- ==== Sys2Proof/Machine/Weirs.lean ====
section
/-! DEFINITION. Weirs and millponds (R326 to R335). -/

namespace Sys2Proof.Machine

/-- The member belongs to a family of more than one member (R77). -/
def familySplit (t : Team) (m : Member) : Bool := decide (1 < (t.members.filter (fun x => x.slot = m.slot)).length)

/-- WEIR.ACQ (R331, R332): the group is not ready until the grant. -/
def entryAcq (c : Ctx) : Res :=
  if decide (c.t.spec.weir < fA c.w) || c.m.weir.isSome || familySplit c.t c.m || c.m.trap.inh then .cause c.s 0x21 0
  else .done (c.s.updMember c.tk c.m.id (fun m => { m with wait := .weir (fA c.w) c.s.now })) Out.none

/-- WEIR.REL (R331, R333). -/
def entryRel (c : Ctx) : Res :=
  if c.m.weir.isNone || familySplit c.t c.m || c.m.trap.inh then .cause c.s 0x21 0
  else .done (c.s.updMember c.tk c.m.id (fun m => { m with weir := none })) Out.none

/-- The value of WEIR.QRY (R335). -/
def weirValue (m : Member) : Nat :=
  match m.weir with
  | some x => 2 ^ 31 + x.level * 2 ^ 24 + x.charge
  | none => 0

/-- WEIR.QRY (R335). -/
def entryQry (c : Ctx) : Res := .done c.s (Out.fixed [(.s (fD c.w), weirValue c.m)])

/-- The teams on a reach that are not saved. -/
def teamsOn (s : State) (reach : Nat) : List (Nat × Team) :=
  s.teams.filter (fun e => reachOf e.2.seat.core = reach && !e.2.saved)

/-- The level that a group slot's open weir holds; none while its member awaits the re-grant (R333). -/
def Member.openLevel (m : Member) : Option Nat := m.weir.bind (fun x => if x.regrant.isSome then none else some x.level)

/-- The sum of the levels of a reach's open weirs, one for each group slot (R332, R333). -/
def openLevels (s : State) (reach : Nat) : Nat :=
  sumNat ((teamsOn s reach).map (fun e => sumNat ((List.range 32).map (fun g =>
    ((e.2.members.filter (fun m => m.slot = g)).findSome? Member.openLevel).getD 0))))

/-- A group that waits for a grant: its level and the time since which it has waited. A group slot asks once for its open
weir after a resume (R333). -/
def Team.asks (t : Team) (m : Member) : Option (Nat × Nat) :=
  match m.wait with
  | .weir l since => some (l, since)
  | _ => if (t.members.filter (fun x => x.slot = m.slot)).head?.any (fun x => x.id = m.id) then
      m.weir.bind (fun x => x.regrant.map (fun since => (x.level, since))) else none

/-- The groups that wait for a grant on a reach, the longest-waiting first, then lower core, then lower slot (R332). -/
def grantQueue (s : State) (reach : Nat) : List (Nat × Team × Member × Nat) :=
  let ms := (teamsOn s reach).flatMap (fun e => e.2.members.filterMap (fun m => (e.2.asks m).map (fun a => (e.1, e.2, m, a.1, a.2))))
  (sortBy (fun x => (x.2.2.2.2 * 2048 + x.2.1.seat.core) * 32 + x.2.2.1.slot) ms).map (fun x => (x.1, x.2.1, x.2.2.1, x.2.2.2.1))

/-- The first moment of the phase slot PHOFF (R334). -/
def phaseStart (s : State) : Bool := s.now % 4000 = 250 * s.phcfg.2

/-- The conditions of R332 for a level. -/
def grantable (s : State) (reach l : Nat) : Bool :=
  let r := s.reach reach
  decide (l ≤ r.gmax ∧ openLevels s reach + l ≤ r.gpool) && (decide (l < 5) || phaseStart s)

/-- The limit WLIM[L]. -/
def Reach.limit (r : Reach) (l : Nat) : Nat := bits r.wlim.toNat (16 * l + 15) (16 * l)

/-- A waiting member's grant: its weir opens, or its saved weir goes on (R332, R333). -/
def granted (s : State) (reach tk id l : Nat) : State :=
  let r := s.reach reach
  let fresh : Weir := { level := l, limit := r.limit l, weights := r.classWeights, window := [], regrant := none }
  match (look s.teams tk).bind (fun t => t.member id) with
  | none => s
  | some x => match x.wait with
    | .weir .. => s.updMember tk id (fun m => { m with wait := .none, ready := s.now, weir := some fresh })
    | _ => s.updTeam tk (fun t => { t with members := t.members.map (fun m =>
        if m.slot = x.slot then { m with ready := s.now, weir := m.weir.map (fun w => { w with regrant := none }) } else m) })

/-- The grants of a reach at one moment: the longest-waiting group whose conditions hold, and again, at most `n` times (R332). -/
def grantAll (reach : Nat) : Nat → State → State
  | 0, s => s
  | n + 1, s => match (grantQueue s reach).find? (fun x => grantable s reach x.2.2.2) with
    | some (tk, _, m, l) => grantAll reach n (granted s reach tk m.id l)
    | none => s

/-- WEIR_GRANT (R332): every grant that can be made at this moment, since one of level 5 or higher waits for no second (R334). -/
def execWeirGrant (reach : Nat) (s : State) : Host.Outcome State Fault Refusal :=
  .next (grantAll reach (grantQueue s reach).length s)

/-- The refill moves at most once in a microsecond, and by at most SLOPE (R330). -/
def Reach.mayMove (r : Reach) (now : Nat) : Bool := r.moved.all (fun t => decide (t + 1000 ≤ now))

/-- The refill moves to a value. -/
def Reach.moveTo (r : Reach) (x now : Nat) : Reach := if x = r.refill then r else { r with refill := x, moved := some now }

/-- SLOPE. -/
def Reach.slope (r : Reach) : Nat := bits r.mpcfg.toNat 31 16

/-- The refill is to rise by more than SLOPE, or is in such a rise (R334). -/
def Reach.rises (r : Reach) : Bool := decide (r.refill < r.target) && (r.phased || decide (r.refill + r.slope < r.target))

/-- A microsecond's gain of a millpond, and the refill's move towards its target (R330). A rise by more than SLOPE waits for the
phase slot. -/
def Reach.gain (r : Reach) (now : Nat) : Reach :=
  let y : Reach := { r with filled := now / 1000, level := min (bits r.mpcfg.toNat 15 0) (r.level + r.refill), phased := r.rises }
  if !r.mayMove now || r.rises then y
  else if r.target ≤ r.refill then y.moveTo (max r.target (r.refill - r.slope)) now
  else y.moveTo r.target now

/-- A rise by more than SLOPE steps up at the start of slot PHOFF (R334). -/
def Reach.stepUp (r : Reach) (now : Nat) : Reach :=
  let x := min r.target (r.refill + r.slope)
  if r.rises && r.mayMove now then { r.moveTo x now with phased := decide (x < r.target) } else r

/-- MILLPOND_REFILL (R330, R334): once each microsecond the millpond gains its refill in effect, and at the start of slot PHOFF a rise by
more than SLOPE steps up. -/
def execMillpondRefill (reach : Nat) (s : State) : Host.Outcome State Fault Refusal :=
  let r := s.reach reach
  let r := if r.filled < s.now / 1000 then r.gain s.now else r
  .next (s.setReach reach (if phaseStart s then r.stepUp s.now else r))

/-- WEIR.ACQ (R331). -/
def execWeirAcq (w : CWord) (s : State) : Host.Outcome State Fault Refusal :=
  calud (rowAt 0x1F8) entryAcq w s

/-- WEIR.REL (R331). -/
def execWeirRel (w : CWord) (s : State) : Host.Outcome State Fault Refusal :=
  calud (rowAt 0x1F9) entryRel w s

/-- WEIR.QRY (R335). -/
def execWeirQry (w : CWord) (s : State) : Host.Outcome State Fault Refusal :=
  calud (rowAt 0x1FA) entryQry w s

end Sys2Proof.Machine
end

