-- ==== Sys2Proof/Machine/System.lean ====
section
/-! DEFINITION. Trap words, masking and special registers (R341 to R349). -/

namespace Sys2Proof.Machine

/-- TRAP (R344). It is a word of the stream that TRET does not run again, so it counts as one (R105, R345). -/
def entryTrap (c : Ctx) : Res := .cause (c.s.updMember c.tk c.m.id Member.countWord) 0x28 (fA c.w)

/-- TRET in a handler (R345); outside one it fails check 2. The member stands at %tepc, so nothing of the word remains to complete. -/
def entryTret (c : Ctx) : Res :=
  .wait (c.draw ((c.s.settleQueues c.tk c.m.id).updMember c.tk c.m.id (fun m => m.resume.stamp c.s.now c.w.common.y)))

/-- The abandonment of a team by another way than a cause (R350), with a generator's failure (R234). -/
def Team.abandon (t : Team) (reason cause : Nat) (pc : Word) (slot : Nat) : Team :=
  if t.doom.isSome then t
  else { t with doom := some { reason := reason, cause := cause, pc := pc, slot := slot, genCause := 0x0A,
                               detail := BitVec.ofNat 64 (reason * 2 ^ 8 + cause) } }

/-- TABANDON (R346). -/
def entryTabandon (c : Ctx) : Res := .done (c.s.updTeam c.tk (fun t => t.abandon 0 0 c.m.pc c.m.slot)) Out.none

/-- TMASK (R342, R347). -/
def entryTmask (c : Ctx) : Res :=
  let on := fA c.w = 1
  .done (c.s.updMember c.tk c.m.id (fun m => { m with trap :=
    if m.trap.inh then { m.trap with mask := on }
    else { m.trap with mask := on, budget := if on then 65536 else 0, ppend := m.trap.ppend && on } })) Out.none

/-- %tstat (R341). -/
def Member.tstat (m : Member) : Nat :=
  b2n m.trap.inh * 2 ^ 31 + b2n m.trap.mask * 2 ^ 30 + b2n m.trap.ppend * 2 ^ 29 + m.trap.budget

/-- %tilehold (R294). -/
def Team.tilehold (t : Team) : Nat := t.drop * 2 ^ 16 + t.spec.tile * 2 ^ 8 + t.hold / 4096

/-- A special register that has one value for the member (R61, R348). -/
def srValue (s : State) (t : Team) (m : Member) (n : Nat) : Nat :=
  if n = 0x02 then m.slot
  else if n = 0x03 then t.task.toNat % 2 ^ 32
  else if n = 0x04 then t.seat.cluster.toNat
  else if n = 0x05 then t.seat.vcore
  else if n = 0x06 then t.task.toNat / 2 ^ 48
  else if n = 0x07 then t.task.toNat
  else if n = 0x08 then s.now % 2 ^ 64
  else if 0x10 ≤ n ∧ n ≤ 0x13 then (s.device.caps[n - 0x10]?.getD 0).toNat
  else if n = 0x18 then b2n t.prc
  else if n = 0x1A then t.fpenable.toNat
  else if n = 0x20 then t.arrmiss
  else if n = 0x22 then m.trap.raceva.toNat
  else if n = 0x24 then m.trap.racetask.toNat
  else if n = 0x26 then m.trap.springva.toNat
  else if n = 0x28 then m.trap.gentask.toNat
  else if n = 0x2A then m.trap.springdet.toNat
  else if n = 0x2C then m.trap.kerr.toNat
  else if n = 0x2E then m.trap.kerrva.toNat
  else if n = 0x30 then t.tilecfg.toNat
  else if n = 0x31 then t.tilehold
  else if n = 0x34 then t.tvec.toNat
  else if n = 0x35 then m.trap.tcause.toNat
  else if n = 0x36 then m.trap.tepc.toNat
  else if n = 0x37 then m.tstat
  else if n = 0x38 then (if m.trap.inh then m.trap.pcm else m.pcmask).toNat
  else 0

/-- The flags of a lane. -/
def Member.laneFlags (m : Member) (l : Nat) : BitVec 5 := ((m.lane l).map (·.flags)).getD 0

/-- What SYSRD reads in a lane: %tid, %lane and %fpflags are held per lane, and %fpflags read into a scalar is the OR
over the active lanes (R348). -/
def Ctx.srRead (c : Ctx) (n l : Nat) : Nat :=
  if n = 0x00 then ((c.m.lane l).map (fun x => x.tid.toNat)).getD 0
  else if n = 0x01 then l
  else if n = 0x19 then
    (if selD c.w then c.act.foldl (fun acc k => acc ||| c.m.laneFlags k) 0 else c.m.laneFlags l).toNat
  else srValue c.s c.t c.m n

/-- SYSRD (R348). -/
def entrySysrd (c : Ctx) : Res :=
  .done c.s (Out.fixed ((c.lanes (selD c.w)).flatMap (fun l => dstX c (sr64 (fA c.w)) l (c.srRead (fA c.w) l))))

/-- A legal %tilecfg (R294). -/
def tilecfgOk (x : Nat) : Bool := bits x 30 28 = 0 && bits x 7 0 = 0 && !(bit x 31 && decide (4 < bits x 27 24 + 1))

/-- Writes a per-team special register (R349): reserved bits as zero. -/
def Team.srWrite (t : Team) (n x : Nat) : Team :=
  if n = 0x18 then { t with prc := bit x 0 }
  else if n = 0x1A then { t with fpenable := BitVec.ofNat 5 x }
  else if n = 0x20 then { t with arrmiss := x % 65536 }
  else if n = 0x30 then { t with tilecfg := BitVec.ofNat 32 x }
  else if n = 0x34 then { t with tvec := BitVec.ofNat 32 x }
  else t

/-- SYSWR to a register that is RW (R349); one that is RO fails check 2. -/
def entrySyswr (c : Ctx) : Res :=
  let n := fA c.w
  let val (l : Nat) : Nat := c.x (selB c.w) l (fB c.w)
  let x := val c.m.low
  if n = 0x19 then
    .done (c.s.updMember c.tk c.m.id (fun m => { m with lanes := m.lanes.map (fun e => (e.1, { e.2 with flags := BitVec.ofNat 5 (val e.1) })) })) Out.none
  else if n = 0x30 ∧ !tilecfgOk x then .cause c.s 0x1C 0
  else .done (c.s.updTeam c.tk (fun t => t.srWrite n x)) Out.none

/-- TRAP (R344). -/
def execTrapW (w : CWord) (s : State) : Host.Outcome State Fault Refusal :=
  calud (rowAt 0x1F0) entryTrap w s

/-- TRET (R345). -/
def execTret (w : CWord) (s : State) : Host.Outcome State Fault Refusal :=
  calud (rowAt 0x1F1) entryTret w s

/-- TABANDON (R346). -/
def execTabandon (w : CWord) (s : State) : Host.Outcome State Fault Refusal :=
  calud (rowAt 0x1F2) entryTabandon w s

/-- TMASK (R347). -/
def execTmask (w : CWord) (s : State) : Host.Outcome State Fault Refusal :=
  calud (rowAt 0x1F3) entryTmask w s

/-- SYSRD (R348). -/
def execSysrd (w : CWord) (s : State) : Host.Outcome State Fault Refusal :=
  calud (rowAt 0x1F4) entrySysrd w s

/-- SYSWR (R349). -/
def execSyswr (w : CWord) (s : State) : Host.Outcome State Fault Refusal :=
  calud (rowAt 0x1F5) entrySyswr w s

end Sys2Proof.Machine
end

