-- ==== Sys2Proof/Machine/Matrix.lean ====
section
/-! DEFINITION. The matrix engine: tiles, the matrix queue, products and sums, metadata, retirement and the reset of
a hung engine (R269 to R289). -/

namespace Sys2Proof.Machine

/-! ### Tiles (R270, R271) -/

/-- A tile that is not listed. -/
def Tile.zero : Tile := { opened := false, remain := 0, owner := 0, data := [] }
/-- A team's tile. -/
def Team.tileAt (t : Team) (n : Nat) : Tile := get Tile.zero t.tiles n
/-- Sets a team's tile. -/
def Team.setTile (t : Team) (n : Nat) (x : Tile) : Team := { t with tiles := setD Tile.zero t.tiles n x }
/-- Changes a team's tile. -/
def State.updTile (s : State) (tk n : Nat) (f : Tile → Tile) : State := s.updTeam tk (fun t => t.setTile n (f (t.tileAt n)))
/-- Element (m, n) of a tile. -/
def Tile.elem (x : Tile) (m n : Nat) : Nat := (get 0 x.data (32 * m + n)).toNat

/-- The word's group slot does not own the OPEN tile (R271). -/
def Ctx.notOwner (c : Ctx) (n : Nat) : Bool := (c.t.tileAt n).opened && (c.t.tileAt n).owner != c.m.slot

/-- The tile that a job touches (R273). -/
def Job.tile : Job → Option Nat
  | .mma t .. => some t
  | .accZero t => some t
  | .accRet t .. => some t
  | _ => none

/-- The metadata units that a sparse word of a type spans (R279). -/
def unitSpan (aty : Nat) : Nat := if aty ≤ 1 then 1 else if aty ≤ 5 then 2 else 4

/-- The metadata units that a job touches: the first, and how many. -/
def Job.units : Job → Nat × Nat
  | .mma _ aty _ _ _ _ _ _ (some u) .. => (u, unitSpan aty)
  | .metaLd u _ n => (u, n / 128)
  | _ => (0, 0)

/-- Two jobs of one team touch something in common (R273). -/
def Job.touches (a b : Job) : Bool :=
  (a.tile.isSome && a.tile == b.tile) || meets (a.units.1, a.units.1 + a.units.2) (b.units.1, b.units.1 + b.units.2)

/-! ### ACC.OPEN, ACC.ZERO and ACC.RD -/

/-- ACC.OPEN (R280). -/
def entryAccOpen (c : Ctx) : Res :=
  let n := fD c.w
  if (c.t.tileAt n).opened || familySplit c.t c.m then .cause c.s 0x19 0
  else
    let s := c.s.updTile c.tk n (fun x => { x with opened := true, remain := mBits c.w 11 0, owner := c.m.slot })
    if mBit c.w 12 then accept { c with s := s } true none none (.accZero n) else .done s Out.none

/-- ACC.ZERO (R280). -/
def entryAccZero (c : Ctx) : Res :=
  if c.notOwner (fD c.w) then .cause c.s 0x19 0 else accept c true none none (.accZero (fD c.w))

/-- ACC.RD (R287). -/
def entryAccRd (c : Ctx) : Res :=
  let n := fA c.w
  let cnt := mBits c.w 4 0 + 1
  let col (l : Nat) : Nat := c.x (selB c.w) l (fB c.w)
  if c.notOwner n then .cause c.s 0x19 0
  else if c.act.any (fun l => decide (32 < col l + cnt)) then .cause c.s 0x05 0
  else if c.s.cmds.any (fun k => k.team = c.tk && k.job.tile == some n) then .wait c.s
  else .done c.s (Out.late (c.act.flatMap (fun l => (List.range cnt).map (fun i =>
    (Place.v l (fD c.w + i), (c.t.tileAt n).elem l (col l + i))))))

/-! ### Accepting MMA and MMAS (R281, R282) -/

/-- The width class of a matrix type code (R275): 0 16-bit, 1 byte, 2 nibble. -/
def widthClass (ty : Nat) : Nat := if ty ≤ 1 then 0 else if ty ≤ 5 then 1 else 2
/-- K of a class (R275). -/
def depthK (cls : Nat) : Nat := 32 * 2 ^ cls
/-- Elements per register of a class. -/
def perReg (cls : Nat) : Nat := 2 * 2 ^ cls

/-- The rows of A as the word reads them: element register, lane, value. A register of the latched operand comes from
the latch (R113). An MMA of 16 registers that reuses a latch of the 8 of an MMAS takes those 8 from it and reads the rest: R113 does not
speak of the case (log entry 85). -/
def Ctx.aRows (c : Ctx) (n : Nat) : List (Nat × Nat × Word) :=
  (List.range n).flatMap (fun j => c.m.present.map (fun l =>
    (j, l, match c.m.latch with
      | some x => if x.reg = fA c.w then
          ((x.rows.find? (fun e => e.1 = j && e.2.1 = l)).map (·.2.2)).getD (BitVec.ofNat 32 (c.v l (fA c.w + j)))
        else BitVec.ofNat 32 (c.v l (fA c.w + j))
      | none => BitVec.ofNat 32 (c.v l (fA c.w + j)))))

/-- The latch after the word (R113). -/
def Ctx.latchAfter (c : Ctx) (rows : List (Nat × Nat × Word)) : Option Latch :=
  if !c.w.common.ru then none
  else match c.m.latch with
    | some x => if x.reg = fA c.w then some x else some { reg := fA c.w, rows := rows }
    | none => some { reg := fA c.w, rows := rows }

/-- MMA and MMAS (R281, R282). -/
def entryMma (sparse : Bool) (c : Ctx) : Res :=
  let b := fB c.w
  let scl := fSub c.w = 1
  let x := c.sc b
  let aty := bits x 19 16
  let bty := bits x 23 20
  let tile := bits x 4 0
  let bobj := bits x 13 8
  let boff := c.sc (b + 1)
  let unit := bits (c.sc (b + 2)) 6 0
  let soff := if scl then c.sc (b + 3) else 0
  let n := if sparse then 8 else 16
  let t := c.t.tileAt tile
  checked c
    [ failIf (bits x 31 25 ≠ 0 || bits x 15 14 ≠ 0 || bits x 7 5 ≠ 0 || (sparse && bits (c.sc (b + 2)) 31 7 ≠ 0) || decide (8 ≤ aty) ||
        decide (8 ≤ bty) || widthClass aty ≠ widthClass bty || (scl && widthClass aty = 0)) 0x01,
      failIf (decide (c.t.spec.acc ≤ tile) || (sparse && decide (4 * c.t.spec.acc < unit + unitSpan aty)) || (c.t.obj bobj).isNone) 0x03,
      failIf (c.notOwner tile || familySplit c.t c.m || t.remain = 0) 0x19,
      firstCause [endKind c.t (.obj bobj boff), endState c.t .full (.obj bobj boff)],
      failIf (boff % 64 ≠ 0 || soff % 64 ≠ 0) 0x04,
      firstCause [endBounds c.t 2048 (.obj bobj boff), if scl then endBounds c.t 128 (.obj bobj soff) else none],
      c.tokenCheck ]
    (let rows := c.aRows n
     let scales := if scl then c.m.present.map (fun l => (l, BitVec.ofNat 32 (c.v l (fA c.w + n)))) else []
     let cb := (List.range 16).map (fun i => (i, BitVec.ofNat 16 (c.cb i)))
     let s := (c.s.updTile c.tk tile (fun t => { t with remain := t.remain - 1 })).updMember c.tk c.m.id
       (fun m => { m with latch := c.latchAfter rows })
     accept { c with s := s } true (some (fD c.w)) none
       (.mma tile aty bty (bit x 24) scl bobj boff soff (if sparse then some unit else none) rows scales cb))

/-! ### The sums (R275 to R279, R283, R284) -/

/-- The exact value of element i of a word under a matrix type code, a subnormal flushed under FTZ. -/
def mmElem (cb : Nat → Nat) (ty : Nat) (ftz : Bool) (x i : Nat) : Ex :=
  if ty ≤ 1 then decodeZ ftz (fmtOfTy (0x11 + ty)) (half x i) else narrowValue cb (0x11 + ty) ftz x i

/-- Row m of A as captured: the word at element register j, none for an absent lane. -/
def rowWord (rows : List (Nat × Nat × Word)) (m j : Nat) : Option Nat :=
  (rows.find? (fun e => e.1 = j && e.2.1 = m)).map (fun e => e.2.2.toNat)

/-- Stored value v of row m; +0 in an absent lane (R276). -/
def storedA (rows : List (Nat × Nat × Word)) (cb : Nat → Nat) (ty : Nat) (ftz : Bool) (m v : Nat) : Ex :=
  let e := perReg (widthClass ty)
  match rowWord rows m (v / e) with
  | some x => mmElem cb ty ftz x (v % e)
  | none => .zero false

/-- The metadata nibble of group g of row m (R279). -/
def metaNibble (units : Bytes) (unit k m g : Nat) : Nat :=
  let b := (Mem.read units (128 * unit + m * k / 8 + g / 2)).toNat
  if g % 2 = 0 then b % 16 else b / 16

/-- i0 and i1 of a nibble. -/
def nibbleAt (x : Nat) : Nat × Nat := (x % 4, x / 4)

/-- A(m, k): dense, or of the 2:4 form through its metadata (R276, R279). -/
def valueA (rows : List (Nat × Nat × Word)) (cb : Nat → Nat) (ty : Nat) (ftz : Bool) (units : Bytes) (unit : Option Nat) (m k : Nat) : Ex :=
  match unit with
  | none => storedA rows cb ty ftz m k
  | some u =>
    let i := nibbleAt (metaNibble units u (depthK (widthClass ty)) m (k / 4))
    if k % 4 = i.1 then storedA rows cb ty ftz m (k / 4 * 2)
    else if k % 4 = i.2 then storedA rows cb ty ftz m (k / 4 * 2 + 1)
    else .zero false

/-- B(k, n) in the bytes of its object (R277). -/
def valueB (data : Bytes) (off : Nat) (cb : Nat → Nat) (ty : Nat) (ftz : Bool) (k n : Nat) : Ex :=
  if ty ≤ 1 then mmElem cb ty ftz (leVal (Mem.readN data (off + k * 64 + n * 2) 2)) 0
  else if ty ≤ 5 then mmElem cb ty ftz (Mem.read data (off + k * 32 + n)).toNat 0
  else mmElem cb ty ftz (Mem.read data (off + 16 * k + n / 2)).toNat (n % 2)

/-- The metadata area of a sparse word holds an invalid nibble (R279, R284). -/
def metaInvalid (units : Bytes) (unit cls : Nat) : Bool :=
  (List.range 32).any (fun m => (List.range (depthK cls / 4)).any (fun g =>
    let i := nibbleAt (metaNibble units unit (depthK cls) m g)
    decide (i.2 ≤ i.1)))

/-- One element of an MMA or MMAS (R283): one FP32 addition for each block of 32 products. -/
def mmaElem (ftz : Bool) (blocks : Nat) (a b : Nat → Ex) (sa sb : Nat → Ex) (acc : Nat) : Nat :=
  (List.range blocks).foldl (fun acc j =>
    (dotFloat ftz acc ((List.range 32).map (fun i => dotProduct ((a (32 * j + i)).mul (sa j)) ((b (32 * j + i)).mul (sb j))))).1) acc

/-- The tile after an MMA or MMAS (R283). -/
def mmaTile (aty bty : Nat) (ftz scl : Bool) (data : Bytes) (boff soff : Nat) (units : Bytes) (unit : Option Nat)
    (rows : List (Nat × Nat × Word)) (scales : List (Nat × Word)) (cbs : Sparse Half) (x : Tile) : Tile :=
  let cb (i : Nat) : Nat := (get 0 cbs i).toNat
  let one : Ex := .num false 1 1
  let sa (m j : Nat) : Ex := if scl then blockScale (bits ((get 0 scales m)).toNat (8 * j + 7) (8 * j)) else one
  let sb (n j : Nat) : Ex := if scl then blockScale (Mem.read data (soff + 4 * n + j)).toNat else one
  let out := (List.range 1024).map (fun e =>
    let m := e / 32
    let n := e % 32
    (e, BitVec.ofNat 32 (mmaElem ftz (depthK (widthClass aty) / 32) (valueA rows cb aty ftz units unit m) (fun k => valueB data boff cb bty ftz k n)
      (sa m) (sb n) (x.elem m n))))
  { x with data := out.filter (fun e => e.2 != 0) }

/-! ### META.LD and ACC.RET (R285, R286) -/

/-- META.LD (R285). -/
def entryMetaLd (c : Ctx) : Res :=
  let b := fB c.w
  let ctl := c.sc b
  let src := c.endpoint (b + 1)
  let n := c.sc (b + 3)
  checked c ([failIf (ctlBad ctl false || endBad (c.sc (b + 1)) || n = 0 || n % 128 ≠ 0 || decide (16384 < n)) 0x01,
      failIf (decide (4 * c.t.spec.acc < fA c.w + n / 128)) 0x03, endKind c.t src, endBounds c.t n src, endPermit .read src,
      endState c.t .full src] ++ c.lateChecks ctl)
    (accept c true (some (fD c.w)) (c.ringOf ctl) (.metaLd (fA c.w) src n))

/-- The size of an output type of ACC.RET. -/
def retSize (fmt : Nat) : Nat := if bits fmt 1 0 = 0 then 4 else 2
/-- The pitch in bytes. -/
def retPitch (fmt : Nat) : Nat := if bits fmt 31 16 = 0 then 32 * retSize fmt else bits fmt 31 16

/-- ACC.RET (R286): at acceptance the tile becomes FREE and keeps its contents. -/
def entryAccRet (c : Ctx) : Res :=
  let b := fB c.w
  let ctl := c.sc b
  let dst := c.endpoint (b + 1)
  let f := c.sc (b + 3)
  let n := fA c.w
  let z := retSize f
  let p := retPitch f
  checked c ([failIf (ctlBad ctl false || endBad (c.sc (b + 1)) || bits f 15 6 ≠ 0 || decide (3 < bits f 4 2) || bits f 1 0 = 3 ||
        decide (p < 32 * z) || p % z ≠ 0) 0x01,
      failIf (!(c.t.tileAt n).opened || c.notOwner n || familySplit c.t c.m) 0x19,
      endKind c.t dst, endBounds c.t (31 * p + 32 * z) dst, endPermit .write dst, endState c.t .filling dst] ++ c.lateChecks ctl)
    (accept { c with s := c.s.updTile c.tk n (fun x => { x with opened := false, remain := 0 }) } true (some (fD c.w)) (c.ringOf ctl)
      (.accRet n dst (BitVec.ofNat 32 f)))

/-- The bytes that ACC.RET writes, by offset. -/
def retBytes (x : Tile) (f : Nat) : List (Nat × Byte) :=
  let fm := if bits f 1 0 = 0 then f32 else if bits f 1 0 = 1 then bf16 else f16
  (List.range 1024).flatMap (fun e =>
    let y := encodeQuiet fm (decode f32 (x.elem (e / 32) (e % 32))) (bits f 4 2) (bit f 5)
    (toBytes (retSize f) y).zipIdx.map (fun b => (e / 32 * retPitch f + e % 32 * retSize f + b.2, b.1)))

/-! ### Entries of the matrix queue (R273) -/

/-- MATRIX_ENTRY_START (R273): in the order of acceptance, once every earlier entry that touches what it touches has
completed; one MMA or MMAS at a time. A started MMA or MMAS reads B, its scales and the metadata (R282), and its sums
are put into the tile, which no other word sees before it completes. -/
def execMatrixEntryStart (id : Nat) (s : State) : Host.Outcome State Fault Refusal :=
  match s.cmd id with
  | none => .next s
  | some k =>
    let before := (liveCmds s).filter (fun x => x.matrix && x.core = k.core && decide (x.id < id))
    let isMma (j : Job) : Bool := match j with
      | .mma .. => true
      | _ => false
    let clear := !before.any (fun x => (x.team = k.team && x.job.touches k.job) || (isMma k.job && isMma x.job && x.phase == .started))
    match look s.teams k.team with
    | none => .next s
    | some t =>
      if !(k.matrix && startable s k && clear && !(s.core k.core).mreset) then .next s
      else match usedError s k with
      | some (c, va) => .next (endCmd s k 1 c va 0)
      | none =>
        let s := s.updCmd id (fun k => { k with phase := .started, startAt := s.now })
        match k.job with
        | .mma tile aty bty ftz scl bobj boff soff unit rows scales cb =>
          let s := readDone s k
          if unit.any (fun u => metaInvalid t.units u (widthClass aty)) then
            .next (endCmd s { k with phase := .started } 1 0x19 0 0)
          else .next (s.updTile k.team tile (mmaTile aty bty ftz scl (((t.obj bobj).map (·.data)).getD []) boff soff t.units unit rows scales cb))
        | _ => .next s

/-- MATRIX_ENTRY_COMPLETION (R273, R280, R283, R285, R286). -/
def execMatrixEntryCompletion (id : Nat) (s : State) : Host.Outcome State Fault Refusal :=
  match s.cmd id with
  | none => .next s
  | some k =>
    if !k.matrix || !runnable s k then .next s
    else
      let s := s.updCmd id (fun k => { k with stop := .none })
      .next (match k.phase, k.ring, k.job with
        | .record i status cause va bytes, some r, _ => ringStep s k r i status cause va bytes
        | .started, _, .mma .. => endCmd s k 0 0 0 0
        | .started, _, .accZero n => endCmd (s.updTile k.team n (fun x => { x with data := [] })) k 0 0 0 0
        | .started, _, .accRet n dst f =>
          (match writeEnd s k dst (retBytes (((look s.teams k.team).map (fun t => t.tileAt n)).getD Tile.zero) f.toNat) with
           | .ok s _ => endCmd s k 0 0 0 (1024 * retSize f.toNat)
           | x => stopCmd k x)
        | .started, _, .metaLd u src n =>
          (match readEnd s k src false ((List.range n).map (fun j => (0, j))) with
           | .ok s bs => endCmd (s.updTeam k.team (fun t => { t with units := Mem.write t.units (128 * u) bs })) k 0 0 0 n
           | x => stopCmd k x)
        | _, _, _ => s)

/-! ### A hung engine (R289) -/

/-- A team that a reset of the engine affects: it holds an OPEN tile or an entry. -/
def matrixAffected (s : State) (core : Nat) (tk : Nat) (t : Team) : Bool :=
  t.seat.core = core && !t.saved && (t.tiles.any (fun e => e.2.opened) || s.cmds.any (fun k => k.matrix && k.team = tk))

/-- An affected team after the reset: tiles zero and FREE, units zero, abandoned with cause 0x1A. -/
def Team.matrixReset (t : Team) : Team := { t with tiles := [], units := [] }.abandon 3 0x1A 0 0

/-- MATRIX_RESET (R289): a started MMA or MMAS has not completed after 80 µs. -/
def execMatrixReset (core : Nat) (s : State) : Host.Outcome State Fault Refusal :=
  let hung (k : Command) : Bool := k.core = core && k.phase == .started && decide (k.startAt + 80000 ≤ s.now) && (match k.job with
    | .mma .. => true
    | _ => false)
  if (liveCmds s).any hung then
    let hit := (s.teams.filter (fun e => matrixAffected s core e.1 e.2)).map (·.1)
    let drop := s.cmds.filter (fun k => k.matrix && hit.contains k.team)
    let s : State := drop.foldl uncount s
    let s := { s with
      cmds := s.cmds.filter (fun k => !(k.matrix && hit.contains k.team))
      teams := s.teams.map (fun (e : Nat × Team) => if hit.contains e.1 then (e.1, e.2.matrixReset) else e) }
    let x := s.core core
    .next (postEvent (s.setCore core { x with mreset := true, mend := s.now + laneNs (s.reach (reachOf core)).lrate 4096 }) 64 6
      (eventBody [(0, core)]))
  else .next s

/-- MATRIX_RESET_END (R289). -/
def execMatrixResetEnd (core : Nat) (s : State) : Host.Outcome State Fault Refusal :=
  let x := s.core core
  if x.mreset && decide (x.mend ≤ s.now) then .next (s.setCore core { x with mreset := false }) else .next s

/-- ACC.OPEN (R280). -/
def execAccOpen (w : CWord) (s : State) : Host.Outcome State Fault Refusal :=
  calud (rowAt 0x1E0) entryAccOpen w s

/-- MMA (R281). -/
def execMma (w : CWord) (s : State) : Host.Outcome State Fault Refusal :=
  calud (rowAt 0x1E1) (entryMma false) w s

/-- MMAS (R281). -/
def execMmas (w : CWord) (s : State) : Host.Outcome State Fault Refusal :=
  calud (rowAt 0x1E2) (entryMma true) w s

/-- ACC.RET (R286). -/
def execAccRet (w : CWord) (s : State) : Host.Outcome State Fault Refusal :=
  calud (rowAt 0x1E3) entryAccRet w s

/-- ACC.RD (R287). -/
def execAccRd (w : CWord) (s : State) : Host.Outcome State Fault Refusal :=
  calud (rowAt 0x1E4) entryAccRd w s

/-- ACC.ZERO (R280). -/
def execAccZero (w : CWord) (s : State) : Host.Outcome State Fault Refusal :=
  calud (rowAt 0x1E5) entryAccZero w s

/-- META.LD (R285). -/
def execMetaLd (w : CWord) (s : State) : Host.Outcome State Fault Refusal :=
  calud (rowAt 0x1E6) entryMetaLd w s

end Sys2Proof.Machine
end

