-- ==== Sys2Proof/Machine/Heat.lean ====
section
/-! DEFINITION. Vault temperatures, refresh intervals, budgets and charges (R318 to R325), and the device register
space's block offsets (R426). Temperatures are compared in eighths of a degree, since a rise at half lane rate is a
whole number of them. -/

namespace Sys2Proof.Machine

/-! ### Register offsets (R325, R326, R426) -/

/-- The offset of a register in a block of a die: blocks 0 memory unit, 1 vaults, 2 reach power. -/
def dieReg (die block off : Nat) : Nat := 0x1000000 + 0x100000 * die + 0x10000 * block + off
/-- VRES of a vault (R325). -/
def vresReg (vault : Nat) : Nat := dieReg (vault / 32) 1 (16 * (vault % 32) + 8)
/-- A register of a reach (R326). -/
def reachReg (reach off : Nat) : Nat := dieReg (reach / 32) 2 (0x40 * (reach % 32) + off)
/-- The registers of a package reach's die exist (R426). -/
def State.reachUp (s : State) (n : Nat) : Bool := s.dieUp (n / 32)

/-! ### The table of R318 -/

/-- The row of a temperature in eighths of a degree: 0 to 3, and 4 when activations halt. -/
def heatRow (t8 : Nat) : Nat :=
  if t8 ≤ 560 then 0 else if t8 ≤ 680 then 1 else if t8 ≤ 760 then 2 else if t8 ≤ 840 then 3 else 4
/-- The refresh cost of an interval in budget units. -/
def rowCost (row : Nat) : Nat := if row = 0 then 21 else if row = 1 then 41 else if row = 2 then 82 else 164
/-- The lower bound of a row, in quarters of a degree. -/
def rowFloor (row : Nat) : Nat := if row = 1 then 280 else if row = 2 then 340 else 380

/-- The rise of a power class at a lane rate, in eighths of a degree (R321). -/
def riseOf (pclass lrate : Nat) : Nat :=
  let half := [0, 1, 2, 4, 6, 8, 12, 16][pclass]?.getD 0
  if lrate = 0 then half else if lrate = 2 then 4 * half else 2 * half

/-- TPRED of a vault, in eighths of a degree (R321): the latest reading and the rises that still count. -/
def tpred8 (s : State) (v : Nat) : Nat :=
  2 * (s.vault v).tmeas +
    sumNat ((teamsOn s v).map (fun e => if e.2.seat.rising then riseOf e.2.spec.pclass (s.reach v).lrate else 0))

/-- COST of a vault's current interval. -/
def Vault.cost (x : Vault) : Nat := rowCost x.ivl
/-- The predicted cost at a temperature (R321). -/
def Vault.predicted (x : Vault) (t8 : Nat) : Nat := max (rowCost (heatRow t8)) x.cost
/-- The budget of a vault (R320). -/
def Vault.budget (x : Vault) : Int := 1024 - (x.cost : Int) - x.mr - x.pin

/-- The vault check refuses a team of a class on a reach (R322). -/
def vaultRefuses (s : State) (v pclass : Nat) : Bool :=
  let x := s.vault v
  let t := tpred8 s v + riseOf pclass (s.reach v).lrate
  decide (840 < t) || decide (1024 - (x.predicted t : Int) - x.mr - x.pin < x.floor)

/-- The refresh charge of a team of a class on a reach (R323). -/
def refreshCharge (s : State) (v pclass : Nat) : Nat :=
  let t := tpred8 s v
  (s.vault v).predicted (t + riseOf pclass (s.reach v).lrate) - (s.vault v).predicted t

/-! ### Vault-pressure events (R324) -/

/-- The partition that holds a reach. -/
def reachPart (s : State) (n : Nat) : Option Nat := (s.parts.find? (fun p => p.2.reaches.getLsbD n)).map (·.1)

/-- Posts a vault-pressure event, at most one per vault in 1 ms. TPRED is given in whole quarters (log entry 16). -/
def vaultEvent (s : State) (v part lid : Nat) : State :=
  let x := s.vault v
  if x.event.any (fun t => decide (s.now < t + 1000000)) then s
  else
    let s := s.setVault v { x with event := some s.now }
    postEvent s 64 4 (eventBody [(0, v / 32), (1, v % 32), (2, part), (4, lid), (8, tpred8 s v / 2), (10, wrapI 16 x.budget), (12, x.floor)])

/-- A vault refuses a team (R324). -/
def vaultPress (s : State) (v part lid : Nat) : State :=
  vaultEvent (s.setVault v { s.vault v with press := true }) v part lid

/-! ### The events -/

/-- The vault after a reading (R319): interval, halt and the time of cooling. -/
def Vault.read (x : Vault) (now q : Nat) : Vault :=
  let row := min 3 (heatRow (2 * q))
  let cooled (r : Nat) : Bool := decide (0 < r ∧ q + 12 ≤ rowFloor r)
  let halt := if 420 < q then true else if q ≤ 400 then false else x.halt
  let x := { x with tmeas := q, halt := halt }
  if x.ivl < row then { x with ivl := row, cool := none }
  else if !cooled x.ivl then { x with cool := none }
  else match x.cool with
    | none => { x with cool := some now }
    | some t => if t + 10000000 ≤ now then { x with ivl := x.ivl - 1, cool := if cooled (x.ivl - 1) then some now else none } else x

/-- SENSOR_READING (R318, R319, R324): a reading in quarters of a degree, which the register holds in 12 bits. A vault that serves
again first delivers what it held. -/
def execSensorReading (reach quarters : Nat) (s : State) : Host.Outcome State Fault Refusal :=
  if !s.reachUp reach then .next s
  else
    let old := s.vault reach
    let x := old.read s.now (min quarters 4095)
    let s := s.setVault reach x
    let s := if old.halt && !x.halt then retryHeld s else s
    let halts := x.halt && !old.halt
    let s := if halts then s.interrupt (73 + reach) else s
    .next (if halts || (x.ivl = 3 && old.ivl < 3) then vaultEvent s reach ((reachPart s reach).getD 0) 0 else s)

/-- RISE_EXPIRY (R321): after 20 ms a team's rise is taken to be in the reading. -/
def execRiseExpiry (team : Nat) (s : State) : Host.Outcome State Fault Refusal :=
  match look s.teams team with
  | some t => if t.seat.rising && decide (t.seat.placed + 20000000 ≤ s.now)
      then .next (s.updTeam team (fun t => { t with seat := { t.seat with rising := false } })) else .next s
  | none => .next s

/-- CHARGE_COUNTER_TICK (R323): each partition's counter on a die adds the charges of its teams there. -/
def execChargeCounterTick (s : State) : Host.Outcome State Fault Refusal :=
  .next { s with pchg := (s.teams.filter (fun e => !e.2.saved)).foldl (fun m e =>
    let k := 64 * dieOf e.2.seat.core + e.2.part
    setD 0 m k (get 0 m k + BitVec.ofNat 64 e.2.seat.charge)) s.pchg }

/-- VRES (R320): PIN in [26:16] and FLOOR in [10:0]. -/
def execVres (vault : Nat) (value : Word) (s : State) : Host.Outcome State Fault Refusal :=
  let pin := bits value.toNat 26 16
  let floor := bits value.toNat 10 0
  if !s.reachUp vault then .next s
  else if 1024 < floor + pin + (s.vault vault).mr + 21 then .next (refuse s (vresReg vault))
  else .next (s.setVault vault { s.vault vault with pin := pin, floor := floor })

end Sys2Proof.Machine
end

