-- ==== Sys2Proof/Machine/Power.lean ====
section
/-! DEFINITION. Clocks and hops (R326, R327, R336, R337), the millpond's target, the spring slots' count, the
version-store carve (R17, R237, R328), and retraining links and ports (R21, R445). -/

namespace Sys2Proof.Machine

/-! ### Hops (R327, R337) -/

/-- CAP0.RATES offers a lane rate (R25). -/
def State.offersRate (s : State) (r : Nat) : Bool := r ≤ 2 && bit ((s.device.caps.head?.getD 0).toNat) (8 + r)

/-- A write of rate and VID outside a hop: a rate change starts a hop, with the lane clock on the slower source; the VID
goes before a hop to a faster rate and after a hop to a slower one. -/
def Reach.configure (r : Reach) (now rate vid : Nat) : Reach :=
  if rate = r.lrate then { r with vid := vid }
  else if r.lrate < rate then { r with vid := vid, hop := some { new := rate, old := r.lrate, since := now, locked := none } }
  else { r with lrate := rate, nextVid := some vid, hop := some { new := rate, old := r.lrate, since := now, locked := none } }

/-- The hop is over: the VID of a hop to a slower rate, then the last write made during it (R327). -/
def Reach.afterHop (r : Reach) (now : Nat) : Reach :=
  let x := { r with hop := none, vid := r.nextVid.getD r.vid, nextVid := none, nextCfg := none }
  match r.nextCfg with
  | some (rate, vid) => x.configure now rate vid
  | none => x

/-- A 16-bit count in a word, saturating (R326, HOPCNT). -/
def bump16 (x : Word) (high : Bool) : Word :=
  let lo := x.toNat % 65536
  let hi := x.toNat / 65536
  BitVec.ofNat 32 (if high then lo + min (hi + 1) 65535 * 65536 else min (lo + 1) 65535 + hi * 65536)

/-- Step 3 of a hop (R337). -/
def Reach.endHop (r : Reach) (now : Nat) (h : Hop) : Reach :=
  let cnt := bump16 r.hopcnt false
  let cnt := if h.locked.isSome then bump16 cnt true else cnt
  ({ r with lrate := h.new, hopcnt := cnt, hopmax := BitVec.ofNat 32 (min (max r.hopmax.toNat (now - h.since)) (2 ^ 32 - 1)) }).afterHop now

/-- CLKCFG (R327): VID in [23:16] and LRATE in [9:8]. -/
def execClkcfg (reach : Nat) (value : Word) (s : State) : Host.Outcome State Fault Refusal :=
  let rate := bits value.toNat 9 8
  let vid := bits value.toNat 23 16
  let r := s.reach reach
  if !s.reachUp reach then .next s
  else if !s.offersRate rate then .next (refuse s (reachReg reach 0))
  else if r.hop.isSome then .next (s.setReach reach { r with nextCfg := some (rate, vid) })
  else .next (s.setReach reach (r.configure s.now rate vid))

/-- HOP_LOCK (R337): the new source has locked; step 3 follows, or waits for a stretch to end. -/
def execHopLock (reach : Nat) (s : State) : Host.Outcome State Fault Refusal :=
  let r := s.reach reach
  match r.hop with
  | none => .next s
  | some h =>
    if h.locked.isSome then .next s
    else if r.stretch then .next (s.setReach reach { r with hop := some { h with locked := some s.now } })
    else .next (s.setReach reach (r.endHop s.now h))

/-- DROOP (R336). -/
def execDroop (reach : Nat) (s : State) : Host.Outcome State Fault Refusal :=
  let r := s.reach reach
  if s.reachUp reach then .next (s.setReach reach { r with stretch := true, drpcnt := satAdd r.drpcnt 1 }) else .next s

/-- A hop is abandoned: the lane clock stays on the slower source, and the host receives a hop-abort event (R337). -/
def abortHop (s : State) (reach : Nat) (r : Reach) : State :=
  postEvent (s.setReach reach (r.afterHop s.now)) 64 9 (eventBody [(0, reach / 32), (1, reach % 32)])

/-- STRETCH_END (R336, R337): a hop that waited at step 3 moves on, or is abandoned where the stretch has lasted more than 16 µs past
step 2. -/
def execStretchEnd (reach : Nat) (s : State) : Host.Outcome State Fault Refusal :=
  let r := { s.reach reach with stretch := false }
  match r.hop.bind (fun h => h.locked.map (fun t => (h, t))) with
  | some (h, t) => if t + 16000 < s.now then .next (abortHop s reach r) else .next (s.setReach reach (r.endHop s.now h))
  | none => .next (s.setReach reach r)

/-- HOP_ABORT (R337): the stretch has lasted 16 µs past step 2, and the lane clock stays on the slower source. -/
def execHopAbort (reach : Nat) (s : State) : Host.Outcome State Fault Refusal :=
  let r := s.reach reach
  match r.hop.bind (·.locked) with
  | some t =>
    if r.stretch && decide (t + 16000 ≤ s.now) then
      .next (abortHop s reach r)
    else .next s
  | none => .next s

/-! ### Host writes of a reach and of a die -/

/-- MPFILL (R328): the sum of the targets stays within PKGCAP. -/
def execMpfill (reach : Nat) (value : Word) (s : State) : Host.Outcome State Fault Refusal :=
  let x := value.toNat % 65536
  let others := sumNat ((s.reaches.filter (fun e => e.1 != reach)).map (·.2.target))
  if !s.reachUp reach then .next s
  else if s.pkgcap.toNat < others + x then .next (refuse s (reachReg reach 8))
  else .next (s.setReach reach { s.reach reach with target := x })

/-- SPSLOT (R237): at most 16 slots. -/
def execSpslot (reach : Nat) (value : Word) (s : State) : Host.Outcome State Fault Refusal :=
  let n := value.toNat % 32
  if !s.reachUp reach then .next s
  else if 16 < n then .next (refuse s (reachReg reach 0x3C))
  else .next (s.setReach reach { s.reach reach with spslot := n })

/-- A team on the die holds a version, or a committed mark is held there (R17). -/
def storeBusy (s : State) (die : Nat) : Bool :=
  s.teams.any (fun e => dieOf e.2.seat.core = die && decide (0 < chargeOf e.2.ver.reads e.2.ver.writes)) ||
  s.marks.any (fun k => k.die = die && markHeld s k)

/-- The version-store share of a partition on a die, in units of 64 KiB (R434). -/
def Partition.share (p : Partition) (die : Nat) : Nat := bits p.vshare.toNat (16 * die + 15) (16 * die)

/-- The version-store share of a die in the word of R434. -/
def shareIn (w die : Nat) : Nat := bits w (16 * die + 15) (16 * die)

/-- The sum of the partitions' version-store shares on a die, in units of 64 KiB; a partition that is being resized counts the greater
of its share and the one that it is to have. -/
def shareSum (s : State) (die : Nat) : Nat :=
  sumNat (s.parts.map (fun p => max (p.2.share die) ((p.2.resize.map (fun r => shareIn ((r.body[4]?.getD 0).toNat) die)).getD 0)))

/-- VSCARVE (R17). A way holds 128 units of 64 KiB. The lines of the ways that a growing carve takes are written back and dropped:
memory holds their bytes (R181), and the pool lines among them are cached no more. -/
def execVscarve (die : Nat) (value : Word) (s : State) : Host.Outcome State Fault Refusal :=
  let n := value.toNat % 8
  let vsw := bits ((s.device.caps[2]?.getD 0).toNat) 18 16
  if !s.dieUp die then .next s
  else if storeBusy s die || decide (vsw < n) || decide (4 < n) || decide (128 * n < shareSum s die) then .next (refuse s (dieReg die 0 0x5C))
  else .next ({ s with snoop := s.snoop.filter (fun e => !(e.home = die && decide (16 - n ≤ e.way))) }.setUnit die
    { s.unit die with vscarve := n })

/-! ### Links and ports (R21, R445) -/

/-- A link after one more retrain: failed after three attempts in a row. Answers the state that its event reports. -/
def Link.retrain (x : Link) : Link × Nat :=
  if x.retraining && decide (3 ≤ x.tries) then ({ x with failed := true }, 2)
  else ({ retraining := true, tries := if x.retraining then x.tries + 1 else 1, failed := false }, 1)

/-- A die that has a link: a compute die in service, or the E-die as 4. -/
def State.linkEnd (s : State) (d : Nat) : Bool := if d = 4 then s.edie else s.dieUp d

/-- DIE_LINK_RETRAIN (R21). -/
def execDieLinkRetrain (a b : Nat) (s : State) : Host.Outcome State Fault Refusal :=
  let x := s.link a b
  if a = b || !s.linkEnd a || !s.linkEnd b || x.failed then .next s
  else
    let y := x.retrain
    .next (postEvent (s.setLink a b y.1) 64 13 (eventBody [(0, min a b), (1, max a b), (2, y.2)]))

/-- DIE_LINK_TRAINED (R21): its held traffic goes on. -/
def execDieLinkTrained (a b : Nat) (s : State) : Host.Outcome State Fault Refusal :=
  let x := s.link a b
  if x.retraining && !x.failed then
    .next (postEvent (retryHeld (s.setLink a b Link.zero)) 64 13 (eventBody [(0, min a b), (1, max a b), (2, 0)]))
  else .next s

/-- The port is present (R25). -/
def State.portUp (s : State) (n : Nat) : Bool := n ≤ 3 && bit ((s.device.caps[2]?.getD 0).toNat) (12 + n) && s.dieUp n

/-- CXL_PORT_RETRAIN (R445). -/
def execCxlPortRetrain (port : Nat) (s : State) : Host.Outcome State Fault Refusal :=
  let x := s.port port
  if !s.portUp port || x.failed then .next s
  else
    let y := x.retrain
    .next (postEvent (s.setPort port y.1) 64 11 (eventBody [(0, port), (1, y.2)]))

/-- CXL_PORT_TRAINED (R445). -/
def execCxlPortTrained (port : Nat) (s : State) : Host.Outcome State Fault Refusal :=
  let x := s.port port
  if x.retraining && !x.failed then .next (postEvent (retryHeld (s.setPort port Link.zero)) 64 11 (eventBody [(0, port), (1, 0)]))
  else .next s

end Sys2Proof.Machine
end

