-- ==== Sys2Proof/Machine/Walk.lean ====
section
/-! DEFINITION. The loop nest of a launch and its walk (R71, R311, R312). -/

namespace Sys2Proof.Machine

/-- The trip count of a level (R71). Of a level whose step leads away from its limit the rule gives no count in so many words: the
model takes 0, so that the launch has no iteration (log entry 84). -/
def LoopLevel.trip (l : LoopLevel) : Nat :=
  if 0 < l.step then (if l.start < l.limit then ((l.limit - l.start + l.step - 1) / l.step).toNat else 0)
  else if l.step < 0 then (if l.limit < l.start then ((l.start - l.limit - l.step - 1) / (-l.step)).toNat else 0)
  else 0

/-- The trip count of level L; 1 when the level is not declared. -/
def Spec.trip (p : Spec) (lv : Nat) : Nat :=
  match p.loops[lv]? with
  | some l => l.trip
  | none => 1

/-- The iterations of the walk. -/
def Spec.iterations (p : Spec) : Nat := (p.order.map p.trip).foldl (· * ·) 1

/-- The place of level `lv` in iteration `i`: the product of the trip counts of the levels after it in ORDER divides. -/
def placeIn (trip : Nat → Nat) (lv i : Nat) : List Nat → Nat
  | [] => 0
  | k :: r => if k = lv then i / (r.map trip).foldl (· * ·) 1 % trip lv else placeIn trip lv i r

/-- The value of level `lv` in iteration `i` (R311); 0 for a level that is not declared. -/
def Spec.valueAt (p : Spec) (lv i : Nat) : Int :=
  match p.loops[lv]? with
  | some l => if p.order.contains lv then l.start + placeIn p.trip lv i p.order * l.step else 0
  | none => 0

/-- s0 to s3 of a team at its start, as register values (R311). -/
def Spec.startValue (p : Spec) (lv i : Nat) : Nat := wrapI 32 (p.valueAt lv i)

/-- The position of a value in a level: none when the level does not take it. -/
def LoopLevel.find (l : LoopLevel) (x : Int) : Option Nat :=
  let d := x - l.start
  if l.step = 0 ∨ d % l.step ≠ 0 then none
  else
    let i := d / l.step
    if 0 ≤ i ∧ i < l.trip then some i.toNat else none

/-- The position of a value in level `lv` of a launch; an undeclared level takes 0 only. -/
def Spec.find (p : Spec) (lv : Nat) (x : Int) : Option Nat :=
  match p.loops[lv]? with
  | some l => if p.order.contains lv then l.find x else if x = 0 then some 0 else none
  | none => if x = 0 then some 0 else none

/-- The linear index of the iteration with the given position in each level. -/
def Spec.indexOf (p : Spec) (pos : Nat → Nat) : Nat := p.order.foldl (fun acc lv => acc * p.trip lv + pos lv) 0

end Sys2Proof.Machine
end

