-- ==== Sys2Proof/Machine/Launch.lean ====
section
/-! DEFINITION. The launch record, its record table and its carving list as the queue engine reads and checks them
(R70, R71, R306 to R308), and the state that a team starts with (R74, R237, R307, R311, R316). -/

namespace Sys2Proof.Machine

/-! ### Reading a context's memory (R308, R434) -/

/-- The physical address behind a context's virtual address, as the queue engine reads it; none when it does not
translate. -/
def virtPa (s : State) (ctx va : Nat) : Option Nat :=
  match springAt s ctx va with
  | some p =>
    let e := s.fillEntry p (p.blockOf va)
    if entState e = 2 && !entEvp e then some (entFrame e + (va - p.base) % 2 ^ p.blk) else none
  | none => match walk s (fun _ => false) (((look s.ctxs ctx).map (·.root)).getD 0) va with
    | .stop .. | .held => none
    | .leaf level e pa => match useLeaf s { die := 0, core := none, ctx := ctx, need := .read, spring := false, requester := false }
        level e pa (leafSize level) va with
      | .ok pa .. => some pa
      | _ => none

/-- The bytes at a virtual address, looked up line by line. -/
def virtBytes (s : State) (ctx va n : Nat) : Option (List Byte) :=
  (List.range n).mapM (fun i => (virtPa s ctx ((va + i) / 64 * 64)).map (fun pa => Mem.read s.mem (pa + (va + i) % 64)))

/-- A little-endian value at a virtual address. -/
def virtNum (s : State) (ctx va n : Nat) : Option Nat := (virtBytes s ctx va n).map leVal

/-- A port or a halted vault holds the reading of bytes at a context's virtual addresses, or of an entry of their walks (R319,
R445). -/
def virtHeld (s : State) (ctx va n : Nat) : Bool :=
  n ≠ 0 && (List.range ((va + n - 1) / 64 + 1 - va / 64)).any (fun i =>
    let a := (va / 64 + i) * 64
    ((springAt s ctx a).isNone && walk s (fun pa => linkHeld s pa 8) (((look s.ctxs ctx).map (·.root)).getD 0) a = .held) ||
      (virtPa s ctx a).any (fun pa => linkHeld s pa 64))

/-! ### Fields of the launch record (R306) -/

/-- A signed 32-bit field of a number. -/
def sField (r lo : Nat) : Int := sgn 32 (bits r (lo + 31) lo)

/-- Level L of LOOP. -/
def loopField (r l : Nat) : LoopLevel :=
  { start := sField r (704 + 96 * l), limit := sField r (736 + 96 * l), step := sField r (768 + 96 * l) }

/-- NLEV. -/
def nlev (r : Nat) : Nat := bits r 673 672 + 1
/-- The declared levels, outermost first. -/
def orderField (r : Nat) : List Nat := (List.range (nlev r)).map (fun i => bits r (671 - 2 * i) (670 - 2 * i))
/-- NROLE. -/
def nrole (r : Nat) : Nat := bits r 655 654 + 1
/-- The word of role n. -/
def roleWord (r n : Nat) : Nat := bits r (447 + 64 * n) (384 + 64 * n)
/-- Role n. -/
def roleField (r n : Nat) : Role :=
  let w := roleWord r n
  { entry := BitVec.ofNat 32 w, groups := bits w 36 32 + 1, regs := 8 * (bits w 44 40 + 1) }

/-- A reserved bit of the launch record is set, or a field is outside its range or breaks its alignment (R306). -/
def recordBad (r : Nat) : Bool :=
  bits r 1135 1133 ≠ 0 || bits r 1127 1125 ≠ 0 || bits r 1119 1115 ≠ 0 || bit r 1111 || bit r 1107 || bits r 1103 1102 ≠ 0 ||
  bit r 1095 || bits r 703 674 ≠ 0 || bit r 647 ||
  decide (16 < bits r 1124 1120) || decide (32 < bits r 1101 1096) || decide (bits r 1094 1088 = 0 ∨ 64 < bits r 1094 1088) ||
  decide (32 < bits r 653 648) || decide (5 < bits r 646 644) || decide (64 < bits r 383 377) || decide (32 < bits r 319 313) ||
  bits r 376 320 % 16 ≠ 0 || bits r 312 256 % 32 ≠ 0 ||
  (List.range 4).any (fun i => decide (nlev r ≤ i) && bits r (671 - 2 * i) (670 - 2 * i) ≠ 0) ||
  (List.range 4).any (fun n => let w := roleWord r n
    if nrole r ≤ n then w ≠ 0 else bits w 39 37 ≠ 0 || bits w 63 45 ≠ 0)

/-- A limit of R70 or R71 is broken. -/
def recordLimits (r : Nat) : Bool :=
  let roles := (List.range (nrole r)).map (roleField r)
  let order := orderField r
  order.any (fun l => (loopField r l).step = 0) || order.dedup != order ||
  decide (2 ^ 48 < (order.map (fun l => (loopField r l).trip)).foldl (· * ·) 1) ||
  decide (16 < (bits r 659 656 + 1) * (bits r 663 660 + 1)) ||
  decide (32 < sumNat (roles.map (·.groups))) || decide (1024 < sumNat (roles.map (fun x => x.groups * x.regs)))

/-- An entry of the carving list is not as R307 gives. -/
def carveBad (e : Nat) : Bool :=
  let kind := bits e 97 96
  let init := bits e 99 98
  bits e 127 106 ≠ 0 || bits e 63 48 ≠ 0 || kind = 3 || bits e 95 64 = 0 || bits e 95 64 % 256 ≠ 0 ||
  (kind ≠ 1 && (bits e 105 101 ≠ 0 || bits e 47 0 ≠ 0)) || (kind ≠ 0 && bit e 100) ||
  (kind = 0 && init = 3) || (kind = 1 && (init ≠ 0 || bits e 47 0 % 128 ≠ 0)) || (kind = 2 && decide (1 < init))

/-- An entry of the carving list (R307). -/
def carveField (e : Nat) : Carve :=
  let kind := bits e 97 96
  let init := bits e 99 98
  { kind := if kind = 0 then .buffer else if kind = 1 then .stash else .sync
    bytes := bits e 95 64
    init := if init = 1 then .filling else if init = 2 then .full else .empty
    full := init = 1
    land := bit e 100
    recd := bits e 105 101
    offset := bits e 47 0 }

/-- What a launch record, a record table and a carving list declare. -/
def specOf (r : Nat) (recs : List Rec) (carve : List Nat) : Spec :=
  { passKey := bits r 1151 1136, adopt := bit r 1132, keep := bit r 1131, gen := bit r 1130, flat := bit r 1129, half := bit r 1128
    sres := bits r 1124 1120, prio := bits r 1114 1112, weir := bits r 1110 1108, pclass := bits r 1106 1104
    tile := bits r 1101 1096, vq := bits r 1094 1088
    loops := (List.range 4).map (fun l => if (orderField r).contains l then loopField r l else { start := 0, limit := 1, step := 1 })
    order := orderField r, cw := bits r 659 656 + 1, ch := bits r 663 660 + 1, acc := bits r 653 648
    preds := 8 * (bits r 646 644 + 1), sregs := 8 * (bits r 643 640 + 1)
    roles := (List.range (nrole r)).map (roleField r)
    carve := carve.map carveField, recs := recs, code := BitVec.ofNat 256 r }

/-- Twice the quota of a launch in units of 64 KiB, against a partition's share on a die (R212, R308). -/
def overShare (s : State) (part die : Nat) (p : Spec) : Bool :=
  match look s.parts part with
  | some x => decide (x.share die < 2 * p.vq)
  | none => true

/-- The launch record at a virtual address with its table and list, or the code of the queue error (R308, R434): 4 for a
reserved bit or a field out of range, 7 for every other refusal. GEN is left to the caller. -/
def readSpec (s : State) (ctx part va dies : Nat) : Except Nat Spec :=
  match virtNum s ctx va 144 with
  | none => .error 7
  | some r =>
    if recordBad r then .error 4
    else if recordLimits r then .error 7
    else match (List.range (bits r 319 313)).mapM (fun i => virtNum s ctx (bits r 312 256 + 32 * i) 32),
        (List.range (bits r 383 377)).mapM (fun i => virtNum s ctx (bits r 376 320 + 16 * i) 16) with
    | some recs, some carve =>
      let p := specOf r (recs.map (BitVec.ofNat 256)) carve
      let flatOk (e : Rec × Nat) : Bool := recPlain e.1 || (p.flat && e.2 = 0 && e.1 = flatRec)
      let privileged := ((look s.ctxs ctx).map (·.flat)).getD false
      if carve.any carveBad then .error 4
      else if p.pclass < p.weir || !recPlain p.code || !recX p.code || !p.recs.zipIdx.all flatOk || (p.flat && !privileged) ||
          decide (393216 < sumNat (p.carve.map (·.bytes))) ||
          (List.range 4).any (fun d => bit dies d && s.dieUp d && overShare s part d p) then .error 7
      else .ok p
    | _, _ => .error 7

/-- The reading of a launch record, of its record table or of its carving list is held (R319, R445). -/
def specHeld (s : State) (ctx va : Nat) : Bool :=
  virtHeld s ctx va 144 || (match virtNum s ctx va 144 with
    | none => false
    | some r => virtHeld s ctx (bits r 312 256) (32 * bits r 319 313) || virtHeld s ctx (bits r 376 320) (16 * bits r 383 377))

/-! ### The start of a team -/

/-- The group slots of a role (R74). -/
def Spec.slotsOf (p : Spec) (role : Nat) : List Nat :=
  let start := sumNat ((p.roles.take role).map (·.groups))
  (List.range ((p.roles[role]?.map (·.groups)).getD 0)).map (start + ·)

/-- The records that every group of a team starts with (R162, R163, R237, R307). A generator's block and its spring's ARG
stand in d30 and d31. -/
def seedRecs (s : State) (ctx : Nat) (p : Spec) (gen : Option GenOf) : Sparse Rec :=
  let d := p.recs.zipIdx.foldl (fun d e => setD 0 d e.2 e.1) ([] : Sparse Rec)
  let d := if p.flat then setD 0 d 0 flatRec else d
  match gen with
  | none => d
  | some g => match look s.springs (springKey ctx g.spring) with
    | none => d
    | some q =>
      let block : Nat := (q.base + g.block * 2 ^ q.blk) + 2 ^ q.blk * 2 ^ 64 + 2 ^ 234 + 2 ^ 235
      setD 0 (setD 0 d 30 (BitVec.ofNat 256 block)) 31 q.arg

/-- s0 to s3 of a team: the loop indices, or a generator's block, depth and spring (R237, R311). -/
def Team.indices (t : Team) : Sparse Word :=
  let v (l : Nat) : Nat := match t.gen with
    | some g => [g.block % 2 ^ 32, g.block / 2 ^ 32 % 2 ^ 16, g.depth, g.spring][l]?.getD 0
    | none => t.spec.startValue l (t.task.toNat % 2 ^ 48)
  (List.range 4).foldl (fun r l => setD 0 r l (BitVec.ofNat 32 (v l))) []

/-- A lane at its start (R39, R41, R75, R316). -/
def freshLane (task : DWord) (tid : Nat) : Lane :=
  { tid := BitVec.ofNat 32 tid, v := [], p := 0, flags := 0, rng := rngSeed task (BitVec.ofNat 32 tid) }

/-- A group as it starts: at a team's start, from an eddy bin, or for an arrival (R81, R156, R162, R316). -/
def startGroup (t : Team) (d : Sparse Rec) (now slot role : Nat) (arrival : Option Nat) (lanes : List (Nat × Lane)) (pc : Word)
    (sr : Sparse Word) (cb : Sparse Half) : Member :=
  { id := t.fresh, slot := slot, role := role, arrival := arrival, lanes := lanes, pc := pc, s := sr, d := d, cb := cb, tags := 0,
    latch := none, windows := [], pend := [], pcmask := 0, cont := none, trap := Trap.zero, weir := none, park := none,
    wait := .none, queued := none, due := none, ready := now, issued := now, words := 0, aged := false }

/-- Adds a group to a team. -/
def Team.addGroup (t : Team) (m : Member) : Team := { t with members := t.members ++ [m], fresh := t.fresh + 1 }

/-- Every group slot starts at its role's ENTRY with 32 lanes (R74, R316). -/
def Team.startGroups (t : Team) (d : Sparse Rec) (now : Nat) : Team :=
  (List.range t.spec.roles.length).foldl (fun t r => (t.spec.slotsOf r).foldl (fun t g =>
    t.addGroup (startGroup t d now g r none ((List.range 32).map (fun i => (i, freshLane t.task (32 * g + i))))
      ((t.spec.roles[r]?.map (·.entry)).getD 0) t.indices [])) t) t

/-- A local-store object at a team's start (R140). A stash window binds the record that its role's groups start with. -/
def startObj (d : Sparse Rec) (c : Carve) : Obj :=
  { kind := c.kind, bytes := c.bytes, data := [], st := c.init, land := c.land, pendw := 0, pendr := 0, recd := get 0 d c.recd,
    offset := c.offset, entries := [], dfull := c.full, fulls := [] }

/-- A version at a team's start: the first region begins (R206). -/
def startVersion (commits : Nat) : Version :=
  { cells := [], reads := [], writes := [], since := commits, commits := 0, waiting := false, dirw := false, ended := false }

/-- The kept holding that a team adopts (R293). -/
def keptFor (s : State) (ctx index : Nat) (p : Spec) : Option Kept :=
  if p.adopt then s.kept.find? (fun k => k.ctx = ctx && k.passKey = p.passKey && k.index = index) else none

/-- A team as its placement writes it (R293, R316). -/
def startTeam (s : State) (ctx part : Nat) (launch : Option Nat) (task : DWord) (retry : Nat) (seat : Seat) (p : Spec) (prio : Nat)
    (gen : Option GenOf) : Team :=
  let d := seedRecs s ctx p gen
  let kept := keptFor s ctx (task.toNat % 2 ^ 48) p
  let hold := (kept.map (·.hold)).getD 0
  ({ ctx := ctx, part := part, launch := launch, task := task, retry := retry, seat := seat, spec := p, prio := prio, members := [],
     fresh := 0, bins := [], tokens := [], tiles := [], units := [], objs := p.carve.map (startObj d), flushes := [], rels := [], arriving := none, ver := startVersion s.commits,
     hold := hold, tres := max (4096 * p.tile) hold, tdata := (kept.map (·.data)).getD [],
     tilecfg := (kept.map (·.tilecfg)).getD 0, drop := 0, arrivals := [], arrmiss := 0, fpenable := 0, tvec := 0xFFFFFFFF,
     prc := ((look s.ctxs ctx).map (·.prc)).getD false, shapes := [], arrived := [], gen := gen, doom := none, saved := false : Team }
   ).startGroups d s.now

end Sys2Proof.Machine
end

