-- ==== Sys2Proof/Machine/Springs.lean ====
section
/-! DEFINITION. Springs: the fill map, misses, generators' failures, frames and evictions (R222 to R244). -/

namespace Sys2Proof.Machine

/-! ### The fill map (R227) -/

/-- A fill-map entry. -/
def fillEnt (task : DWord) (detail depth cause frame st : Nat) (evp : Bool) : Nat :=
  st + b2n evp * 2 ^ 3 + frame + cause * 2 ^ 52 + depth * 2 ^ 64 + detail * 2 ^ 128 + task.toNat * 2 ^ 192

/-- Writes a block's entry. -/
def putEntry (s : State) (p : Spring) (b e : Nat) : State := s.poke (p.entryPa b) (toBytes 32 e)

/-- A port that retrains, or a halted vault, holds the home's accesses to a block's entry (R319, R445). -/
def entryHeldAt (s : State) (p : Spring) (b : Nat) : Bool := linkHeld s (p.entryPa b) 32

/-- The task id of a block's generator (R225). -/
def Spring.task (p : Spring) (b : Nat) : DWord := BitVec.ofNat 64 (p.launchId.toNat * 2 ^ 48 + b)

/-- The key of a spring in the state. -/
def Spring.key (p : Spring) : Nat := springKey p.ctx p.num

/-- Changes a spring. -/
def State.updSpring (s : State) (k : Nat) (f : Spring → Spring) : State := { s with springs := upd s.springs k f }

/-! ### Waiters (R230, R231) -/

/-- The team of a waiter and the PC of its word. -/
def waiterTeam (s : State) : Waiter → Option (Nat × Team × Word)
  | .member tk m => (look s.teams tk).bind (fun t => (t.member m).map (fun x => (tk, t, x.pc)))
  | .command id => (s.cmd id).bind (fun k => (look s.teams k.team).map (fun t => (k.team, t, k.pc)))

/-- The lanes that waited on a block are to be tried again (R231). -/
def Park.release (p : Park) (sp b : Nat) : Park :=
  let on := (p.misses.filter (fun m => m.spring = sp && m.block = b)).foldl (fun acc m => acc ||| m.lanes) 0
  let again := on &&& ~~~ p.failedLanes
  { p with misses := p.misses.filter (fun m => !(m.spring = sp && m.block = b)), retry := if again = 0 then p.retry else p.retry ||| again ||| p.along }

/-- A failed block among those of a word: a block that the word meets twice stands once, with the lanes of both (R235). -/
def failedAdd (l : List Failed) (f : Failed) : List Failed :=
  match l.find? (fun x => x.base = f.base) with
  | none => l ++ [f]
  | some x =>
    let va := if (lanesOf f.lanes).headD 32 < (lanesOf x.lanes).headD 32 then f.va else x.va
    l.map (fun y => if y.base = f.base then { f with lanes := x.lanes ||| f.lanes, va := va } else y)

/-- The lanes that waited on a block lie on a block that failed (R231, R235). -/
def Park.failOn (p : Park) (q : Spring) (b e : Nat) : Park :=
  match leastBy (fun m => ((lanesOf m.lanes).headD 32)) (p.misses.filter (fun m => m.spring = q.num && m.block = b)) with
  | none => p
  | some m =>
    let on := (p.misses.filter (fun m => m.spring = q.num && m.block = b)).foldl (fun acc m => acc ||| m.lanes) 0
    let f : Failed := { lanes := on, va := m.va, base := q.base + b * 2 ^ q.blk, cause := entCause e,
                        task := BitVec.ofNat 64 (e / 2 ^ 192), detail := BitVec.ofNat 64 (e / 2 ^ 128) }
    { p with misses := p.misses.filter (fun m => !(m.spring = q.num && m.block = b)), retry := p.retry &&& ~~~ on,
             failed := failedAdd p.failed f }

/-- The home answers a waiter that it may proceed. -/
def releaseWaiter (sp b : Nat) (s : State) (w : Waiter) : State :=
  match w with
  | .member tk m => s.updMember tk m (fun m => { m with park := m.park.map (fun p => p.release sp b) })
  | .command id => s.updCmd id (fun k => if k.stop = .miss sp b then { k with stop := .none } else k)

/-- The home answers a waiter that the block has failed, with the block's entry. -/
def failWaiter (p : Spring) (b e : Nat) (s : State) (w : Waiter) : State :=
  match w with
  | .member tk m => s.updMember tk m (fun m => { m with park := m.park.map (fun x => x.failOn p b e) })
  | .command id => match s.cmd id with
    | some k => if k.stop = .miss p.num b then stopCmd k (.err s (entCause e) (p.base + b * 2 ^ p.blk)) else s
    | none => s

/-- The waiters of a block. -/
def Spring.waitersOf (p : Spring) (b : Nat) : List Waiter := (p.waiters.filter (fun w => w.1 = b)).map (·.2)

/-- A block's transition answers every waiter, and no waiter is left. -/
def answerAll (s : State) (p : Spring) (b : Nat) (f : State → Waiter → State) : State :=
  ((p.waitersOf b).foldl f s).updSpring p.key (fun p => { p with waiters := p.waiters.filter (fun w => w.1 != b) })

/-! ### Frames (R238) -/

/-- The blocks that hold frames: FILLED, with a generator that waits or with one that runs. -/
def framedBlocks (s : State) (p : Spring) : List Nat :=
  p.fills ++ p.queue.map (·.block) ++ s.teams.filterMap (fun e => match e.2.gen with
    | some g => if e.2.ctx = p.ctx && g.spring = p.num && !g.filled then some g.block else none
    | none => none)

/-- The frames of the pool that no block holds. -/
def freeFrames (s : State) (p : Spring) : List Nat :=
  let used := (framedBlocks s p).map (fun b => entFrame (s.fillEntry p b))
  ((List.range (p.poolSize / 2 ^ p.blk)).map (fun i => p.poolBase + i * 2 ^ p.blk)).filter (fun f => !used.contains f)

/-- A block gets a frame, whose content is undefined, and its generator is enqueued (R237, R238, log entry 3). -/
def giveFrame (s : State) (p : Spring) (b depth prio origin : Nat) (frames : List Nat) : State :=
  let f := frames[Config.freeNat s.free % frames.length]?.getD 0
  let n := 2 ^ p.blk
  let s := s.poke f ((List.range n).map (fun i => Config.freeByte (s.free + 1 + i)))
  let s := putEntry (s.freed (1 + n)) p b (fillEnt (p.task b) 0 depth 0 f 1 false)
  { s.updSpring p.key (fun p => { p with queue := p.queue ++ [{ block := b, depth := depth, prio := prio, order := s.order, origin := origin }] })
    with order := s.order + 1 }

/-- The block of a spring to evict for the pool: FILLED, EVP clear, earliest filled (R238). -/
def evictable (s : State) (p : Spring) : Option Nat := p.fills.find? (fun b => !entEvp (s.fillEntry p b))

/-- The home's change of a block's entry is held, or that of the block which the pool would evict for it (R228, R238, R319, R445). -/
def homeHeld (s : State) (p : Spring) (b : Nat) : Bool := entryHeldAt s p b || (evictable s p).any (entryHeldAt s p)

/-- EVP is set and the eviction begins (R236). -/
def beginEviction (s : State) (p : Spring) (b : Nat) (who : Option (Nat × Nat × Nat)) : State :=
  let e := s.fillEntry p b
  let s := if entEvp e then s else putEntry s p b (e + 2 ^ 3)
  s.updSpring p.key (fun p => { p with evicting := p.evicting ++ [(b, who)] })

/-- A miss on UNFILLED: FILLING with a frame and an enqueued generator, or FILLING until a frame is free (R230, R238). -/
def startBlock (s : State) (p : Spring) (b depth prio origin : Nat) : State :=
  match freeFrames s p with
  | f :: r => giveFrame s p b depth prio origin (f :: r)
  | [] =>
    let s := (putEntry s p b (fillEnt (p.task b) 0 depth 0 0 1 false)).updSpring p.key (fun p => { p with noFrame := p.noFrame ++ [(b, depth, prio, origin)] })
    match evictable s p with
    | some v => beginEviction s p v none
    | none => postEvent s (partOf s p.ctx) 5 (eventBody [(0, p.ctx), (4, p.num)])

/-! ### Misses at the home (R228, R230, R233, R237) -/

/-- A running generator of a context by block. -/
def runningGen (s : State) (ctx sp b : Nat) : Option (Nat × Team) :=
  s.teams.find? (fun e => e.2.ctx = ctx && (match e.2.gen with
    | some g => g.spring = sp && g.block = b && !g.filled
    | none => false))

/-- The blocks, as spring and block, on which a team's members and commands wait. -/
def blocksWaited (s : State) (tk : Nat) : List (Nat × Nat) :=
  s.springs.flatMap (fun e => (e.2.waiters.filter (fun w => ((waiterTeam s w.2).map (·.1)) == some tk)).map (fun w => (e.2.num, w.1)))

/-- A chain of waiting generators leads from a block to the team (R233). -/
def chainReaches (s : State) (ctx tk : Nat) : Nat → Nat × Nat → Bool
  | 0, _ => false
  | n + 1, b => match runningGen s ctx b.1 b.2 with
    | none => false
    | some (g, _) => g = tk || (blocksWaited s g).any (chainReaches s ctx tk n)

/-- The launch priority that counts for a generator: one above its waiter's, up to 7 (R237). -/
def genPrio (s : State) (w : Waiter) : Nat :=
  match waiterTeam s w with
  | some (_, t, _) => min 7 (t.prio + 1)
  | none => 1

/-- Raises the priority of a block's generator, waiting or running (R237). -/
def raisePrio (s : State) (p : Spring) (b n : Nat) : State :=
  let s := s.updSpring p.key (fun p => { p with
    queue := p.queue.map (fun g => if g.block = b then { g with prio := max g.prio n } else g)
    noFrame := p.noFrame.map (fun g => if g.1 = b then (g.1, g.2.1, max g.2.2.1 n, g.2.2.2) else g) })
  match runningGen s p.ctx p.num b with
  | some (tk, _) => s.updTeam tk (fun t => { t with prio := max t.prio n })
  | none => s

/-- The failure of a generator with a CAUSE and a DETAIL (R234). -/
def genDoom (cause : Nat) (pc : Word) (slot detail : Nat) : Doom :=
  { reason := 1, cause := cause, pc := pc, slot := slot, genCause := cause, detail := BitVec.ofNat 64 detail }

/-- A generator that misses fails its own block with cause 0x0B (R233, R234). -/
def failMissing (s : State) (tk : Nat) (pc : Word) : State :=
  s.updTeam tk (fun t => if t.doom.isSome then t else { t with doom := some (genDoom 0x0B pc 0 (pc.toNat * 2 ^ 32 + 0x0B)) })

/-- The depth of a waiter's generator; none for a requester that is no generator, which starts depth 0. -/
def waiterDepth (s : State) (w : Waiter) : Option (Nat × Nat × Word × Nat) :=
  match waiterTeam s w with
  | some (tk, t, pc) => (match t.gen with
    | some g => if g.filled then none else some (tk, g.depth, pc, ((look s.springs (springKey t.ctx g.spring)).map (·.rlim)).getD 0)
    | none => none)
  | none => none

/-- Where a generator that a waiter starts looks for a slot first: the waiter's core. -/
def waiterOrigin (s : State) (w : Waiter) : Nat :=
  match waiterTeam s w with
  | some (_, t, _) => t.seat.core
  | none => 0

/-- A waiter joins a block's waiters, whose priority it may raise. -/
def joinWaiters (s : State) (p : Spring) (b : Nat) (w : Waiter) : State :=
  if (waiterTeam s w).isNone then s
  else raisePrio (s.updSpring p.key (fun p => { p with waiters := p.waiters ++ [(b, w)] })) p b (genPrio s w)

/-- A miss on an UNFILLED block by a waiter (R230, R233). Answers whether the block has started. -/
def missUnfilled (s : State) (p : Spring) (b : Nat) (w : Waiter) : State × Bool :=
  match waiterDepth s w with
  | some (tk, d, pc, rlim) =>
    if rlim < d + 1 then (failMissing s tk pc, false) else (startBlock s p b (d + 1) (genPrio s w) (waiterOrigin s w), true)
  | none => (startBlock s p b 0 (genPrio s w) (waiterOrigin s w), true)

/-- A miss arrives at the home (R228, R230). -/
def missArrives (s : State) (x : Miss) : State :=
  match look s.springs (springKey x.ctx x.spring) with
  | none => releaseWaiter x.spring x.block s x.who
  | some p =>
    let e := s.fillEntry p x.block
    if entState e = 2 ∧ !entEvp e then releaseWaiter p.num x.block s x.who
    else if entState e = 3 then failWaiter p x.block e s x.who
    else if entState e = 0 then
      let y := missUnfilled s p x.block x.who
      if y.2 then joinWaiters y.1 p x.block x.who else y.1
    else match waiterDepth s x.who with
      | some (tk, _, pc, _) =>
        if chainReaches s x.ctx tk (s.teams.length + 1) (x.spring, x.block) then failMissing s tk pc else joinWaiters s p x.block x.who
      | none => joinWaiters s p x.block x.who

/-- The core that a miss comes from. -/
def missSource (s : State) (x : Miss) : Option Nat := (waiterTeam s x.who).map (fun t => t.2.1.seat.core)

/-- The die that homes a miss's entry (R228); none once its spring has gone. -/
def missHome (s : State) (x : Miss) : Option Nat :=
  (look s.springs (springKey x.ctx x.spring)).map (fun p => homeDie s (p.entryPa x.block))

/-- A message from a core to a home comes after a miss: both go from one die to another over their link, or both come from one core
of the home's own die (R20, R228). -/
def afterMiss (s : State) (core home : Nat) (y : Miss) : Bool :=
  missHome s y == some home && (match missSource s y with
    | some c => c = core || (dieOf c = dieOf core && dieOf core ≠ home)
    | none => false)

/-- A miss has not arrived yet: a link or a port holds it, or one sent before it on its way has not arrived (R20, R21, R228). -/
def missHeld (s : State) (idx : Nat) (x : Miss) : Bool :=
  match missSource s x, look s.springs (springKey x.ctx x.spring) with
  | some core, some p => pathHeld s (dieOf core) (p.entryPa x.block) || homeHeld s p x.block ||
      (s.misses.take idx).any (afterMiss s core (homeDie s (p.entryPa x.block)))
  | _, _ => false

/-- SPRING_MISS (R230): the misses of one source arrive in the order sent (R228). -/
def execSpringMiss (idx : Nat) (s : State) : Host.Outcome State Fault Refusal :=
  match s.misses[idx]? with
  | none => .next s
  | some x =>
    if missHeld s idx x then .next s
    else .next (missArrives { s with misses := s.misses.eraseIdx idx } x)

/-! ### Fills, failures, evictions -/

/-- SFILL at the home: the block becomes FILLED and every waiter is released (R230). A block that waits for a frame has
the pool evict one (R238, log entry 14). -/
def fillBlock (s : State) (p : Spring) (b : Nat) : State :=
  let e := s.fillEntry p b
  let s := (putEntry s p b (e / 4 * 4 + 2)).updSpring p.key (fun p => { p with fills := p.fills ++ [b] })
  let s := answerAll s p b (releaseWaiter p.num b)
  match look s.springs p.key with
  | some q => if q.evicting.length < q.noFrame.length then (match evictable s q with
      | some v => beginEviction s q v none
      | none => s) else s
  | none => s

/-- An instance has completed (R262): N participants have joined, and position 0's source of a .bcast has been read. -/
def Coll.complete (x : Coll) : Bool :=
  decide (x.shape.2.2.2 ≤ x.parts.length) &&
    (x.shape.1 ≠ 2 || (match x.byIndex with
      | (_, _, none) :: _ => false
      | _ => true))

/-- Withdraws a team's commands from the collectives that have not completed (R268). -/
def withdraw (s : State) (tk : Nat) : Sparse Coll :=
  let ids := (s.cmds.filter (fun k => k.team = tk)).map (·.id)
  (s.colls.map (fun e => if e.2.complete then e else
    (e.1, { e.2 with parts := e.2.parts.filter (fun p => !ids.contains p.2.1) }))).filter (fun e => e.2.parts != [])

/-- A team leaves the device with all that it holds (R317, R350): the landings that it was making no longer count at their
targets (R268), and its misses that have not arrived go with it (log entry 14). -/
def removeTeam (s : State) (tk : Nat) : State :=
  let s := (s.cmds.filter (fun k => k.team = tk)).foldl landDone (s.withoutLate tk)
  { s with
    colls := withdraw s tk
    misses := s.misses.filter (fun x => ((waiterTeam s x.who).map (·.1)) != some tk)
    cmds := s.cmds.filter (fun k => k.team != tk)
    teams := del s.teams tk
    springs := s.springs.map (fun e => (e.1, { e.2 with waiters := e.2.waiters.filter (fun w => ((waiterTeam s w.2).map (·.1)) != some tk) })) }

/-- A team with nothing live and nothing pending (R140, R317). -/
def retireReady (s : State) (tk : Nat) (t : Team) : Bool :=
  t.idle && !unfinished s tk && t.rels = [] && t.doom.isNone && !t.saved

/-- The failure of the block's generator at the home (R230, R234). -/
def failBlock (s : State) (p : Spring) (b cause : Nat) (detail : DWord) : State :=
  let e := fillEnt (p.task b) detail.toNat (entDepth (s.fillEntry p b)) cause 0 3 false
  answerAll (putEntry s p b e) p b (failWaiter p b e)

/-- GENERATOR_FAILURE (R234): the generator is discarded and its block fails. -/
def execGeneratorFailure (ctx spring block : Nat) (s : State) : Host.Outcome State Fault Refusal :=
  match look s.springs (springKey ctx spring), runningGen s ctx spring block with
  | some p, some (tk, t) =>
    if entryHeldAt s p block then .next s
    else (match t.doom with
     | some d => .next (failBlock (removeTeam s tk) p block d.genCause d.detail)
     | none => if retireReady s tk t then .next (failBlock (removeTeam s tk) p block 0x0A 0) else .next s)
  | _, _ => .next s

/-- A waiter left at the end of an eviction starts the block again; one that may not is failed (R230, R233). -/
def remiss (p : Spring) (b : Nat) : State → List Waiter → State
  | s, [] => s
  | s, w :: r =>
    let y := missUnfilled s p b w
    if y.2 then y.1 else remiss p b (y.1.updSpring p.key (fun p => { p with waiters := p.waiters.filter (fun x => x != (b, w)) })) r

/-- EVICTION_END (R230, R236, R242). The generator of a block that starts again has the priority of all the waiters left (R237). -/
def execEvictionEnd (ctx spring block : Nat) (s : State) : Host.Outcome State Fault Refusal :=
  match look s.springs (springKey ctx spring) with
  | none => .next s
  | some p =>
    let mine := p.evicting.filter (fun e => e.1 = block)
    if mine = [] || homeHeld s p block then .next s
    else
      let s := (putEntry s p block 0).updSpring p.key (fun p => { p with
        fills := p.fills.filter (· ≠ block), evicting := p.evicting.filter (fun e => e.1 ≠ block) })
      let s := mine.foldl (fun s e => match e.2 with
        | some (tk, m, tag) => s.updMember tk m (fun m => { m with tags := m.tags &&& ~~~ tagBit (some tag) })
        | none => s) s
      match look s.springs p.key with
      | some p =>
        let s := remiss p block s (p.waitersOf block)
        .next ((((look s.springs p.key).map (fun p => p.waitersOf block)).getD []).foldl (fun s w => raisePrio s p block (genPrio s w)) s)
      | none => .next s

/-- FRAME_ALLOCATION (R238): the first block that waits for a frame gets one that has become free. -/
def execFrameAllocation (ctx spring : Nat) (s : State) : Host.Outcome State Fault Refusal :=
  match look s.springs (springKey ctx spring) with
  | none => .next s
  | some p => match p.noFrame, freeFrames s p with
    | (b, depth, prio, origin) :: r, f :: fs =>
      if entryHeldAt s p b then .next s
      else .next (giveFrame (s.updSpring p.key (fun p => { p with noFrame := r })) p b depth prio origin (f :: fs))
    | _, _ => .next s

/-! ### The spring words -/

/-- The spring and block that the issuing generator fills (R240). -/
def Ctx.filling (c : Ctx) : Option (Spring × GenOf) :=
  match c.t.gen with
  | some g => if g.filled then none else (look c.s.springs (springKey c.t.ctx g.spring)).map (fun p => (p, g))
  | none => none

/-- SFILL (R232, R240): every direct write of the team is performed at device scope before the block is filled. A link, a port or a
vault may hold the zero fill, or the word's way to the home (R21, R319, R445). -/
def entrySfill (c : Ctx) : Res :=
  match c.filling with
  | none => .cause c.s 0x02 0
  | some (p, g) =>
    let n := c.sc (fA c.w)
    let size := 2 ^ p.blk
    if size < n then .cause c.s 0x05 0
    else if c.t.members.any (fun m => m.id != c.m.id && m.lanes != []) || c.t.bins != [] || c.s.cmds.any (fun k => k.team = c.tk) then .wait c.s
    else afterWriteBack c (fun c =>
      let at0 := entFrame (c.s.fillEntry p g.block) + n
      if pathHeld c.s (dieOf c.t.seat.core) (p.entryPa g.block) || pathHeld c.s (dieOf c.t.seat.core) at0 || linkHeld c.s at0 (size - n) ||
        homeHeld c.s p g.block then .wait c.s else
      let s := (c.s.poke at0 (List.replicate (size - n) 0)).overLate none ((List.range (size - n)).map (at0 + ·))
      let s := s.withLate (s.late.map (fun x => if x.team = c.tk && x.space.isNone && !x.ver then { x with upto := 5 } else x))
      let s := fillBlock s p g.block
      .done (s.updTeam c.tk (fun t => ({ t with gen := some { g with filled := true }, ver := { t.ver with dirw := true } }.updMember c.m.id
        (fun m => { m with lanes := [] })).endArrivals)) Out.none)

/-- SFAIL (R241): the generator fails with the detail of its operands. -/
def entrySfail (c : Ctx) : Res :=
  match c.filling with
  | none => .cause c.s 0x02 0
  | some _ =>
    .done (c.s.updTeam c.tk (fun t => { t with doom := some (genDoom 0x0A c.m.pc c.m.slot (c.sc (fB c.w) * 2 ^ 32 + c.sc (fA c.w))) })) Out.none

/-- SEVICT (R230, R242). It reaches the home after the misses that its core has sent there before it (R228). -/
def entrySevict (c : Ctx) : Res :=
  let r := c.recA
  let o := c.sc (fB c.w)
  if recFlat r || !recS r || !recW r then .cause c.s 0x06 0
  else if recExtent r ≤ o then .cause c.s 0x05 0
  else match springAt c.s c.t.ctx (recVa r o) with
    | none => .done c.s Out.none
    | some p =>
      let b := p.blockOf (recVa r o)
      let st := entState (c.s.fillEntry p b)
      if pathHeld c.s (dieOf c.t.seat.core) (p.entryPa b) || entryHeldAt c.s p b || c.s.misses.any (afterMiss c.s c.t.seat.core (homeDie c.s (p.entryPa b))) then .wait c.s
      else if st = 2 then .done (beginEviction c.s p b ((taOf c.w).map (fun t => (c.tk, c.m.id, t)))) { Out.none with keepTag := true }
      else if st = 3 then .done (putEntry c.s p b 0) Out.none
      else .done c.s Out.none

/-- The value of SQRY at a VA (R243). -/
def sqryValue (s : State) (ctx va : Nat) : Nat :=
  match springAt s ctx va with
  | none => 2 ^ 31
  | some p =>
    let e := s.fillEntry p (p.blockOf va)
    p.num * 2 ^ 8 + entDepth e * 2 ^ 3 + b2n (entEvp e) * 2 ^ 2 + entState e

/-- SQRY (R243). -/
def entrySqry (c : Ctx) : Res :=
  let r := c.recA
  let ls := c.dLanes
  match recChecks r .read 1 c.oddFlat (ls.map c.off) with
  | some k => .cause c.s k 0
  | none => .done c.s (Out.late (ls.flatMap (fun l => dstX c false l (sqryValue c.s c.t.ctx (recVa r (c.off l))))))

/-- SFILL (R240). -/
def execSfill (w : CWord) (s : State) : Host.Outcome State Fault Refusal :=
  calud (rowAt 0x1C0) entrySfill w s

/-- SFAIL (R241). -/
def execSfail (w : CWord) (s : State) : Host.Outcome State Fault Refusal :=
  calud (rowAt 0x1C1) entrySfail w s

/-- SEVICT (R242). -/
def execSevict (w : CWord) (s : State) : Host.Outcome State Fault Refusal :=
  calud (rowAt 0x1C2) entrySevict w s

/-- SQRY (R243). -/
def execSqry (w : CWord) (s : State) : Host.Outcome State Fault Refusal :=
  calud (rowAt 0x1C3) entrySqry w s

end Sys2Proof.Machine
end

