-- ==== Sys2Proof/Machine/Placement.lean ====
section
/-! DEFINITION. Placing teams, clusters and generators (R237, R309 to R316), retirement, abandonment and launch
completion (R317, R350, R351). -/

namespace Sys2Proof.Machine

/-! ### Demands (R314) -/

/-- What a team takes of a core: group slots and registers of its bank, tiles, bytes of local store, bytes of tile store,
bytes of the die's version store. -/
structure Demand where
  /-- Group slots. -/
  slots : Nat
  /-- Registers summed over the groups. -/
  regs : Nat
  /-- Accumulator tiles. -/
  acc : Nat
  /-- Bytes of local store. -/
  loc : Nat
  /-- Bytes of tile store. -/
  tile : Nat
  /-- Bytes of version store. -/
  share : Nat
  deriving DecidableEq, Repr

/-- No demand. -/
def Demand.zero : Demand := { slots := 0, regs := 0, acc := 0, loc := 0, tile := 0, share := 0 }
/-- The sum of two demands. -/
def Demand.add (a b : Demand) : Demand :=
  { slots := a.slots + b.slots, regs := a.regs + b.regs, acc := a.acc + b.acc, loc := a.loc + b.loc, tile := a.tile + b.tile
    share := a.share + b.share }
/-- The greater of two demands in every part. -/
def Demand.max (a b : Demand) : Demand :=
  { slots := Nat.max a.slots b.slots, regs := Nat.max a.regs b.regs, acc := Nat.max a.acc b.acc, loc := Nat.max a.loc b.loc
    tile := Nat.max a.tile b.tile, share := Nat.max a.share b.share }
/-- A demand `n` times. -/
def Demand.times (n : Nat) (a : Demand) : Demand :=
  { slots := n * a.slots, regs := n * a.regs, acc := n * a.acc, loc := n * a.loc, tile := n * a.tile, share := n * a.share }

/-- What a launch's teams take; the tile part is the ceiling. -/
def Spec.demand (p : Spec) : Demand :=
  { slots := sumNat (p.roles.map (·.groups)), regs := sumNat (p.roles.map (fun r => r.groups * r.regs)), acc := p.acc
    loc := sumNat (p.carve.map (·.bytes)), tile := 4096 * p.tile, share := 2 * 65536 * p.vq }

/-- The resident teams of a core. -/
def residents (s : State) (core : Nat) : List Team := (s.teams.map (·.2)).filter (fun t => t.seat.core = core && !t.saved)

/-- What a spring slot of a partition reserves: the registers, local store, tile ceiling and version quota of its largest generator
template (R237). -/
def template (s : State) (part : Nat) : Demand :=
  { (s.springs.filter (fun e => partOf s e.2.ctx = part)).foldl (fun d e => d.max e.2.spec.demand) Demand.zero with slots := 0, acc := 0 }

/-- What a resident team takes. A generator in a slot takes the whole slot (R237). -/
def teamUse (s : State) (t : Team) : Demand :=
  let x := { t.spec.demand with tile := t.tres }
  if t.gen.any (fun g => g.place != 0) then x.max (template s t.part) else x

/-- What the resident teams and the kept holdings of a core take, with the group slots and registers of one bank. -/
def coreUse (s : State) (core bank : Nat) : Demand :=
  let use := (residents s core).foldl (fun d t =>
    let x := teamUse s t
    d.add (if t.seat.bank = bank then x else { x with slots := 0, regs := 0 })) Demand.zero
  { use with tile := use.tile + sumNat ((s.kept.filter (fun k => keptCore s k = some core)).map (·.hold)) }

/-- The spec gives no number of group slots of a bank: 32, as many as one team may have (log entry 17). -/
def bankSlots : Nat := 32

/-- Check 1 of R314. -/
def roomRegs (u d : Demand) : Bool := decide (u.slots + d.slots ≤ bankSlots ∧ u.regs + d.regs ≤ 1024 ∧ u.acc + d.acc ≤ 32)
/-- Check 2 of R314. -/
def roomLocal (u d : Demand) : Bool := decide (u.loc + d.loc ≤ 393216)
/-- Check 3 of R314. -/
def roomTile (u d : Demand) : Bool := decide (u.tile + d.tile ≤ 131072)

/-- The bytes of a partition's version-store share on a die. -/
def shareBytes (s : State) (part die : Nat) : Nat := ((look s.parts part).map (fun p => 65536 * p.share die)).getD 0

/-- The bytes reserved of a partition's share on a die: by its teams there, saved ones and the slots of generators among them, and by
teams that left until the horizon of their last commit (R212, R237). -/
def shareUsed (s : State) (part die : Nat) : Nat :=
  let gone := s.marks.filter (fun k => k.part = part && k.die = die && (look s.teams k.team).isNone && markHeld s k)
  sumNat (s.teams.map (fun e => if e.2.part = part && dieOf e.2.seat.core = die then
      (if e.2.gen.any (fun g => g.place != 0) then Nat.max (2 * e.2.quota) (template s part).share else 2 * e.2.quota) else 0)) +
    sumNat ((gone.map (fun k => (k.team, k.share))).dedup.map (·.2))

/-! ### Spring slots (R237, log entry 18) -/

/-- The cores of a reach that are not disabled, in ascending order. -/
def reachCores (s : State) (reach : Nat) : List Nat :=
  ((List.range 16).map (coreAt reach)).filter (fun c => !s.device.disabled.contains c)

/-- The partition has springs. -/
def hasSprings (s : State) (part : Nat) : Bool := s.springs.any (fun e => partOf s e.2.ctx = part)

/-- The reaches of a partition on a die, in ascending order. -/
def reachesOn (s : State) (part die : Nat) : List Nat :=
  ((look s.parts part).map (fun p => ((List.range 32).map (32 * die + ·)).filter (fun n => p.reaches.getLsbD n))).getD []

/-- The generators that run in spring slots of a reach, or in nested slots. -/
def genCount (s : State) (p : Team → GenOf → Bool) : Nat :=
  (s.teams.filter (fun e => !e.2.saved && (match e.2.gen with
    | some g => p e.2 g
    | none => false))).length

/-- The spring slots of a reach in which generators run. -/
def slotsUsed (s : State) (reach : Nat) : Nat := genCount s (fun t g => reachOf t.seat.core = reach && g.place = 1)

/-- How many more templates a core's free resources hold, of at most 19 slots. -/
def slotFit (s : State) (part core : Nat) : Nat :=
  let u := coreUse s core 1
  let t := template s part
  maxNat ((List.range 20).filter (fun k => let d := t.times k; roomRegs u d && roomLocal u d && roomTile u d))

/-- Cores for slots: round and round over the cores in an order, each as often as it has room. -/
def slotCores (cs : List (Nat × Nat)) : List Nat :=
  (List.range 19).flatMap (fun r => (cs.filter (fun c => decide (r < c.2))).map (·.1))

/-- The cores that hold the free spring slots of a reach, one for each slot that is reserved: every core of the reach that has the
resources may hold one (R237, log entry 18). -/
def springSlots (s : State) (part reach : Nat) : List Nat :=
  if !hasSprings s part then []
  else (slotCores ((reachCores s reach).reverse.map (fun c => (c, slotFit s part c)))).take ((s.reach reach).spslot - slotsUsed s reach)

/-- The nested slot of a depth of a partition on a die is free. -/
def nestedFree (s : State) (part die d : Nat) : Bool :=
  hasSprings s part && genCount s (fun t g => t.part = part && dieOf t.seat.core = die && g.place = 2 && g.depth = d) = 0

/-- The free nested slots of a partition on a die, by depth, and the cores of its reaches there that hold them: the first that have
room (R237, log entry 18). -/
def nestedSlots (s : State) (part die : Nat) : List (Nat × Nat) :=
  if !hasSprings s part then []
  else ([1, 2, 3].filter (nestedFree s part die)).zip (slotCores ((reachesOn s part die).flatMap (fun n =>
    (reachCores s n).map (fun c => (c, slotFit s part c - (springSlots s part n).count c)))))

/-- The free spring slots that stand on a core. -/
def freeSlots (s : State) (part core : Nat) : Nat := (springSlots s part (reachOf core)).count core

/-- The free slots, nested ones among them, that a core reserves (R237). -/
def reservedOn (s : State) (part core : Nat) : Nat :=
  freeSlots s part core + ((nestedSlots s part (dieOf core)).filter (fun e => e.2 = core)).length

/-- The spring slots that a reach holds: those in use and those that are reserved. Without springs a slot reserves
nothing. -/
def slotsHeld (s : State) (part reach : Nat) : Nat :=
  if !hasSprings s part then (s.reach reach).spslot else slotsUsed s reach + (springSlots s part reach).length

/-- The bytes of version store that the reserved slots of a partition on a die take. -/
def slotShare (s : State) (part die : Nat) : Nat :=
  if !hasSprings s part then 0
  else (template s part).share * sumNat ((reachesOn s part die).map (fun n => sumNat ((reachCores s n).map (reservedOn s part))))

/-! ### Acceptable cores and the checks (R313, R314) -/

/-- The virtual core that a context's map assigns to a core (R356). -/
def virtOf (s : State) (ctx core : Nat) : Option Nat :=
  (look s.ctxs ctx).bind (fun c => ((List.range 128).find? (fun v => get (some v) c.map v = some (reachOf core))).map
    (fun v => coreAt v (offsetIn core)))

/-- The bank is free or holds the context (R313). -/
def bankOpen (s : State) (core bank ctx : Nat) : Bool :=
  (residents s core).all (fun t => t.seat.bank != bank || t.ctx = ctx)

/-- The banks that a core offers to a context: one that holds it before a free one. -/
def banksFor (s : State) (core ctx : Nat) : List Nat :=
  let here (b : Nat) : Bool := (residents s core).any (fun t => t.seat.bank = b)
  let open' := [0, 1].filter (fun b => bankOpen s core b ctx)
  open'.filter here ++ open'.filter (fun b => !here b)

/-- The core is in the partition, is not disabled, has a virtual number for the context, and offers a bank (R12, R313,
R356). -/
def acceptable (s : State) (part ctx core : Nat) : Bool :=
  (match look s.parts part with
   | some p => p.reaches.getLsbD (reachOf core)
   | none => false) &&
  s.dieUp (dieOf core) && !s.device.disabled.contains core && (virtOf s ctx core).isSome && banksFor s core ctx != []

/-- What a placement asks: partition, context, what is declared, and the kept holding to adopt. -/
structure Ask where
  /-- The partition. -/
  part : Nat
  /-- The context. -/
  ctx : Nat
  /-- What is declared. -/
  spec : Spec
  /-- The kept holding. -/
  kept : Option Kept
  deriving DecidableEq, Repr

/-- The demand of a placement: the reservation covers an adopted holding (R290). -/
def Ask.demand (a : Ask) : Demand :=
  { a.spec.demand with tile := Nat.max (4096 * a.spec.tile) ((a.kept.map (·.hold)).getD 0) }

/-- A core's use beside a placement: the holding that it adopts there counts in its own demand (R293, R314). -/
def Ask.beside (s : State) (a : Ask) (core bank : Nat) : Demand :=
  let u := coreUse s core bank
  { u with tile := u.tile - (match a.kept with
    | some k => if keptCore s k = some core then k.hold else 0
    | none => 0) }

/-- A placement adopts no holding, or one that stands on the core (R293). -/
def Ask.home (s : State) (a : Ask) (core : Nat) : Bool := a.kept.all (fun k => keptCore s k = some core)

/-- The bank for a team on an acceptable core, or the number of the first of the checks 1 to 5 of R314 that fails. -/
def checkRoom (s : State) (a : Ask) (core : Nat) : Except Nat Nat :=
  let d := a.demand
  let die := dieOf core
  let use (b : Nat) : Demand := a.beside s core b
  let res := (template s a.part).times (reservedOn s a.part core)
  let beside (b : Nat) : Demand := d.add (if b = 1 then res else { res with slots := 0, regs := 0 })
  match (banksFor s core a.ctx).find? (fun b => roomRegs (use b) d) with
  | none => .error 1
  | some b =>
    if !roomLocal (use b) d then .error 2
    else if !roomTile (use b) d || !a.home s core then .error 3
    else if shareBytes s a.part die < shareUsed s a.part die + d.share then .error 4
    else
      let b' := ((banksFor s core a.ctx).find? (fun b => roomRegs (use b) (beside b))).getD 2
      if slotsHeld s a.part (reachOf core) < a.spec.sres || b' = 2 || !roomLocal (use b') (beside b') || !roomTile (use b') (beside b') ||
          decide (shareBytes s a.part die < shareUsed s a.part die + slotShare s a.part die + d.share) then .error 5
      else .ok b'

/-- The bank for a team on an acceptable core, or the number of the first check of R314 that fails. -/
def checkCore (s : State) (a : Ask) (core : Nat) : Except Nat Nat :=
  match checkRoom s a core with
  | .ok b => if vaultRefuses s (reachOf core) a.spec.pclass then .error 6 else .ok b
  | .error k => .error k

/-! ### Placing (R312, R315, R316) -/

/-- Where a team is put. -/
structure Put where
  /-- The core. -/
  core : Nat
  /-- The bank. -/
  bank : Nat
  /-- %cluster. -/
  cluster : Word
  /-- The first index of its run. -/
  run : Nat
  deriving DecidableEq, Repr

/-- Writes a team onto a core. Its rise and its charge count from now on; a kept holding that it adopts is kept no
longer. -/
def putTeam (s : State) (a : Ask) (p : Put) (launch : Option Nat) (task : DWord) (retry prio : Nat) (gen : Option GenOf) : State :=
  let seat : Seat :=
    { core := p.core, vcore := (virtOf s a.ctx p.core).getD p.core, bank := p.bank, cluster := p.cluster, run := p.run, placed := s.now
      rising := true, charge := refreshCharge s (reachOf p.core) a.spec.pclass }
  let t := startTeam s a.ctx a.part launch task retry seat a.spec prio gen
  { s with teams := set s.teams s.freshTeam t, freshTeam := s.freshTeam + 1
           kept := match a.kept with
             | some k => s.kept.filter (fun x => x != k)
             | none => s.kept }

/-- The vault budget that a core's vault keeps (R315): its budget less the charges of the teams placed now. -/
def budgetLeft (s : State) (core : Nat) (first : Nat) : Int :=
  (s.vault (reachOf core)).budget -
    sumNat (s.teams.map (fun e => if first ≤ e.1 ∧ reachOf e.2.seat.core = reachOf core then e.2.seat.charge else 0))

/-- The core at a position of a rectangle. -/
def rectCore (w origin pos : Nat) : Nat := origin + pos / w * 16 + pos % w

/-- A w × h rectangle at an origin lies in one die. -/
def rectFits (w h origin : Nat) : Bool := decide (origin % 16 + w ≤ 16 ∧ origin % 512 / 16 + h ≤ 32)

/-- The teams of a launch to place at once: first index of the run, and (index, dispatches before) of each. -/
structure Batch where
  /-- The first index of the run. -/
  run : Nat
  /-- The teams. -/
  items : List (Nat × Nat)
  deriving DecidableEq, Repr

/-- What a launch asks for one of its indices. -/
def Launch.ask (s : State) (l : Launch) (index : Nat) : Ask :=
  { part := l.part, ctx := l.ctx, spec := l.spec, kept := keptFor s l.ctx index l.spec }

/-- The task id of an index (R311). -/
def Launch.task (l : Launch) (index : Nat) : DWord := BitVec.ofNat 64 (l.lid.toNat * 2 ^ 48 + index)

/-- Places a batch on the rectangle at an origin, each team checked beside those before it (R312, R314); none where a check before the
sixth refuses one. The vaults that refuse a team at check 6 go with it (R324). -/
def placeAt (s : State) (key : Nat) (l : Launch) (b : Batch) (origin : Nat) : Option (State × List Nat) :=
  let w := l.spec.cw
  let h := l.spec.ch
  if !rectFits w h origin || !(List.range (w * h)).all (fun p => acceptable s l.part l.ctx (rectCore w origin p)) then none
  else
    let cluster := BitVec.ofNat 32 ((virtOf s l.ctx origin).getD origin + (w - 1) * 2 ^ 16 + (h - 1) * 2 ^ 20)
    b.items.foldlM (fun (x : State × List Nat) e =>
      let s := x.1
      let core := rectCore w origin (e.1 - b.run)
      let a := l.ask s e.1
      (checkRoom s a core).toOption.map (fun bank =>
        (putTeam s a { core := core, bank := bank, cluster := cluster, run := b.run } (some key) (l.task e.1) e.2 l.spec.prio none,
         if vaultRefuses s (reachOf core) a.spec.pclass then x.2 ++ [reachOf core] else x.2))) (s, [])

/-- The origin that R315 chooses: the greatest least budget left, the lowest core number among equals. -/
def bestOrigin (s : State) (key : Nat) (l : Launch) (b : Batch) (origins : List Nat) : Option State :=
  let least (s' : State) (o : Nat) : Int :=
    (b.items.map (fun e => budgetLeft s' (rectCore l.spec.cw o (e.1 - b.run)) s.freshTeam)).foldl min 1024
  ((origins.filterMap (fun o => (placeAt s key l b o).bind (fun x => if x.2 = [] then some (least x.1 o, x.1) else none))).foldl (fun acc x => match acc with
    | none => some x
    | some y => if y.1 < x.1 then some x else some y) none).map (·.2)

/-- The next teams of a launch: a task to dispatch again before an iteration not yet drawn, else the next run (R309, R310,
R312). -/
def Launch.batch (l : Launch) : Option Batch :=
  let n := l.spec.cw * l.spec.ch
  match l.again with
  | e :: _ => some { run := e.1 / n * n, items := [e] }
  | [] =>
    if l.cursor < l.spec.iterations then
      some { run := l.cursor, items := ((List.range n).map (fun i => (l.cursor + i, 0))).filter (fun e => decide (e.1 < l.spec.iterations)) }
    else none

/-- The origins at which a batch may stand on a die: a task dispatched again beside the teams of its run, or else any
(log entry 19). -/
def originsFor (s : State) (key : Nat) (l : Launch) (b : Batch) (die : Nat) : List Nat :=
  match s.teams.find? (fun e => e.2.launch = some key && e.2.seat.run = b.run && decide (1 < l.spec.cw * l.spec.ch)) with
  | some (_, t) =>
    let p := t.task.toNat % 2 ^ 48 - b.run
    let o := t.seat.core - p / l.spec.cw * 16 - p % l.spec.cw
    if dieOf o = die then [o] else []
  | none => (List.range 512).map (512 * die + ·)

/-- The vaults on a die that refuse the next teams of a launch at check 6, a cluster's demands and rises summed (R312, R322,
R324). -/
def refusedVaults (s : State) (key : Nat) (l : Launch) (b : Batch) (die : Nat) : List Nat :=
  ((originsFor s key l b die).flatMap (fun o => ((placeAt s key l b o).map (·.2)).getD [])).dedup

/-- The launch after a placement: it is blocked on no die, and holds its partition on none, until its next team is refused (R310). -/
def Launch.placed (l : Launch) (b : Batch) (now : Nat) : Launch :=
  { l with
    cursor := if l.again = [] then l.cursor + b.items.length else l.cursor
    again := l.again.tail
    rises := 0
    since := now
    blocked := []
    holds := [] }

/-- Changes a launch. -/
def State.updLaunch (s : State) (k : Nat) (f : Launch → Launch) : State := { s with launches := upd s.launches k f }

/-- The effective priority of a launch (R310). -/
def Launch.effective (l : Launch) : Nat := min 7 (l.spec.prio + l.rises)

/-- A context is running and its partition is not being resized (R352, R360). -/
def ctxOpen (s : State) (ctx part : Nat) : Bool :=
  (match look s.ctxs ctx with
   | some c => decide (c.st = .live)
   | none => false) &&
  (match look s.parts part with
   | some p => p.resize.isNone
   | none => false)

/-- The launches that a die's dispatcher serves, in order: the highest level first, within a level the rotation in order
of acceptance; one below a launch that holds its partition is left out (R310). -/
def servedBy (s : State) (die : Nat) : List (Nat × Launch) :=
  let on := s.launches.filter (fun e => e.2.dies.getLsbD die && ctxOpen s e.2.ctx e.2.part)
  let on := on.filter (fun e => !on.any (fun h => h.2.part = e.2.part && h.2.batch.isSome && h.2.holds.contains die && decide (e.2.effective < h.2.effective)))
  (List.range 8).reverse.flatMap (fun lv =>
    let row := on.filter (fun e => e.2.effective = lv)
    let last := look s.served (8 * die + lv)
    match last with
    | some k => row.filter (fun e => decide (k < e.1)) ++ row.filter (fun e => decide (e.1 ≤ k))
    | none => row)

/-- One turn of a die's dispatcher: the first launch that can place a team does; one refused before it is blocked. -/
def serve (die : Nat) : State → List (Nat × Launch) → State
  | s, [] => s
  | s, (k, l) :: r =>
    match l.batch with
    | none => serve die s r
    | some b =>
      let press (s' : State) : State := (refusedVaults s k l b die).foldl (fun s' v => vaultPress s' v l.part l.lid.toNat) s'
      match bestOrigin s k l b (originsFor s k l b die) with
      | some s' =>
        let s' := press s'
        { s'.updLaunch k (fun l => l.placed b s.now) with
          served := set s'.served (8 * die + l.effective) k
          dispatch := set s'.dispatch die (s.now + 16 * b.items.length) }
      | none =>
        serve die ((press s).updLaunch k (fun l => { l with blocked := if (look l.blocked die).isNone then set l.blocked die s.now else l.blocked })) r

/-- A die's dispatcher may place a team now: the die is in service, and 16 ns have passed for each team that it placed last (R310). -/
def mayPlace (s : State) (die : Nat) : Bool := s.dieUp die && decide ((look s.dispatch die).getD 0 ≤ s.now)

/-- TEAM_PLACEMENT (R309 to R316). -/
def execTeamPlacement (die : Nat) (s : State) : Host.Outcome State Fault Refusal :=
  .next (if mayPlace s die then serve die s (servedBy s die) else s)

/-- A refused team waits on a die: its launch is blocked there and has teams to place (R310, R324). -/
def Launch.refusedOn (l : Launch) (die : Nat) : Bool := (look l.blocked die).isSome && l.batch.isSome

/-- PLACEMENT_RECHECK (R324): a refused team is checked again, in the order in which the dispatcher serves (R310). -/
def execPlacementRecheck (die : Nat) (s : State) : Host.Outcome State Fault Refusal :=
  .next (if mayPlace s die && (servedBy s die).any (fun e => e.2.refusedOn die) then serve die s (servedBy s die) else s)

/-- EFFECTIVE_PRIORITY_RISE (R310): one level for each full 1 ms without a placement. -/
def execEffectivePriorityRise (launch : Nat) (s : State) : Host.Outcome State Fault Refusal :=
  match look s.launches launch with
  | some l =>
    if decide (l.since + 1000000 * (l.rises + 1) ≤ s.now) && decide (l.effective < 7) then
      .next (s.updLaunch launch (fun l => { l with rises := l.rises + 1 }))
    else .next s
  | none => .next s

/-- LAUNCH_HOLD (R310): blocked on the die for more than 1 ms, with a team that waits. -/
def execLaunchHold (launch die : Nat) (s : State) : Host.Outcome State Fault Refusal :=
  match (look s.launches launch).bind (fun l => if l.batch.isSome then look l.blocked die else none) with
  | some t => if t + 1000000 < s.now then .next (s.updLaunch launch (fun l => { l with holds := insertNat die l.holds })) else .next s
  | none => .next s

/-! ### Generators (R237) -/

/-- The generators that wait, with their springs: higher priority first, then earlier enqueue. -/
def genQueue (s : State) : List (Spring × GenWait) :=
  sortBy (fun e => (7 - e.2.prio) * 2 ^ 64 + e.2.order) (s.springs.flatMap (fun e => e.2.queue.map (fun g => (e.2, g))))

/-- What a generator asks: its template's copy with ENTRY as role 0's (R223, R237). The index under which it adopts or keeps a holding
is that of its task id, its block's (R225, R293, log entry 90). -/
def genAsk (s : State) (p : Spring) (g : GenWait) : Ask :=
  let roles := match p.spec.roles with
    | r :: rs => { r with entry := p.entry } :: rs
    | [] => []
  { part := partOf s p.ctx, ctx := p.ctx, spec := { p.spec with roles := roles }, kept := keptFor s p.ctx g.block p.spec }

/-- A generator fits in a slot of a core and bank: the bank is free or holds its context, every resource has room for it, and no vault
refuses it (R237, R313, R314, R322). `heat` false leaves the vault out. -/
def slotRoom (s : State) (a : Ask) (heat : Bool) (core bank : Nat) : Bool :=
  let die := dieOf core
  let d := a.demand
  let u := a.beside s core bank
  acceptable s a.part a.ctx core && bankOpen s core bank a.ctx && a.home s core && roomRegs u d && roomLocal u d && roomTile u d &&
    decide (shareUsed s a.part die + d.share ≤ shareBytes s a.part die) && !(heat && vaultRefuses s (reachOf core) a.spec.pclass)

/-- A free slot for a generator of depth 0 on a reach in which it fits. -/
def reachHasSlot (s : State) (a : Ask) (heat : Bool) (reach : Nat) : Bool :=
  (springSlots s a.part reach).any (fun c => slotRoom s a heat c 0 || slotRoom s a heat c 1)

/-- Ordinary resources of a core and bank that pass the placement checks (R314). -/
def ordinaryRoom (s : State) (a : Ask) (heat : Bool) (core bank : Nat) : Bool :=
  match checkCore s a core with
  | .ok b => b = bank
  | .error k => !heat && k = 6 && (banksFor s core a.ctx).contains bank

/-- Where a generator may stand at a core and bank: its slot kind, if any (R237). -/
def genPlace (s : State) (p : Spring) (g : GenWait) (heat : Bool) (core bank : Nat) : Option Nat :=
  let a := genAsk s p g
  let die := dieOf core
  let near (n : Nat) : Bool := n = reachOf g.origin || !reachHasSlot s a heat (reachOf g.origin)
  let anySlot := reachHasSlot s a heat (reachOf g.origin) || (List.range 32).any (fun i =>
    let n := 32 * dieOf g.origin + i
    (match look s.parts a.part with
     | some x => x.reaches.getLsbD n
     | none => false) && reachHasSlot s a heat n)
  if !acceptable s a.part a.ctx core || !bankOpen s core bank a.ctx || 1 < bank || !ctxOpen s p.ctx a.part then none
  else if g.depth = 0 then
    if decide (0 < freeSlots s a.part core) && die = dieOf g.origin && near (reachOf core) && slotRoom s a heat core bank then some 1
    else if !anySlot && ordinaryRoom s a heat core bank then some 0 else none
  else if (nestedSlots s a.part die).contains (g.depth, core) && die = dieOf g.origin && slotRoom s a heat core bank then some 2
  else if ordinaryRoom s a heat core bank then some 0 else none

/-- GENERATOR_PLACEMENT (R225, R237): the `idx`-th generator of the queue starts on a core and bank where none before it
can. One that the vault alone refuses there presses on the vault (R322, R324). -/
def execGeneratorPlacement (idx core bank : Nat) (s : State) : Host.Outcome State Fault Refusal :=
  let q := genQueue s
  if (q.take idx).any (fun e => (genPlace s e.1 e.2 true core bank).isSome) then .next s
  else match q[idx]? with
  | none => .next s
  | some (p, g) => match genPlace s p g true core bank with
    | none =>
      .next (if (genPlace s p g false core bank).isSome && vaultRefuses s (reachOf core) p.spec.pclass
        then vaultPress s (reachOf core) (partOf s p.ctx) p.launchId.toNat else s)
    | some place =>
      let cluster := BitVec.ofNat 32 ((virtOf s p.ctx core).getD core)
      let s := s.updSpring p.key (fun x => { x with queue := x.queue.filter (fun y => y.block ≠ g.block) })
      .next (putTeam s (genAsk s p g) { core := core, bank := bank, cluster := cluster, run := 0 } none (p.task g.block) 0 g.prio
        (some { spring := p.num, block := g.block, depth := g.depth, filled := false, place := place }))

/-! ### Retirement, completion, abandonment (R317, R350, R351) -/

/-- A packet in flight completes (R433). -/
def State.completePacket (s : State) (p : Nat × Nat) : State :=
  s.setQueue p.1 { s.queue p.1 with flights := (s.queue p.1).flights.map (fun f => if f.num = p.2 then { f with done := true } else f) }

/-- A task that a TASK.CTL packet dispatched again has come to the end of that dispatch (R434). -/
def endDispatch (s : State) (ctx : Nat) (task : DWord) : State :=
  match s.abands.find? (fun a => a.ctx = ctx && a.task = task) with
  | none => s
  | some a =>
    let s := { s with abands := s.abands.filter (fun a => !(a.ctx = ctx && a.task = task)) }
    match a.st with
    | .again q n => s.completePacket (q, n)
    | _ => s

/-- RETIREMENT (R317): the version commits, once its marks fit; the holding is kept or freed; the rest is released. The
windows were written back by the EXIT that ended the team. -/
def execRetirement (team : Nat) (s : State) : Host.Outcome State Fault Refusal :=
  match look s.teams team with
  | none => .next s
  | some t =>
    if !retireReady s team t || (match t.gen with
      | some g => !g.filled
      | none => false) then .next s
    else if !commitFits s team t then .next (s.updTeam team (fun t => { t with ver := { t.ver with waiting := true } }))
    else
      let s := commitVersion s team t
      let idx := t.task.toNat % 2 ^ 48
      let k : Kept := { ctx := t.ctx, passKey := t.spec.passKey, index := idx, launch := t.launchKey, vcore := t.seat.vcore
                        core := t.seat.core, hold := t.hold, data := t.tdata, tilecfg := t.tilecfg }
      let s := if t.spec.keep then { s with kept := s.kept ++ [k] } else s
      .next (endDispatch (removeTeam s team) t.ctx t.task)

/-- LAUNCH_COMPLETION (R317, R351). -/
def execLaunchCompletion (launch : Nat) (s : State) : Host.Outcome State Fault Refusal :=
  match look s.launches launch with
  | none => .next s
  | some l =>
    if decide (l.cursor < l.spec.iterations) || l.again != [] || s.teams.any (fun e => e.2.launch = some launch) ||
        s.abands.any (fun a => a.ctx = l.ctx && a.launch = launch) then .next s
    else .next ({ s with launches := del s.launches launch }.completePacket l.packet)

/-- The record of an abandonment (R350). -/
def abandonRecord (s : State) (t : Team) (d : Doom) (redisp : Bool) : List Byte :=
  let pc := if d.reason = 4 then 0 else d.pc.toNat
  let cause := if d.reason = 0 ∨ d.reason = 4 then 0 else d.cause
  toBytes 8 (s.now % 2 ^ 64) ++
  toBytes 8 (b2n redisp * 2 ^ 2 + b2n t.ver.dirw * 2 ^ 3 + d.reason * 2 ^ 4 + cause * 2 ^ 8 + min t.retry 3 * 2 ^ 16 + t.part * 2 ^ 18 +
    t.seat.bank * 2 ^ 26 + d.slot * 2 ^ 27 + t.seat.vcore * 2 ^ 32) ++
  toBytes 4 t.ctx ++ toBytes 4 pc ++ toBytes 8 t.task.toNat

/-- Abandons a team whose abandonment is decided (R350, R351): the record is posted, everything it holds goes, and the task
is dispatched again by the device or waits for TASK.CTL. -/
def abandonTeam (s : State) (tk : Nat) (t : Team) (d : Doom) : State :=
  let redisp := (d.reason = 3 || d.reason = 4 || d.reason = 5) && !t.ver.dirw && decide (t.retry < 3)
  let s := postEvent s t.part 1 (abandonRecord s t d redisp)
  let s := endDispatch (removeTeam s tk) t.ctx t.task
  match t.launch with
  | none => s
  | some l =>
    let a : Aband := { ctx := t.ctx, launch := l, task := t.task, retry := t.retry, st := if redisp then .auto else .waiting }
    let s := { s with abands := s.abands ++ [a] }
    if redisp then s.updLaunch l (fun x => { x with again := x.again ++ [(t.task.toNat % 2 ^ 48, t.retry + 1)] }) else s

/-- ABANDONMENT (R350). A spring generator fails by GENERATOR_FAILURE instead, but for one that has filled its block. -/
def execAbandonment (team : Nat) (s : State) : Host.Outcome State Fault Refusal :=
  match look s.teams team with
  | none => .next s
  | some t => match t.doom, t.gen with
    | some d, none => .next (abandonTeam s team t d)
    | some _, some g => if g.filled then .next (removeTeam s team) else .next s
    | none, _ => .next s

/-- UNCORRECTABLE_ERROR (R351): every team whose state held the bad bits. -/
def execUncorrectableError (teams : List Nat) (s : State) : Host.Outcome State Fault Refusal :=
  .next (teams.foldl (fun s k => s.updTeam k (fun t => t.abandon 4 0 0 0)) s)

end Sys2Proof.Machine
end

