-- ==== Sys2Proof/WellFormed.lean ====
section
/-! DEFINITION. Which instructions are well formed: a Calud word that passes check 1 of R65, a patch word that
R364, R365, R367 and R369 allow, a slot whose fields R378, R381 to R386, R388 and R390 allow, an event that names a
unit the device has (R10, R13, R28). -/

namespace Sys2Proof.Machine

/-- The opcode of R64 and the fields of a Calud instruction; none for every other instruction. -/
def caludOf (i : Instr) : Option (Nat × CWord) :=
  match i with
  | .nop w => some (0x000, w)
  | .bra w => some (0x001, w)
  | .brx w => some (0x002, w)
  | .callW w => some (0x003, w)
  | .retW w => some (0x004, w)
  | .reform w => some (0x005, w)
  | .reformJoin w => some (0x005, w)
  | .yieldW w => some (0x006, w)
  | .exitW w => some (0x007, w)
  | .plog w => some (0x008, w)
  | .prd w => some (0x009, w)
  | .pwr w => some (0x00A, w)
  | .shflBc w => some (0x010, w)
  | .shflXor w => some (0x011, w)
  | .shflUp w => some (0x012, w)
  | .shflDn w => some (0x013, w)
  | .vote w => some (0x014, w)
  | .gred w => some (0x015, w)
  | .gscan w => some (0x016, w)
  | .iadd w => some (0x040, w)
  | .isub w => some (0x041, w)
  | .imul w => some (0x042, w)
  | .imulh w => some (0x043, w)
  | .imad w => some (0x044, w)
  | .imin w => some (0x045, w)
  | .imax w => some (0x046, w)
  | .iabs w => some (0x047, w)
  | .shl w => some (0x048, w)
  | .shr w => some (0x049, w)
  | .fsh w => some (0x04A, w)
  | .bfe w => some (0x04B, w)
  | .bfi w => some (0x04C, w)
  | .popc w => some (0x04D, w)
  | .clz w => some (0x04E, w)
  | .brev w => some (0x04F, w)
  | .bfn w => some (0x050, w)
  | .icmp w => some (0x051, w)
  | .sel w => some (0x052, w)
  | .mov w => some (0x053, w)
  | .movi w => some (0x054, w)
  | .smovi w => some (0x055, w)
  | .fadd w => some (0x0C0, w)
  | .fsub w => some (0x0C1, w)
  | .fmul w => some (0x0C2, w)
  | .ffma w => some (0x0C3, w)
  | .fmin w => some (0x0C4, w)
  | .fmax w => some (0x0C5, w)
  | .fcmp w => some (0x0C6, w)
  | .frnd w => some (0x0C7, w)
  | .hadd2 w => some (0x0C8, w)
  | .hmul2 w => some (0x0C9, w)
  | .hfma2 w => some (0x0CA, w)
  | .cvt w => some (0x0CB, w)
  | .npack w => some (0x0CC, w)
  | .nunpk w => some (0x0CD, w)
  | .dot2 w => some (0x0CE, w)
  | .dot4 w => some (0x0CF, w)
  | .dot8 w => some (0x0D0, w)
  | .dotsc w => some (0x0D1, w)
  | .cbLd w => some (0x0D2, w)
  | .cbRd w => some (0x0D3, w)
  | .rcp w => some (0x140, w)
  | .rsq w => some (0x141, w)
  | .sqrtW w => some (0x142, w)
  | .exp2 w => some (0x143, w)
  | .log2 w => some (0x144, w)
  | .sinW w => some (0x145, w)
  | .cosW w => some (0x146, w)
  | .tanhW w => some (0x147, w)
  | .ldl w => some (0x160, w)
  | .stl w => some (0x161, w)
  | .ldsSync w => some (0x162, w)
  | .stsSync w => some (0x163, w)
  | .bufFill w => some (0x164, w)
  | .bufDone w => some (0x165, w)
  | .bufDrain w => some (0x166, w)
  | .bufFree w => some (0x167, w)
  | .bufStat w => some (0x168, w)
  | .stashFlush w => some (0x169, w)
  | .stashInv w => some (0x16A, w)
  | .armW w => some (0x16B, w)
  | .ldr w => some (0x170, w)
  | .str w => some (0x171, w)
  | .ldg w => some (0x172, w)
  | .stg w => some (0x173, w)
  | .stu w => some (0x174, w)
  | .pref w => some (0x175, w)
  | .sample w => some (0x176, w)
  | .recld w => some (0x177, w)
  | .recset w => some (0x178, w)
  | .recqry w => some (0x179, w)
  | .atom w => some (0x1A0, w)
  | .atomCas w => some (0x1A1, w)
  | .redA w => some (0x1A2, w)
  | .lda w => some (0x1A3, w)
  | .strl w => some (0x1A4, w)
  | .fence w => some (0x1A5, w)
  | .barTeam w => some (0x1A6, w)
  | .barClu w => some (0x1A7, w)
  | .commitW w => some (0x1A8, w)
  | .vqry w => some (0x1A9, w)
  | .sfill w => some (0x1C0, w)
  | .sfail w => some (0x1C1, w)
  | .sevict w => some (0x1C2, w)
  | .sqry w => some (0x1C3, w)
  | .tgrow w => some (0x1C8, w)
  | .tshrink w => some (0x1C9, w)
  | .tld w => some (0x1CA, w)
  | .tst w => some (0x1CB, w)
  | .tstOrd w => some (0x1CB, w)
  | .beam w => some (0x1CC, w)
  | .ray w => some (0x1CD, w)
  | .xcopy w => some (0x1D0, w)
  | .xsend w => some (0x1D1, w)
  | .shapeLd w => some (0x1D2, w)
  | .shapeEv w => some (0x1D3, w)
  | .xgath w => some (0x1D4, w)
  | .coll w => some (0x1D5, w)
  | .waitk w => some (0x1D6, w)
  | .ktest w => some (0x1D7, w)
  | .crec w => some (0x1D8, w)
  | .accOpen w => some (0x1E0, w)
  | .mma w => some (0x1E1, w)
  | .mmas w => some (0x1E2, w)
  | .accRet w => some (0x1E3, w)
  | .accRd w => some (0x1E4, w)
  | .accZero w => some (0x1E5, w)
  | .metaLd w => some (0x1E6, w)
  | .trapW w => some (0x1F0, w)
  | .tret w => some (0x1F1, w)
  | .tabandon w => some (0x1F2, w)
  | .tmask w => some (0x1F3, w)
  | .sysrd w => some (0x1F4, w)
  | .syswr w => some (0x1F5, w)
  | .weirAcq w => some (0x1F8, w)
  | .weirRel w => some (0x1F9, w)
  | .weirQry w => some (0x1FA, w)
  | _ => none

/-- Width of a template field by its selector (R367). -/
def fieldWidth (f : Nat) : Option Nat :=
  if f = 0x00 then some 16
  else if 0x10 ≤ f ∧ f ≤ 0x14 then [6, 5, 5, 16, 5][f - 0x10]?
  else if 0x20 ≤ f ∧ f ≤ 0x29 then [6, 3, 3, 1, 1, 7, 7, 7, 7, 6][f - 0x20]?
  else if 0x30 ≤ f ∧ f ≤ 0x39 then [6, 3, 3, 1, 1, 7, 7, 7, 7, 6][f - 0x30]?
  else if 0x40 ≤ f ∧ f ≤ 0x44 then [4, 7, 5, 16, 8][f - 0x40]?
  else if 0x50 ≤ f ∧ f ≤ 0x54 then [4, 7, 5, 16, 8][f - 0x50]?
  else if 0x60 ≤ f ∧ f ≤ 0x64 then [6, 5, 6, 6, 9][f - 0x60]?
  else none

/-- An amendment that R365 and R367 allow: an assigned selector, and no bit of V at or above the field's width. -/
def amendOk (f : BitVec 8) (v : BitVec 16) : Bool :=
  match fieldWidth f.toNat with
  | some n => v.toNat < 2 ^ n
  | none => false

/-- The V operations' numbers (R383, R384). -/
def vopOf (i : Instr) : Option (Nat × VForm) :=
  match i with
  | .vmov f => some (0x00, f)
  | .vadd f => some (0x01, f)
  | .vsub f => some (0x02, f)
  | .vmul f => some (0x03, f)
  | .vfma f => some (0x04, f)
  | .vmin f => some (0x05, f)
  | .vmax f => some (0x06, f)
  | .vlerp f => some (0x07, f)
  | .vabs f => some (0x08, f)
  | .vcmp f => some (0x09, f)
  | .vsel f => some (0x0A, f)
  | .vand f => some (0x0B, f)
  | .vor f => some (0x0C, f)
  | .vxor f => some (0x0D, f)
  | .vshl f => some (0x0E, f)
  | .vshr f => some (0x0F, f)
  | .vcvt f => some (0x10, f)
  | .vtrn f => some (0x20, f)
  | .vbrow f => some (0x21, f)
  | .vbcol f => some (0x22, f)
  | .vrotc f => some (0x23, f)
  | .vperm f => some (0x24, f)
  | .vrsum f => some (0x25, f)
  | _ => none

/-- How many sources a V operation reads (R383, R384). -/
def vSources (op : Nat) : Nat :=
  if op = 0x04 ∨ op = 0x07 ∨ op = 0x0A then 3
  else if op = 0x00 ∨ op = 0x08 ∨ op = 0x10 ∨ op = 0x20 ∨ op = 0x21 ∨ op = 0x22 ∨ op = 0x23 ∨ op = 0x25 then 1
  else 2

/-- A V type code is a float type (R381). -/
def vFloat (ty : Nat) : Bool := ty ≤ 2

/-- The float controls RM, FTZ and SAT that a V operation admits (R381, R383 to R386). -/
def vModsOk (op : Nat) (f : VForm) : Bool :=
  let fl := vFloat f.ty.toNat
  if op = 0x10 then
    let dfl := vFloat f.parm.toNat
    (fl || dfl || (f.rm = 0 && !f.ftz)) && (!f.sat || (!fl && !dfl))
  else
    (fl || (f.rm = 0 && !f.ftz)) &&
    (!f.sat || (!fl && [0x01, 0x02, 0x03, 0x04, 0x08, 0x25].contains op)) &&
    (!([0x00, 0x0A, 0x0B, 0x0C, 0x0D, 0x20, 0x21, 0x22, 0x23, 0x24].contains op) || (f.rm = 0 && !f.ftz)) &&
    (op ≠ 0x09 || f.rm = 0)

/-- The field conditions of a V slot that do not depend on shp (R371, step 3). -/
def vOk (op : Nat) (f : VForm) : Bool :=
  let n := vSources op
  f.ty.toNat ≤ 5 && f.rm.toNat ≤ 3 && (f.v1 || op < 0x20) &&
  (f.d.toNat ≤ 63 || f.d = 127) &&
  (f.a.toNat ≤ 71 || 96 ≤ f.a.toNat) &&
  (if n ≥ 2 then f.b.toNat ≤ 71 || 96 ≤ f.b.toNat else f.b = 0) &&
  (if n ≥ 3 then f.c.toNat ≤ 71 || 96 ≤ f.c.toNat else f.c = 0) &&
  (op ≠ 0x07 || vFloat f.ty.toNat) && ((op ≠ 0x0E && op ≠ 0x0F) || !vFloat f.ty.toNat) &&
  (if op = 0x09 || op = 0x10 then f.parm.toNat ≤ 5
   else if op = 0x21 || op = 0x22 || op = 0x23 then true else f.parm = 0) &&
  vModsOk op f

/-- An LD slot of operation `op` (R388). -/
def ldOk (op : Nat) (f : LdForm) : Bool :=
  (if op = 2 then 96 ≤ f.d.toNat else f.d.toNat ≤ 63) && (if op = 1 then f.pitch ≠ 0 else f.pitch = 0)

/-- An ST slot of operation `op` (R388). -/
def stOk (op : Nat) (f : StForm) : Bool :=
  (if op = 2 then 96 ≤ f.s.toNat else f.s.toNat ≤ 71) && (if op = 1 then f.pitch ≠ 0 else f.pitch = 0)

/-- A stream value that SRD reads (R380, R414). -/
def srdOk (n : Nat) : Bool := n ≤ 9 || (16 ≤ n && n ≤ 31)

/-- Well-formed instructions. -/
def wellFormed (i : Instr) : Bool :=
  match caludOf i with
  | some (op, w) =>
    match rowOfOp op w with
    | some r => decide (r.con w = i) && r.legal w
    | none => false
  | none =>
    match vopOf i with
    | some (op, f) => vOk op f
    | none =>
      match i with
      | .amendThenIssue _ f v | .amendAndHold _ f v => amendOk f v
      | .tplLd f _ => f.toNat ≤ 63
      | .srd _ n => srdOk n.toNat
      | .ldw f => ldOk 0 f
      | .ldwr f => ldOk 1 f
      | .ldx f => ldOk 2 f
      | .stw f => stOk 0 f
      | .stwr f => stOk 1 f
      | .stx f => stOk 2 f
      | .semInit _ _ c => c ≠ 0
      | .semAdd _ k | .semSub _ k => k ≠ 0
      | .cpld a _ _ | .cpst a _ _ _ | .mmc a _ => a.toNat ≤ 28
      | .fbreplay die _ | .fbabort die _ | .vscarve die _ | .teamPlacement die | .placementRecheck die
      | .launchHold _ die => die ≤ 3
      | .clkcfg r _ | .mpfill r _ | .spslot r _ | .sensorReading r _ | .millpondRefill r | .weirGrant r | .droop r
      | .hopLock r | .hopAbort r | .stretchEnd r => r ≤ 127
      | .vres v _ => v ≤ 127
      | .bankSwitch c | .matrixReset c | .matrixResetEnd c => c ≤ 2047
      | .dieLinkRetrain a b | .dieLinkTrained a b => a < b && b ≤ 4
      | .cxlPortRetrain p | .cxlPortTrained p => p ≤ 3
      | .qput q _ | .packetTakeUp q | .packetIssue q | .timelineAdvance q | .qctlRestart q _ => q ≤ 255
      | .lcgo n _ | .sliceLaunch n | .sliceCompletion n | .copyCommandStart n _ | .copyCommandCompletion n _
      | .mmcCompletion n => n ≤ 31
      | .frameStart st | .sliceLatch st _ _ | .sliceDeadline st _ _ | .backwaterCopy st _ _
      | .tileRowEncode st _ _ | .dpLineStart st _ => st ≤ 63
      | _ => true

end Sys2Proof.Machine
end

