-- ==== Sys2Proof/Decode.lean ====
section
/-! DEFINITION. Decoding of Calud words (R50 to R65), patch words (R364 to R369) and the slots of a template (R366,
R378, R381, R388, R390), total on any bits and rejecting by name; and after it the encoder of the same tables. -/

namespace Sys2Proof.Machine

/-- Why a word is rejected. Every one of them is cause 0x01 where the word issues. -/
inductive Reject where
  /-- A byte list that holds no whole word. -/
  | short
  /-- No table assigns the opcode, operation or stream-control number. -/
  | unassigned
  /-- A consumed-token field that is not zero under a valid bit of 0 (R58), or a reserved bit of the format. -/
  | reserved
  /-- Check 1 of R65 fails, or the slot's or patch word's own conditions. -/
  | illegal
  deriving DecidableEq, Repr

/-- Bits [lo + n - 1 : lo] of a value. -/
def field {w : Nat} (x : BitVec w) (lo n : Nat) : BitVec n := x.extractLsb' lo n

/-- The little-endian number of a byte list (R3). -/
def leNat (bs : List Byte) : Nat := bs.foldr (fun b acc => b.toNat + 256 * acc) 0

/-- The `n` little-endian bytes of a number (R3). -/
def leBytes : Nat → Nat → List Byte
  | 0, _ => []
  | n + 1, x => BitVec.ofNat 8 x :: leBytes n (x / 256)

/-! ### Calud words -/

/-- The common fields of a word (R51). -/
def commonOf (b : BitVec 80) : Common :=
  { gn := b.getLsbD 20, g := field b 14 6, y := b.getLsbD 13, ru := b.getLsbD 12, tw := field b 6 6,
    ta := field b 3 3, pd := field b 0 3 }

/-- A consumed token of a format-E word by the places of its field and its valid bit (R58): the outer none is a
field that is not zero under a valid bit of 0. -/
def tokenOf (b : BitVec 80) (lo valid : Nat) : Option (Option (BitVec 6)) :=
  if b.getLsbD valid then some (some (field b lo 6)) else if field b lo 6 = (0 : BitVec 6) then some none else none

/-- The operand fields of a word by its format (R55). -/
def bodyOf (b : BitVec 80) : Option Body :=
  let a : BitVec 8 := field b 40 8
  let d : BitVec 8 := field b 32 8
  if field b 21 2 = (0 : BitVec 2) then some (.r d a (field b 48 8) (field b 56 8) (field b 64 16))
  else if field b 21 2 = (1 : BitVec 2) then some (.i d a (field b 48 32))
  else if field b 21 2 = (2 : BitVec 2) then some (.b d a (field b 48 32))
  else if field b 38 2 ≠ (0 : BitVec 2) then none
  else
    match tokenOf b 56 62, tokenOf b 64 76, tokenOf b 70 77 with
    | some k1, some k2, some k3 =>
      some (.e (field b 32 6) a (field b 48 8) k1 k2 k3 (b.getLsbD 63) (field b 78 2))
    | _, _, _ => none

/-- The instruction of an 80-bit Calud word, or why it takes cause 0x01 (R65, check 1). -/
def decodeCalud (b : BitVec 80) : Except Reject Instr :=
  match bodyOf b with
  | none => .error .reserved
  | some body =>
    let w : CWord := { common := commonOf b, body := body }
    match rowOfOp (field b 23 9 : BitVec 9).toNat w with
    | none => .error .unassigned
    | some r => if r.legal w then .ok (r.con w) else .error .illegal

/-- The instruction at the head of a byte list, with the bytes that follow it (R50). -/
def decodeBytes (bs : List Byte) : Except Reject (Instr × List Byte) :=
  if bs.length < 10 then .error .short
  else
    match decodeCalud (BitVec.ofNat 80 (leNat (bs.take 10))) with
    | .ok i => .ok (i, bs.drop 10)
    | .error e => .error e

/-! ### Patch words -/

/-- The instruction of a patch word (R364, R369). -/
def decodePatch (w : BitVec 32) : Except Reject Instr :=
  let t : BitVec 6 := field w 26 6
  let f : BitVec 8 := field w 16 8
  let v : BitVec 16 := field w 0 16
  if field w 24 2 = (0 : BitVec 2) then if f = 0 ∧ v = 0 then .ok (.issueAsHeld t) else .error .illegal
  else if field w 24 2 = (1 : BitVec 2) then if amendOk f v then .ok (.amendThenIssue t f v) else .error .illegal
  else if field w 24 2 = (2 : BitVec 2) then if amendOk f v then .ok (.amendAndHold t f v) else .error .illegal
  else if t = 0 then if f.toNat ≤ 63 then .ok (.tplLd f v) else .error .illegal
  else if t = 1 then if f = 0 ∧ v = 0 then .ok .endS else .error .illegal
  else if t = 2 then if f = 0 ∧ v = 0 then .ok .qdrain else .error .illegal
  else if t = 3 then if f = 0 then .ok (.streamTrap v) else .error .illegal
  else .error .unassigned

/-! ### The slots of a template -/

/-- The instruction of an S0 slot (R378, R379, R380). -/
def decodeS0 (w : BitVec 32) : Except Reject Instr :=
  let op := (field w 26 6 : BitVec 6).toNat
  let d : BitVec 5 := field w 21 5
  let a : BitVec 5 := field w 16 5
  let imm : BitVec 16 := field w 0 16
  let b : BitVec 5 := field w 11 5
  let reg (i : Instr) : Except Reject Instr := if field w 0 11 = (0 : BitVec 11) then .ok i else .error .illegal
  let only (c : Bool) (i : Instr) : Except Reject Instr := if c then .ok i else .error .illegal
  match op with
  | 0x00 => only (d = 0 && a = 0 && imm = 0) .snop
  | 0x01 => reg (.sadd d a b)
  | 0x02 => reg (.ssub d a b)
  | 0x03 => reg (.smul d a b)
  | 0x04 => reg (.sand d a b)
  | 0x05 => reg (.sor d a b)
  | 0x06 => reg (.sxor d a b)
  | 0x07 => reg (.sshl d a b)
  | 0x08 => reg (.sshr d a b)
  | 0x09 => reg (.ssra d a b)
  | 0x0A => reg (.slt d a b)
  | 0x0B => reg (.sltu d a b)
  | 0x10 => .ok (.saddi d a imm)
  | 0x11 => .ok (.slui d a imm)
  | 0x18 => only (d = 0) (.beqz a imm)
  | 0x19 => only (d = 0) (.bnez a imm)
  | 0x1A => only (d = 0 && a = 0) (.bru imm)
  | 0x1B => only (d = 0 && field w 3 13 = (0 : BitVec 13)) (.lstart a (field w 0 3))
  | 0x1C => only (d = 0 && a = 0) (.loopS imm)
  | 0x20 => only (a = 0 && srdOk imm.toNat) (.srd d imm)
  | 0x21 => only (d = 0 && imm = 0) (.setshp a)
  | 0x22 => only (d = 0 && imm = 0) (.setlb a)
  | _ => .error .unassigned

/-- The fields of a V slot (R381). -/
def vFields (v1 : Bool) (w : BitVec 48) : VForm :=
  { v1 := v1, ty := field w 39 3, rm := field w 36 3, ftz := w.getLsbD 35, sat := w.getLsbD 34, d := field w 27 7,
    a := field w 20 7, b := field w 13 7, c := field w 6 7, parm := field w 0 6 }

/-- The V operation of a number (R383, R384). -/
def vInstr (op : Nat) (f : VForm) : Option Instr :=
  match op with
  | 0x00 => some (.vmov f)
  | 0x01 => some (.vadd f)
  | 0x02 => some (.vsub f)
  | 0x03 => some (.vmul f)
  | 0x04 => some (.vfma f)
  | 0x05 => some (.vmin f)
  | 0x06 => some (.vmax f)
  | 0x07 => some (.vlerp f)
  | 0x08 => some (.vabs f)
  | 0x09 => some (.vcmp f)
  | 0x0A => some (.vsel f)
  | 0x0B => some (.vand f)
  | 0x0C => some (.vor f)
  | 0x0D => some (.vxor f)
  | 0x0E => some (.vshl f)
  | 0x0F => some (.vshr f)
  | 0x10 => some (.vcvt f)
  | 0x20 => some (.vtrn f)
  | 0x21 => some (.vbrow f)
  | 0x22 => some (.vbcol f)
  | 0x23 => some (.vrotc f)
  | 0x24 => some (.vperm f)
  | 0x25 => some (.vrsum f)
  | _ => none

/-- The instruction of a V0 or V1 slot (R381 to R386). -/
def decodeV (v1 : Bool) (w : BitVec 48) : Except Reject Instr :=
  let op := (field w 42 6 : BitVec 6).toNat
  match vInstr op (vFields v1 w) with
  | none => .error .unassigned
  | some i => if vOk op (vFields v1 w) then .ok i else .error .illegal

/-- The instruction of an LD slot (R388). -/
def decodeLd (w : BitVec 40) : Except Reject Instr :=
  let f : LdForm :=
    { d := field w 29 7, a := field w 24 5, off := field w 8 16, take := w.getLsbD 7, post := w.getLsbD 6, pitch := field w 0 6 }
  let op := (field w 36 4 : BitVec 4).toNat
  if op > 2 then .error .unassigned
  else if !ldOk op f then .error .illegal
  else if op = 0 then .ok (.ldw f) else if op = 1 then .ok (.ldwr f) else .ok (.ldx f)

/-- The instruction of an ST slot (R388). -/
def decodeSt (w : BitVec 40) : Except Reject Instr :=
  let f : StForm :=
    { s := field w 29 7, a := field w 24 5, off := field w 8 16, fill := w.getLsbD 7, post := w.getLsbD 6, pitch := field w 0 6 }
  let op := (field w 36 4 : BitVec 4).toNat
  if op > 2 then .error .unassigned
  else if !stOk op f then .error .illegal
  else if op = 0 then .ok (.stw f) else if op = 1 then .ok (.stwr f) else .ok (.stx f)

/-- A semaphore field of a Q slot: the outer none is a semaphore under a valid bit of 0 (R390). -/
def semOf (w : BitVec 32) (valid lo : Nat) : Option (Option (BitVec 5)) :=
  if w.getLsbD valid then some (some (field w lo 5)) else if field w lo 5 = (0 : BitVec 5) then some none else none

/-- The instruction of a Q slot (R390). -/
def decodeQ (w : BitVec 32) : Except Reject Instr :=
  let op := (field w 26 6 : BitVec 6).toNat
  let a : BitVec 5 := field w 21 5
  let n : BitVec 9 := field w 0 9
  if op > 0x0A ∨ op = 0x07 then .error .unassigned
  else
    match semOf w 20 15, semOf w 14 9 with
    | some ws, some ss =>
      let sem : SemForm := { wait := ws, sig := ss }
      let sm : BitVec 5 := ss.getD 0
      let only (c : Bool) (i : Instr) : Except Reject Instr := if c then .ok i else .error .illegal
      let one := ws.isNone && ss.isSome
      match op with
      | 0x00 => only (a = 0 && n = 0) (.qnop sem)
      | 0x01 => only (one && n ≠ 0) (.semInit a sm n)
      | 0x02 => only (one && n ≠ 0 && a = 0) (.semAdd sm n)
      | 0x03 => only (one && n ≠ 0 && a = 0) (.semSub sm n)
      | 0x04 => only (one && n = 0) (.semRd a sm)
      | 0x05 => only (n.toNat < 4) (.cqpush a sem (field w 0 2))
      | 0x06 => only (n.toNat < 4) (.cqpop a sem (field w 0 2))
      | 0x08 => only (n.toNat < 2 && a.toNat ≤ 28) (.cpld a sem (w.getLsbD 0))
      | 0x09 => only (n.toNat < 4 && a.toNat ≤ 28) (.cpst a sem (w.getLsbD 0) (w.getLsbD 1))
      | _ => only (n = 0 && a.toNat ≤ 28) (.mmc a sem)
    | _, _ => .error .illegal

/-! ### The encoder -/

/-- A consumed token's field with its valid bit at the top. -/
def tokenBits (k : Option (BitVec 6)) : Nat := match k with
  | some t => 64 + t.toNat
  | none => 0

/-- Bits [79:32] of a word (R55). -/
def bodyBits (body : Body) : Nat :=
  match body with
  | .r d a b c m => d.toNat + 2 ^ 8 * a.toNat + 2 ^ 16 * b.toNat + 2 ^ 24 * c.toNat + 2 ^ 32 * m.toNat
  | .i d a imm => d.toNat + 2 ^ 8 * a.toNat + 2 ^ 16 * imm.toNat
  | .b d a off => d.toNat + 2 ^ 8 * a.toNat + 2 ^ 16 * off.toNat
  | .e d a b k1 k2 k3 crq sub =>
    d.toNat + 2 ^ 8 * a.toNat + 2 ^ 16 * b.toNat + 2 ^ 24 * (tokenBits k1 + 128 * crq.toNat) +
    2 ^ 32 * (tokenBits k2 % 64 + 64 * (tokenBits k3 % 64) + 2 ^ 12 * (tokenBits k2 / 64) + 2 ^ 13 * (tokenBits k3 / 64)
      + 2 ^ 14 * sub.toNat)

/-- FMT of a word (R51). -/
def fmtCode (body : Body) : Nat :=
  match body with
  | .r .. => 0
  | .i .. => 1
  | .b .. => 2
  | .e .. => 3

/-- The 80 bits of a Calud word (R51, R55). -/
def encodeWord (op : Nat) (w : CWord) : BitVec 80 :=
  BitVec.ofNat 80 (w.common.pd.toNat + 2 ^ 3 * w.common.ta.toNat + 2 ^ 6 * w.common.tw.toNat + 2 ^ 12 * w.common.ru.toNat
    + 2 ^ 13 * w.common.y.toNat + 2 ^ 14 * w.common.g.toNat + 2 ^ 20 * w.common.gn.toNat + 2 ^ 21 * fmtCode w.body
    + 2 ^ 23 * op + 2 ^ 32 * bodyBits w.body)

/-- The 80 bits of a Calud instruction. -/
def encodeCalud (i : Instr) : Option (BitVec 80) := (caludOf i).map (fun p => encodeWord p.1 p.2)

/-- A patch word from T, K, F and V (R364). -/
def patchWord (t k f v : Nat) : BitVec 32 := BitVec.ofNat 32 (v + 2 ^ 16 * f + 2 ^ 24 * k + 2 ^ 26 * t)

/-- The bits of a patch word. -/
def encodePatch (i : Instr) : Option (BitVec 32) :=
  match i with
  | .issueAsHeld t => some (patchWord t.toNat 0 0 0)
  | .amendThenIssue t f v => some (patchWord t.toNat 1 f.toNat v.toNat)
  | .amendAndHold t f v => some (patchWord t.toNat 2 f.toNat v.toNat)
  | .tplLd f v => some (patchWord 0 3 f.toNat v.toNat)
  | .endS => some (patchWord 1 3 0 0)
  | .qdrain => some (patchWord 2 3 0 0)
  | .streamTrap n => some (patchWord 3 3 0 n.toNat)
  | _ => none

/-- An S0 slot from SOP, D, A and IMM (R378). -/
def s0Word (op d a imm : Nat) : BitVec 32 := BitVec.ofNat 32 (imm + 2 ^ 16 * a + 2 ^ 21 * d + 2 ^ 26 * op)

/-- The bits of an S0 slot. -/
def encodeS0 (i : Instr) : Option (BitVec 32) :=
  let reg (op : Nat) (d a b : BitVec 5) := some (s0Word op d.toNat a.toNat (2 ^ 11 * b.toNat))
  match i with
  | .snop => some (s0Word 0 0 0 0)
  | .sadd d a b => reg 0x01 d a b
  | .ssub d a b => reg 0x02 d a b
  | .smul d a b => reg 0x03 d a b
  | .sand d a b => reg 0x04 d a b
  | .sor d a b => reg 0x05 d a b
  | .sxor d a b => reg 0x06 d a b
  | .sshl d a b => reg 0x07 d a b
  | .sshr d a b => reg 0x08 d a b
  | .ssra d a b => reg 0x09 d a b
  | .slt d a b => reg 0x0A d a b
  | .sltu d a b => reg 0x0B d a b
  | .saddi d a imm => some (s0Word 0x10 d.toNat a.toNat imm.toNat)
  | .slui d a imm => some (s0Word 0x11 d.toNat a.toNat imm.toNat)
  | .beqz a off => some (s0Word 0x18 0 a.toNat off.toNat)
  | .bnez a off => some (s0Word 0x19 0 a.toNat off.toNat)
  | .bru off => some (s0Word 0x1A 0 0 off.toNat)
  | .lstart a stages => some (s0Word 0x1B 0 a.toNat stages.toNat)
  | .loopS off => some (s0Word 0x1C 0 0 off.toNat)
  | .srd d n => some (s0Word 0x20 d.toNat 0 n.toNat)
  | .setshp a => some (s0Word 0x21 0 a.toNat 0)
  | .setlb a => some (s0Word 0x22 0 a.toNat 0)
  | _ => none

/-- The bits of a V slot (R381). -/
def encodeV (i : Instr) : Option (BitVec 48) :=
  (vopOf i).map (fun p => BitVec.ofNat 48 (p.2.parm.toNat + 2 ^ 6 * p.2.c.toNat + 2 ^ 13 * p.2.b.toNat + 2 ^ 20 * p.2.a.toNat
    + 2 ^ 27 * p.2.d.toNat + 2 ^ 34 * p.2.sat.toNat + 2 ^ 35 * p.2.ftz.toNat + 2 ^ 36 * p.2.rm.toNat + 2 ^ 39 * p.2.ty.toNat
    + 2 ^ 42 * p.1))

/-- An LD slot from LOP and its fields (R388). -/
def ldWord (op : Nat) (f : LdForm) : BitVec 40 :=
  BitVec.ofNat 40 (f.pitch.toNat + 2 ^ 6 * f.post.toNat + 2 ^ 7 * f.take.toNat + 2 ^ 8 * f.off.toNat + 2 ^ 24 * f.a.toNat
    + 2 ^ 29 * f.d.toNat + 2 ^ 36 * op)

/-- An ST slot from SOP and its fields (R388). -/
def stWord (op : Nat) (f : StForm) : BitVec 40 :=
  BitVec.ofNat 40 (f.pitch.toNat + 2 ^ 6 * f.post.toNat + 2 ^ 7 * f.fill.toNat + 2 ^ 8 * f.off.toNat + 2 ^ 24 * f.a.toNat
    + 2 ^ 29 * f.s.toNat + 2 ^ 36 * op)

/-- The bits of an LD or ST slot. -/
def encodeLdSt (i : Instr) : Option (BitVec 40) :=
  match i with
  | .ldw f => some (ldWord 0 f)
  | .ldwr f => some (ldWord 1 f)
  | .ldx f => some (ldWord 2 f)
  | .stw f => some (stWord 0 f)
  | .stwr f => some (stWord 1 f)
  | .stx f => some (stWord 2 f)
  | _ => none

/-- A semaphore field with its valid bit. -/
def semBits (s : Option (BitVec 5)) : Nat := match s with
  | some x => 32 + x.toNat
  | none => 0

/-- A Q slot from QOP, A, the semaphore fields and N (R390). -/
def qWord (op a n : Nat) (sem : SemForm) : BitVec 32 :=
  BitVec.ofNat 32 (n + 2 ^ 9 * semBits sem.sig + 2 ^ 15 * semBits sem.wait + 2 ^ 21 * a + 2 ^ 26 * op)

/-- The bits of a Q slot. -/
def encodeQ (i : Instr) : Option (BitVec 32) :=
  let one (sm : BitVec 5) : SemForm := { wait := none, sig := some sm }
  match i with
  | .qnop sem => some (qWord 0x00 0 0 sem)
  | .semInit a sm c => some (qWord 0x01 a.toNat c.toNat (one sm))
  | .semAdd sm k => some (qWord 0x02 0 k.toNat (one sm))
  | .semSub sm k => some (qWord 0x03 0 k.toNat (one sm))
  | .semRd a sm => some (qWord 0x04 a.toNat 0 (one sm))
  | .cqpush a sem q => some (qWord 0x05 a.toNat q.toNat sem)
  | .cqpop a sem q => some (qWord 0x06 a.toNat q.toNat sem)
  | .cpld a sem setf => some (qWord 0x08 a.toNat setf.toNat sem)
  | .cpst a sem waitf clrf => some (qWord 0x09 a.toNat (waitf.toNat + 2 * clrf.toNat) sem)
  | .mmc a sem => some (qWord 0x0A a.toNat 0 sem)
  | _ => none

/-! ### The opcode table's flat index of words -/

/-- The word reads as TPL.LD, END, QDRAIN or TRAP (R364, R369). -/
def streamControl (w : BitVec 32) : Bool := (field w 24 2 : BitVec 2) = 3 && (match decodePatch w with
  | .ok _ => true
  | .error _ => false)

/-- The instruction that a 32-bit word stands for when it is known only that it is some word of a line-core program.
Patch words, S0 slots and Q slots share their bits; a line core reads each in its own place (decodePatch, decodeS0,
decodeQ). Log entry 9: stream control first, then an S0 slot, then a Q slot, then any other patch word. -/
def decodeFlat (w : BitVec 32) : Option Instr :=
  let pick (x : Except Reject Instr) : Option Instr := match x with
    | .ok i => some i
    | .error _ => none
  (if streamControl w then pick (decodePatch w) else none).or
    ((pick (decodeS0 w)).or ((pick (decodeQ w)).or (pick (decodePatch w))))

end Sys2Proof.Machine

namespace Sys2Proof

/-- The instruction that the decoder reads from the bits of an opcode-table row: an 80-bit Calud word, or a 32-bit
word of a line-core program, laid out in little-endian bytes (R50, R362) and read back. -/
def decodeTableWord (nbits w : Nat) : Option Instr :=
  if nbits > 32 then
    match Machine.decodeBytes (Machine.leBytes 10 w) with
    | .ok p => some p.1
    | .error _ => none
  else Machine.decodeFlat (BitVec.ofNat 32 (Machine.leNat (Machine.leBytes 4 w)))

end Sys2Proof
end

