-- ==== Sys2Proof/Machine/Raster.lean ====
section
/-! DEFINITION. The raster of a presentation stream (R405, R408), the frame index and status words (R409, R410), the
present buffers (R413, R416) and the missed slices (R415, R418). -/

namespace Sys2Proof.Machine

/-! ### The stream descriptor (R405) -/

/-- Bits [hi:lo] of a stream's descriptor. -/
def PStream.fld (p : PStream) (hi lo : Nat) : Nat := bits p.desc.toNat hi lo
/-- W. -/
def PStream.width (p : PStream) : Nat := p.fld 317 305 + 1
/-- H. -/
def PStream.height (p : PStream) : Nat := p.fld 330 318 + 1
/-- Slices of a frame (R408). -/
def PStream.slices (p : PStream) : Nat := (p.height + 31) / 32
/-- Rows of slice k (R408). -/
def PStream.rows (p : PStream) (k : Nat) : Nat := min 32 (p.height - 32 * k)
/-- LINEPC. -/
def PStream.linepc (p : PStream) : Nat := p.fld 611 580
/-- The frame period in p-cycles. -/
def PStream.period (p : PStream) : Nat := p.fld 343 331 * p.linepc
/-- NFB. -/
def PStream.nfb (p : PStream) : Nat := p.fld 292 291 + 1
/-- NENC. -/
def PStream.nenc (p : PStream) : Nat := p.fld 295 293
/-- DPEN. -/
def PStream.dpen (p : PStream) : Bool := p.desc.getLsbD 290
/-- LCMASK. -/
def PStream.lcmask (p : PStream) : BitVec 32 := p.desc.extractLsb' 548 32
/-- The handoff pool's first physical address (R14). -/
def poolBase : Nat := 0x10000000000
/-- The handoff pool's bytes. -/
def poolBytes : Nat := 0x4000000

/-- TF of a frame, from the TF of the frame in scan-out (R408). -/
def PStream.tfOf (p : PStream) (f : Nat) : Nat := p.tf + (f - p.frame.getD 0) * p.period - (p.frame.getD 0 - f) * p.period
/-- The deadline of a slice in p-cycles (R408). -/
def PStream.deadline (p : PStream) (f k : Nat) : Nat := p.tfOf f + 32 * k * p.linepc
/-- The latch of a slice in p-cycles, 0 when it lies before device time 0 (R408). -/
def PStream.latchAt (p : PStream) (f k : Nat) : Nat := p.deadline f k - p.fld 304 296 * p.linepc
/-- The device time of a p-cycle, in ns. -/
def pToNs (p : Nat) : Nat := p * 5 / 6

/-- The first byte of present buffer `f mod 3` (R413, R416). -/
def PStream.present (p : PStream) (f : Nat) : Nat := p.fld 863 812 + f % 3 * (p.width * p.height * 4)
/-- The first byte of slice k's rows in the present buffer of frame f. -/
def PStream.sliceRows (p : PStream) (f k : Nat) : Nat := p.present f + 32 * k * p.width * 4
/-- Bytes of a slice's rows. -/
def PStream.sliceBytes (p : PStream) (k : Nat) : Nat := p.width * 4 * p.rows k
/-- The physical address of backwater buffer `k mod 2`. -/
def PStream.backwater (p : PStream) (k : Nat) : Nat := poolBase + p.fld 495 470 + k % 2 * (p.width * 128)

/-! ### Frames (R409, R410, R416) -/

/-- The registers of an open stream that it keeps after its close (R423). -/
def PStream.regs (p : PStream) : StreamRegs :=
  { sbwcnt := p.sbwcnt, sevcnt := p.sevcnt, slastbw := p.slastbw, sbsput := p.sbsput, sbsget := p.sbsget, sbsdrop := p.sbsdrop,
    sbadidx := p.sbadidx }
/-- A stream with these registers. -/
def PStream.withRegs (p : PStream) (r : StreamRegs) : PStream :=
  { p with sbwcnt := r.sbwcnt, sevcnt := r.sevcnt, slastbw := r.slastbw, sbsput := r.sbsput, sbsget := r.sbsget, sbsdrop := r.sbsdrop,
           sbadidx := r.sbadidx }

/-- Changes an open presentation stream. -/
def State.updPs (s : State) (k : Nat) (f : PStream → PStream) : State := { s with streams := upd s.streams k f }
/-- Changes a frame of a stream. -/
def PStream.updFrame (p : PStream) (num : Nat) (f : Frame → Frame) : PStream :=
  { p with frames := p.frames.map (fun x => if x.num = num then f x else x) }
/-- A frame of a stream. -/
def PStream.frameAt (p : PStream) (num : Nat) : Option Frame := p.frames.find? (fun x => x.num = num)
/-- Every slice of the frame has completed or been stopped (R410). -/
def PStream.ended (p : PStream) (x : Frame) : Bool := (List.range p.slices).all (fun k => (look x.ends k).isSome)
/-- FSTAT (R410): the buffers that some frame still latches. -/
def PStream.fstat (p : PStream) : Nat :=
  sumNat ((List.range 4).map (fun b => b2n (p.frames.any (fun x => x.index.toNat % 4 = b && !p.ended x)) * 2 ^ b))
/-- Writes FSTAT of a stream. -/
def State.putFstat (s : State) (stream : Nat) : State :=
  match look s.streams stream with
  | none => s
  | some p => s.poke (poolBase + p.fld 287 262) (toBytes 4 p.fstat)

/-- A frame's present buffer is complete: every deadline has passed and every backwater copy is done (R416). -/
def PStream.complete (p : PStream) (x : Frame) : Bool :=
  (List.range p.slices).all (fun k => x.passed.contains k && (match look x.ends k with
    | some .complete | some .copied => true
    | _ => false))
/-- Every tile row of a frame is encoded, or none is to be (R420). -/
def PStream.allEncoded (p : PStream) (x : Frame) : Bool :=
  p.nenc = 0 || (List.range ((p.slices + 1) / 2)).all (fun r => p.encoded.contains (x.num, r))
/-- A complete frame becomes the last complete present buffer, and a frame that is complete and encoded is forgotten. -/
def PStream.settle (p : PStream) : PStream :=
  let done := p.frames.filter p.complete
  let gone := done.filter (fun x => p.allEncoded x && x.owed = [])
  { p with
    last := done.foldl (fun l x => match l with
      | some e => if e.1 < x.num then some (x.num, x.pose) else some e
      | none => some (x.num, x.pose)) p.last
    frames := p.frames.filter (fun x => !gone.contains x)
    encoded := p.encoded.filter (fun e => !gone.any (fun x => x.num = e.1)) }
/-- A slice has ended (R410, R415): FSTAT follows. -/
def State.endSlice (s : State) (stream frame slice : Nat) (e : SliceEnd) : State :=
  (s.updPs stream (fun p => (p.updFrame frame (fun x =>
    { x with ends := set x.ends slice e
             bw := if e = .missed then x.bw else del x.bw slice })).settle)).putFstat stream
/-- A slice is missed (R415, R418): SBWCNT and SLASTBW. -/
def State.missSlice (s : State) (stream frame slice : Nat) : State :=
  (s.updPs stream (fun p => { p with
    sbwcnt := satAdd p.sbwcnt 1, slastbw := BitVec.ofNat 32 (frame % 2 ^ 24 * 2 ^ 8 + slice % 2 ^ 8) })).endSlice stream frame slice .missed

end Sys2Proof.Machine
end

