-- ==== Sys2Proof/Machine/LineCore.lean ====
section
/-! DEFINITION. A line core's registers, tiles and semaphores, the order of the accesses of its line store (R400), its halt (R372),
and a bundle of slots: the checks of R371 in their order, the waits, and the issue in which every slot reads before any slot writes
(R370). -/

namespace Sys2Proof.Machine

/-! ### Registers, tiles and semaphores (R361 to R377, R387, R391) -/

/-- A stream of a line core. -/
def LineCore.stream (c : LineCore) (vec : Bool) : LStream := if vec then c.vs else c.cs
/-- Sets a stream. -/
def LineCore.setStream (c : LineCore) (vec : Bool) (x : LStream) : LineCore := if vec then { c with vs := x } else { c with cs := x }
/-- Changes a line core. -/
def State.updLc (s : State) (n : Nat) (f : LineCore → LineCore) : State := s.setLc n (f (s.lc n))
/-- Changes a stream. -/
def State.updStream (s : State) (n : Nat) (vec : Bool) (f : LStream → LStream) : State :=
  s.updLc n (fun c => c.setStream vec (f (c.stream vec)))

/-- x[r]; x0 reads 0 (R373). -/
def LStream.xr (st : LStream) (r : Nat) : Word := if r = 0 then 0 else get 0 st.x r
/-- Writes x[r]; a write of x0 is discarded (R373). -/
def LStream.setX (st : LStream) (r : Nat) (v : Word) : LStream := if r = 0 then st else { st with x := setD 0 st.x r v }

/-- The physical register of a w code (R375). -/
def physW (lb : BitVec 5) (code : Nat) : Nat := if code < 32 then code else 32 + (code - 32 + lb.toNat) % 32
/-- A physical w register. -/
def LineCore.wr (c : LineCore) (r : Nat) : BitVec 4096 := get 0 c.w r
/-- Writes a physical w register. -/
def LineCore.setW (c : LineCore) (r : Nat) (v : BitVec 4096) : LineCore := { c with w := setD 0 c.w r v }
/-- NR of the shape (R374). -/
def LineCore.nr (c : LineCore) : Nat := bits c.shp.toNat 5 0 + 1
/-- NC of the shape (R374). -/
def LineCore.nc (c : LineCore) : Nat := bits c.shp.toNat 24 16 + 1
/-- ES of the shape, as bytes (R374). -/
def LineCore.es (c : LineCore) : Nat := 2 ^ bits c.shp.toNat 29 28

/-- The line store's size in bytes (R387). -/
def storeBytes : Nat := 262144
/-- The tiles that byte runs touch, even partly (R387, R389). -/
def tilesOf (rows : List (Nat × Nat)) : List Nat :=
  sortNats (rows.flatMap (fun r => if r.2 = 0 then [] else (List.range ((r.1 + r.2 - 1) / 256 + 1 - r.1 / 256)).map (r.1 / 256 + ·)))
/-- Every tile is full. -/
def LineCore.allFull (c : LineCore) (ts : List Nat) : Bool := ts.all (fun t => c.full.contains t)

/-! ### The order of accesses of the line store (R400) -/

/-- Word i of a command block. -/
def blkWord (l : List Word) (i : Nat) : Nat := (l[i]?.map BitVec.toNat).getD 0
/-- The line-store address of a copy block. -/
def copyAddr (l : List Word) : Nat := blkWord l 2
/-- The byte count of a copy block. -/
def copyCount (l : List Word) : Nat := blkWord l 3

/-- The aligned word of the line store at an address. -/
def LineCore.lword (c : LineCore) (a : Nat) : Word := BitVec.ofNat 32 (leVal (Mem.readN c.ls a 4))
/-- Every party that reads the line store is ordered after the write. -/
def LRace.settled (r : LRace) : Bool := [0, 1, 3, 4].all (fun p => r.after.contains p)
/-- Drops the writes that every reader is ordered after, and what they hide: their words in older writes. -/
def pruneRaces (l : List LRace) : List LRace :=
  l.foldr (fun r older =>
    if r.settled then
      (older.map (fun o => { o with old := o.old.filter (fun e => !r.old.any (fun x => x.1 = e.1)) })).filter (fun o => !o.old.isEmpty)
    else r :: older) []
/-- A party becomes ordered after the writes of which `p` holds. -/
def LineCore.orderedAfter (c : LineCore) (party : Nat) (p : LRace → Bool) : LineCore :=
  if c.races.any p then { c with races := pruneRaces (c.races.map (fun r => if p r then { r with after := insertNat party r.after } else r)) } else c
/-- A party writes words at aligned addresses: the write itself is made after this. -/
def LineCore.writes (c : LineCore) (party : Nat) (as : List Nat) : LineCore :=
  { c with races := { party := party, old := as.map (fun a => (a, c.lword a)), after := [party], sems := [], tiles := [], cqs := [] } :: c.races }
/-- A party signals a semaphore: its earlier accesses come before the signal. -/
def LineCore.signalled (c : LineCore) (party sm : Nat) : LineCore :=
  { c with races := c.races.map (fun r => if r.party = party then { r with sems := insertNat sm r.sems } else r) }
/-- A party consumes from a semaphore: its later accesses come after the writes that were signalled. -/
def LineCore.consumed (c : LineCore) (party sm : Nat) : LineCore := c.orderedAfter party (fun r => r.sems.contains sm)
/-- A party sees full tiles at an LD wait or a WAITF. -/
def LineCore.sawFull (c : LineCore) (party : Nat) (ts : List Nat) : LineCore := c.orderedAfter party (fun r => r.tiles.any (fun t => ts.contains t))
/-- A stream pushes a value onto a queue register. -/
def LineCore.pushedCq (c : LineCore) (party q : Nat) : LineCore :=
  { c with races := c.races.map (fun r => if r.party = party && (look r.cqs q).isNone then
      { r with cqs := set r.cqs q ((get [] c.cqs q).length + 1) } else r) }
/-- A stream pops a value from a queue register. -/
def LineCore.poppedCq (c : LineCore) (party q : Nat) : LineCore :=
  let d : LineCore := { c with races := c.races.map (fun r => { r with cqs := upd r.cqs q (· - 1) }) }
  d.orderedAfter party (fun r => look r.cqs q = some 0)

/-- The word of a load command that is copying, which a reader may find before the command completes. -/
def LineCore.copying (c : LineCore) (a : Nat) : List Word :=
  match c.ldq with
  | k :: _ =>
    if k.started && decide (copyAddr k.blk ≤ a ∧ a < copyAddr k.blk + copyCount k.blk) then
      [BitVec.ofNat 32 (leVal ((k.data.drop (a - copyAddr k.blk)).take 4))] else []
  | [] => []
/-- The values of a word before the writes that a party is not ordered after, newest first. -/
def LRace.olds (party a : Nat) : List LRace → List Word
  | [] => []
  | r :: l =>
    match r.old.find? (fun e => e.1 = a) with
    | none => LRace.olds party a l
    | some e => if r.after.contains party then [] else e.2 :: LRace.olds party a l
/-- The values that a party's read of an aligned word may return (R400): the one that stands, one that an unordered write has changed, or
one that an unordered copy is about to write. -/
def LineCore.mayRead (c : LineCore) (party a : Nat) : List Word := c.lword a :: (c.copying a ++ LRace.olds party a c.races)
/-- An unordered write meets a byte run. -/
def LineCore.raced (c : LineCore) (party : Nat) (run : Nat × Nat) : Bool :=
  c.races.any (fun r => !r.after.contains party && r.old.any (fun e => decide (run.1 < e.1 + 4 ∧ e.1 < run.1 + run.2))) ||
  (c.ldq.head?.any (fun k => k.started && decide (run.1 < copyAddr k.blk + copyCount k.blk ∧ copyAddr k.blk < run.1 + run.2)))
/-- A party reads a byte run: as it stands where no unordered write meets it, and else word by word a free choice among the
values that the read may return (R400, log entry 99). -/
def LineCore.readRun (c : LineCore) (free party : Nat) (run : Nat × Nat) : List Byte :=
  if c.raced party run then
    (List.range (run.2 / 4)).flatMap (fun i =>
      let l := c.mayRead party (run.1 + 4 * i)
      toBytes 4 ((l[Config.freeNat (free + i) % l.length]?).getD 0).toNat)
  else Mem.readN c.ls run.1 run.2
/-- A party reads byte runs in order. -/
def LineCore.readRuns (c : LineCore) (free party : Nat) : List (Nat × Nat) → List Byte
  | [] => []
  | r :: l => c.readRun free party r ++ c.readRuns (free + r.2 / 4) party l
/-- The free values that such a read draws: one for each word where an unordered write meets it. -/
def LineCore.draws (c : LineCore) (party : Nat) (rows : List (Nat × Nat)) : Nat :=
  if rows.any (c.raced party) then (rows.map (fun r => r.2 / 4)).sum else 0
/-- The aligned addresses of a byte run's words. -/
def lineWords (run : Nat × Nat) : List Nat := (List.range (run.2 / 4)).map (fun i => run.1 + 4 * i)

/-- A party sets full bits, after its writes. -/
def LineCore.fill (c : LineCore) (party : Nat) (ts : List Nat) : LineCore :=
  { c with full := ts.foldl (fun l t => insertNat t l) c.full
           races := c.races.map (fun r => if r.party = party then { r with tiles := ts.foldl (fun l t => insertNat t l) r.tiles } else r) }
/-- Clears full bits. -/
def LineCore.clear (c : LineCore) (ts : List Nat) : LineCore :=
  { c with full := c.full.filter (fun t => !ts.contains t)
           races := c.races.map (fun r => { r with tiles := r.tiles.filter (fun t => !ts.contains t) }) }
/-- A party writes line-store bytes. -/
def LineCore.store (c : LineCore) (party a : Nat) (bs : List Byte) : LineCore :=
  { c.writes party (lineWords (a, bs.length)) with ls := Mem.write c.ls a bs }

/-! ### Semaphores and queues of a line core -/


/-- The party that waits first on a semaphore (R395). -/
def LineCore.firstOn (c : LineCore) (sm : Nat) : Option Nat := (c.waiters.find? (fun w => w.2 = sm)).map (·.1)
/-- A party may consume `k` units now: no other began to wait before it, and the count holds them (R395). -/
def LineCore.canTake (c : LineCore) (party sm k : Nat) : Bool :=
  (c.firstOn sm == none || c.firstOn sm == some party) && (match look c.sems sm with
    | some x => decide (k ≤ x.count)
    | none => false)
/-- A party begins to wait on a semaphore. -/
def LineCore.awaits (c : LineCore) (party sm : Nat) : LineCore :=
  if c.waiters.contains (party, sm) then c else { c with waiters := c.waiters ++ [(party, sm)] }
/-- A party consumes units, and waits no more. -/
def LineCore.take (c : LineCore) (party sm k : Nat) : LineCore :=
  { c with sems := upd c.sems sm (fun x => { x with count := x.count - k }), waiters := c.waiters.filter (· ≠ (party, sm)) }

/-- The queue that a party serves: 2 load, 3 store, else matrix. -/
def LineCore.queueOf (c : LineCore) (party : Nat) : List LCmd := if party = 2 then c.ldq else if party = 3 then c.stq else c.mq
/-- Sets that queue. -/
def LineCore.setQueueOf (c : LineCore) (party : Nat) (l : List LCmd) : LineCore :=
  if party = 2 then { c with ldq := l } else if party = 3 then { c with stq := l } else { c with mq := l }
/-- No queue holds a command. -/
def LineCore.queuesEmpty (c : LineCore) : Bool := c.ldq.isEmpty && c.stq.isEmpty && c.mq.isEmpty

/-- The line core runs a program (R372, R415). One that a halt or a stop has taken out of a slice program runs it until its queues are
empty (R415), and one that is halted in a section program runs none. -/
def LineCore.runs (c : LineCore) : Bool :=
  match c.run with
  | .none => false
  | .slice .. => if c.halt || c.stopped then !c.queuesEmpty else true
  | .section_ => !c.halt && !(c.cs.ended && c.vs.ended && c.queuesEmpty)

/-! ### Halts (R372, R415) -/

/-- A stream that issues no further word; its blocked slots are abandoned. -/
def LStream.still (st : LStream) : LStream := { st with on := false, waiting := false, blocked := none }

/-- Both streams issue no further word, and each queue keeps the command that it has started; its other entries stay
counted in a .section program that halts, and else are discarded. -/
def LineCore.quiet (c : LineCore) (keep : Bool) : LineCore :=
  let cut (l : List LCmd) : List LCmd := if keep then l else l.filter (·.started)
  { c with cs := c.cs.still, vs := c.vs.still, waiters := [], ldq := cut c.ldq, stq := cut c.stq, mq := cut c.mq }

/-- The raster sequencer is told of a halt (R415): the slice is missed at once, the slice-halt count of SEVCNT goes up, and
the host receives a slice-halt event. -/
def tellHalt (s : State) (n : Nat) : State :=
  match (s.lc n).run with
  | .slice st f k _ =>
    let s := s.missSlice st f k
    let s := s.updPs st (fun p => { p with sevcnt := BitVec.ofNat 32 (p.sevcnt.toNat / 65536 * 65536 + min (p.sevcnt.toNat % 65536 + 1) 65535) })
    match look s.streams st with
    | some p => postEvent s p.part 8 (eventBody [(0, st), (4, f % 2 ^ 32), (8, k), (12, (s.lc n).err0.toNat)])
    | none => s
  | _ => s

/-- LCERR0 (R372). -/
def lcErr0 (cause src slot arg : Nat) : Word := BitVec.ofNat 32 (cause * 2 ^ 24 + src * 2 ^ 21 + slot * 2 ^ 18 + arg % 2 ^ 16)

/-- A cause halts the line core (R372). One that is halted or stopped already keeps its error registers. -/
def haltLc (s : State) (n cause src slot arg pc err2 : Nat) : State :=
  let c := s.lc n
  if c.halt || c.stopped then s
  else
    let c := c.quiet (c.run == .section_)
    tellHalt (s.setLc n { c with
      halt := true
      err0 := lcErr0 cause src slot arg
      err1 := BitVec.ofNat 32 (pc % 2 ^ 15)
      err2 := BitVec.ofNat 32 (if cause = 0x40 then err2 else 0)
      htime := BitVec.ofNat 64 s.now }) n

/-- LCERR2 of a semaphore as it stands (R372). -/
def LineCore.err2Of (c : LineCore) (sm : Nat) : Nat :=
  match look c.sems sm with
  | some x => x.ceiling * 65536 + x.count
  | none => 0

/-- Adds one unit to a semaphore; one that would pass the ceiling halts the line core and is not applied (R393). -/
def signal (s : State) (n sm src pc : Nat) : State :=
  match look (s.lc n).sems sm with
  | none => s
  | some x =>
    if x.ceiling < x.count + 1 then haltLc s n 0x40 src 6 sm pc ((s.lc n).err2Of sm)
    else s.updLc n (fun c => { c.signalled src sm with sems := set c.sems sm { x with count := x.count + 1 } })

/-- Sets the waiting flag of a stream (R372, CSTATE and VSTATE). -/
def State.setWaiting (s : State) (n : Nat) (vec b : Bool) : State := s.updStream n vec (fun st => { st with waiting := b })

/-! ### Slots and bundles (R366, R370, R371) -/

/-- What the slots of a bundle see: the state before any of them writes. -/
structure BCtx where
  /-- The line core's number. -/
  n : Nat
  /-- The vector stream. -/
  vec : Bool
  /-- The line core. -/
  c : LineCore
  /-- The issuing stream. -/
  st : LStream
  /-- Device time. -/
  now : Nat

/-- x[r] before the bundle. -/
def BCtx.x (b : BCtx) (r : BitVec 5) : Word := b.st.xr r.toNat

/-- A register that a slot writes. -/
inductive LReg where
  /-- x register. -/
  | x (r : Nat)
  /-- w register, by code. -/
  | w (r : Nat)
  deriving DecidableEq, Repr

/-- Whether a Q slot can issue. -/
inductive Ready where
  /-- It can. -/
  | go
  /-- The whole word waits. -/
  | wait
  /-- The whole word waits on a semaphore. -/
  | sem (sm : Nat)
  /-- A cause found while waiting: cause and argument. -/
  | cause (c arg : Nat)
  deriving DecidableEq, Repr

/-- One op of a slot. -/
structure Slot where
  /-- LCERR0.SLOT: 1 S0, 2 V0, 3 V1, 4 LD, 5 ST, 6 Q. -/
  num : Nat
  /-- The registers it writes. -/
  dst : List LReg
  /-- It fails step 3 of R371. -/
  bad : BCtx → Bool
  /-- Step 4: cause and argument. -/
  sems : BCtx → Option (Nat × Nat)
  /-- Step 5: cause, argument and LCERR2. -/
  data : BCtx → Option (Nat × Nat × Nat)
  /-- Whether it can issue. -/
  ready : BCtx → Ready
  /-- What comes before every slot's access of the word (R400): the unit of a Q slot's wait, and the values it moves. -/
  before : BCtx → State → State := fun _ s => s
  /-- Its effect on the accumulating state; the flag says that its guard lets it act. -/
  act : BCtx → Bool → State → State

/-- A slot with no check of its own. -/
def Slot.plain (num : Nat) (dst : List LReg) (act : BCtx → State → State) : Slot :=
  { num := num, dst := dst, bad := fun _ => false, sems := fun _ => none, data := fun _ => none, ready := fun _ => .go,
    act := fun b on s => if on then act b s else s }

/-- The guard that governs a slot: A for V0 and V1, B for LD, ST and Q, none for S0 (R366). -/
def Slot.guarded (k : Slot) (ga gb : Bool) : Bool := if k.num = 2 ∨ k.num = 3 then ga else if 4 ≤ k.num then gb else true

/-- Two slots write one register; a write of x0 is discarded and writes none (R370, R373). -/
def clash : List Slot → Bool
  | [] => false
  | k :: r => k.dst.any (fun d => d ≠ .x 0 && r.any (fun k' => k'.dst.contains d)) || clash r

/-- The causes of steps 3 to 5 of R371 in order: cause, slot, argument, LCERR2. -/
def bundleCause (b : BCtx) (ga gb : Bool) (ks : List Slot) : Option (Nat × Nat × Nat × Nat) :=
  match ks.find? (fun k => k.bad b) with
  | some k => some (0x01, k.num, 0, 0)
  | none =>
    if clash ks then some (0x01, 0, 0, 0)
    else
      let on := ks.filter (fun k => k.guarded ga gb)
      match on.findSome? (fun k => (k.sems b).map (fun e => (e.1, k.num, e.2, 0))) with
      | some e => some e
      | none => on.findSome? (fun k => (k.data b).map (fun e => (e.1, k.num, e.2.1, e.2.2)))

/-- The context of a bundle. -/
def bctx (s : State) (n : Nat) (vec : Bool) : BCtx := { n := n, vec := vec, c := s.lc n, st := (s.lc n).stream vec, now := s.now }

/-- The party of a stream (R395). -/
def partyOf (vec : Bool) : Nat := b2n vec

/-- A bundle at issue: the checks of R371, once and before any wait, the wait of its Q slot, then the slots' effects, with the PC moved on to the
next word before a branch moves it elsewhere (R370). `amend` is the state with the amended template, if the word amends
one: a failing check or a wait leaves the template as it was (R371). -/
def bundle (s amend : State) (n : Nat) (vec ga gb : Bool) (ks : List Slot) : State :=
  let b := bctx s n vec
  match (if b.st.waiting then none else bundleCause b ga gb ks) with
  | some (cause, slot, arg, err2) => haltLc s n cause (partyOf vec) slot arg b.st.pc err2
  | none =>
    match (((ks.filter (fun k => k.guarded ga gb)).map (fun k => k.ready b)).find? (· ≠ .go)).getD .go with
    | .wait => s.setWaiting n vec true
    | .sem sm => (s.updLc n (fun c => c.awaits (partyOf vec) sm)).setWaiting n vec true
    | .cause cause arg => haltLc s n cause (partyOf vec) 6 arg b.st.pc 0
    | .go =>
      let s := amend.updStream n vec (fun st => { st with waiting := false, pc := (st.pc + 1) % 2 ^ 15 })
      ks.foldl (fun s k => k.act b (k.guarded ga gb) s) ((ks.filter (fun k => k.guarded ga gb)).foldl (fun s k => k.before b s) s)

/-- The stream whose word issues now, when it can issue: it runs, and no LD slot of its last word is blocked (R389). -/
def lineIssuer (s : State) : Option (Nat × Bool × Bool) :=
  s.curLc.map (fun p =>
    let st := (s.lc p.1).stream p.2
    (p.1, p.2, st.on && st.blocked.isNone && !(s.lc p.1).halt && !(s.lc p.1).stopped))

/-- A slot alone, as a bundle of one slot without guards in the stream whose word issues. -/
def oneSlot (k : Slot) (s : State) : Host.Outcome State Fault Refusal :=
  match lineIssuer s with
  | none => .fault .noIssuer
  | some (n, vec, can) => if can then .next (bundle s s n vec true true [k]) else .next s

end Sys2Proof.Machine
end

