-- ==== Sys2Proof/Machine/LineVec.lean ====
section
/-! DEFINITION. The V0 and V1 slots of a template: elements and shapes (R374), operands (R375, R377, R382), the element
operations (R383, R385, R386) and the operations that move elements within the shape (R384). -/

namespace Sys2Proof.Machine

/-! ### Types and elements (R374, R381) -/

/-- Bytes of an element of a V type. -/
def vSize (ty : Nat) : Nat := if ty = 0 ∨ ty = 3 then 4 else if ty = 5 then 1 else 2
/-- The float format of a V type. -/
def vFmt (ty : Nat) : Fmt32 := if ty = 1 then bf16 else if ty = 2 then f16 else f32
/-- The integer value of an element (R383): signed but for .n8. -/
def vInt (ty x : Nat) : Int := if ty = 5 then ((x % 2 ^ 8 : Nat) : Int) else sgn (8 * vSize ty) x
/-- An integer result as an element: clamped under SAT, else wrapped (R383). -/
def vOut (ty : Nat) (sat : Bool) (x : Int) : Nat :=
  if !sat then wrapI (8 * vSize ty) x else if ty = 5 then satU 8 x else satS (8 * vSize ty) x
/-- Element `i` of `s` bytes of a register. -/
def elem (r : BitVec 4096) (s i : Nat) : Nat := r.toNat / 2 ^ (8 * s * i) % 2 ^ (8 * s)
/-- A register of `n` elements of `s` bytes, the bytes beyond them zero (R374). -/
def packElems (s n : Nat) (f : Nat → Nat) : BitVec 4096 :=
  BitVec.ofNat 4096 ((List.range n).foldr (fun i acc => f i % 2 ^ (8 * s) + 2 ^ (8 * s) * acc) 0)

/-- Entry k of a transient operand ring, the most recent first (R377). -/
def ringEntry (o : List (BitVec 4096)) (k : Nat) : BitVec 4096 := o[k]?.getD 0
/-- A register or ring entry that a code names (R382). -/
def BCtx.reg (b : BCtx) (code : Nat) : BitVec 4096 :=
  if code < 64 then b.c.wr (physW b.c.lb code) else if code < 68 then ringEntry b.c.o0 (code - 64) else ringEntry b.c.o1 (code - 68)
/-- Element i of a source: a register's, or the low bytes of an x register (R382). -/
def BCtx.src (b : BCtx) (code s i : Nat) : Nat :=
  if 96 ≤ code then (b.st.xr (code - 96)).toNat % 2 ^ (8 * s) else elem (b.reg code) s i

/-! ### The element operations (R383, R385, R386) -/

/-- A float result of an exact value, rounded once (R383). -/
def vRound (f : VForm) (x : Ex) : Nat := encodeQuiet (vFmt f.ty.toNat) x f.rm.toNat f.ftz
/-- A float operand. -/
def vVal (f : VForm) (x : Nat) : Ex := decodeZ f.ftz (vFmt f.ty.toNat) x
/-- A two-operand arithmetic element: by the exact float value, or by the integer one. -/
def vArith (f : VForm) (fl : Ex → Ex → Ex) (it : Int → Int → Int) (a b : Nat) : Nat :=
  let ty := f.ty.toNat
  if vFloat ty then vRound f (fl (vVal f a) (vVal f b)) else vOut ty f.sat (it (vInt ty a) (vInt ty b))

/-- VMOV: a NaN comes out canonical (R383). -/
def elVmov (f : VForm) (a _ _ : Nat) : Nat := if vFloat f.ty.toNat then vRound f (vVal f a) else a
/-- VADD. -/
def elVadd (f : VForm) (a b _ : Nat) : Nat := vArith f (Ex.add f.rm.toNat) (· + ·) a b
/-- VSUB. -/
def elVsub (f : VForm) (a b _ : Nat) : Nat := vArith f (fun x y => Ex.add f.rm.toNat x y.opp) (· - ·) a b
/-- VMUL. -/
def elVmul (f : VForm) (a b _ : Nat) : Nat := vArith f Ex.mul (· * ·) a b
/-- VFMA: one rounding. -/
def elVfma (f : VForm) (a b c : Nat) : Nat :=
  let ty := f.ty.toNat
  if vFloat ty then vRound f (Ex.add f.rm.toNat (Ex.mul (vVal f a) (vVal f b)) (vVal f c))
  else vOut ty f.sat (vInt ty a * vInt ty b + vInt ty c)
/-- VMIN and VMAX: floats by the order of R96 (log entry 22). -/
def elMinMax (f : VForm) (isMax : Bool) (a b : Nat) : Nat :=
  let ty := f.ty.toNat
  if vFloat ty then minMaxF (vFmt ty) f.ftz isMax a b
  else vOut ty false (if isMax then max (vInt ty a) (vInt ty b) else min (vInt ty a) (vInt ty b))
/-- VMIN. -/
def elVmin (f : VForm) (a b _ : Nat) : Nat := elMinMax f false a b
/-- VMAX. -/
def elVmax (f : VForm) (a b _ : Nat) : Nat := elMinMax f true a b
/-- VLERP: a + c × (b − a), exact before its one rounding. -/
def elVlerp (f : VForm) (a b c : Nat) : Nat :=
  let rm := f.rm.toNat
  vRound f (Ex.add rm (vVal f a) (Ex.mul (vVal f c) (Ex.add rm (vVal f b) (vVal f a).opp)))
/-- VABS. -/
def elVabs (f : VForm) (a _ _ : Nat) : Nat :=
  let ty := f.ty.toNat
  if vFloat ty then vRound f (vVal f a).abs else vOut ty f.sat ((vInt ty a).natAbs : Int)
/-- Whether a relation of R385 holds. -/
def vRel (rel : Nat) (c : Int) : Bool :=
  if rel = 0 then c = 0 else if rel = 1 then c ≠ 0 else if rel = 2 then c < 0 else if rel = 3 then c ≤ 0
  else if rel = 4 then 0 < c else 0 ≤ c
/-- VCMP: all ones where the relation holds (R385). -/
def elVcmp (f : VForm) (a b _ : Nat) : Nat :=
  let ty := f.ty.toNat
  let rel := bits f.parm.toNat 2 0
  let hit := if vFloat ty then
      (if (vVal f a).isNan || (vVal f b).isNan then rel = 1 else vRel rel (Ex.cmp (vVal f a) (vVal f b)))
    else vRel rel (vInt ty a - vInt ty b)
  if hit then 2 ^ (8 * vSize ty) - 1 else 0
/-- VSEL (R385). -/
def elVsel (_ : VForm) (a b c : Nat) : Nat := if c = 0 then b else a
/-- VAND. -/
def elVand (_ : VForm) (a b _ : Nat) : Nat := a &&& b
/-- VOR. -/
def elVor (_ : VForm) (a b _ : Nat) : Nat := a ||| b
/-- VXOR. -/
def elVxor (_ : VForm) (a b _ : Nat) : Nat := a ^^^ b
/-- VSHL: b unsigned; 0 for a shift by the width or more (R383). -/
def elVshl (f : VForm) (a b _ : Nat) : Nat := let n := 8 * vSize f.ty.toNat; if n ≤ b then 0 else a * 2 ^ b % 2 ^ n
/-- VSHR: b unsigned; for a shift by the width or more 0, or the sign of .i32 and .i16 (R383). -/
def elVshr (f : VForm) (a b _ : Nat) : Nat :=
  let ty := f.ty.toNat
  let n := 8 * vSize ty
  wrapI n (vInt ty a / 2 ^ min b n)
/-- VCVT from TY to the type in PARM (R386). -/
def elVcvt (f : VForm) (a : Nat) : Nat :=
  let ty := f.ty.toNat
  let dt := f.parm.toNat
  let rm := f.rm.toNat
  if vFloat dt then
    encodeQuiet (vFmt dt) (if vFloat ty then vVal f a else Ex.ofInt (vInt ty a)) rm f.ftz
  else if vFloat ty then (floatToInt (vVal f a) rm (dt ≠ 5) (8 * vSize dt) 0).1
  else vOut dt f.sat (vInt ty a)

/-! ### The results of a slot -/

/-- An element operation at every index below NR × NC. -/
def vMap (op : VForm → Nat → Nat → Nat → Nat) (b : BCtx) (f : VForm) : BitVec 4096 :=
  let s := vSize f.ty.toNat
  packElems s (b.c.nr * b.c.nc) (fun i => op f (b.src f.a.toNat s i) (b.src f.b.toNat s i) (b.src f.c.toNat s i))
/-- VCVT at every index; the result's elements have the destination type's size. -/
def resVcvt (b : BCtx) (f : VForm) : BitVec 4096 :=
  packElems (vSize f.parm.toNat) (b.c.nr * b.c.nc) (fun i => elVcvt f (b.src f.a.toNat (vSize f.ty.toNat) i))
/-- An operation that moves elements: `pick r c` is the index in A of element (r, c) of D (R384). -/
def vMove (pick : BCtx → VForm → Nat → Nat → Nat) (b : BCtx) (f : VForm) : BitVec 4096 :=
  let s := vSize f.ty.toNat
  packElems s (b.c.nr * b.c.nc) (fun i => b.src f.a.toNat s (pick b f (i / b.c.nc) (i % b.c.nc)))
/-- VTRN: D at index c × NR + r receives A(r, c). -/
def resVtrn (b : BCtx) (f : VForm) : BitVec 4096 :=
  let s := vSize f.ty.toNat
  packElems s (b.c.nr * b.c.nc) (fun i => b.src f.a.toNat s (i % b.c.nr * b.c.nc + i / b.c.nr))
/-- VBROW. -/
def resVbrow : BCtx → VForm → BitVec 4096 := vMove (fun b f _ c => f.parm.toNat * b.c.nc + c)
/-- VBCOL. -/
def resVbcol : BCtx → VForm → BitVec 4096 := vMove (fun b f r _ => r * b.c.nc + f.parm.toNat)
/-- VROTC. -/
def resVrotc : BCtx → VForm → BitVec 4096 := vMove (fun b f r c => r * b.c.nc + (c + f.parm.toNat) % b.c.nc)
/-- VPERM: b read as an unsigned integer of the element's size. -/
def resVperm : BCtx → VForm → BitVec 4096 :=
  vMove (fun b f r c => r * b.c.nc + b.src f.b.toNat (vSize f.ty.toNat) (r * b.c.nc + c) % b.c.nc)
/-- A leaf of a row sum: FTZ flushes a subnormal float (R384). -/
def rsumLeaf (f : VForm) (x : Nat) : Nat :=
  if vFloat f.ty.toNat && f.ftz && isSubnormal (vFmt f.ty.toNat) x then signBit (vFmt f.ty.toNat) (vVal f x).neg else x
/-- VRSUM: the pairwise tree over a row's columns into column 0 (R384, R45). -/
def resVrsum (b : BCtx) (f : VForm) : BitVec 4096 :=
  let s := vSize f.ty.toNat
  let row (r : Nat) : List (Option Nat) := (List.range b.c.nc).map (fun c => some (rsumLeaf f (b.src f.a.toNat s (r * b.c.nc + c))))
  packElems s (b.c.nr * b.c.nc) (fun i =>
    if i % b.c.nc = 0 then (treeRoot (fun x y => elVadd f x y 0) 9 (row (i / b.c.nc))).getD 0 else 0)

/-! ### The slots (R370, R371, R377) -/

/-- The element size that the shape check uses (R374, R386). -/
def shapeSize (op : Nat) (f : VForm) : Nat := if op = 0x10 then max (vSize f.ty.toNat) (vSize f.parm.toNat) else vSize f.ty.toNat
/-- The shape check fails (R374, R384). -/
def shapeFails (op : Nat) (f : VForm) (c : LineCore) : Bool :=
  decide (512 < c.nr * c.nc * shapeSize op f) || (op = 0x21 && decide (c.nr ≤ f.parm.toNat)) || (op = 0x22 && decide (c.nc ≤ f.parm.toNat))
/-- Pushes an entry onto a V slot's ring (R377). -/
def pushRing (v1 : Bool) (r : BitVec 4096) (c : LineCore) : LineCore :=
  if v1 then { c with o1 := (r :: c.o1).take 4 } else { c with o0 := (r :: c.o0).take 4 }
/-- A V slot: its result goes to its register, unless D is 127, and onto its ring; a guard of 0 pushes zero. -/
def vSlot (op : Nat) (res : BCtx → VForm → BitVec 4096) (f : VForm) : Slot :=
  { num := if f.v1 then 3 else 2
    dst := if f.d.toNat ≤ 63 then [.w f.d.toNat] else []
    bad := fun b => !b.vec || !vOk op f || shapeFails op f b.c
    sems := fun _ => none
    data := fun _ => none
    ready := fun _ => .go
    act := fun b on s => s.updLc b.n (fun c =>
      if !on then pushRing f.v1 0 c
      else
        let r := res b f
        pushRing f.v1 r (if f.d.toNat ≤ 63 then c.setW (physW b.c.lb f.d.toNat) r else c)) }

/-- VMOV in a template. -/
def slotVmov (f : VForm) : Slot := vSlot 0x00 (vMap elVmov) f
/-- VADD in a template. -/
def slotVadd (f : VForm) : Slot := vSlot 0x01 (vMap elVadd) f
/-- VSUB in a template. -/
def slotVsub (f : VForm) : Slot := vSlot 0x02 (vMap elVsub) f
/-- VMUL in a template. -/
def slotVmul (f : VForm) : Slot := vSlot 0x03 (vMap elVmul) f
/-- VFMA in a template. -/
def slotVfma (f : VForm) : Slot := vSlot 0x04 (vMap elVfma) f
/-- VMIN in a template. -/
def slotVmin (f : VForm) : Slot := vSlot 0x05 (vMap elVmin) f
/-- VMAX in a template. -/
def slotVmax (f : VForm) : Slot := vSlot 0x06 (vMap elVmax) f
/-- VLERP in a template. -/
def slotVlerp (f : VForm) : Slot := vSlot 0x07 (vMap elVlerp) f
/-- VABS in a template. -/
def slotVabs (f : VForm) : Slot := vSlot 0x08 (vMap elVabs) f
/-- VCMP in a template. -/
def slotVcmp (f : VForm) : Slot := vSlot 0x09 (vMap elVcmp) f
/-- VSEL in a template. -/
def slotVsel (f : VForm) : Slot := vSlot 0x0A (vMap elVsel) f
/-- VAND in a template. -/
def slotVand (f : VForm) : Slot := vSlot 0x0B (vMap elVand) f
/-- VOR in a template. -/
def slotVor (f : VForm) : Slot := vSlot 0x0C (vMap elVor) f
/-- VXOR in a template. -/
def slotVxor (f : VForm) : Slot := vSlot 0x0D (vMap elVxor) f
/-- VSHL in a template. -/
def slotVshl (f : VForm) : Slot := vSlot 0x0E (vMap elVshl) f
/-- VSHR in a template. -/
def slotVshr (f : VForm) : Slot := vSlot 0x0F (vMap elVshr) f
/-- VCVT in a template. -/
def slotVcvt (f : VForm) : Slot := vSlot 0x10 resVcvt f
/-- VTRN in a template. -/
def slotVtrn (f : VForm) : Slot := vSlot 0x20 resVtrn f
/-- VBROW in a template. -/
def slotVbrow (f : VForm) : Slot := vSlot 0x21 resVbrow f
/-- VBCOL in a template. -/
def slotVbcol (f : VForm) : Slot := vSlot 0x22 resVbcol f
/-- VROTC in a template. -/
def slotVrotc (f : VForm) : Slot := vSlot 0x23 resVrotc f
/-- VPERM in a template. -/
def slotVperm (f : VForm) : Slot := vSlot 0x24 resVperm f
/-- VRSUM in a template. -/
def slotVrsum (f : VForm) : Slot := vSlot 0x25 resVrsum f

/-! ### The slots alone -/

/-- VMOV as an instruction of its own. -/
def execVmov (f : VForm) (s : State) : Host.Outcome State Fault Refusal := oneSlot (slotVmov f) s
/-- VADD as an instruction of its own. -/
def execVadd (f : VForm) (s : State) : Host.Outcome State Fault Refusal := oneSlot (slotVadd f) s
/-- VSUB as an instruction of its own. -/
def execVsub (f : VForm) (s : State) : Host.Outcome State Fault Refusal := oneSlot (slotVsub f) s
/-- VMUL as an instruction of its own. -/
def execVmul (f : VForm) (s : State) : Host.Outcome State Fault Refusal := oneSlot (slotVmul f) s
/-- VFMA as an instruction of its own. -/
def execVfma (f : VForm) (s : State) : Host.Outcome State Fault Refusal := oneSlot (slotVfma f) s
/-- VMIN as an instruction of its own. -/
def execVmin (f : VForm) (s : State) : Host.Outcome State Fault Refusal := oneSlot (slotVmin f) s
/-- VMAX as an instruction of its own. -/
def execVmax (f : VForm) (s : State) : Host.Outcome State Fault Refusal := oneSlot (slotVmax f) s
/-- VLERP as an instruction of its own. -/
def execVlerp (f : VForm) (s : State) : Host.Outcome State Fault Refusal := oneSlot (slotVlerp f) s
/-- VABS as an instruction of its own. -/
def execVabs (f : VForm) (s : State) : Host.Outcome State Fault Refusal := oneSlot (slotVabs f) s
/-- VCMP as an instruction of its own. -/
def execVcmp (f : VForm) (s : State) : Host.Outcome State Fault Refusal := oneSlot (slotVcmp f) s
/-- VSEL as an instruction of its own. -/
def execVsel (f : VForm) (s : State) : Host.Outcome State Fault Refusal := oneSlot (slotVsel f) s
/-- VAND as an instruction of its own. -/
def execVand (f : VForm) (s : State) : Host.Outcome State Fault Refusal := oneSlot (slotVand f) s
/-- VOR as an instruction of its own. -/
def execVor (f : VForm) (s : State) : Host.Outcome State Fault Refusal := oneSlot (slotVor f) s
/-- VXOR as an instruction of its own. -/
def execVxor (f : VForm) (s : State) : Host.Outcome State Fault Refusal := oneSlot (slotVxor f) s
/-- VSHL as an instruction of its own. -/
def execVshl (f : VForm) (s : State) : Host.Outcome State Fault Refusal := oneSlot (slotVshl f) s
/-- VSHR as an instruction of its own. -/
def execVshr (f : VForm) (s : State) : Host.Outcome State Fault Refusal := oneSlot (slotVshr f) s
/-- VCVT as an instruction of its own. -/
def execVcvt (f : VForm) (s : State) : Host.Outcome State Fault Refusal := oneSlot (slotVcvt f) s
/-- VTRN as an instruction of its own. -/
def execVtrn (f : VForm) (s : State) : Host.Outcome State Fault Refusal := oneSlot (slotVtrn f) s
/-- VBROW as an instruction of its own. -/
def execVbrow (f : VForm) (s : State) : Host.Outcome State Fault Refusal := oneSlot (slotVbrow f) s
/-- VBCOL as an instruction of its own. -/
def execVbcol (f : VForm) (s : State) : Host.Outcome State Fault Refusal := oneSlot (slotVbcol f) s
/-- VROTC as an instruction of its own. -/
def execVrotc (f : VForm) (s : State) : Host.Outcome State Fault Refusal := oneSlot (slotVrotc f) s
/-- VPERM as an instruction of its own. -/
def execVperm (f : VForm) (s : State) : Host.Outcome State Fault Refusal := oneSlot (slotVperm f) s
/-- VRSUM as an instruction of its own. -/
def execVrsum (f : VForm) (s : State) : Host.Outcome State Fault Refusal := oneSlot (slotVrsum f) s

end Sys2Proof.Machine
end

