-- ==== Sys2Proof/Machine/LineStore.lean ====
section
/-! DEFINITION. The LD and ST slots of a template: addresses, their checks, and the accesses of the line store, with an LD
that blocks on an empty tile (R387 to R389). -/

namespace Sys2Proof.Machine

/-- The address of an LD or ST slot (R388). -/
def lsAddr (b : BCtx) (a : BitVec 5) (off : BitVec 16) (post : Bool) : Nat :=
  if post then (b.x a).toNat else (b.x a + off.signExtend 32).toNat
/-- The byte runs of an access by its code: 0 of 512 bytes, 1 of the shape's rows, 2 of 4 bytes (R388). -/
def lsRows (b : BCtx) (op addr pitch : Nat) : List (Nat × Nat) :=
  if op = 0 then [(addr, 512)] else if op = 2 then [(addr, 4)]
  else (List.range b.c.nr).map (fun k => (addr + 16 * pitch * k, b.c.nc * b.c.es))
/-- The data checks of an access (R388). -/
def lsCheck (b : BCtx) (op addr pitch : Nat) : Option (Nat × Nat × Nat) :=
  if addr % (if op = 2 then 4 else 16) ≠ 0 || (op = 1 && b.c.nc * b.c.es % 16 ≠ 0) then some (0x04, 0, 0)
  else if (lsRows b op addr pitch).any (fun r => decide (storeBytes < r.1 + r.2)) || (op = 1 && decide (512 < b.c.nr * b.c.nc * b.c.es)) then
    some (0x05, 0, 0)
  else none
/-- The POST update of the base (R388). -/
def lsPost (b : BCtx) (a : BitVec 5) (off : BitVec 16) (post : Bool) : Option (Nat × Word) :=
  if post then some (a.toNat, b.x a + off.signExtend 32) else none
/-- Applies a POST update. -/
def applyPost (n : Nat) (vec : Bool) (p : Option (Nat × Word)) (s : State) : State :=
  match p with
  | some (r, v) => s.updStream n vec (fun st => st.setX r v)
  | none => s

/-! ### LD (R388, R389) -/

/-- Writes an LD's destination: a physical w register, the rest of it zero, or an x register. -/
def ldPut (n : Nat) (vec : Bool) (dst : Nat × Bool) (bs : List Byte) (s : State) : State :=
  if dst.2 then s.updLc n (fun c => c.setW dst.1 (BitVec.ofNat 4096 (leVal bs)))
  else s.updStream n vec (fun st => st.setX dst.1 (BitVec.ofNat 32 (leVal bs)))
/-- An LD whose tiles are full is ordered after their fills, reads, clears the full bits under TAKE, and makes its POST update. Where LDX updates its own
destination, the value that stands is a free choice (log entry 23). -/
def ldPerform (n : Nat) (vec : Bool) (x : LdWait) (s : State) : State :=
  let c := (s.lc n).sawFull (partyOf vec) (tilesOf x.rows)
  let bs := c.readRuns s.free (partyOf vec) x.rows
  let s := (s.setLc n c).freed (c.draws (partyOf vec) x.rows)
  let s := if x.take then s.updLc n (fun c => c.clear (tilesOf x.rows)) else s
  if !x.dst.2 && (x.post.map (·.1)) == some x.dst.1 then
    let t := s.freed 1
    if Config.freeBit s.free then ldPut n vec x.dst bs t else applyPost n vec x.post t
  else applyPost n vec x.post (ldPut n vec x.dst bs s)

/-- The LD of a bundle: it reads, or it blocks alone (R389). -/
def ldAct (op : Nat) (f : LdForm) (b : BCtx) (s : State) : State :=
  let x : LdWait :=
    { rows := lsRows b op (lsAddr b f.a f.off f.post) f.pitch.toNat
      dst := if op = 2 then (f.d.toNat - 96, false) else (physW b.c.lb f.d.toNat, true)
      take := f.take, st := none, sig := none, post := lsPost b f.a f.off f.post, pc := b.st.pc }
  if (s.lc b.n).allFull (tilesOf x.rows) then ldPerform b.n b.vec x s
  else s.updStream b.n b.vec (fun st => { st with blocked := some x })

/-- An LD slot by its code. -/
def ldSlot (op : Nat) (f : LdForm) : Slot :=
  { num := 4
    dst := (if op = 2 then [.x (f.d.toNat - 96)] else [.w f.d.toNat]) ++ (if f.post then [.x f.a.toNat] else [])
    bad := fun b => !ldOk op f || (op ≠ 2 && !b.vec)
    sems := fun _ => none
    data := fun b => lsCheck b op (lsAddr b f.a f.off f.post) f.pitch.toNat
    ready := fun _ => .go
    act := fun b on s => if on then ldAct op f b s else s }

/-! ### ST (R388, R389) -/

/-- The cells of byte runs written from the low bytes of a value, row after row. -/
def stCells (rows : List (Nat × Nat)) (v : Nat) : List Host.Cell :=
  match rows with
  | [] => []
  | (a, n) :: r => ((List.range n).map (fun i => (a + i, BitVec.ofNat 8 (v / 2 ^ (8 * i))))) ++ stCells r (v / 2 ^ (8 * n))
/-- Writes an ST's bytes, then sets the full bits under FILL. -/
def stPerform (n : Nat) (vec : Bool) (h : StHeld) (s : State) : State :=
  s.updLc n (fun c =>
    let c := { c.writes (partyOf vec) ((h.cells.map (·.1)).filter (· % 4 = 0)) with ls := h.cells.foldl (fun m e => Mem.put m e.1 e.2) c.ls }
    if h.fill then c.fill (partyOf vec) h.tiles else c)
/-- The ST of a bundle: it writes, or it follows the blocked LD of its word whose tiles it meets (R389). -/
def stAct (op : Nat) (f : StForm) (b : BCtx) (s : State) : State :=
  let rows := lsRows b op (lsAddr b f.a f.off f.post) f.pitch.toNat
  let v := if 96 ≤ f.s.toNat then (b.st.xr (f.s.toNat - 96)).toNat else (b.reg f.s.toNat).toNat
  let h : StHeld := { cells := stCells rows v, tiles := tilesOf rows, fill := f.fill }
  let s := applyPost b.n b.vec (lsPost b f.a f.off f.post) s
  match ((s.lc b.n).stream b.vec).blocked with
  | some x =>
    if h.tiles.any (fun t => (tilesOf x.rows).contains t) then
      s.updStream b.n b.vec (fun st => { st with blocked := some { x with st := some h } })
    else stPerform b.n b.vec h s
  | none => stPerform b.n b.vec h s

/-- An ST slot by its code. -/
def stSlot (op : Nat) (f : StForm) : Slot :=
  { num := 5
    dst := if f.post then [.x f.a.toNat] else []
    bad := fun b => !stOk op f || (op ≠ 2 && !b.vec)
    sems := fun _ => none
    data := fun b => lsCheck b op (lsAddr b f.a f.off f.post) f.pitch.toNat
    ready := fun _ => .go
    act := fun b on s => if on then stAct op f b s else s }

/-- A blocked LD whose tiles have become full reads; the ST of its word that waited for it follows, and its word
completes (R389, R393). -/
def unblock (s : State) (n : Nat) (vec : Bool) : State :=
  match ((s.lc n).stream vec).blocked with
  | none => s
  | some x =>
    if !(s.lc n).allFull (tilesOf x.rows) then s
    else
      let s := ldPerform n vec x (s.updStream n vec (fun st => { st with blocked := none }))
      let s := match x.st with
        | some h => stPerform n vec h s
        | none => s
      match x.sig with
      | some sm => signal s n sm.toNat (partyOf vec) x.pc
      | none => s

/-- LDW in a template. -/
def slotLdw (f : LdForm) : Slot := ldSlot 0 f
/-- LDWR in a template. -/
def slotLdwr (f : LdForm) : Slot := ldSlot 1 f
/-- LDX in a template. -/
def slotLdx (f : LdForm) : Slot := ldSlot 2 f
/-- STW in a template. -/
def slotStw (f : StForm) : Slot := stSlot 0 f
/-- STWR in a template. -/
def slotStwr (f : StForm) : Slot := stSlot 1 f
/-- STX in a template. -/
def slotStx (f : StForm) : Slot := stSlot 2 f

/-! ### The slots alone -/

/-- LDW as an instruction of its own. -/
def execLdw (f : LdForm) (s : State) : Host.Outcome State Fault Refusal := oneSlot (slotLdw f) s
/-- LDWR as an instruction of its own. -/
def execLdwr (f : LdForm) (s : State) : Host.Outcome State Fault Refusal := oneSlot (slotLdwr f) s
/-- LDX as an instruction of its own. -/
def execLdx (f : LdForm) (s : State) : Host.Outcome State Fault Refusal := oneSlot (slotLdx f) s
/-- STW as an instruction of its own. -/
def execStw (f : StForm) (s : State) : Host.Outcome State Fault Refusal := oneSlot (slotStw f) s
/-- STWR as an instruction of its own. -/
def execStwr (f : StForm) (s : State) : Host.Outcome State Fault Refusal := oneSlot (slotStwr f) s
/-- STX as an instruction of its own. -/
def execStx (f : StForm) (s : State) : Host.Outcome State Fault Refusal := oneSlot (slotStx f) s

end Sys2Proof.Machine
end

