-- ==== Sys2Proof/Machine/LineQueue.lean ====
section
/-! DEFINITION. The Q slot of a template: semaphores and queue registers (R390 to R395), and the commands of the load,
store and matrix queues with their starts and completions (R396 to R399). -/

namespace Sys2Proof.Machine

/-! ### Semaphores and queue registers (R390 to R395) -/

/-- A semaphore that a slot names and that is not initialised takes cause 0x41 (R391). -/
def semBad (c : LineCore) (sm : Option (BitVec 5)) : Option (Nat × Nat) :=
  match sm with
  | some x => if (look c.sems x.toNat).isNone then some (0x41, x.toNat) else none
  | none => none
/-- The semaphores of the WS and SS fields (R390, R391). -/
def semFormBad (c : LineCore) (f : SemForm) : Option (Nat × Nat) := (semBad c f.wait).or (semBad c f.sig)

/-- A whole word waits for one unit of WS (R393). -/
def waitUnit (b : BCtx) (f : SemForm) : Ready :=
  match f.wait with
  | some x => if b.c.canTake (partyOf b.vec) x.toNat 1 then .go else .sem x.toNat
  | none => .go
/-- The unit of WS comes before the word's accesses (R400). -/
def orderUnit (b : BCtx) (f : SemForm) (s : State) : State :=
  match f.wait with
  | some x => s.updLc b.n (fun c => c.consumed (partyOf b.vec) x.toNat)
  | none => s
/-- Consumes the unit of WS (R393). -/
def takeUnit (b : BCtx) (f : SemForm) (s : State) : State :=
  match f.wait with
  | some x => s.updLc b.n (fun c => c.take (partyOf b.vec) x.toNat 1)
  | none => s
/-- The signal of SS when the word completes: now, or with the LD that blocks (R389, R393). -/
def signalUnit (b : BCtx) (f : SemForm) (s : State) : State :=
  match f.sig with
  | none => s
  | some x =>
    if ((s.lc b.n).stream b.vec).blocked.isSome then
      s.updStream b.n b.vec (fun st => { st with blocked := st.blocked.map (fun w => { w with sig := some x }) })
    else signal s b.n x.toNat (partyOf b.vec) b.st.pc

/-- A Q slot with its static condition, its step-4 check, its data check, its wait and its effect. -/
def qSlot (dst : List LReg) (bad : Bool) (sems : BCtx → Option (Nat × Nat)) (data : BCtx → Option (Nat × Nat × Nat))
    (ready : BCtx → Ready) (act : BCtx → State → State) : Slot :=
  { num := 6, dst := dst, bad := fun _ => bad, sems := sems, data := data, ready := ready, act := fun b on s => if on then act b s else s }

/-- QNOP. -/
def slotQnop (f : SemForm) : Slot :=
  { qSlot [] false (fun b => semFormBad b.c f) (fun _ => none) (fun b => waitUnit b f) (fun b s => signalUnit b f (takeUnit b f s)) with
    before := fun b s => orderUnit b f s }
/-- SEM.INIT (R392). -/
def slotSemInit (a sm : BitVec 5) (c : BitVec 9) : Slot :=
  qSlot [] (c = 0) (fun _ => none)
    (fun b => if c.toNat < (b.x a).toNat then some (0x40, sm.toNat, b.c.err2Of sm.toNat) else none) (fun _ => .go)
    (fun b s => s.updLc b.n (fun l => { l with sems := set l.sems sm.toNat { count := (b.x a).toNat, ceiling := c.toNat } }))
/-- SEM.ADD (R392). -/
def slotSemAdd (sm : BitVec 5) (k : BitVec 9) : Slot :=
  qSlot [] (k = 0) (fun b => semBad b.c (some sm))
    (fun b => match look b.c.sems sm.toNat with
      | some x => if x.ceiling < x.count + k.toNat then some (0x40, sm.toNat, b.c.err2Of sm.toNat) else none
      | none => none) (fun _ => .go)
    (fun b s => s.updLc b.n (fun l =>
      { l.signalled (partyOf b.vec) sm.toNat with sems := upd l.sems sm.toNat (fun x => { x with count := x.count + k.toNat }) }))
/-- SEM.SUB (R392). -/
def slotSemSub (sm : BitVec 5) (k : BitVec 9) : Slot :=
  { qSlot [] (k = 0) (fun b => semBad b.c (some sm)) (fun _ => none)
      (fun b => if b.c.canTake (partyOf b.vec) sm.toNat k.toNat then .go else .sem sm.toNat)
      (fun b s => s.updLc b.n (fun l => l.take (partyOf b.vec) sm.toNat k.toNat)) with
    before := fun b s => s.updLc b.n (fun c => c.consumed (partyOf b.vec) sm.toNat) }
/-- SEM.RD. -/
def slotSemRd (a sm : BitVec 5) : Slot :=
  qSlot [.x a.toNat] false (fun b => semBad b.c (some sm)) (fun _ => none) (fun _ => .go)
    (fun b s => s.updStream b.n b.vec (fun st => st.setX a.toNat (BitVec.ofNat 32 (((look b.c.sems sm.toNat).map (·.count)).getD 0))))

/-- A queue register. -/
def LineCore.cq (c : LineCore) (q : Nat) : List Word := get [] c.cqs q
/-- The other stream has ended. -/
def BCtx.otherEnded (b : BCtx) : Bool := (b.c.stream (!b.vec)).ended
/-- Step 4 of a queue-register word: its semaphores, then the register's direction (R394). -/
def cqSems (push : Bool) (f : SemForm) (q : BitVec 2) (b : BCtx) : Option (Nat × Nat) :=
  (semFormBad b.c f).or (if (decide (q.toNat < 2) == b.vec) == push then some (0x43, q.toNat) else none)
/-- CQPUSH (R394). -/
def slotCqpush (a : BitVec 5) (f : SemForm) (q : BitVec 2) : Slot :=
  { qSlot [] false (cqSems true f q) (fun _ => none)
      (fun b => if 8 ≤ (b.c.cq q.toNat).length then (if b.otherEnded then .cause 0x43 q.toNat else .wait) else waitUnit b f)
      (fun b s => signalUnit b f ((takeUnit b f s).updLc b.n (fun l => { l with cqs := set l.cqs q.toNat (l.cq q.toNat ++ [b.x a]) }))) with
    before := fun b s => (orderUnit b f s).updLc b.n (fun c => c.pushedCq (partyOf b.vec) q.toNat) }
/-- CQPOP (R394). -/
def slotCqpop (a : BitVec 5) (f : SemForm) (q : BitVec 2) : Slot :=
  { qSlot [.x a.toNat] false (cqSems false f q) (fun _ => none)
      (fun b => if b.c.cq q.toNat = [] then (if b.otherEnded then .cause 0x43 q.toNat else .wait) else waitUnit b f)
      (fun b s =>
        let s := (takeUnit b f s).updLc b.n (fun l => { l with cqs := set l.cqs q.toNat (l.cq q.toNat).tail })
        signalUnit b f (s.updStream b.n b.vec (fun st => st.setX a.toNat ((b.c.cq q.toNat).head?.getD 0)))) with
    before := fun b s => (orderUnit b f s).updLc b.n (fun c => c.poppedCq (partyOf b.vec) q.toNat) }

/-! ### Copy and matrix commands at their push (R396, R398) -/

/-- The command block's four words (R396, R398). -/
def blockOf (b : BCtx) (a : BitVec 5) : List Word := (List.range 4).map (fun i => b.st.xr (a.toNat + i))
/-- The window offset of a copy block. -/
def copyOff (l : List Word) : Nat := blkWord l 0 + bits (blkWord l 1) 15 0 * 2 ^ 32
/-- The window of a copy block. -/
def copyWin (l : List Word) : Nat := bits (blkWord l 1) 18 16
/-- The checks of a copy block in order (R396). -/
def copyCheck (store : Bool) (a : BitVec 5) (b : BCtx) : Option (Nat × Nat × Nat) :=
  let l := blockOf b a
  let ext := (get 0 b.c.lwext (copyWin l)).toNat
  if bits (blkWord l 1) 31 19 ≠ 0 || bits (blkWord l 2) 31 18 ≠ 0 || decide (copyCount l < 16 ∨ 262144 < copyCount l) then some (0x01, 0, 0)
  else if copyOff l % 16 ≠ 0 || copyAddr l % 16 ≠ 0 || copyCount l % 16 ≠ 0 then some (0x04, 0, 0)
  else if bits ext 47 0 = 0 then some (0x02, 0, 0)
  else if bits ext 47 0 < copyOff l + copyCount l || decide (storeBytes < copyAddr l + copyCount l) then some (0x05, 0, 0)
  else if !bit ext (if store then 62 else 63) then some (0x06, 0, 0)
  else none
/-- Pushes a command onto a queue. -/
def pushCmd (party : Nat) (b : BCtx) (a : BitVec 5) (f : SemForm) (f0 f1 : Bool) (s : State) : State :=
  let l := blockOf b a
  let pa := bits (get 0 b.c.lwbase (copyWin l)).toNat 51 4 * 16 + copyOff l
  let k : LCmd := { pc := b.st.pc, ws := f.wait, ss := f.sig, blk := l, pa := if party = 4 then 0 else pa, f0 := f0, f1 := f1,
                    consumed := false, started := false, data := [] }
  s.updLc b.n (fun c => c.setQueueOf party (c.queueOf party ++ [k]))
/-- A command slot waits as a whole word while its queue holds 16 entries (R396, R398). -/
def cmdSlot (party : Nat) (a : BitVec 5) (f : SemForm) (f0 f1 : Bool) (data : BCtx → Option (Nat × Nat × Nat)) : Slot :=
  qSlot [] (28 < a.toNat) (fun b => semFormBad b.c f) data (fun b => if 16 ≤ (b.c.queueOf party).length then .wait else .go)
    (fun b s => pushCmd party b a f f0 f1 s)
/-- CPLD. -/
def slotCpld (a : BitVec 5) (f : SemForm) (setf : Bool) : Slot := cmdSlot 2 a f setf false (copyCheck false a)
/-- CPST. -/
def slotCpst (a : BitVec 5) (f : SemForm) (waitf clrf : Bool) : Slot := cmdSlot 3 a f waitf clrf (copyCheck true a)
/-- Bytes of a C region (R398). -/
def mmcCBytes (l : List Word) : Nat := if bits (blkWord l 3) 4 3 = 0 then 4096 else 2048
/-- Two byte regions meet. -/
def regionsMeet (a n b m : Nat) : Bool := decide (a < b + m ∧ b < a + n)
/-- The checks of a matrix block in order (R398). -/
def mmcCheck (a : BitVec 5) (b : BCtx) : Option (Nat × Nat × Nat) :=
  let l := blockOf b a
  let w := blkWord l 3
  let cn := mmcCBytes l
  if (List.range 3).any (fun i => bits (blkWord l i) 31 18 ≠ 0) || bits w 31 9 ≠ 0 || decide (1 < bits w 2 1) || decide (1 < bits w 4 3) ||
      decide (3 < bits w 7 5) then some (0x01, 0, 0)
  else if (List.range 3).any (fun i => blkWord l i % 256 ≠ 0) then some (0x04, 0, 0)
  else if decide (storeBytes < blkWord l 0 + 2048) || decide (storeBytes < blkWord l 1 + 2048) || decide (storeBytes < blkWord l 2 + cn) then
    some (0x05, 0, 0)
  else if regionsMeet (blkWord l 2) cn (blkWord l 0) 2048 || regionsMeet (blkWord l 2) cn (blkWord l 1) 2048 then some (0x43, 0, 0)
  else none
/-- MMC. -/
def slotMmc (a : BitVec 5) (f : SemForm) : Slot := cmdSlot 4 a f false false (mmcCheck a)

/-! ### The queues at work (R397, R399) -/

/-- Changes the head command of a queue. -/
def LineCore.updHead (c : LineCore) (party : Nat) (f : LCmd → LCmd) : LineCore :=
  c.setQueueOf party (match c.queueOf party with
    | k :: r => f k :: r
    | [] => [])
/-- Step 1 of R397: the head command consumes its wait unit, or begins to wait for it. -/
def consume (s : State) (n party : Nat) (k : LCmd) : State :=
  match k.ws with
  | none => s.updLc n (fun c => c.updHead party (fun k => { k with consumed := true }))
  | some sm =>
    if k.consumed then s
    else if (s.lc n).canTake party sm.toNat 1 then
      s.updLc n (fun c => ((c.consumed party sm.toNat).take party sm.toNat 1).updHead party (fun k => { k with consumed := true }))
    else s.updLc n (fun c => c.awaits party sm.toNat)
/-- The head command, when the line core's queues may start commands and it has not started. -/
def LineCore.startable (c : LineCore) (party : Nat) : Option LCmd :=
  if c.halt || c.stopped then none else (c.queueOf party).head?.bind (fun k => if k.started then none else some k)
/-- The 16-byte units of a command's window region. -/
def copyUnits (k : LCmd) : List Nat := (List.range (copyCount k.blk / 16)).map (fun i => k.pa + 16 * i)
/-- The line-store run of a copy command. -/
def copyRun (k : LCmd) : List (Nat × Nat) := [(copyAddr k.blk, copyCount k.blk)]
/-- The window regionsMeet a reserved address, the device register space or a die out of service (R396). -/
def copyBad (s : State) (k : LCmd) : Bool := (copyUnits k).any (paBad s)
/-- A link or port holds the copy's path (R21, R445). -/
def copyHeld (s : State) (k : LCmd) : Bool := (copyUnits k).any (fun pa => pathHeld s 4 pa)
/-- The partition for which a line core works: that of its slice program's stream (R18, R405). -/
def linePart (s : State) (lc : Nat) : Option Nat :=
  match (s.lc lc).run with
  | .slice st .. => (look s.streams st).map (·.part)
  | _ => none
/-- The copy's accesses of pool lines go through the lines' home dies, under the way mask of the partition (R18, R181). -/
def touchCopy (s : State) (lc : Nat) (k : LCmd) (write : Bool) : State :=
  if inPool k.pa then (sortNats ((copyUnits k).map (fun a => a / 64 * 64))).foldl (fun s a => touchPool s (linePart s lc) a write) s else s
/-- COPY_COMMAND_START: steps 1 to 3 of R397, of the head of the load or store queue. A load reads its window here; a store reads the line
store as it completes, where every write that came meanwhile is one that it is not ordered with (R400, log entry 99). -/
def execCopyCommandStart (lc : Nat) (store : Bool) (s : State) : Host.Outcome State Fault Refusal :=
  let party := if store then 3 else 2
  match (s.lc lc).startable party with
  | none => .next s
  | some k0 =>
    let s := consume s lc party k0
    match (s.lc lc).startable party with
    | none => .next s
    | some k =>
      if !k.consumed then .next s
      else if store && k.f0 && !(s.lc lc).allFull (tilesOf (copyRun k)) then .next s
      else if copyBad s k then .next (haltLc s lc 0x02 party 6 0 k.pc 0)
      else if copyHeld s k then .next s
      else
        let data := if store then [] else Mem.readN s.mem k.pa (copyCount k.blk)
        let s := if store then s else touchCopy s lc k false
        .next (s.updLc lc (fun c => (if store && k.f0 then c.sawFull party (tilesOf (copyRun k)) else c).updHead party
          (fun k => { k with started := true, data := data })))
/-- The bytes that a store command copies (R397, R400). -/
def storeData (s : State) (lc : Nat) (k : LCmd) : List Byte := (s.lc lc).readRuns s.free 3 (copyRun k)
/-- The free values of that read are drawn. -/
def storeDrawn (s : State) (lc : Nat) (k : LCmd) : State := s.freed ((s.lc lc).draws 3 (copyRun k))
/-- The head command has completed: it leaves its queue, and its signal is applied, but at a stopped core (R393, R415). -/
def finish (s : State) (n party : Nat) (k : LCmd) : State :=
  let s := s.updLc n (fun c => c.setQueueOf party (c.queueOf party).tail)
  match k.ss with
  | some sm => if (s.lc n).stopped then s else signal s n sm.toNat party k.pc
  | none => s
/-- COPY_COMMAND_COMPLETION: the copy's bytes, its full bits and its signal (R397). -/
def execCopyCommandCompletion (lc : Nat) (store : Bool) (s : State) : Host.Outcome State Fault Refusal :=
  let party := if store then 3 else 2
  match (s.lc lc).queueOf party with
  | [] => .next s
  | k :: _ =>
    if !k.started then .next s
    else if !store then
      let s := s.updLc lc (fun c => c.store party (copyAddr k.blk) k.data)
      .next (finish (if k.f0 then s.updLc lc (fun c => c.fill party (tilesOf (copyRun k))) else s) lc party k)
    else if copyBad s k then
      .next (haltLc (s.updLc lc (fun c => c.setQueueOf party (c.queueOf party).tail)) lc 0x02 party 6 0 k.pc 0)
    else if copyHeld s k then .next s
    else
      let s := (touchCopy (storeDrawn s lc k) lc k true).poke k.pa (storeData s lc k)
      .next (finish (if k.f1 then s.updLc lc (fun c => c.clear (tilesOf (copyRun k))) else s) lc party k)

/-- Element i of `n` bytes of a byte list. -/
def listElem (l : List Byte) (n i : Nat) : Nat := leVal ((l.drop (n * i)).take n)
/-- C of a matrix command from the bytes it read: A, B and C of 32 × 32 each, row-major (R399). -/
def mmcResult (l : List Word) (data : List Byte) : List Byte :=
  let w := blkWord l 3
  let ity := if bits w 2 1 = 0 then bf16 else f16
  let oty := if bits w 4 3 = 0 then f32 else bf16
  let on := oty.width / 8
  let ftz := bit w 8
  let rm := bits w 7 5
  let a := data.take 2048
  let b := (data.drop 2048).take 2048
  let c := data.drop 4096
  (List.range 1024).flatMap (fun i =>
    let m := i / 32
    let n := i % 32
    let c0 := if bit w 0 then decodeZ ftz oty (listElem c on i) else Ex.zero false
    let ps := (List.range 32).map (fun k =>
      Ex.mul? (decodeZ ftz ity (listElem a 2 (32 * m + k))) (decodeZ ftz ity (listElem b 2 (32 * k + n))))
    toBytes on (encodeQuiet oty (Ex.add rm c0 (dotBlock ps).1) rm ftz))
/-- The byte runs that a matrix command reads at its start: A, B and, when it accumulates, C (R399). -/
def mmcRuns (l : List Word) : List (Nat × Nat) :=
  [(blkWord l 0, 2048), (blkWord l 1, 2048)] ++ (if bit (blkWord l 3) 0 then [(blkWord l 2, mmcCBytes l)] else [])
/-- MMC_COMPLETION (R397, R399): the head matrix command starts, reading A, B and C, or, once started, writes C and signals.
The opcode table gives a matrix command one event for both (log entry 25). -/
def execMmcCompletion (lc : Nat) (s : State) : Host.Outcome State Fault Refusal :=
  match (s.lc lc).mq with
  | [] => .next s
  | k :: _ =>
    if k.started then .next (finish (s.updLc lc (fun c => c.store 4 (blkWord k.blk 2) (mmcResult k.blk k.data))) lc 4 k)
    else if ((s.lc lc).startable 4).isNone then .next s
    else
      let s := consume s lc 4 k
      if ((s.lc lc).mq.head?.map (·.consumed)) ≠ some true then .next s
      else
        let runs := mmcRuns k.blk
        let data := (s.lc lc).readRuns s.free 4 runs
        .next ((s.freed ((s.lc lc).draws 4 runs)).updLc lc (fun c => c.updHead 4 (fun k => { k with started := true, data := data })))

/-! ### The slots alone -/

/-- QNOP as an instruction of its own. -/
def execQnop (sem : SemForm) (s : State) : Host.Outcome State Fault Refusal := oneSlot (slotQnop sem) s
/-- SEM.INIT as an instruction of its own. -/
def execSemInit (a sm : BitVec 5) (c : BitVec 9) (s : State) : Host.Outcome State Fault Refusal := oneSlot (slotSemInit a sm c) s
/-- SEM.ADD as an instruction of its own. -/
def execSemAdd (sm : BitVec 5) (k : BitVec 9) (s : State) : Host.Outcome State Fault Refusal := oneSlot (slotSemAdd sm k) s
/-- SEM.SUB as an instruction of its own. -/
def execSemSub (sm : BitVec 5) (k : BitVec 9) (s : State) : Host.Outcome State Fault Refusal := oneSlot (slotSemSub sm k) s
/-- SEM.RD as an instruction of its own. -/
def execSemRd (a sm : BitVec 5) (s : State) : Host.Outcome State Fault Refusal := oneSlot (slotSemRd a sm) s
/-- CQPUSH as an instruction of its own. -/
def execCqpush (a : BitVec 5) (sem : SemForm) (q : BitVec 2) (s : State) : Host.Outcome State Fault Refusal := oneSlot (slotCqpush a sem q) s
/-- CQPOP as an instruction of its own. -/
def execCqpop (a : BitVec 5) (sem : SemForm) (q : BitVec 2) (s : State) : Host.Outcome State Fault Refusal := oneSlot (slotCqpop a sem q) s
/-- CPLD as an instruction of its own. -/
def execCpld (a : BitVec 5) (sem : SemForm) (setf : Bool) (s : State) : Host.Outcome State Fault Refusal := oneSlot (slotCpld a sem setf) s
/-- CPST as an instruction of its own. -/
def execCpst (a : BitVec 5) (sem : SemForm) (waitf clrf : Bool) (s : State) : Host.Outcome State Fault Refusal := oneSlot (slotCpst a sem waitf clrf) s
/-- MMC as an instruction of its own. -/
def execMmc (a : BitVec 5) (sem : SemForm) (s : State) : Host.Outcome State Fault Refusal := oneSlot (slotMmc a sem) s

end Sys2Proof.Machine
end

