-- ==== Sys2Proof/Machine/LineScalar.lean ====
section
/-! DEFINITION. The S0 slot of a template (R378 to R380). -/

namespace Sys2Proof.Machine

/-- Writes x[d] in the issuing stream. -/
def putX (b : BCtx) (d : Nat) (v : Word) (s : State) : State := s.updStream b.n b.vec (fun st => st.setX d v)

/-- A register form: xD from xA and xB. -/
def s0Reg (d a b : BitVec 5) (f : Word → Word → Word) : Slot :=
  Slot.plain 1 [.x d.toNat] (fun k s => putX k d.toNat (f (k.x a) (k.x b)) s)

/-- A branch by a signed word offset from the branching word (R362, R378). -/
def branchTo (b : BCtx) (off : BitVec 16) (s : State) : State :=
  s.updStream b.n b.vec (fun st => { st with pc := wrapI 15 ((b.st.pc : Int) + off.toInt) })

/-- A rotation (R379, R375): the stage predicates, and the loop base of the vector stream. -/
def rotate (b : BCtx) (bit0 : Bool) (s : State) : State :=
  s.updLc b.n (fun c =>
    let c := c.setStream b.vec { c.stream b.vec with sg := (b.st.sg <<< 1) ||| (if bit0 then 1 else 0) }
    if b.vec then { c with lb := b.c.lb - 1 } else c)

/-- SNOP. -/
def slotSnop : Slot := Slot.plain 1 [] (fun _ s => s)
/-- SADD. -/
def slotSadd (d a b : BitVec 5) : Slot := s0Reg d a b (fun x y => x + y)
/-- SSUB. -/
def slotSsub (d a b : BitVec 5) : Slot := s0Reg d a b (fun x y => x - y)
/-- SMUL. -/
def slotSmul (d a b : BitVec 5) : Slot := s0Reg d a b (fun x y => x * y)
/-- SAND. -/
def slotSand (d a b : BitVec 5) : Slot := s0Reg d a b (fun x y => x &&& y)
/-- SOR. -/
def slotSor (d a b : BitVec 5) : Slot := s0Reg d a b (fun x y => x ||| y)
/-- SXOR. -/
def slotSxor (d a b : BitVec 5) : Slot := s0Reg d a b (fun x y => x ^^^ y)
/-- SSHL: 0 for a count of 32 or more. -/
def slotSshl (d a b : BitVec 5) : Slot := s0Reg d a b (fun x y => if 32 ≤ y.toNat then 0 else x <<< y.toNat)
/-- SSHR: 0 for a count of 32 or more. -/
def slotSshr (d a b : BitVec 5) : Slot := s0Reg d a b (fun x y => if 32 ≤ y.toNat then 0 else x >>> y.toNat)
/-- SSRA: the sign for a count of 32 or more. -/
def slotSsra (d a b : BitVec 5) : Slot := s0Reg d a b (fun x y => x.sshiftRight (min y.toNat 31))
/-- SLT. -/
def slotSlt (d a b : BitVec 5) : Slot := s0Reg d a b (fun x y => if x.slt y then 1 else 0)
/-- SLTU. -/
def slotSltu (d a b : BitVec 5) : Slot := s0Reg d a b (fun x y => if x.ult y then 1 else 0)
/-- SADDI. -/
def slotSaddi (d a : BitVec 5) (imm : BitVec 16) : Slot :=
  Slot.plain 1 [.x d.toNat] (fun k s => putX k d.toNat (k.x a + imm.signExtend 32) s)
/-- SLUI. -/
def slotSlui (d a : BitVec 5) (imm : BitVec 16) : Slot :=
  Slot.plain 1 [.x d.toNat] (fun k s => putX k d.toNat (imm ++ (k.x a).setWidth 16) s)
/-- BEQZ. -/
def slotBeqz (a : BitVec 5) (off : BitVec 16) : Slot := Slot.plain 1 [] (fun k s => if k.x a = 0 then branchTo k off s else s)
/-- BNEZ. -/
def slotBnez (a : BitVec 5) (off : BitVec 16) : Slot := Slot.plain 1 [] (fun k s => if k.x a = 0 then s else branchTo k off s)
/-- BRU. -/
def slotBru (off : BitVec 16) : Slot := Slot.plain 1 [] (fun k s => branchTo k off s)
/-- LSTART (R379). -/
def slotLstart (a : BitVec 5) (stages : BitVec 3) : Slot :=
  Slot.plain 1 [] (fun k s => s.updStream k.n k.vec (fun st =>
    if k.x a = 0 then { st with lc := 0, ec := 0, sg := 0 }
    else { st with lc := k.x a - 1, ec := BitVec.ofNat 32 (stages.toNat + 1), sg := 1 }))
/-- LOOP (R379). -/
def slotLoopS (off : BitVec 16) : Slot :=
  Slot.plain 1 [] (fun k s =>
    if k.st.lc ≠ 0 then
      branchTo k off (rotate k true (s.updStream k.n k.vec (fun st => { st with lc := k.st.lc - 1 })))
    else if k.st.ec = 0 then s
    else
      let s := rotate k false (s.updStream k.n k.vec (fun st => { st with ec := k.st.ec - 1 }))
      if k.st.ec = 1 then s else branchTo k off s)
/-- The value that SRD reads (R380, R414). A .section program reads 0 from numbers 16 to 31 (log entry 21). -/
def srdValue (k : BCtx) (n : Nat) : Word :=
  if n = 0 then BitVec.ofNat 32 k.st.pc
  else if n = 1 then k.st.lc
  else if n = 2 then k.st.ec
  else if n = 3 then (if k.vec then k.c.lb.setWidth 32 else 0)
  else if n = 4 then (if k.vec then k.c.shp else 0)
  else if n = 5 then BitVec.ofNat 32 k.n
  else if n = 6 then (if k.vec then 1 else 0)
  else if n = 7 then BitVec.ofNat 32 k.now
  else if n = 8 then BitVec.ofNat 32 (k.now / 2 ^ 32)
  else if n = 9 then k.st.sg.setWidth 32
  else match k.c.run with
    | .slice _ _ _ vals => vals[n - 16]?.getD 0
    | _ => 0
/-- SRD. -/
def slotSrd (d : BitVec 5) (n : BitVec 16) : Slot :=
  { Slot.plain 1 [.x d.toNat] (fun k s => putX k d.toNat (srdValue k n.toNat) s) with bad := fun _ => !srdOk n.toNat }
/-- A value of shp with a reserved bit set or ES = 3 (R374). -/
def shpBad (v : Word) : Bool := (v &&& 0xCE00FFC0#32) != 0 || bits v.toNat 29 28 = 3
/-- SETSHP: a bad value is a data check (R378). -/
def slotSetshp (a : BitVec 5) : Slot :=
  { Slot.plain 1 [] (fun k s => s.updLc k.n (fun c => { c with shp := k.x a })) with
    bad := fun k => !k.vec
    data := fun k => if shpBad (k.x a) then some (0x01, 0, 0) else none }
/-- SETLB. -/
def slotSetlb (a : BitVec 5) : Slot :=
  { Slot.plain 1 [] (fun k s => s.updLc k.n (fun c => { c with lb := (k.x a).setWidth 5 })) with bad := fun k => !k.vec }

/-! ### The slots alone -/

/-- SNOP as an instruction of its own. -/
def execSnop (s : State) : Host.Outcome State Fault Refusal := oneSlot slotSnop s
/-- SADD as an instruction of its own. -/
def execSadd (d a b : BitVec 5) (s : State) : Host.Outcome State Fault Refusal := oneSlot (slotSadd d a b) s
/-- SSUB as an instruction of its own. -/
def execSsub (d a b : BitVec 5) (s : State) : Host.Outcome State Fault Refusal := oneSlot (slotSsub d a b) s
/-- SMUL as an instruction of its own. -/
def execSmul (d a b : BitVec 5) (s : State) : Host.Outcome State Fault Refusal := oneSlot (slotSmul d a b) s
/-- SAND as an instruction of its own. -/
def execSand (d a b : BitVec 5) (s : State) : Host.Outcome State Fault Refusal := oneSlot (slotSand d a b) s
/-- SOR as an instruction of its own. -/
def execSor (d a b : BitVec 5) (s : State) : Host.Outcome State Fault Refusal := oneSlot (slotSor d a b) s
/-- SXOR as an instruction of its own. -/
def execSxor (d a b : BitVec 5) (s : State) : Host.Outcome State Fault Refusal := oneSlot (slotSxor d a b) s
/-- SSHL as an instruction of its own. -/
def execSshl (d a b : BitVec 5) (s : State) : Host.Outcome State Fault Refusal := oneSlot (slotSshl d a b) s
/-- SSHR as an instruction of its own. -/
def execSshr (d a b : BitVec 5) (s : State) : Host.Outcome State Fault Refusal := oneSlot (slotSshr d a b) s
/-- SSRA as an instruction of its own. -/
def execSsra (d a b : BitVec 5) (s : State) : Host.Outcome State Fault Refusal := oneSlot (slotSsra d a b) s
/-- SLT as an instruction of its own. -/
def execSlt (d a b : BitVec 5) (s : State) : Host.Outcome State Fault Refusal := oneSlot (slotSlt d a b) s
/-- SLTU as an instruction of its own. -/
def execSltu (d a b : BitVec 5) (s : State) : Host.Outcome State Fault Refusal := oneSlot (slotSltu d a b) s
/-- SADDI as an instruction of its own. -/
def execSaddi (d a : BitVec 5) (imm : BitVec 16) (s : State) : Host.Outcome State Fault Refusal := oneSlot (slotSaddi d a imm) s
/-- SLUI as an instruction of its own. -/
def execSlui (d a : BitVec 5) (imm : BitVec 16) (s : State) : Host.Outcome State Fault Refusal := oneSlot (slotSlui d a imm) s
/-- BEQZ as an instruction of its own. -/
def execBeqz (a : BitVec 5) (off : BitVec 16) (s : State) : Host.Outcome State Fault Refusal := oneSlot (slotBeqz a off) s
/-- BNEZ as an instruction of its own. -/
def execBnez (a : BitVec 5) (off : BitVec 16) (s : State) : Host.Outcome State Fault Refusal := oneSlot (slotBnez a off) s
/-- BRU as an instruction of its own. -/
def execBru (off : BitVec 16) (s : State) : Host.Outcome State Fault Refusal := oneSlot (slotBru off) s
/-- LSTART as an instruction of its own. -/
def execLstart (a : BitVec 5) (stages : BitVec 3) (s : State) : Host.Outcome State Fault Refusal := oneSlot (slotLstart a stages) s
/-- LOOP as an instruction of its own. -/
def execLoopS (off : BitVec 16) (s : State) : Host.Outcome State Fault Refusal := oneSlot (slotLoopS off) s
/-- SRD as an instruction of its own. -/
def execSrd (d : BitVec 5) (n : BitVec 16) (s : State) : Host.Outcome State Fault Refusal := oneSlot (slotSrd d n) s
/-- SETSHP as an instruction of its own. -/
def execSetshp (a : BitVec 5) (s : State) : Host.Outcome State Fault Refusal := oneSlot (slotSetshp a) s
/-- SETLB as an instruction of its own. -/
def execSetlb (a : BitVec 5) (s : State) : Host.Outcome State Fault Refusal := oneSlot (slotSetlb a) s

end Sys2Proof.Machine
end

