-- ==== Sys2Proof/Machine/Patch.lean ====
section
/-! DEFINITION. Patch words (R364, R365, R368, R369), the held templates and their bundles (R366, R367, R371), and the
start of a line-core program (R362, R363, R413, R463). -/

namespace Sys2Proof.Machine

/-! ### Templates (R366, R367) -/

/-- The slot that an instruction stands for; none for one that is no slot. -/
def slotOf (i : Instr) : Option Slot :=
  match i with
  | .snop => some slotSnop
  | .sadd d a b => some (slotSadd d a b)
  | .ssub d a b => some (slotSsub d a b)
  | .smul d a b => some (slotSmul d a b)
  | .sand d a b => some (slotSand d a b)
  | .sor d a b => some (slotSor d a b)
  | .sxor d a b => some (slotSxor d a b)
  | .sshl d a b => some (slotSshl d a b)
  | .sshr d a b => some (slotSshr d a b)
  | .ssra d a b => some (slotSsra d a b)
  | .slt d a b => some (slotSlt d a b)
  | .sltu d a b => some (slotSltu d a b)
  | .saddi d a imm => some (slotSaddi d a imm)
  | .slui d a imm => some (slotSlui d a imm)
  | .beqz a off => some (slotBeqz a off)
  | .bnez a off => some (slotBnez a off)
  | .bru off => some (slotBru off)
  | .lstart a stages => some (slotLstart a stages)
  | .loopS off => some (slotLoopS off)
  | .srd d n => some (slotSrd d n)
  | .setshp a => some (slotSetshp a)
  | .setlb a => some (slotSetlb a)
  | .vmov f => some (slotVmov f)
  | .vadd f => some (slotVadd f)
  | .vsub f => some (slotVsub f)
  | .vmul f => some (slotVmul f)
  | .vfma f => some (slotVfma f)
  | .vmin f => some (slotVmin f)
  | .vmax f => some (slotVmax f)
  | .vlerp f => some (slotVlerp f)
  | .vabs f => some (slotVabs f)
  | .vcmp f => some (slotVcmp f)
  | .vsel f => some (slotVsel f)
  | .vand f => some (slotVand f)
  | .vor f => some (slotVor f)
  | .vxor f => some (slotVxor f)
  | .vshl f => some (slotVshl f)
  | .vshr f => some (slotVshr f)
  | .vcvt f => some (slotVcvt f)
  | .vtrn f => some (slotVtrn f)
  | .vbrow f => some (slotVbrow f)
  | .vbcol f => some (slotVbcol f)
  | .vrotc f => some (slotVrotc f)
  | .vperm f => some (slotVperm f)
  | .vrsum f => some (slotVrsum f)
  | .ldw f => some (slotLdw f)
  | .ldwr f => some (slotLdwr f)
  | .ldx f => some (slotLdx f)
  | .stw f => some (slotStw f)
  | .stwr f => some (slotStwr f)
  | .stx f => some (slotStx f)
  | .qnop sem => some (slotQnop sem)
  | .semInit a sm c => some (slotSemInit a sm c)
  | .semAdd sm k => some (slotSemAdd sm k)
  | .semSub sm k => some (slotSemSub sm k)
  | .semRd a sm => some (slotSemRd a sm)
  | .cqpush a sem q => some (slotCqpush a sem q)
  | .cqpop a sem q => some (slotCqpop a sem q)
  | .cpld a sem setf => some (slotCpld a sem setf)
  | .cpst a sem waitf clrf => some (slotCpst a sem waitf clrf)
  | .mmc a sem => some (slotMmc a sem)
  | _ => none

/-- One part of a template: whether its valid bit is set, whether its bits are all zero, and what they decode to. -/
structure Part where
  /-- Its number, as LCERR0.SLOT. -/
  num : Nat
  /-- Its valid bit. -/
  valid : Bool
  /-- Its bits are all zero. -/
  zero : Bool
  /-- Its instruction. -/
  ins : Option Instr
  deriving DecidableEq, Repr

/-- What a decoder of a slot accepts. -/
def okOf (x : Except Reject Instr) : Option Instr :=
  match x with
  | .ok i => some i
  | .error _ => none

/-- The six parts of a template (R366). -/
def partsOf (t : BitVec 256) : List Part :=
  let s0 : BitVec 32 := field t 208 32
  let v0 : BitVec 48 := field t 160 48
  let v1 : BitVec 48 := field t 112 48
  let ld : BitVec 40 := field t 72 40
  let st : BitVec 40 := field t 32 40
  let q : BitVec 32 := field t 0 32
  [ { num := 1, valid := t.getLsbD 255, zero := s0 = 0, ins := okOf (decodeS0 s0) },
    { num := 2, valid := t.getLsbD 254, zero := v0 = 0, ins := okOf (decodeV false v0) },
    { num := 3, valid := t.getLsbD 253, zero := v1 = 0, ins := okOf (decodeV true v1) },
    { num := 4, valid := t.getLsbD 252, zero := ld = 0, ins := okOf (decodeLd ld) },
    { num := 5, valid := t.getLsbD 251, zero := st = 0, ins := okOf (decodeSt st) },
    { num := 6, valid := t.getLsbD 250, zero := q = 0, ins := okOf (decodeQ q) } ]

/-- A part that no bundle can issue: an invalid one with a set bit, or a valid one that does not decode (R366, R371). -/
def Part.bad (p : Part) : Bool := if p.valid then p.ins.isNone else !p.zero

/-- The template as a bundle, or the slot number of the fault that step 3 finds in its bits (R371): reserved header bits
come first. -/
def slotsOfTpl (t : BitVec 256) : Except Nat (List Slot) :=
  if (field t 240 2 : BitVec 2) ≠ 0 then .error 0
  else match (partsOf t).find? Part.bad with
    | some p => .error p.num
    | none => .ok ((partsOf t).filterMap (fun p => if p.valid then p.ins.bind slotOf else none))

/-- Guard A lets V0 and V1 act (R366). -/
def guardA (t : BitVec 256) (sg : BitVec 8) : Bool := !t.getLsbD 243 || sg.getLsbD (field t 247 3 : BitVec 3).toNat
/-- Guard B lets LD, ST and Q act (R366). -/
def guardB (t : BitVec 256) (sg : BitVec 8) : Bool := !t.getLsbD 242 || sg.getLsbD (field t 244 3 : BitVec 3).toNat

/-- The lowest bit of a field in the template (R367). -/
def fieldLow (f : Nat) : Nat :=
  if f = 0x00 then 240
  else if f ≤ 0x14 then [234, 229, 224, 208, 219][f - 0x10]?.getD 0
  else if f ≤ 0x29 then [202, 199, 196, 195, 194, 187, 180, 173, 166, 160][f - 0x20]?.getD 0
  else if f ≤ 0x39 then [154, 151, 148, 147, 146, 139, 132, 125, 118, 112][f - 0x30]?.getD 0
  else if f ≤ 0x44 then [108, 101, 96, 80, 72][f - 0x40]?.getD 0
  else if f ≤ 0x54 then [68, 61, 56, 40, 32][f - 0x50]?.getD 0
  else [26, 21, 15, 9, 0][f - 0x60]?.getD 0

/-- A template with `v` in field `f` (R365). -/
def amend (t : BitVec 256) (f : BitVec 8) (v : BitVec 16) : BitVec 256 :=
  let lo := fieldLow f.toNat
  let n := (fieldWidth f.toNat).getD 0
  let keep : BitVec 256 := ~~~ (BitVec.ofNat 256 ((2 ^ n - 1) * 2 ^ lo))
  (t &&& keep) ||| BitVec.ofNat 256 (v.toNat * 2 ^ lo)

/-! ### Patch words (R364, R368, R369) -/

/-- A patch word in the stream that issues, when it can issue. -/
def patch (f : Nat → Bool → LStream → State → State) (s : State) : Host.Outcome State Fault Refusal :=
  match lineIssuer s with
  | none => .fault .noIssuer
  | some (n, vec, can) => .next (if can then f n vec ((s.lc n).stream vec) s else s)

/-- A cause of the word itself (R371). -/
def wordCause (s : State) (n : Nat) (vec : Bool) (cause arg pc : Nat) : State := haltLc s n cause (partyOf vec) 0 arg pc 0

/-- The next word. -/
def LStream.next (st : LStream) : LStream := { st with pc := (st.pc + 1) % 2 ^ 15, waiting := false }

/-- Issues a template copy as a bundle; the state with the amended copy goes with it (R364, R371). -/
def issueTpl (n : Nat) (vec : Bool) (t : BitVec 256) (amended s : State) : State :=
  let st := (s.lc n).stream vec
  match slotsOfTpl t with
  | .error slot => haltLc s n 0x01 (partyOf vec) slot 0 st.pc 0
  | .ok ks => bundle s amended n vec (guardA t st.sg) (guardB t st.sg) ks

/-- ISSUE_AS_HELD (K = 00, R364). -/
def execIssueAsHeld (t : BitVec 6) (s : State) : Host.Outcome State Fault Refusal :=
  patch (fun n vec st s => match look st.tpl t.toNat with
    | none => wordCause s n vec 0x42 t.toNat st.pc
    | some x => issueTpl n vec x s s) s

/-- AMEND_THEN_ISSUE (K = 01, R364, R365). -/
def execAmendThenIssue (t : BitVec 6) (f : BitVec 8) (v : BitVec 16) (s : State) : Host.Outcome State Fault Refusal :=
  patch (fun n vec st s =>
    if !amendOk f v then wordCause s n vec 0x01 0 st.pc
    else match look st.tpl t.toNat with
    | none => wordCause s n vec 0x42 t.toNat st.pc
    | some x =>
      let y := amend x f v
      issueTpl n vec y (s.updStream n vec (fun st => { st with tpl := set st.tpl t.toNat y })) s) s

/-- AMEND_AND_HOLD (K = 10, R364, R365). -/
def execAmendAndHold (t : BitVec 6) (f : BitVec 8) (v : BitVec 16) (s : State) : Host.Outcome State Fault Refusal :=
  patch (fun n vec st s =>
    if !amendOk f v then wordCause s n vec 0x01 0 st.pc
    else match look st.tpl t.toNat with
    | none => wordCause s n vec 0x42 t.toNat st.pc
    | some x => s.updStream n vec (fun st => { st with tpl := set st.tpl t.toNat (amend x f v) }.next)) s

/-- TPL.LD (R368). -/
def execTplLd (f : BitVec 8) (v : BitVec 16) (s : State) : Host.Outcome State Fault Refusal :=
  patch (fun n vec st s =>
    if 63 < f.toNat then wordCause s n vec 0x01 0 st.pc
    else if st.len < 32 * v.toNat + 32 then wordCause s n vec 0x05 0 st.pc
    else s.updStream n vec (fun st =>
      { st with tpl := set st.tpl f.toNat (BitVec.ofNat 256 (leVal (Mem.readN st.code (32 * v.toNat) 32))) }.next)) s

/-- END (R369): the stream ends and issues no further word. -/
def execEndS (s : State) : Host.Outcome State Fault Refusal :=
  patch (fun n vec _ s => s.updStream n vec (fun st => { st.next with on := false, ended := true })) s

/-- QDRAIN (R369). -/
def execQdrain (s : State) : Host.Outcome State Fault Refusal :=
  patch (fun n vec _ s => if (s.lc n).queuesEmpty then s.updStream n vec LStream.next else s.setWaiting n vec true) s

/-- TRAP (R369): cause 0x28 with n in ARG. -/
def execStreamTrap (n : BitVec 16) (s : State) : Host.Outcome State Fault Refusal :=
  patch (fun k vec st s => wordCause s k vec 0x28 n.toNat st.pc) s

/-! ### Fetch and program start (R362, R363) -/

/-- The patch word at a stream's PC; none when it does not lie wholly within the loaded section (R362). -/
def LStream.fetch (st : LStream) : Option (BitVec 32) :=
  if 4 * st.pc + 4 ≤ st.len then some (BitVec.ofNat 32 (leVal (Mem.readN st.code (4 * st.pc) 4))) else none

/-- A stream at a program start. -/
def LStream.start (bs : List Byte) : LStream := { LStream.zero with code := Mem.cells 0 bs, len := bs.length, on := true }

/-- A program start (R363). The address windows and LCLEN stay. -/
def startLine (s : State) (n : Nat) (cs vs : List Byte) (run : Run) : State :=
  s.updLc n (fun c => { LineCore.zero with
    cs := LStream.start cs, vs := LStream.start vs, lwbase := c.lwbase, lwext := c.lwext, lclen := c.lclen, run := run })

/-- A section of a line-core program is as R463 gives: aligned to 32, 4 to 131,072 bytes, within the pool. -/
def sectionOk (off len : Nat) : Bool := off % 32 = 0 && decide (4 ≤ len ∧ len ≤ 131072 ∧ off + len ≤ poolBytes)
/-- An open stream's LCMASK names the line core. -/
def claimed (s : State) (n : Nat) : Bool := s.streams.any (fun e => e.2.desc.getLsbD (548 + n))
/-- The register offset of a line core's block in the device register space (R372, R426). -/
def lcReg (n off : Nat) : Nat := 0x2000000 + 0x400 * n + off

/-- The store that a halted line core had started completes before a program start empties its queues (R372). -/
def endStore (s : State) (n : Nat) : State :=
  match (s.lc n).stq with
  | k :: _ =>
    if !k.started || copyBad s k then s
    else
      let data := storeData s n k
      let s := storeDrawn s n k
      if copyHeld s k then { s with heldWrites := s.heldWrites ++ [(k.pa, some data)] }
      else (touchCopy s n k true).poke k.pa data
  | [] => s

/-- LCGO (R463): a program start from two pool sections; ignored with a refusal event while the line core runs a program,
or serves an open stream, or where a section is not as the register's fields allow (log entry 26). -/
def execLcgo (lc : Nat) (value : DWord) (s : State) : Host.Outcome State Fault Refusal :=
  let v := value.toNat
  let len := (s.lc lc).lclen.toNat
  if s.lcores ≤ lc then .next s
  else if (s.lc lc).runs || claimed s lc || bits v 63 52 ≠ 0 || !sectionOk (bits v 25 0) (bits len 17 0) ||
      !sectionOk (bits v 51 26) (bits len 49 32) then .next (refuse s (lcReg lc 0x018))
  else
    let sec (off n : Nat) : List Byte := Mem.readN s.mem (poolBase + off) n
    .next (startLine (endStore s lc) lc (sec (bits v 25 0) (bits len 17 0)) (sec (bits v 51 26) (bits len 49 32)) .section_)

end Sys2Proof.Machine
end

