-- ==== Sys2Proof/Machine/Streams.lean ====
section
/-! DEFINITION. Presentation streams: opening and closing (R406, R407, R419, R422), latches, poses and the backwater unit
(R409 to R411, R417), slices and their deadlines (R412 to R415, R418), encoders (R420) and output locks (R421). -/

namespace Sys2Proof.Machine

/-! ### Opening (R406, R419, R422) -/

/-- A reserved bit is set, or a field breaks a range, alignment, multiple or size rule of R405: code 4. -/
def PStream.bad4 (p : PStream) : Bool :=
  p.fld 261 6 ≠ 0 || p.fld 863 812 % 4096 ≠ 0 || p.fld 811 760 % 256 ≠ 0 || p.fld 759 708 % 4096 ≠ 0 || p.fld 707 676 % 256 ≠ 0 ||
  p.fld 675 644 % 4096 ≠ 0 || decide (p.fld 675 644 < 65536) || p.fld 547 522 % 64 ≠ 0 || p.fld 521 496 % 4 ≠ 0 ||
  decide (2 ^ 38 < p.fld 759 708 + p.fld 675 644) || p.fld 495 470 % 256 ≠ 0 || p.fld 469 444 % 32 ≠ 0 || p.fld 443 418 % 32 ≠ 0 || decide (p.fld 417 400 < 4 ∨ 131072 < p.fld 417 400) ||
  decide (p.fld 399 382 < 4 ∨ 131072 < p.fld 399 382) || decide (1024 < p.fld 381 371) || decide (1024 < p.fld 362 352) ||
  decide (p.fld 304 296 < 32 ∨ 256 < p.fld 304 296) || decide (4 < p.nenc) || p.fld 287 262 % 4 ≠ 0

/-- The pool regions of a stream: offset and length (R406). -/
def PStream.poolRegions (p : PStream) : List (Nat × Nat) :=
  [(p.fld 547 522, 64), (p.fld 521 496, 4), (p.fld 287 262, 4), (p.fld 495 470, 2 * p.width * 128), (p.fld 469 444, p.fld 417 400),
   (p.fld 443 418, p.fld 399 382)]
/-- The PA regions of a stream (R406). -/
def PStream.paRegions (p : PStream) : List (Nat × Nat) :=
  [(p.fld 863 812, 3 * p.width * p.height * 4), (p.fld 811 760, p.nfb * p.fld 707 676), (p.fld 759 708, p.fld 675 644)]
/-- A PA region meets an address of a kind whose bounds are multiples of 64 MiB, as those of R14 are; an empty region meets none. -/
def regionMeets (f : Nat → Bool) (r : Nat × Nat) : Bool :=
  r.2 ≠ 0 && (List.range (r.2 / 2 ^ 26 + 2)).any (fun i => f (min (r.1 + 2 ^ 26 * i) (r.1 + r.2 - 1)))
/-- A reserved address (R14). -/
def paReserved (pa : Nat) : Bool := !(inDram pa || inHandoff pa || inRegs pa || inPool pa)
/-- A PA region meets a reserved address (R14, R406). -/
def regionBad (r : Nat × Nat) : Bool := regionMeets paReserved r
/-- A PA region meets the DRAM of a die that the variant lacks (R15, R23). -/
def regionAbsent (s : State) (r : Nat × Nat) : Bool := regionMeets (fun pa => inDram pa && !s.diePresent (pa / 2 ^ 36)) r
/-- The millrace reservations of a stream: vault and units (R422). -/
def PStream.millrace (p : PStream) : List (Nat × Nat) :=
  (if p.desc.getLsbD 370 then [(p.fld 369 363, p.fld 381 371)] else []) ++ (if p.desc.getLsbD 351 then [(p.fld 350 344, p.fld 362 352)] else [])
/-- The units that a stream reserves on a vault. -/
def PStream.mrOn (p : PStream) (v : Nat) : Nat := sumNat ((p.millrace.filter (fun e => e.1 = v)).map (·.2))
/-- The millrace rule refuses the stream (R422). -/
def millraceRefuses (s : State) (part : Nat) (p : PStream) : Bool :=
  p.millrace.any (fun e =>
    let x := s.vault e.1
    decide (1024 < x.floor + x.pin + x.mr + p.mrOn e.1 + 21) || (match look s.parts part with
      | some q => !q.vaults.getLsbD e.1
      | none => true))
/-- Adds a stream's millrace units to its vaults' MR, or takes them away. -/
def applyMillrace (s : State) (p : PStream) (add : Bool) : State :=
  p.millrace.foldl (fun s e =>
    let x := s.vault e.1
    s.setVault e.1 { x with mr := if add then x.mr + e.2 else x.mr - e.2 }) s

/-- The rule of R419 for a pipeline and the streams that it would serve. -/
def pipeFits (ps : List PStream) : Bool :=
  let sum := sumNat (ps.map (fun p => 64 * p.width))
  decide (sum ≤ 288000) && ps.all (fun p => decide (sum ≤ 32 * p.linepc * p.nenc))
/-- The lowest-numbered pipelines of the device that can take the stream; none when there are too few (R24, R419). -/
def pickPipes (s : State) (p : PStream) : Option (List Nat) :=
  let ok := (List.range s.encoders).filter (fun i => pipeFits (p :: (s.streams.filter (fun e => e.2.pipes.contains i)).map (·.2)))
  if ok.length < p.nenc then none else some (ok.take p.nenc)

/-- A condition of R406 that carries code 7. -/
def openRefused (s : State) (part : Nat) (p : PStream) : Bool :=
  let w := p.width
  let h := p.height
  (look s.streams (p.fld 5 0)).isSome || w % 32 ≠ 0 || decide (w < 64 ∨ 7680 < w) || decide (h < 32 ∨ 4320 < h) ||
  decide (p.fld 343 331 ≤ h) || decide (p.fld 343 331 ≤ p.fld 304 296) || decide (p.period < 5000000) ||
  (p.nenc = 0 && !p.dpen) || (decide (0 < p.nenc) && decide (4096 < w)) || p.lcmask = 0 ||
  (List.range 32).any (fun n => p.lcmask.getLsbD n && (s.lc n).run == .section_ && (s.lc n).runs) ||
  p.poolRegions.any (fun r => decide (poolBytes < r.1 + r.2)) ||
  s.streams.any (fun e => e.2.poolRegions.any (fun r => p.poolRegions.any (fun q => decide (q.1 < r.1 + r.2 ∧ r.1 < q.1 + q.2)))) ||
  p.paRegions.any regionBad ||
  (p.dpen && s.streams.any (fun e => e.2.dpen && e.2.fld 289 288 = p.fld 289 288)) || millraceRefuses s part p || (pickPipes s p).isNone

/-- A unit that the stream names is one that the configuration record leaves out: of the E-die, or a vault or the DRAM of a die that is
absent (R23, R24, R434). -/
def openAbsent (s : State) (p : PStream) : Bool :=
  decide (s.maxStreams ≤ p.fld 5 0) || (List.range 32).any (fun n => p.lcmask.getLsbD n && decide (s.lcores ≤ n)) ||
  (p.dpen && decide (s.dpOutputs ≤ p.fld 289 288)) || decide (s.encoders < p.nenc) ||
  p.poolRegions.any (fun r => decide (r.1 + r.2 ≤ poolBytes ∧ s.poolSize < r.1 + r.2)) ||
  p.millrace.any (fun e => !s.diePresent (e.1 / 32)) || p.paRegions.any (regionAbsent s)

/-- A stream as its acceptance makes it: frame 0 starts at the first whole multiple of the frame period, or with DPEN at the output's
next frame start, which lies within a frame period (R406, log entry 48). -/
def newStream (part now : Nat) (desc : BitVec 1024) : PStream :=
  let p : PStream :=
    { part := part, desc := desc, tf := 0, frame := none, latch := (0, 0), pose := { time := 0, q := [0x3F800000, 0, 0, 0, 0, 0, 0] },
      index := 0, listed := [], frames := [], last := none, sbwcnt := 0, sevcnt := 0, slastbw := 0, sbsput := 0, sbsget := 0,
      sbsdrop := 0, sbadidx := 0, pipes := [], key := true, dropping := none, encoded := [], closing := none }
  { p with tf := if p.dpen then pCycles now + 1 + Config.dpPhase (p.fld 289 288) (pCycles now) % p.period
                 else (pCycles now / p.period + 1) * p.period }

/-- STREAM.OPEN: the code of a refusal with its cause, or the stream opened (R406). FIDX reads 0 until the first publication (R410), and
the registers of R423 keep their values (log entry 48). -/
def openStream (s : State) (part : Nat) (desc : BitVec 1024) : Except (Nat × Nat) State :=
  let p := newStream part s.now desc
  if !s.edie then .error (7, 0x02)
  else if p.bad4 then .error (4, 0)
  else if openAbsent s p then .error (7, 0x02)
  else if openRefused s part p then .error (7, 0)
  else
    let n := p.fld 5 0
    let p := { p with pipes := (pickPipes s p).getD [] }.withRegs (get StreamRegs.zero s.sregs n)
    .ok ((({ applyMillrace s p true with streams := set s.streams n p, sregs := del s.sregs n }.poke (poolBase + p.fld 521 496) (toBytes 4 0))).putFstat n)

/-! ### The backwater unit (R417) -/

/-- An FP32 result rounded by .rne. -/
def r32 (x : Ex) : Ex := decode f32 (encodeQuiet f32 x 0 false)
/-- FP32 addition. -/
def rAdd (a b : Ex) : Ex := r32 (Ex.add 0 a b)
/-- FP32 subtraction. -/
def rSub (a b : Ex) : Ex := r32 (Ex.add 0 a b.opp)
/-- FP32 multiplication. -/
def rMul (a b : Ex) : Ex := r32 (Ex.mul a b)
/-- FP32 division. -/
def rDiv (a b : Ex) : Ex :=
  match a, b with
  | .num s n d, .num t m e => if m = 0 then (if n = 0 then .nan else .inf (s != t)) else r32 (.num (s != t) (n * e) (d * m))
  | .inf s, .num t _ _ => .inf (s != t)
  | .num s _ _, .inf t => .num (s != t) 0 1
  | _, _ => .nan
/-- The matrix of a quaternion. -/
def matOf (w x y z : Ex) : List (List Ex) :=
  let one := Ex.ofInt 1
  let two := Ex.ofInt 2
  [[rSub one (rMul two (rAdd (rMul y y) (rMul z z))), rMul two (rSub (rMul x y) (rMul w z)), rMul two (rAdd (rMul x z) (rMul w y))],
   [rMul two (rAdd (rMul x y) (rMul w z)), rSub one (rMul two (rAdd (rMul x x) (rMul z z))), rMul two (rSub (rMul y z) (rMul w x))],
   [rMul two (rSub (rMul x z) (rMul w y)), rMul two (rAdd (rMul y z) (rMul w x)), rSub one (rMul two (rAdd (rMul x x) (rMul y y)))]]
/-- Element (i, j) of a matrix. -/
def matAt (m : List (List Ex)) (i j : Nat) : Ex := ((m[i]?.getD [])[j]?).getD .nan
/-- Component i of a pose's quaternion and position. -/
def Pose.at (q : Pose) (i : Nat) : Ex := decode f32 ((q.q[i]?.getD 0).toNat)
/-- The matrix of a pose. -/
def Pose.mat (q : Pose) : List (List Ex) := matOf (q.at 0) (q.at 1) (q.at 2) (q.at 3)
/-- R(qp)ᵀ R(ql). -/
def relMat (qp ql : Pose) : List (List Ex) :=
  let a := qp.mat
  let b := ql.mat
  (List.range 3).map (fun i => (List.range 3).map (fun j =>
    rAdd (rAdd (rMul (matAt a 0 i) (matAt b 0 j)) (rMul (matAt a 1 i) (matAt b 1 j))) (rMul (matAt a 2 i) (matAt b 2 j))))
/-- A coordinate inside [0, n): its floor. -/
def coordIn (x : Ex) (n : Nat) : Option Nat :=
  match x with
  | .num s k d => if (s && k ≠ 0) || n * d ≤ k then none else some (k / d)
  | _ => none
/-- One pixel: where it samples the present buffer, or none for FILL. -/
def backPixel (p : PStream) (m : List (List Ex)) (x y : Nat) : Option (Nat × Nat) :=
  let fx := decode f32 (p.fld 991 960)
  let fy := decode f32 (p.fld 959 928)
  let cx := decode f32 (p.fld 927 896)
  let cy := decode f32 (p.fld 895 864)
  let dx := rDiv (rSub (.num false (2 * x + 1) 2) cx) fx
  let dy := rDiv (rSub (.num false (2 * y + 1) 2) cy) fy
  let v (i : Nat) : Ex := rAdd (rAdd (rMul (matAt m i 0) dx) (rMul (matAt m i 1) dy)) (matAt m i 2)
  let s2 := v 2
  if s2.isNan || Ex.cmp s2 (.zero false) ≤ 0 then none
  else
    match coordIn (rAdd (rMul fx (rDiv (v 0) s2)) cx) p.width, coordIn (rAdd (rMul fy (rDiv (v 1) s2)) cy) p.height with
    | some u, some w => some (u, w)
    | _, _ => none
/-- The backwater slice of slice k under a pose, from a complete present buffer and its present pose: rows of RGBA8 pixels. -/
def backFrom (s : State) (p : PStream) (last : Option (Nat × Pose)) (k : Nat) (ql : Pose) : List Byte :=
  let fill := toBytes 4 (p.fld 1023 992)
  match last with
  | none => (List.replicate (p.rows k * p.width) fill).flatten
  | some (f, qp) =>
    let m := relMat qp ql
    (List.range (p.rows k)).flatMap (fun r => (List.range p.width).flatMap (fun x =>
      match backPixel p m x (32 * k + r) with
      | some (u, w) => Mem.readN s.mem (p.present f + (w * p.width + u) * 4) 4
      | none => fill))
/-- The backwater slice of slice k at its latch. -/
def backSlice (s : State) (p : PStream) (k : Nat) (ql : Pose) : List Byte := backFrom s p p.last k ql
/-- A link, a port or a halted vault holds an access of the E-die to some line of a span (R21, R319, R445). -/
def edieHeld (s : State) (pa n : Nat) : Bool :=
  (s.links.any (·.2.retraining) || s.ports.any (·.2.retraining) || s.vaults.any (·.2.halt)) &&
    (List.range ((pa + n - 1) / 64 + 1 - pa / 64)).any (fun i => pathHeld s 4 ((pa / 64 + i) * 64))
/-- The reads of the backwater unit from a present buffer are held. -/
def backHeld (s : State) (p : PStream) (last : Option (Nat × Pose)) : Bool :=
  match last with
  | some (f, _) => edieHeld s (p.present f) (p.width * p.height * 4)
  | none => false

/-! ### Latches (R408 to R412) -/

/-- The slice after another in latch order. -/
def PStream.nextLatch (p : PStream) (f k : Nat) : Nat × Nat := if k + 1 < p.slices then (f, k + 1) else (f + 1, 0)
/-- The latched index of a new frame, with SBADIDX (R409). -/
def PStream.latchIndex (p : PStream) (fidx : Word) : PStream :=
  if p.nfb ≤ fidx.toNat % 4 then { p with sbadidx := satAdd p.sbadidx 1 } else { p with index := fidx }
/-- A pose from the 64 mailbox bytes; none when SEQ is odd (R411). -/
def poseOf (mb : List Byte) : Option Pose :=
  let w (o n : Nat) : Nat := leVal ((mb.drop o).take n)
  if w 0 4 % 2 = 1 then none
  else some { time := BitVec.ofNat 64 (w 8 8), q := (List.range 7).map (fun i => BitVec.ofNat 32 (w (16 + 4 * i) 4)) }
/-- The stream after it has read its mailbox: SODD counts an odd snapshot (R411, R423). -/
def PStream.latchPose (p : PStream) (mb : List Byte) : PStream :=
  match poseOf mb with
  | some q => { p with pose := q }
  | none => { p with sevcnt := BitVec.ofNat 32 (p.sevcnt.toNat % 65536 + min (p.sevcnt.toNat / 65536 + 1) 65535 * 65536) }
/-- The stream has been closed at a frame start: no slice is latched (R407). -/
def PStream.closed (p : PStream) : Bool :=
  match p.closing with
  | some (_, b) => b
  | none => false
/-- SLICE_LATCH: the snapshots, the backwater slice, and the launch list (R409 to R412, R417). A backwater slice whose reads are held
is computed once they are free (R21). -/
def execSliceLatch (stream frame slice : Nat) (s : State) : Host.Outcome State Fault Refusal :=
  match look s.streams stream with
  | none => .next s
  | some p =>
    if p.closed || p.latch ≠ (frame, slice) || decide (pCycles s.now < p.latchAt frame slice) then .next s
    else
      let p := if slice = 0 then p.latchIndex (BitVec.ofNat 32 (s.peek (poolBase + p.fld 521 496) 4)) else p
      let p := p.latchPose (Mem.readN s.mem (poolBase + p.fld 547 522) 64)
      let p := if slice = 0 then
          { p with frames := p.frames ++ [{ num := frame, index := p.index, pose := p.pose, ends := [], passed := [], bw := [], owed := [] }] } else p
      let img := backSlice s p slice p.pose
      let late := backHeld s p p.last
      let p := p.updFrame frame (fun x => if late then { x with owed := set x.owed slice (p.pose, p.last) } else { x with bw := set x.bw slice img })
      let p := { p with
        listed := p.listed ++ [{ frame := frame, slice := slice, deadline := p.deadline frame slice, pose := p.pose }]
        latch := p.nextLatch frame slice }
      let s : State := { s with streams := set s.streams stream p }
      .next ((if late then s else s.poke (p.backwater slice) img).putFstat stream)

/-! ### Slices on line cores (R412 to R415, R418) -/

/-- The line core is free for a slice (R412, R415). -/
def lcFree (s : State) (n : Nat) : Bool := decide (n < s.lcores) && !(s.lc n).runs
/-- The listed slices that a line core may take, by stream. -/
def listedFor (s : State) (n : Nat) : List (Nat × PStream × Listed) :=
  s.streams.flatMap (fun e => if e.2.lcmask.getLsbD n then
    (e.2.listed.filter (fun l => decide (pCycles s.now < l.deadline))).map (fun l => (e.1, e.2, l)) else [])
/-- The values of SRD 16 to 31 in a slice program (R414). -/
def sliceVals (stream : Nat) (p : PStream) (l : Listed) : List Word :=
  let t := pToNs l.deadline
  let idx := ((p.frameAt l.frame).map (·.index)).getD 0
  [BitVec.ofNat 32 stream, BitVec.ofNat 32 l.frame, BitVec.ofNat 32 l.slice, BitVec.ofNat 32 (p.rows l.slice), idx] ++ l.pose.q ++
    [BitVec.ofNat 32 l.pose.time.toNat, BitVec.ofNat 32 (l.pose.time.toNat / 2 ^ 32), BitVec.ofNat 32 t, BitVec.ofNat 32 (t / 2 ^ 32)]
/-- The address windows of a slice program: base, extent, R and W of windows 0, 1 and 2 (R413). -/
def sliceWindows (p : PStream) (l : Listed) : List (Nat × Nat × Bool × Bool) :=
  let idx := ((p.frameAt l.frame).map (·.index)).getD 0
  [(p.fld 811 760 + idx.toNat % 4 * p.fld 707 676, p.fld 707 676, true, false),
   (p.sliceRows l.frame l.slice, p.sliceBytes l.slice, false, true),
   match p.last with
   | some (f, _) => (p.present f, p.width * p.height * 4, true, false)
   | none => (0, 0, true, false)]
/-- Writes the windows of a slice program into a line core. -/
def LineCore.setWindows (c : LineCore) (ws : List (Nat × Nat × Bool × Bool)) : LineCore :=
  { c with
    lwbase := ws.zipIdx.foldl (fun t e => setD 0 t e.2 (BitVec.ofNat 64 e.1.1)) []
    lwext := ws.zipIdx.foldl (fun t e => setD 0 t e.2 (BitVec.ofNat 64 (e.1.2.1 % 2 ^ 48 + b2n e.1.2.2.1 * 2 ^ 63 + b2n e.1.2.2.2 * 2 ^ 62))) [] }
/-- SLICE_LAUNCH: a free line core receives the listed slice of earliest deadline, ties by stream and slice, when it is the
lowest-numbered free core of that stream's mask (R412, R413). -/
def execSliceLaunch (lc : Nat) (s : State) : Host.Outcome State Fault Refusal :=
  if !s.edie || !lcFree s lc then .next s
  else match leastBy (fun e => e.2.2.deadline * 2 ^ 16 + e.1 * 2 ^ 8 + e.2.2.slice) (listedFor s lc) with
  | none => .next s
  | some (st, p, l) =>
    if (List.range lc).any (fun n => p.lcmask.getLsbD n && lcFree s n) then .next s
    else
      let s := s.updPs st (fun p => { p with listed := p.listed.filter (fun x => !(x.frame = l.frame && x.slice = l.slice)) })
      let s := s.updLc lc (fun c => c.setWindows (sliceWindows p l))
      .next (startLine s lc (Mem.readN s.mem (poolBase + p.fld 469 444) (p.fld 417 400))
        (Mem.readN s.mem (poolBase + p.fld 443 418) (p.fld 399 382)) (.slice st l.frame l.slice (sliceVals st p l)))
/-- A slice program has come to its end: both streams have ended and the queues are empty (R415). -/
def LineCore.sliceDone (c : LineCore) : Bool := !c.halt && !c.stopped && c.cs.ended && c.vs.ended && c.queuesEmpty
/-- SLICE_COMPLETION (R415). -/
def execSliceCompletion (lc : Nat) (s : State) : Host.Outcome State Fault Refusal :=
  match (s.lc lc).run with
  | .slice st f k _ =>
    if (s.lc lc).sliceDone then .next ((s.updLc lc (fun c => { c with run := .none })).endSlice st f k .complete) else .next s
  | _ => .next s
/-- Stops a slice program: both streams stop, and each queue completes its started command only (R415). -/
def stopSlice (s : State) (lc : Nat) : State := s.updLc lc (fun c => { c.quiet false with stopped := true })
/-- The line core that runs a slice. -/
def coreOf (s : State) (stream frame slice : Nat) : Option Nat :=
  (List.range 32).find? (fun n => match (s.lc n).run with
    | .slice a b c _ => a = stream && b = frame && c = slice
    | _ => false)
/-- SLICE_DEADLINE: a slice that has not ended is stopped, or leaves the list, and is missed (R412, R415, R418). -/
def execSliceDeadline (stream frame slice : Nat) (s : State) : Host.Outcome State Fault Refusal :=
  match look s.streams stream with
  | none => .next s
  | some p => match p.frameAt frame with
    | none => .next s
    | some x =>
      if x.passed.contains slice || (look x.bw slice).isNone && (look x.owed slice).isNone && (look x.ends slice).isNone || decide (pCycles s.now < p.deadline frame slice) then .next s
      else
        let s := s.updPs stream (fun p => { p.updFrame frame (fun x => { x with passed := insertNat slice x.passed }) with
          listed := p.listed.filter (fun l => !(l.frame = frame && l.slice = slice)) })
        if (look x.ends slice).isSome then .next ((s.updPs stream PStream.settle).putFstat stream)
        else match coreOf s stream frame slice with
          | some n =>
            if (s.lc n).sliceDone then .next ((s.updLc n (fun c => { c with run := .none })).endSlice stream frame slice .complete)
            else .next ((stopSlice s n).missSlice stream frame slice)
          | none => .next (s.missSlice stream frame slice)
/-- The backwater slice of a missed slice: computed at its latch, or now if the reads of its latch were held and are free; none while
they are held (R21, R417). -/
def missedImage (s : State) (p : PStream) (x : Frame) (slice : Nat) : Option (List Byte) :=
  match look x.owed slice with
  | some (ql, last) => if backHeld s p last then none else some (backFrom s p last slice ql)
  | none => look x.bw slice
/-- No later latch has taken the backwater buffer k mod 2 of a slice (R417). -/
def PStream.ownsBuffer (p : PStream) (frame slice : Nat) : Bool :=
  let a := p.nextLatch frame slice
  p.latch = a || (p.latch = p.nextLatch a.1 a.2 && a.2 % 2 ≠ slice % 2)
/-- The backwater slice of a latch whose reads were held is computed once they are free, into its buffer (R21, R417). -/
def payOwed (s : State) (stream : Nat) (p : PStream) (frame slice : Nat) (last : Option (Nat × Pose)) (ql : Pose) : State :=
  if backHeld s p last then s
  else
    let img := backFrom s p last slice ql
    let s := s.updPs stream (fun p => (p.updFrame frame (fun x =>
      let finished := match look x.ends slice with
        | none | some .missed => false
        | _ => true
      { x with owed := del x.owed slice, bw := if finished then x.bw else set x.bw slice img })).settle)
    if p.ownsBuffer frame slice then s.poke (p.backwater slice) img else s
/-- BACKWATER_COPY: a slice that its latch still owes is computed; then, after the stopped line core's queues are empty, the backwater
slice goes into the slice's present rows (R418). -/
def execBackwaterCopy (stream frame slice : Nat) (s : State) : Host.Outcome State Fault Refusal :=
  match look s.streams stream with
  | none => .next s
  | some p => match (p.frameAt frame).bind (fun x => look x.owed slice) with
  | some (ql, last) => .next (payOwed s stream p frame slice last ql)
  | none => match (p.frameAt frame).bind (fun x => if look x.ends slice = some .missed then look x.bw slice else none) with
    | none => .next s
    | some img =>
      if edieHeld s (p.sliceRows frame slice) (p.sliceBytes slice) then .next s
      else match coreOf s stream frame slice with
      | some n =>
        if !(s.lc n).queuesEmpty then .next s
        else .next (((s.updLc n (fun c => { c with run := .none })).poke (p.sliceRows frame slice) img).endSlice stream frame slice .copied)
      | none => .next ((s.poke (p.sliceRows frame slice) img).endSlice stream frame slice .copied)

/-! ### Frames, closing and outputs (R407, R408, R421) -/

/-- A line core still works for a stream: it runs one of its slices, or completes a started command of one. -/
def worksFor (s : State) (stream n : Nat) : Bool :=
  match (s.lc n).run with
  | .slice a _ _ _ => a = stream && (s.lc n).runs
  | _ => false
/-- Tile row r of a frame may be encoded: its slices' deadlines have passed (R420). -/
def PStream.rowReady (p : PStream) (x : Frame) (r : Nat) : Bool :=
  let ks := [2 * r, 2 * r + 1].filter (· < p.slices)
  ks != [] && ks.all (fun k => x.passed.contains k)
/-- A tile row that may be encoded is not encoded yet. -/
def PStream.encoding (p : PStream) : Bool :=
  decide (0 < p.nenc) && p.frames.any (fun x => (List.range ((p.slices + 1) / 2)).any (fun r => p.rowReady x r && !p.encoded.contains (x.num, r)))
/-- The end of a close: the regions, pipelines and millrace units are released and the packet completes (R407, R422). The registers keep
their values (R423). -/
def releaseStream (s : State) (stream : Nat) (p : PStream) : State :=
  let s := ({ applyMillrace s p false with streams := del s.streams stream, sregs := setD StreamRegs.zero s.sregs stream p.regs }).poke (poolBase + p.fld 287 262) (toBytes 4 0)
  let s := (List.range 32).foldl (fun s n => match (s.lc n).run with
    | .slice a _ _ _ => if a = stream then s.updLc n (fun c => { c with run := .none }) else s
    | _ => s) s
  match p.closing with
  | some (pk, _) => s.setQueue pk.1 { s.queue pk.1 with flights := (s.queue pk.1).flights.map (fun f => if f.num = pk.2 then { f with done := true } else f) }
  | none => s
/-- Ends a close once every started copy and encode has completed (R407). -/
def tryRelease (s : State) (stream : Nat) : State :=
  match look s.streams stream with
  | none => s
  | some p => if p.closed && !(List.range 32).any (worksFor s stream) && !p.encoding then releaseStream s stream p else s
/-- FRAME_START: the next frame begins (R408). A stream that is closing stops here: its list is empty, its running slices are
stopped and missed (R415), and it is released when the started copies and encodes are done (R407, log entry 28). -/
def execFrameStart (stream : Nat) (s : State) : Host.Outcome State Fault Refusal :=
  match look s.streams stream with
  | none => .next s
  | some p =>
    if p.closed then .next (tryRelease s stream)
    else
      let f := match p.frame with
        | some f => f + 1
        | none => 0
      if pCycles s.now < p.tfOf f then .next s
      else match p.closing with
        | none => .next (s.updPs stream (fun p => { p with tf := p.tfOf f, frame := some f }))
        | some (pk, _) =>
          let s := s.updPs stream (fun p => { p with tf := p.tfOf f, frame := some f, listed := [], closing := some (pk, true) })
          .next (tryRelease ((List.range 32).foldl (fun s n => match (s.lc n).run with
            | .slice a b k _ => if a = stream && (s.lc n).runs && !(s.lc n).halt && !(s.lc n).stopped then (stopSlice s n).missSlice stream b k else s
            | _ => s) s) stream)
/-- DP_LINE_START: the output's line start moves TF of the frame in scan-out (R421). -/
def execDpLineStart (stream start : Nat) (s : State) : Host.Outcome State Fault Refusal :=
  match look s.streams stream with
  | none => .next s
  | some p => if p.dpen then .next (s.updPs stream (fun p => { p with tf := start })) else .next s

/-! ### Encoders (R420) -/

/-- The RGBA8 rows of slice k that the encoder reads: of a missed slice the backwater slice, else its present rows (R418). -/
def PStream.source (p : PStream) (s : State) (x : Frame) (k : Nat) : List Byte :=
  match look x.ends k with
  | some .missed => (missedImage s p x k).getD []
  | _ => Mem.readN s.mem (p.sliceRows x.num k) (p.sliceBytes k)
/-- A link, a port or a halted vault holds what the encoder reads or writes for a tile row. -/
def PStream.rowHeld (p : PStream) (s : State) (x : Frame) (r : Nat) : Bool :=
  ([2 * r, 2 * r + 1].filter (· < p.slices)).any (fun k => match look x.ends k with
    | some .missed => (missedImage s p x k).isNone
    | _ => edieHeld s (p.sliceRows x.num k) (p.sliceBytes k)) || edieHeld s (p.fld 759 708) (p.fld 675 644)
/-- The slices of a tile row. -/
def PStream.rowSlices (p : PStream) (r : Nat) : List Nat := [2 * r, 2 * r + 1].filter (· < p.slices)
/-- The slice came from the backwater path. -/
def fromBackwater (x : Frame) (k : Nat) : Bool :=
  match look x.ends k with
  | some .missed | some .copied => true
  | _ => false
/-- A chunk: its header, its bytes, and the padding to 32. -/
def chunkOf (x : Frame) (r : Nat) (key : Bool) (bs : List Byte) : List Byte :=
  toBytes 8 x.num ++ toBytes 4 r ++ toBytes 4 bs.length ++
    toBytes 4 (b2n key + b2n (fromBackwater x (2 * r)) * 2 + b2n (fromBackwater x (2 * r + 1)) * 4) ++ List.replicate 12 0 ++ bs ++
    List.replicate ((32 - bs.length % 32) % 32) 0
/-- Writes bytes into the ring, across its end. -/
def ringWrite (s : State) (p : PStream) (bs : List Byte) : State :=
  let base := p.fld 759 708
  let size := p.fld 675 644
  let at0 := p.sbsput.toNat % size
  (s.poke (base + at0) (bs.take (size - at0))).poke base (bs.drop (size - at0))
/-- The room before SBSGET: the ring is empty when both offsets agree, and a chunk never fills it wholly (log entry 29). -/
def ringFits (p : PStream) (n : Nat) : Bool :=
  let size := p.fld 675 644
  decide ((p.sbsput.toNat + size - p.sbsget.toNat % size) % size + n < size)
/-- A tile row is done with: encoded or dropped. The next frame is a key frame after a dropped one, else an inter frame. -/
def PStream.rowDone (p : PStream) (x : Frame) (r : Nat) : PStream :=
  let p := { p with encoded := p.encoded ++ [(x.num, r)] }
  let p := if p.allEncoded x then { p with key := p.dropping.isSome, dropping := none } else p
  p.settle
/-- TILE_ROW_ENCODE: the pipeline of the row's position codes its rows, and a chunk is written, or the rest of the frame is dropped
(R418 to R420). Rows of a frame wait for the frame before it. -/
def execTileRowEncode (stream frame row : Nat) (s : State) : Host.Outcome State Fault Refusal :=
  match look s.streams stream with
  | none => .next s
  | some p => match p.frameAt frame with
    | none => .next s
    | some x =>
      if p.nenc = 0 || p.encoded.contains (frame, row) || p.rowSlices row = [] || !(p.rowSlices row).all (fun k => x.passed.contains k) ||
          p.frames.any (fun y => decide (y.num < frame) && !p.allEncoded y) || p.rowHeld s x row then .next s
      else
        let pipe := (p.pipes[row % p.nenc]?).getD 0
        let chunk := chunkOf x row p.key (Config.av1Bytes s.free p.key (p.fld 643 612) pipe ((p.rowSlices row).flatMap (p.source s x)))
        let s := s.freed 1
        if p.dropping.isSome then .next (s.updPs stream (fun p => p.rowDone x row))
        else if ringFits p chunk.length then
          .next ((ringWrite s p chunk).updPs stream (fun p =>
            { p with sbsput := BitVec.ofNat 32 ((p.sbsput.toNat + chunk.length) % p.fld 675 644) }.rowDone x row))
        else .next (s.updPs stream (fun p => { p with sbsdrop := p.sbsdrop + 1, dropping := some frame }.rowDone x row))

end Sys2Proof.Machine
end

