-- ==== Sys2Proof/Machine/Queues.lean ====
section
/-! DEFINITION. The queue engines: take-up, checks, waits and issue of packets, queue errors, timelines (R427 to R436). -/

namespace Sys2Proof.Machine

/-! ### Where rings and records may lie (R427) -/

/-- A legal QSIZE (R428). -/
def queueSize (n : Nat) : Bool := (List.range 13).any (fun i => n = 4096 * 2 ^ i)

/-! ### Packet types (R434) -/

/-- A packet type. -/
structure PType where
  /-- TYPE. -/
  typ : Nat
  /-- It belongs on queue 0. -/
  admin : Bool
  /-- It names a context. -/
  named : Bool
  /-- The body's words; the least number of a body whose length depends on its own fields. -/
  words : Nat
  deriving DecidableEq, Repr

/-- The packet types, by TYPE. -/
def packetTypes : List PType :=
  [⟨0x01, true, false, 9⟩, ⟨0x02, true, false, 1⟩, ⟨0x03, true, false, 8⟩, ⟨0x04, true, false, 4⟩, ⟨0x05, true, false, 1⟩,
   ⟨0x06, true, false, 1⟩, ⟨0x07, true, false, 2⟩, ⟨0x08, true, false, 7⟩, ⟨0x09, true, false, 1⟩, ⟨0x10, false, false, 0⟩,
   ⟨0x11, false, true, 4⟩, ⟨0x12, false, true, 0⟩, ⟨0x13, false, true, 2⟩, ⟨0x14, false, true, 0⟩, ⟨0x15, false, true, 1⟩,
   ⟨0x16, false, true, 2⟩, ⟨0x17, false, true, 12⟩, ⟨0x18, false, true, 1⟩, ⟨0x19, false, false, 16⟩, ⟨0x1A, false, false, 1⟩,
   ⟨0x1B, false, true, 1⟩, ⟨0x1C, false, true, 2⟩]

/-- The packet type of a TYPE value. -/
def ptypeOf (typ : Nat) : Option PType := packetTypes.find? (fun t => t.typ = typ)
/-- A type whose body's length depends on its fields: PART.RESIZE and RESUME. -/
def elastic (typ : Nat) : Bool := typ = 0x03 || typ = 0x15

/-- Word n of a body. -/
def pword (p : Packet) (n : Nat) : Nat := (p.body[n]?.getD 0).toNat
/-- The body as one number. -/
def pnum (p : Packet) : Nat := leVal (p.body.flatMap (fun x => toBytes 8 x.toNat))
/-- The words that the body of a type must have, from its own fields. -/
def pneed (p : Packet) (t : PType) : Nat :=
  if t.typ = 0x03 then 8 + 17 * (pword p 5 % 65536) else if t.typ = 0x15 then (if bit (pword p 0) 0 then 17 else 1) else t.words

/-! ### Fields of the bodies (R222, R405, R434) -/

/-- A reserved bit of a spring declaration is set, or a field is out of range or breaks a rule given with it (R222). -/
def springBad (n : Nat) : Bool :=
  let blk := bits n 116 112
  bits n 511 416 ≠ 0 || bits n 383 377 ≠ 0 || bits n 319 304 ≠ 0 || bits n 255 244 ≠ 0 || bits n 191 180 ≠ 0 || bits n 119 117 ≠ 0 ||
  bits n 63 57 ≠ 0 || decide (blk < 12 ∨ 21 < blk) || bits n 56 0 % 2 ^ blk ≠ 0 || bits n 243 192 % 2 ^ blk ≠ 0 ||
  bits n 179 128 % 4096 ≠ 0 || bits n 111 64 = 0 || bits n 111 64 % 2 ^ blk ≠ 0 || bits n 303 256 = 0 || bits n 303 256 % 2 ^ blk ≠ 0

/-- A reserved bit of the body is set, or a field lies outside its range or breaks its alignment, multiple or size rule
(R434). -/
def bodyBad (s : State) (p : Packet) : Bool :=
  let w := pword p
  match p.typ.toNat with
  | 0x01 => 64 ≤ w 0 || w 5 % 4096 ≠ 0 || !ringSize (bits (w 6) 16 0) || bits (w 6) 31 17 ≠ 0 || bits (w 6) 39 37 ≠ 0 || bits (w 6) 63 47 ≠ 0
  | 0x02 => 64 ≤ w 0
  | 0x03 => 64 ≤ w 0 || 65536 ≤ w 5 || (List.range (w 5 % 65536)).any (fun i => decide (2 ^ 32 ≤ w (8 + 17 * i)))
  | 0x04 => 2 ^ 14 ≤ w 0 || w 0 % 256 = 0 || w 1 % 4096 ≠ 0 || !queueSize (w 2) || w 3 % 8 ≠ 0
  | 0x05 => 256 ≤ w 0
  | 0x06 => w 0 % 4096 ≠ 0
  | 0x07 => w 0 % 4096 ≠ 0
  | 0x08 => w 6 % 64 ≠ 0
  | 0x09 => 4 ≤ w 0
  | 0x11 => w 0 % 4096 ≠ 0 || w 1 % 4096 ≠ 0 || w 2 % 4096 ≠ 0 || 4 ≤ w 3
  | 0x13 => 2 ^ 57 ≤ w 0 || 16 ≤ w 1
  | 0x15 => 2 ≤ w 0
  | 0x16 => w 0 % 4096 ≠ 0 || 2 ^ 57 ≤ w 0 || w 1 % 4096 ≠ 0
  | 0x17 => springBad (pnum p)
  | 0x18 => 64 ≤ w 0
  | 0x19 => s.edie && (newStream 0 s.now (BitVec.ofNat 1024 (pnum p))).bad4
  | 0x1A => 64 ≤ w 0
  | 0x1B => 65536 ≤ w 0
  | 0x1C => 2 ≤ w 1
  | _ => false

/-! ### The checks of a packet (R429 to R434) -/

/-- A wait entry names a queue that the packet's queue may not name, or one that is not enabled (R432). -/
def waitBad (s : State) (q : Nat) (e : Nat × DWord) : Bool :=
  !(s.queue e.1).en || !(q = 0 || e.1 = 0 || (s.queue e.1).part = (s.queue q).part)

/-- The checks of a packet that has been read, and the code of the first that fails (R429 to R434). -/
def checkPacket (s : State) (p : Packet) : Option Nat :=
  match ptypeOf p.typ.toNat with
  | none => some 3
  | some t =>
    if t.admin != (p.queue = 0) then some 9
    else if p.body.length ≠ pneed p t then some 1
    else if p.reserved || (!p.sig && p.sigval ≠ 0) || (!t.named && p.context ≠ 0) || bodyBad s p then some 4
    else if p.sig && (p.sigval - (s.queue p.queue).last).toInt ≤ 0 then some 5
    else if p.waits.any (waitBad s p.queue) then some 6
    else none

/-- The context that a packet names: it must be one of the queue's partition; CTX.CREATE names one that is not there
(R434). -/
def contextBad (s : State) (p : Packet) : Bool :=
  match ptypeOf p.typ.toNat with
  | some t =>
    if !t.named then false
    else match look s.ctxs p.context.toNat with
      | some c => p.typ = 0x11 || c.part != (s.queue p.queue).part
      | none => p.typ ≠ 0x11 || p.context = 0
  | none => false

/-! ### Errors and completion (R433, R436) -/

/-- A queue that QUEUE.DESTROY names goes once every packet taken up from it has completed. -/
def finishQueue (s : State) (q : Nat) : State :=
  let x := s.queue q
  match x.closing with
  | some n => if x.head.isNone && x.flights = [] then (s.setQueue q Queue.zero).completePacket (0, n) else s
  | none => s

/-- A queue error at a packet of a QGET: the queue halts (R436). -/
def queueErrorAt (s : State) (q : Nat) (get : Word) (code cause : Nat) : State :=
  let x := s.queue q
  let err : Nat := get.toNat * 2 ^ 32 + cause * 2 ^ 8 + code
  let s := s.setQueue q { x with halt := true, wait := false, head := none, err := BitVec.ofNat 64 err }
  finishQueue (postEvent s (if q = 0 then 64 else x.part) 2 (eventBody [(0, q), (8, err)])) q

/-- A queue error: the queue halts before the packet (R436). -/
def queueError (s : State) (q code cause : Nat) : State := queueErrorAt s q (s.queue q).get code cause

/-- How the issue of a packet ends. -/
inductive PEnd where
  /-- A refusal: code and cause. -/
  | refuse (s : State) (code cause : Nat)
  /-- It takes effect and has completed. -/
  | done (s : State)
  /-- It takes effect and completes later. -/
  | later (s : State)
  /-- It waits. -/
  | wait

/-- The packet's number on its queue, should it issue. -/
def pid (p : Packet) (s : State) : Nat × Nat := (p.queue, (s.queue p.queue).next)

/-- A packet has issued (R429, R431, R433). -/
def issued (p : Packet) (fin : Bool) (s : State) : State :=
  let x := s.queue p.queue
  finishQueue (s.setQueue p.queue { x with
    flights := x.flights ++ [{ num := x.next, sig := if p.sig then some p.sigval else none, done := fin }]
    next := x.next + 1
    get := x.get + BitVec.ofNat 32 (8 * p.len)
    head := none
    wait := false
    last := if p.sig then p.sigval else x.last }) p.queue

/-- The issue of a packet with its effect, on a queue that runs (R429 to R436). -/
def runPacket (p : Packet) (eff : Packet → State → PEnd) (s : State) : State :=
  if !(s.queue p.queue).en || (s.queue p.queue).halt then s
  else match checkPacket s p with
  | some code => queueError s p.queue code 0
  | none =>
    if contextBad s p then queueError s p.queue 7 0
    else match eff p s with
    | .refuse s' code cause => queueError s' p.queue code cause
    | .done s' => issued p true s'
    | .later s' => issued p false s'
    | .wait => s

/-! ### Take-up (R429, R430) -/

/-- A word of the ring from a free-running offset. -/
def ringWord (s : State) (x : Queue) (i : Nat) : Nat :=
  leVal ((List.range 8).map (fun k => Mem.read s.mem (x.base.toNat + (x.get.toNat + 8 * i + k) % x.size.toNat)))

/-- A port or a halted vault holds the read of the first words at the head of a ring (R319, R445). -/
def ringHeld (s : State) (x : Queue) (words : Nat) : Bool :=
  (List.range words).any (fun i => linkHeld s (x.base.toNat + (x.get.toNat + 8 * i) % x.size.toNat) 8)

/-- The packet at the head of a ring. -/
def readPacket (s : State) (q : Nat) (x : Queue) (len : Nat) : Packet :=
  let w := (List.range len).map (ringWord s x)
  let at' (i : Nat) : Nat := w[i]?.getD 0
  let h := at' 0
  let nw := bits h 12 10
  { queue := q, typ := BitVec.ofNat 8 h, context := BitVec.ofNat 32 (at' 2), bar := bit h 9, sig := bit h 8, sigval := BitVec.ofNat 64 (at' 1)
    waits := (List.range nw).map (fun i => (at' (4 + 2 * i) % 256, BitVec.ofNat 64 (at' (3 + 2 * i)))), len := len
    reserved := bits h 63 32 ≠ 0 || bits h 15 13 ≠ 0 || decide (2 ^ 32 ≤ at' 2) || decide (4 < nw) ||
      (List.range nw).any (fun i => decide (256 ≤ at' (4 + 2 * i)))
    body := (w.drop (3 + 2 * nw)).map (BitVec.ofNat 64) }

/-- The code that the header alone gives (R429, step 2). A LEN above QSIZE gives code 2 before a mismatch gives code 1, as
the example after R445 has it (log entry 30). -/
def headerCode (x : Queue) (h : Nat) : Option Nat :=
  let len := bits h 31 16
  let least (t : PType) : Nat := 3 + 2 * bits h 12 10 + t.words
  if len = 0 then some 1
  else if x.size.toNat < 8 * len then some 2
  else match ptypeOf (bits h 7 0) with
    | none => none
    | some t => if (elastic t.typ && len < least t) || (!elastic t.typ && len ≠ least t) then some 1 else none

/-- PACKET_TAKE_UP (R429). -/
def execPacketTakeUp (q : Nat) (s : State) : Host.Outcome State Fault Refusal :=
  let x := s.queue q
  if !x.en || x.halt || x.head.isSome || x.closing.isSome || x.size = 0 then .next s
  else
    let s := s.setQueue q { x with seen := x.put }
    let avail := (x.put - x.get).toNat
    let h := ringWord s x 0
    if x.size.toNat < avail then .next (queueError s q 8 0)
    else if avail < 8 || ringHeld s x 1 then .next s
    else match headerCode x h with
    | some c => .next (queueError s q c 0)
    | none =>
      if avail < 8 * bits h 31 16 || ringHeld s x (bits h 31 16) then .next s
      else
        let p := readPacket s q x (bits h 31 16)
        match checkPacket s p with
        | some c => .next (queueError s q c 0)
        | none => .next (s.setQueue q { s.queue q with head := some p })

/-- A wait entry is satisfied (R432). -/
def waitMet (s : State) (e : Nat × DWord) : Bool := decide (0 ≤ ((s.queue e.1).tlval - e.2).toInt)
/-- The head packet's waits are satisfied, and with BAR every earlier packet has completed (R431, R432). -/
def mayIssue (s : State) (p : Packet) : Bool :=
  p.waits.all (waitMet s) && (!p.bar || (s.queue p.queue).flights.all (·.done))

/-- TIMELINE_ADVANCE (R433): the timeline takes the greatest SIGVAL among the packets that have completed with every earlier
one, and the mirror is written with it: while a port or a halted vault holds that write, the advance waits (R445). -/
def execTimelineAdvance (q : Nat) (s : State) : Host.Outcome State Fault Refusal :=
  let x := s.queue q
  let out := x.flights.takeWhile (·.done)
  let x' := { x with flights := x.flights.dropWhile (·.done) }
  match (out.filterMap (·.sig)).getLast? with
  | none => .next (finishQueue (s.setQueue q x') q)
  | some v =>
    if x.tlmir ≠ 0 && linkHeld s x.tlmir.toNat 8 then .next s
    else
    let s := s.setQueue q { x' with tlval := v }
    .next (finishQueue (if x.tlmir = 0 then s else s.poke x.tlmir.toNat (toBytes 8 v.toNat)) q)

/-! ### The host's writes of queue registers (R428, R436) -/

/-- QPUT (R428): bits [2:0] are ignored. -/
def execQput (q : Nat) (value : Word) (s : State) : Host.Outcome State Fault Refusal :=
  if 255 < q then .next s else .next (s.setQueue q { s.queue q with put := value &&& 0xFFFFFFF8 })

/-- QCTL with RESTART (R436), whether the queue is enabled or not. -/
def execQctlRestart (q : Nat) (value : DWord) (s : State) : Host.Outcome State Fault Refusal :=
  if value.getLsbD 1 && decide (q < 256) then
    .next (s.setQueue q { s.queue q with get := BitVec.ofNat 32 (bits value.toNat 63 35 * 8), halt := false, head := none, wait := false })
  else .next s

/-- QCTL with ENABLE (R428, R440): queue 0 alone, once the firmware releases queues and the ring is one that R427 and R428
allow. -/
def execQctlEnable (value : DWord) (s : State) : Host.Outcome State Fault Refusal :=
  let x := s.queue 0
  if value.getLsbD 0 && bits s.host.fwstat.toNat 29 28 = 2 && queueSize x.size.toNat && hostSpan s x.base.toNat x.size.toNat then
    .next (s.setQueue 0 { x with en := true })
  else .next s

end Sys2Proof.Machine
end

