-- ==== Sys2Proof/Machine/Contexts.lean ====
section
/-! DEFINITION. Pre-emption, context images, resume and remap (R352 to R359), and the packets that act on a context. -/

namespace Sys2Proof.Machine

/-- What a context image holds (R355). -/
structure Image where
  /-- The context. -/
  ctx : Nat
  /-- Its saved teams, with their members, lanes, stores and tiles. -/
  teams : List (Nat × Team)
  /-- Its journal and matrix entries in order. -/
  cmds : List Command
  /-- Its virtual-reach map. -/
  map : Sparse (Option Nat)
  /-- Its kept holdings. -/
  kept : List Kept
  deriving DecidableEq, Repr

end Sys2Proof.Machine

namespace Sys2Proof.Config

/-- The body of a context image by what it holds (R355: its layout is internal to the device, log entry 5). -/
opaque imageBody : Machine.Image → List Byte

end Sys2Proof.Config

namespace Sys2Proof.Machine

/-! ### Pre-emption (R352, R353) -/

/-- The teams of a context. -/
def teamsOf (s : State) (ctx : Nat) : List (Nat × Team) := s.teams.filter (fun e => e.2.ctx = ctx)

/-- The team belongs to a context. -/
def ofCtx (s : State) (ctx tk : Nat) : Bool := ((look s.teams tk).map (·.ctx)) == some ctx

/-- Changes a context. -/
def State.updCtx (s : State) (n : Nat) (f : Context → Context) : State := { s with ctxs := upd s.ctxs n f }

/-- Changes every team of a context. -/
def State.updTeamsOf (s : State) (ctx : Nat) (f : Team → Team) : State :=
  { s with teams := s.teams.map (fun e => if e.2.ctx = ctx then (e.1, f e.2) else e) }

/-- A request to pre-empt a context (R352): a member in a handler or under MASK has it latched. -/
def requestSave (s : State) (ctx : Nat) : State :=
  (s.updCtx ctx (fun c => { c with st := .preempting s.now })).updTeamsOf ctx (fun t =>
    { t with members := t.members.map (fun m => { m with trap := { m.trap with ppend := m.trap.inh || m.trap.mask } }) })

/-- A command at which the save must wait: a journal entry whose completion record has been begun (R268), or a started matrix
entry that runs to its end or may still complete within 80 µs of the request (R288). -/
def holdsSave (now since : Nat) (k : Command) : Bool :=
  match k.phase, k.job with
  | .record i .., _ => if k.matrix then decide (now < since + 80000) else i.isSome
  | .started, .mma .. => true
  | .started, .accZero _ => true
  | .started, .accRet .. => decide (now < since + 80000)
  | .started, .metaLd .. => decide (now < since + 80000)
  | _, _ => false

/-- The image of a context leaves the device: its save area lies in the CXL pool window (R359, log entry 81). -/
def Context.leaves (c : Context) : Bool := inPool c.save

/-- Every state of the context but its versions has reached the point at which it is saved (R353). -/
def stateReady (s : State) (ctx since : Nat) : Bool :=
  (teamsOf s ctx).all (fun e => e.2.doom.isNone && e.2.members.all (fun m => !((m.trap.inh || m.trap.mask) && m.park.isNone && m.lanes != []))) &&
  (teamsOf s ctx).all (fun e => e.2.rels.all (fun r => r.accesses = [])) && !s.cmds.any (fun k => ofCtx s ctx k.team && holdsSave s.now since k)

/-- The save of a context can be performed: its states have reached their points (R353); where the image leaves the device, every
team's commit fits in its horizon share (R212, R359); and nothing holds the writing of the image (R319, R445). -/
def saveReady (s : State) (ctx since : Nat) : Bool :=
  stateReady s ctx since && (match look s.ctxs ctx with
    | none => true
    | some c => !linkHeld s c.save (max 1 c.saveBytes) && (!c.leaves || (teamsOf s ctx).all (fun e => commitFits s e.1 e.2)))

/-- A command that a save keeps as it stands: a COLL that has joined (R268), and a command that has ended in ERROR and has only
its record to write. -/
def Command.kept (k : Command) : Bool :=
  match k.phase, k.job with
  | .joined _, _ => true
  | .result _, _ => true
  | .record .., .coll .. => true
  | .record _ status .., _ => status ≠ 0
  | _, _ => false

/-- The save of a command: it is kept, or it is discarded to be accepted again. One that has started reads its tokens no more
(R247, R268, R288). -/
def saveCmd (s : State) (k : Command) : State :=
  if k.kept then s.updCmd k.id (fun k => { k with stop := .none })
  else (uncount s k).updCmd k.id (fun k => { k with phase := .accepted, stop := .none, uses := if k.phase = .accepted then k.uses else [] })

/-- What the image of a context holds. -/
def imageOf (s : State) (ctx : Nat) : Image :=
  { ctx := ctx, teams := teamsOf s ctx, cmds := s.cmds.filter (fun k => ofCtx s ctx k.team)
    map := ((look s.ctxs ctx).map (·.map)).getD [], kept := s.kept.filter (fun k => k.ctx = ctx) }

/-- The bytes of a context image: its header and its body, in whole KiB (R355). -/
def imageBytes (s : State) (ctx : Nat) : List Byte :=
  let body := Config.imageBody (imageOf s ctx)
  let kib := (64 + body.length + 1023) / 1024
  let rest := body ++ List.replicate (1024 * kib - 64 - body.length) 0
  let left := (look s.ctxs ctx).any (·.leaves)
  toBytes 64 ((teamsOf s ctx).length + b2n left * 2 ^ 47 + partOf s ctx * 2 ^ 48 + 2 ^ 56 + ctx * 2 ^ 64 + kib * 2 ^ 96 +
    (Config.sha384 rest).toNat * 2 ^ 128) ++ rest

/-- A team whose image leaves the device: its version is committed, its marks go to the horizon, and its region ends (R359). -/
def leaveDevice (s : State) (e : Nat × Team) : State :=
  (commitVersion s e.1 e.2).updTeam e.1 (fun t => { t with ver := { t.ver with ended := true } })

/-- The spring waits and the misses on their way of a context's members and commands are dropped (R244, R353). -/
def dropWaits (s : State) (ctx : Nat) : State :=
  let on (w : Waiter) : Bool := match waiterTeam s w with
    | some (_, t, _) => t.ctx = ctx
    | none => false
  { s with
    springs := s.springs.map (fun e => (e.1, { e.2 with waiters := e.2.waiters.filter (fun w => !on w.2) }))
    misses := s.misses.filter (fun x => !on x.who) }

/-- The save of a context: results drain, commands are discarded, the teams leave their cores, versions are committed where the
image leaves the device, the image is written and the event is posted (R352 to R355, R359). -/
def saveContext (s : State) (ctx : Nat) (c : Context) (since : Nat) : State :=
  let s := (s.cmds.filter (fun k => ofCtx s ctx k.team)).foldl saveCmd s
  let s := (teamsOf s ctx).foldl (fun s e => e.2.members.foldl (fun s m => s.settleQueues e.1 m.id) s) s
  let s := (dropWaits s ctx).updTeamsOf ctx (fun t =>
    { t with saved := true, members := t.members.map (fun m => { m.drain with trap := { m.trap with ppend := false } }) })
  let s := if c.leaves then (teamsOf s ctx).foldl leaveDevice s else s
  let s := s.poke c.save ((imageBytes s ctx).take c.saveBytes)
  let s := c.preempters.foldl State.completePacket (s.updCtx ctx (fun c => { c with st := .saved, preempters := [] }))
  postEvent s c.part 7 (eventBody [(0, ctx), (8, s.now - since)])

/-! ### Resume (R354, R356 to R358) -/

/-- The remap of 128 bytes: byte v holds the valid bit and the physical reach of virtual reach v (R357, R434). -/
def remapOf (n : Nat) : Sparse (Option Nat) :=
  (List.range 128).foldl (fun m v => let b := bits n (8 * v + 7) (8 * v)
    setD (some v) m v (if bit b 7 then some (b % 128) else none)) []

/-- The physical core of a virtual core under a map. -/
def coreUnder (map : Sparse (Option Nat)) (v : Nat) : Option Nat :=
  (get (some (reachOf v)) map (reachOf v)).map (fun r => coreAt r (offsetIn v))

/-- A team's position in its cluster's rectangle. -/
def Team.pos (t : Team) : Nat := t.task.toNat % 2 ^ 48 - t.seat.run

/-- A cluster's rectangle stands whole on one die, or is unmapped as a whole, under a map (R358). -/
def clusterWhole (s : State) (ctx : Nat) (map : Sparse (Option Nat)) (t : Team) : Bool :=
  let mates := (teamsOf s ctx).filter (fun e => e.2.launch = t.launch && e.2.seat.run = t.seat.run && e.2.launch.isSome)
  let place (x : Team) : Option (Int × Nat) :=
    (coreUnder map x.seat.vcore).map (fun (c : Nat) => ((c : Int) - (x.pos / t.spec.cw * 16 + x.pos % t.spec.cw : Nat), c))
  match place t with
  | none => mates.all (fun e => (place e.2).isNone)
  | some (o, _) => decide (0 ≤ o) && rectFits t.spec.cw t.spec.ch o.toNat && mates.all (fun e => (place e.2).any (fun x => x.1 = o))

/-- The contexts whose state, teams or kept holdings, stands or is saved on a core (R293, R358). -/
def ctxsOn (s : State) (core : Nat) : List Nat :=
  ((s.teams.filter (fun e => physCore s e.2.ctx e.2.seat.vcore = some core)).map (·.2.ctx) ++
    (s.kept.filter (fun k => physCore s k.ctx k.vcore = some core)).map (·.ctx)).dedup

/-- A map maps two virtual reaches to one physical reach, or one outside a partition's reaches (R358). -/
def mapBad (reaches : BitVec 128) (map : Sparse (Option Nat)) : Bool :=
  let used := (List.range 128).filterMap (fun v => get (some v) map v)
  used.dedup.length ≠ used.length || used.any (fun r => !reaches.getLsbD r)

/-- A context's state would stand, under a map, on a disabled core or on one with two other contexts, or a cluster of its would not
stand whole (R358). -/
def standBad (s : State) (ctx : Nat) (map : Sparse (Option Nat)) : Bool :=
  let vs := (teamsOf s ctx).map (·.2.seat.vcore)
  let kept := (s.kept.filter (fun k => k.ctx = ctx)).map (·.vcore)
  (vs.filterMap (coreUnder map)).any s.device.disabled.contains ||
  ((vs ++ kept).filterMap (coreUnder map)).dedup.any (fun c => decide (1 < ((ctxsOn s c).filter (· ≠ ctx)).length)) ||
  (teamsOf s ctx).any (fun e => decide (1 < e.2.spec.cw * e.2.spec.ch) && !clusterWhole s ctx map e.2)

/-- A remap of a context to a map over a partition's reaches is refused (R358). -/
def remapBad (s : State) (ctx : Nat) (reaches : BitVec 128) (map : Sparse (Option Nat)) : Bool :=
  mapBad reaches map || standBad s ctx map

/-- A parked word that is retranslated for all its unfinished lanes (R188, R244, R354). -/
def Park.again (p : Park) : Park :=
  { p with faults := 0, misses := [], failed := [], unrecorded := false,
           retry := p.retry ||| p.faults ||| p.missingLanes ||| p.failedLanes ||| p.along }

/-- A member as a resume restores it: an open weir waits for its grant (R333, R354). -/
def Member.restore (m : Member) (now : Nat) : Member :=
  { m with ready := now, park := m.park.map Park.again, weir := m.weir.map (fun w => { w with regrant := some now }) }

/-- The core of a saved team at resume, if its virtual reach is mapped to a reach of the partition in service. -/
def resumeCore (s : State) (t : Team) : Option Nat :=
  (physCore s t.ctx t.seat.vcore).bind (fun core =>
    if s.dieUp (dieOf core) && (match look s.parts t.part with
      | some p => p.reaches.getLsbD (reachOf core)
      | none => false) then some core else none)

/-- The bins of a team on a new core: each keeps its number where it is free there, and else takes the lowest that is (R82). -/
def placeBins (used : List Nat) (now : Nat) : List Bin → List Bin
  | [] => []
  | b :: r =>
    let n := if used.contains b.num then ((List.range 16).find? (fun i => !(used ++ r.map (·.num)).contains i)).getD b.num else b.num
    { b with num := n, since := now } :: placeBins (n :: used) now r

/-- Restores a saved team on its core; eddy ages restart, and a team whose image had left the device begins a region (R82, R354,
R359). -/
def restoreTeam (s : State) (e : Nat × Team) : State :=
  match resumeCore s e.2 with
  | none => s
  | some core =>
    let b := e.2.seat.bank
    let bank := ([b, 1 - b].find? (fun b => bankOpen s core b e.2.ctx)).getD b
    let seat := { e.2.seat with core := core, bank := bank, placed := s.now, rising := true
                                charge := refreshCharge s (reachOf core) e.2.spec.pclass }
    let used := binsOn s e.1 core
    { s.updTeam e.1 (fun t => { t with
        seat := seat, saved := false, bins := placeBins used s.now t.bins
        members := t.members.map (fun m => m.restore s.now)
        ver := if t.ver.ended then { t.ver with ended := false, since := s.commits } else t.ver }) with
      cmds := s.cmds.map (fun k => if k.team = e.1 then { k with core := core } else k) }

/-- The discarded commands of resumed teams are accepted again in their original order, after every command that stands in a
journal or a queue (R268, R288, R354). -/
def acceptAgain (s : State) (tks : List Nat) : State :=
  let mine (k : Command) : Bool := tks.contains k.team && k.phase == .accepted
  let new := (s.cmds.filter mine).zipIdx.map (fun e => { e.1 with id := s.freshCmd + e.2 })
  new.foldl countIn { s with cmds := s.cmds.filter (fun k => !mine k) ++ new, freshCmd := s.freshCmd + new.length }

/-- A resume: every saved team whose virtual reach is mapped goes to its core, and the kept holdings with them (R293,
R354). -/
def resumeContext (s : State) (ctx : Nat) : State :=
  let back := (teamsOf s ctx).filter (fun e => e.2.saved && (resumeCore s e.2).isSome)
  let s := acceptAgain (back.foldl restoreTeam s) (back.map (·.1))
  { s.updCtx ctx (fun c => { c with st := .live }) with
    kept := s.kept.map (fun k => if k.ctx = ctx then { k with core := (physCore s ctx k.vcore).getD k.core } else k) }

/-- After a resume no core and no reach holds more than it has, and no bank holds two contexts (R79, R255, R272, R290, R305,
R313). -/
def resumeFits (s : State) (ctx : Nat) : Bool :=
  let back := (teamsOf s ctx).filter (fun e => !e.2.saved)
  let live := liveCmds s
  back.all (fun e =>
    let c := e.2.seat.core
    let here := live.filter (fun k => k.core = c)
    bankOpen s c e.2.seat.bank ctx && roomRegs (coreUse s c 0) Demand.zero && roomRegs (coreUse s c 1) Demand.zero &&
    roomLocal (coreUse s c 0) Demand.zero &&
    decide (sumNat ((residents s c).map (fun t => t.bins.length)) ≤ 16) && decide ((here.filter (fun k => !k.matrix)).length ≤ 64) &&
    decide ((here.filter (·.matrix)).length ≤ 16) &&
    decide ((live.filter (fun k => k.job.isBeam && reachOf k.core = reachOf c)).length ≤ 32)) &&
  (back.map (·.2.seat.core) ++ (s.kept.filter (fun k => k.ctx = ctx)).filterMap (keptCore s)).all (fun c => roomTile (coreUse s c 0) Demand.zero)

/-- The image in a context's save area is one that a resume accepts (R355). -/
def imageOk (s : State) (c : Context) : Bool :=
  let h := s.peek c.save 64
  let kib := bits h 127 96
  bits h 63 56 = 1 && decide (1 ≤ kib ∧ 1024 * kib ≤ c.saveBytes) &&
    bits h 511 128 = (Config.sha384 (Mem.readN s.mem (c.save + 64) (1024 * kib - 64))).toNat

/-- Word i of a PART.RESIZE packet's body. -/
def Resize.word (r : Resize) (i : Nat) : Nat := (r.body[i]?.getD 0).toNat
/-- The partition's new reaches. -/
def Resize.reaches (r : Resize) : BitVec 128 := BitVec.ofNat 128 (r.word 1 + r.word 2 * 2 ^ 64)
/-- The remap entries: context and map. -/
def Resize.maps (r : Resize) : List (Nat × Sparse (Option Nat)) :=
  (List.range (r.word 5 % 65536)).map (fun i =>
    (r.word (8 + 17 * i), remapOf (leVal ((List.range 16).flatMap (fun j => toBytes 8 (r.word (9 + 17 * i + j)))))))

/-- A context's map after a resize that lists none for it: entries of reaches that leave are not valid any longer, and a reach that
comes has its own number again where nothing else is mapped to it (R356, R357, R360, log entry 82). -/
def mapAfter (old new : BitVec 128) (map : Sparse (Option Nat)) : Sparse (Option Nat) :=
  let left := (List.range 128).foldl (fun m v => match get (some v) map v with
    | some r => if old.getLsbD r && !new.getLsbD r then setD (some v) m v none else m
    | none => m) map
  (List.range 128).foldl (fun m r =>
    if new.getLsbD r && !old.getLsbD r && get (some r) m r = none && !(List.range 128).any (fun v => get (some v) m v = some r)
    then setD (some r) m r (some r) else m) left

/-- The maps of a partition's contexts as a resize writes them (R360, step 5). -/
def writeMaps (s : State) (part : Nat) (old : BitVec 128) (r : Resize) : State :=
  { s with ctxs := s.ctxs.map (fun e =>
    if e.2.part ≠ part then e
    else (e.1, { e.2 with map := match r.maps.reverse.find? (fun m => m.1 = e.1) with
      | some m => m.2
      | none => mapAfter old r.reaches e.2.map })) }

/-- The partition as a resize writes it; what lies on a die that has gone out of service meanwhile has left it (R360, R435). -/
def Partition.resized (p : Partition) (s : State) (r : Resize) : Partition :=
  let up : BitVec 128 := BitVec.ofNat 128 (sumNat ((List.range 4).map (fun d => if s.dieUp d then (2 ^ 32 - 1) * 2 ^ (32 * d) else 0)))
  { p with reaches := r.reaches &&& up, ways := BitVec.ofNat 64 (r.word 3), vshare := BitVec.ofNat 64 (r.word 4),
           vaults := (BitVec.ofNat 128 (r.word 6 + r.word 7 * 2 ^ 64) ||| r.reaches) &&& up, resize := none }

/-- The resume of one context at the end of a resize: an image that its header refuses gives a queue error on queue 0 (R354, R355).
A context that does not fit stays saved (log entry 82). -/
def resumeOne (r : Resize) (s : State) (e : Nat × Context) : State :=
  if !imageOk s e.2 then queueErrorAt s 0 r.get 7 0
  else
    let s' := resumeContext s e.1
    if resumeFits s' e.1 then s' else s

/-- The end of a resize once its contexts are saved: shares and maps are written, the contexts resume, and the packet
completes (R360). A port or a vault may hold the reading of an image (R319, R445). -/
def finishResize (s : State) (part : Nat) : State :=
  match (look s.parts part).bind (fun p => p.resize.map (fun r => (p, r))) with
  | none => s
  | some (p, r) =>
    let mine := s.ctxs.filter (fun e => e.2.part = part)
    if mine.any (fun e => match e.2.st with
      | .preempting _ => true
      | .saved => linkHeld s e.2.save (max 1 e.2.saveBytes)
      | .live => false) then s
    else
      let s := writeMaps { s with parts := set s.parts part (p.resized s r) } part p.reaches r
      ((mine.filter (fun e => e.2.st = .saved)).foldl (resumeOne r) s).completePacket r.packet

/-- The teams of a context whose image leaves the device stand at their commit points while they wait for the horizon (R209,
R212, R359). -/
def awaitCommits (s : State) (ctx since : Nat) (c : Context) : State :=
  if c.leaves && stateReady s ctx since then
    s.updTeamsOf ctx (fun t => if t.ver.reads = [] ∧ t.ver.writes = [] then t else { t with ver := { t.ver with waiting := true } })
  else s

/-- PREEMPT_SAVE_COMPLETE (R353). The last save of a resize, or the end of what held its resumes, ends the resize (R360). -/
def execPreemptSaveComplete (ctx : Nat) (s : State) : Host.Outcome State Fault Refusal :=
  match look s.ctxs ctx with
  | none => .next s
  | some c => match c.st with
    | .preempting since =>
      if saveReady s ctx since then .next (finishResize (saveContext s ctx c since) c.part) else .next (awaitCommits s ctx since c)
    | _ => .next (finishResize s c.part)

/-! ### The packets -/

/-- The partition of a packet's queue. -/
def partOfPacket (s : State) (p : Packet) : Nat := (s.queue p.queue).part
/-- A resize of the packet's partition is under way: its contexts are the resize's until it ends (R360, R431). -/
def resizing (s : State) (p : Packet) : Bool := ((look s.parts (partOfPacket s p)).bind (·.resize)).isSome

/-- CTX.CREATE (R434). -/
def createCtx (p : Packet) (s : State) : PEnd :=
  if !hostSpan s (pword p 1) (max 1 (pword p 2)) then .refuse s 7 0
  else
    let c : Context := { part := partOfPacket s p, root := pword p 0, save := pword p 1, saveBytes := pword p 2, flat := bit (pword p 3) 0,
                         prc := bit (pword p 3) 1, st := .live, preempters := [], map := [] }
    .done { s with ctxs := set s.ctxs p.context.toNat c }

/-- CTX.DESTROY (R293, R434): refused while the context has a team, a declared spring or an unreleased task. It waits for a resize of
its partition, which acts on the context (R431). -/
def destroyCtx (p : Packet) (s : State) : PEnd :=
  let n := p.context.toNat
  if resizing s p then .wait
  else if teamsOf s n != [] || s.springs.any (fun e => e.2.ctx = n) || s.abands.any (fun a => a.ctx = n) then .refuse s 7 0
  else
    let s' := (((look s.ctxs n).map (·.preempters)).getD []).foldl State.completePacket s
    .done { s' with ctxs := del s'.ctxs n, kept := s'.kept.filter (fun k => k.ctx ≠ n), tlb := s'.tlb.filter (fun e => e.ctx ≠ n) }

/-- PREEMPT (R352). -/
def preemptCtx (p : Packet) (s : State) : PEnd :=
  let n := p.context.toNat
  if resizing s p then .wait
  else match look s.ctxs n with
  | none => .refuse s 7 0
  | some c => match c.st with
    | .saved => .done s
    | .live => .later ((requestSave s n).updCtx n (fun c => { c with preempters := [pid p s] }))
    | .preempting _ => .later (s.updCtx n (fun c => { c with preempters := c.preempters ++ [pid p s] }))

/-- RESUME (R354 to R358). -/
def resumeCtx (p : Packet) (s : State) : PEnd :=
  let n := p.context.toNat
  if resizing s p then .wait
  else match look s.ctxs n, look s.parts (partOfPacket s p) with
  | some c, some q =>
    let map := if bit (pword p 0) 0 then remapOf (pnum p / 2 ^ 64) else c.map
    if linkHeld s c.save (max 1 c.saveBytes) then .wait
    else if c.st ≠ .saved || !imageOk s c || (bit (pword p 0) 0 && remapBad s n q.reaches map) then .refuse s 7 0
    else
      let s' := resumeContext (s.updCtx n (fun c => { c with map := map })) n
      if resumeFits s' n then .done s' else .wait
  | _, _ => .refuse s 7 0

/-- A physical address lies in the page of a cached translation. -/
def TlbEntry.holds (e : TlbEntry) (pa : Nat) : Bool :=
  let base := entryPfn e.leaf.toNat / e.size * e.size
  decide (base ≤ pa ∧ pa < base + e.size)

/-- TLB.INV (R179): the cached translations of the range go from every TLB. The packet waits for the accesses of releases through one of
them; the other writes that teams of the context made to a page of a dropped one are performed for every party, and their loads have been
performed. -/
def invalidate (p : Packet) (s : State) : PEnd :=
  let n := p.context.toNat
  let va := pword p 0
  let len := pword p 1
  let hit (e : TlbEntry) : Bool := e.ctx = n && (len = 0 || decide (e.va < va + len ∧ va < e.va + e.size))
  let gone := s.tlb.filter hit
  let inGone (pa : Nat) : Bool := gone.any (fun e => e.holds pa)
  let through (x : Late) : Bool := x.space.isNone && (look s.teams x.team).any (fun t => t.ctx = n) && inGone x.word
  if (teamsOf s n).any (fun e => e.2.rels.any (fun r => r.accesses.any (fun a => a.pas.any inGone))) then .wait
  else
    let s := (teamsOf s n).foldl (fun s e => s.firmLoads e.1 (fun x => x.pas.any inGone)) s
    .done ({ s with tlb := s.tlb.filter (fun e => !hit e) }.withLate (s.late.map (fun x => if through x then { x with upto := 5 } else x)))

/-- PASS.RELEASE (R293). -/
def releasePass (p : Packet) (s : State) : PEnd :=
  .done { s with kept := s.kept.filter (fun k => !(k.ctx = p.context.toNat && k.passKey = pword p 0)) }

/-- TASK.CTL (R351, R434). A task whose abandonment, or that of its latest dispatch, has begun is waited for. -/
def taskControl (p : Packet) (s : State) : PEnd :=
  let n := p.context.toNat
  let task := BitVec.ofNat 64 (pword p 0)
  match s.abands.find? (fun a => a.ctx = n && a.task = task) with
  | none => if s.teams.any (fun e => e.2.ctx = n && e.2.task = task && e.2.gen.isNone && e.2.doom.isSome) then .wait else .refuse s 7 0
  | some a => match a.st with
    | .waiting =>
      if bit (pword p 1) 0 then .done { s with abands := s.abands.filter (fun x => !(x.ctx = n && x.task = task)) }
      else
        let s' : State := { s with abands := s.abands.map (fun x =>
          if x.ctx = n && x.task = task then { x with st := .again p.queue (s.queue p.queue).next } else x) }
        .later (s'.updLaunch a.launch (fun l => { l with again := l.again ++ [(task.toNat % 2 ^ 48, a.retry + 1)] }))
    | _ => if s.teams.any (fun e => e.2.ctx = n && e.2.task = task && e.2.gen.isNone && e.2.doom.isSome) then .wait else .refuse s 7 0

/-- The next launch id of a context that none of the used ones equals (R308). -/
def nextLid (used : List Nat) : Nat → Nat → Nat
  | 0, x => x
  | n + 1, x => if used.contains x then nextLid used n ((x + 1) % 65536) else x

/-- The launch ids that a context's live launches, held tasks and springs use. -/
def usedLids (s : State) (ctx : Nat) : List Nat :=
  ((s.launches.filter (fun e => e.2.ctx = ctx)).map (·.2.lid.toNat)) ++ ((s.abands.filter (fun a => a.ctx = ctx)).map (fun a => a.task.toNat / 2 ^ 48)) ++
    ((s.springs.filter (fun e => e.2.ctx = ctx)).map (·.2.launchId.toNat))

/-- A partition holds a reach on a die. -/
def partOnDie (s : State) (part die : Nat) : Bool :=
  match look s.parts part with
  | some q => bits q.reaches.toNat (32 * die + 31) (32 * die) ≠ 0
  | none => false

/-- LAUNCH (R308, R309). It waits for a resize of its partition, whose reaches and shares it is checked against (R431). -/
def launchPacket (p : Packet) (s : State) : PEnd :=
  let n := p.context.toNat
  let part := partOfPacket s p
  let dies := pword p 1
  if resizing s p then .wait
  else if (List.range 4).any (fun d => bit dies d && !s.diePresent d) then .refuse s 7 0x02
  else if specHeld s n (pword p 0) then .wait
  else match readSpec s n part (pword p 0) dies with
  | .error c => .refuse s c 0
  | .ok q =>
    if q.gen || !(List.range 4).any (fun d => bit dies d && partOnDie s part d) then .refuse s 7 0
    else
      let used := usedLids s n
      let lid := BitVec.ofNat 16 (nextLid used used.length (((get 0 s.lids n).toNat + 1) % 65536))
      let l : Launch := { ctx := n, part := part, lid := lid, packet := pid p s, spec := q, dies := BitVec.ofNat 4 dies, cursor := 0,
                          again := [], rises := 0, since := s.now, blocked := [], holds := [] }
      .later { s with launches := set s.launches s.freshLaunch l, freshLaunch := s.freshLaunch + 1, lids := setD 0 s.lids n lid }

/-- CTX_CREATE (R434). -/
def execCtxCreate (p : Packet) (s : State) : Host.Outcome State Fault Refusal := .next (runPacket p createCtx s)
/-- CTX_DESTROY (R434). -/
def execCtxDestroy (p : Packet) (s : State) : Host.Outcome State Fault Refusal := .next (runPacket p destroyCtx s)
/-- LAUNCH (R308). -/
def execLaunchP (p : Packet) (s : State) : Host.Outcome State Fault Refusal := .next (runPacket p launchPacket s)
/-- PREEMPT (R352). -/
def execPreemptP (p : Packet) (s : State) : Host.Outcome State Fault Refusal := .next (runPacket p preemptCtx s)
/-- RESUME (R354). -/
def execResumeP (p : Packet) (s : State) : Host.Outcome State Fault Refusal := .next (runPacket p resumeCtx s)
/-- TLB_INV (R179). -/
def execTlbInv (p : Packet) (s : State) : Host.Outcome State Fault Refusal := .next (runPacket p invalidate s)
/-- PASS_RELEASE (R293). -/
def execPassRelease (p : Packet) (s : State) : Host.Outcome State Fault Refusal := .next (runPacket p releasePass s)
/-- TASK_CTL (R434). -/
def execTaskCtl (p : Packet) (s : State) : Host.Outcome State Fault Refusal := .next (runPacket p taskControl s)

end Sys2Proof.Machine
end

