-- ==== Sys2Proof/Machine/CoreEvents.lean ====
section
/-! DEFINITION. What happens on a core beside its words: results written late (R109), eddy bins drawn (R81), ageing (R84),
switches of banks (R184), trap entry from a park (R231, R235, R339), budgets (R342), replays and aborts (R187, R188),
arrival groups (R156), and back-invalidates (R181). -/

namespace Sys2Proof.Machine

/-- The result of a pending word, those of its loads performed that were not yet: each reads its word as its team sees it now (R99,
R195). -/
def Pending.performed (q : Pending) (s : State) (t : Team) : Pending :=
  { q with writes := q.writes.map (fun e => match q.loads.find? (fun x => x.place == e.1) with
      | some x => (e.1, loaded x.ty (x.pas.map (readByte s t)) % 2 ^ 32)
      | none => e) }

/-- The lanes of loads that have been performed have read their words' last values (R198). -/
def State.sawLoads (s : State) (tk : Nat) (q : Pending) : State :=
  { s with late := q.loads.foldl (fun late x =>
      (markRead (fun y => y.space.isNone && (wordsIn x.pas).contains y.word && (!y.ver || y.team = tk)) (tk, x.lane) 0 late.reverse).reverse) s.late }

/-- RESULT_WRITEBACK (R99, R103, R109, R111): the result of a pending word is written and its tag released, once its loads are
performed. A word of a queue waits for those that its queue accepted before it. -/
def execResultWriteback (team mem idx : Nat) (s : State) : Host.Outcome State Fault Refusal :=
  match look s.teams team with
  | none => .next s
  | some t => match t.member mem with
    | none => .next s
    | some m => match m.pend[idx]? with
      | none => .next s
      | some q =>
        if inTurn s t m idx then .next ((s.sawLoads team q).updMember team mem (fun m =>
          { m with pend := m.pend.set idx (q.performed s t) }.writeBack idx))
        else .next s

/-! ### Eddy bins (R81) -/

/-- A group slot in which no lane of its family is present. -/
def Team.freeSlot (t : Team) (role : Nat) : Option Nat :=
  (t.spec.slotsOf role).find? (fun g => !t.members.any (fun m => m.slot = g && m.lanes != []))

/-- The bin is full. -/
def Bin.isFull (b : Bin) : Bool := decide (b.lanes.length = 32)

/-- The bin may be drawn: full, aged, or idle (R81). -/
def binEligible (t : Team) (now : Nat) (b : Bin) : Bool :=
  b.isFull || decide (256 ≤ feCycles now - feCycles b.since) || !t.members.any (fun m => m.role = b.role && m.lanes != [])

/-- The bin that goes into the next free slot of a role: a full one first, else the oldest. R81 orders neither several full bins
nor bins of one age: the model takes the one filed first, and of those the first of the team's list (log entry 74). -/
def nextBin (t : Team) (now role : Nat) : Option Bin :=
  let bs := t.bins.filter (fun b => b.role = role && binEligible t now b)
  (leastBy (fun b => b.since) (bs.filter Bin.isFull)).or (leastBy (fun b => b.since) bs)

/-- EDDY_BIN_DRAW (R81): the bin of a number, when it is the next of its role and a slot is free. -/
def execEddyBinDraw (team bin : Nat) (s : State) : Host.Outcome State Fault Refusal :=
  match look s.teams team with
  | none => .next s
  | some t => match t.bins.find? (fun b => b.num = bin) with
    | none => .next s
    | some b => match t.freeSlot b.role, nextBin t s.now b.role with
      | some g, some n =>
        if n.num ≠ bin || t.saved || t.doom.isSome then .next s
        else
          let lanes := b.lanes.zipIdx.map (fun e => (e.2, e.1))
          let m := startGroup t (seedRecs s t.ctx t.spec t.gen) s.now g b.role none lanes b.pc t.indices b.cb
          .next (s.updTeam team (fun t => { t with bins := t.bins.filter (fun x => x.num ≠ bin) }.addGroup m))
      | _, _ => .next s

/-! ### Issue (R84, R184) -/

/-- ISSUE_AGEING (R84): ready for 2,048 fe-cycles without issuing. -/
def execIssueAgeing (team mem : Nat) (s : State) : Host.Outcome State Fault Refusal :=
  match look s.teams team with
  | none => .next s
  | some t => match t.member mem with
    | none => .next s
    | some m =>
      if !held s t m && decide (2048 ≤ feCycles s.now - feCycles (max m.ready m.issued)) then
        .next (s.updMember team mem (fun m => { m with aged := true })) else .next s

/-- The groups of a bank of a core, with their teams. -/
def bankGroups (s : State) (core bank : Nat) : List (Team × Member) :=
  (residents s core).flatMap (fun t => if t.seat.bank = bank then (t.members.filter (fun m => m.lanes != [])).map (fun m => (t, m)) else [])

/-- A group that is parked and waits. -/
def Member.parked (m : Member) : Bool :=
  match m.park with
  | some p => p.retry = 0 || p.unrecorded
  | none => false

/-- BANK_SWITCH (R184): a switch takes 16 fe-cycles. -/
def execBankSwitch (core : Nat) (s : State) : Host.Outcome State Fault Refusal :=
  let x := s.core core
  let here := bankGroups s core x.bank
  let there := bankGroups s core (1 - x.bank)
  let stuck := here.all (fun e => e.2.parked) && there.any (fun e => !e.2.parked)
  let old := there.any (fun e => !held s e.1 e.2 && decide (2048 ≤ feCycles s.now - feCycles (max e.2.ready e.2.issued)))
  if stuck || old then .next (s.setCore core { x with bank := 1 - x.bank, switched := s.now + 18 }) else .next s

/-! ### Trap entry and budgets (R231, R235, R339, R342) -/

/-- The fault record of a failed block under a parked word (R235). -/
def failedRec (s : State) (t : Team) (m : Member) (p : Park) (f : Failed) : FaultRec :=
  { gentask := f.task.toNat, spring := f.base, time := s.now, pc := m.pc.toNat, lanes := f.lanes.toNat, slot := m.slot
    bank := t.seat.bank, core := t.seat.vcore, task := t.task.toNat, va := f.va, ctx := t.ctx, part := t.part
    kind := if p.fetch then 12 else p.kind, cause := f.cause }

/-- The registers of R235, from the block of the lowest failing lane. -/
def Member.springRegs (m : Member) (f : Failed) : Member :=
  { m with trap := { m.trap with springva := BitVec.ofNat 64 f.base, gentask := f.task, springdet := f.detail } }

/-- No lane of a parked word waits any longer, and some lie on failed blocks (R231). -/
def Park.ended (p : Park) : Bool := p.faults = 0 && p.misses = [] && p.retry = 0 && p.failed != []

/-- A parked word whose lanes lie on failed blocks: a record for each block in increasing VA, then the cause; when the ring
lacks room the group is held unrecorded (R187, R235). -/
def failedWord (s : State) (tk : Nat) (t : Team) (m : Member) (p : Park) : State :=
  let fs := sortBy (·.base) p.failed
  let y := postFaults s (dieOf t.seat.core) (fs.map (failedRec s t m p))
  if !y.2 then y.1.updMember tk m.id (fun m => { m with park := some { p with unrecorded := true } })
  else match leastBy (fun f => (lanesOf f.lanes).headD 32) fs with
    | some f => takeCause (y.1.updMember tk m.id (fun m => m.springRegs f)) tk m.id f.cause 0
    | none => y.1

/-- TRAP_ENTRY (R235, R338, R339): the cause that was raised at a parked word, or that its failed blocks give. A member that a
pre-emption has stopped enters no handler before its context resumes (R352). -/
def execTrapEntry (team mem : Nat) (s : State) : Host.Outcome State Fault Refusal :=
  match look s.teams team with
  | none => .next s
  | some t => match t.member mem with
    | none => .next s
    | some m =>
      if stopped s t m then .next s
      else match m.due, m.park with
        | some (c, arg), _ => .next (takeCause s team mem c arg)
        | none, some p => if p.ended && !p.unrecorded then .next (failedWord s team t m p) else .next s
        | none, none => .next s

/-- BUDGET_EXPIRY (R342): a handler or a masked region has used its budget. -/
def execBudgetExpiry (team mem : Nat) (s : State) : Host.Outcome State Fault Refusal :=
  match look s.teams team with
  | none => .next s
  | some t => match t.member mem with
    | none => .next s
    | some m =>
      if (m.trap.inh || m.trap.mask) && m.trap.budget = 0 && t.doom.isNone && !t.saved then .next (takeCause s team mem 0x2C 0)
      else .next s

/-! ### Retries (R187, R188, R231) -/

/-- The lanes of a parked word that took translation faults are to be tried again, but for those that lie on a block that
failed, which are not performed (R231). -/
def Park.replay (p : Park) : Park :=
  let again := p.faults &&& ~~~ p.failedLanes
  { p with faults := 0, unrecorded := false
           retry := (if again = 0 then p.retry else p.retry ||| again ||| p.along) &&& ~~~ p.failedLanes }

/-- FAULT_HELD_RETRY (R187). -/
def execFaultHeldRetry (team mem : Nat) (s : State) : Host.Outcome State Fault Refusal :=
  .next (s.updMember team mem (fun m => { m with park := m.park.map (fun p => if p.unrecorded then p.replay else p) }))

/-- FBREPLAY (R188, R261): every parked group, and every parked engine command, of the context on the die. -/
def execFbreplay (die : Nat) (value : DWord) (s : State) : Host.Outcome State Fault Refusal :=
  let ctx := bits value.toNat 31 0
  let part := bits value.toNat 37 32
  let on (t : Team) : Bool := t.ctx = ctx && t.part = part && dieOf t.seat.core = die && !t.saved
  let s' : State := { s with teams := s.teams.map (fun e => if on e.2 then (e.1, { e.2 with members := e.2.members.map (fun m =>
    { m with park := m.park.map Park.replay }) }) else e) }
  .next { s' with cmds := s'.cmds.map (fun k => match look s.teams k.team with
    | some t => if on t && (k.stop = .fault || k.stop = .unrecorded) then { k with stop := .none } else k
    | none => k) }

/-- FBABORT (R188): the named parked group takes cause 0x08 at its word. A group of a saved context is left alone (R354). R186 names a
group by core, bank and slot: the model reads the core as the virtual one that a fault record gives, and where several split members of
the slot are parked, each takes the cause (log entry 87). -/
def execFbabort (die : Nat) (value : DWord) (s : State) : Host.Outcome State Fault Refusal :=
  let ctx := bits value.toNat 63 32
  let slot := bits value.toNat 20 16
  let bank := bits value.toNat 11 11
  let core := bits value.toNat 10 0
  .next { s with teams := s.teams.map (fun e =>
    if e.2.ctx = ctx && e.2.seat.vcore = core && e.2.seat.bank = bank && dieOf e.2.seat.core = die && !e.2.saved then
      (e.1, { e.2 with members := e.2.members.map (fun m =>
        if m.slot = slot && m.park.isSome then { m with due := some (0x08, 0) } else m) })
    else e) }

/-- BACK_INVALIDATE (R181): every cached copy of the pool line goes; dirty data is written back first. -/
def execBackInvalidate (pa : Nat) (s : State) : Host.Outcome State Fault Refusal :=
  .next { s with snoop := s.snoop.filter (fun e => e.pa ≠ pa / 64 * 64) }

/-! ### Arrival groups (R156) -/

/-- ARRIVAL_GROUP_START (R156). -/
def execArrivalGroupStart (team slot : Nat) (s : State) : Host.Outcome State Fault Refusal :=
  match look s.teams team with
  | none => .next s
  | some t =>
    let a := get ArrSlot.zero t.arrivals slot
    match a.armed, a.starts with
    | some (pc, role), (obj, n, sender) :: rest =>
      (match t.freeSlot role with
       | some g =>
         if a.running.isSome || t.saved || t.doom.isSome then .next s
         else
           let sr := setD 0 (setD 0 (setD 0 t.indices 4 (BitVec.ofNat 32 obj)) 5 (BitVec.ofNat 32 n)) 6 (BitVec.ofNat 32 sender)
           let lanes := (List.range 32).map (fun i => (i, freshLane t.task (1024 + 32 * slot + i)))
           let m := startGroup t (seedRecs s t.ctx t.spec t.gen) s.now g role (some slot) lanes pc sr []
           .next (s.updTeam team (fun t =>
             { t with arrivals := upd t.arrivals slot (fun a => { a with starts := rest, running := some t.fresh }) }.addGroup m))
       | none => .next s)
    | _, _ => .next s

end Sys2Proof.Machine
end

