-- ==== Sys2Proof/Machine/Cross.lean ====
section
/-! DEFINITION. Cross-lane instructions (R93 to R98). -/

namespace Sys2Proof.Machine

/-- A shuffle by its source lane (R94): an absent or inactive source gives the lane its own value. -/
def shuffle (src : Nat → Nat → Int) (c : Ctx) : Res :=
  .done c.s (Out.fixed (c.act.map (fun l =>
    let k := src l (c.b false l)
    (Place.v l (fD c.w),
      if 0 ≤ k ∧ k ≤ 31 ∧ c.act.contains k.toNat then c.v k.toNat (fA c.w) else c.v l (fA c.w)))))

/-- A value for every active lane, or once for the scalar (R95, R97). -/
def toY (c : Ctx) (x : Nat) : List (Place × Nat) :=
  if c.act = [] then [] else if selD c.w then [(.s (fD c.w), x)] else c.act.map (fun l => (Place.v l (fD c.w), x))

/-- VOTE (R95). -/
def entryVote (c : Ctx) : Res :=
  let p := c.act.filter (fun l => c.p l (fA c.w))
  let k := mBits c.w 11 10
  .done c.s (Out.fixed (toY c (
    if k = 0 then sumNat (p.map (fun l => 2 ^ l))
    else if k = 1 then p.length
    else if k = 2 then p.headD 32
    else b2n (p ≠ []) + 2 * b2n (p = c.act))))

/-- The combination of two values under OPN and TYPE, with the flags it raises (R96). -/
def combine2 (opn ty rm : Nat) (a b : Rounded) : Rounded :=
  let int (f : Int → Int → Int) : Nat := wrapI 32 (f (intVal ty a.1) (intVal ty b.1))
  let y : Rounded :=
    if ty = 0x10 then
      (if opn = 0 then fAdd f32 rm false 0 a.1 b.1 else (minMaxF f32 false (opn = 2) a.1 b.1, 0))
    else if opn = 0 then (int (· + ·), 0)
    else if opn = 1 then (int min, 0)
    else if opn = 2 then (int max, 0)
    else if opn = 3 then (a.1 &&& b.1, 0)
    else if opn = 4 then (a.1 ||| b.1, 0)
    else (a.1 ^^^ b.1, 0)
  (y.1, y.2 ||| a.2 ||| b.2)

/-- The leaves of the tree: the active lanes' values (R45). -/
def Ctx.leaves (c : Ctx) : List (Option Rounded) :=
  (List.range 32).map (fun l => if c.act.contains l then some (c.v l (fA c.w), 0) else none)

/-- The flags of a reduction, raised in every active lane (R96). -/
def everyLane (c : Ctx) (f : BitVec 5) : List (Nat × BitVec 5) := c.act.map (fun l => (l, f))

/-- GRED (R97). The tree of R45 gives the value of R97 for the associative combinations too. -/
def entryGred (c : Ctx) : Res :=
  match treeRoot (combine2 (mBits c.w 10 8) (mBits c.w 4 0) (rmOf c.w)) 5 c.leaves with
  | none => .done c.s Out.none
  | some r => .done c.s { Out.late (toY c r.1) with flags := everyLane c r.2, queue := some 1 }

/-- The identity of R98. -/
def scanIdentity (opn ty : Nat) : Nat :=
  if opn = 1 then (if ty = 2 then 0x7FFFFFFF else if ty = 6 then 0xFFFFFFFF else 0x7F800000)
  else if opn = 2 then (if ty = 2 then 0x80000000 else if ty = 6 then 0 else 0xFF800000)
  else if opn = 3 then 0xFFFFFFFF else 0

/-- GSCAN (R98): lane i takes the combination of the nodes that cover lanes 0 to i, or the one of the active lane
below it. -/
def entryGscan (c : Ctx) : Res :=
  let opn := mBits c.w 10 8
  let ty := mBits c.w 4 0
  let incl (l : Nat) : Option Rounded := scanTree (combine2 opn ty (rmOf c.w)) c.leaves l
  let val (l : Nat) : Nat :=
    if mBit c.w 11 then
      match (c.act.filter (fun k => decide (k < l))).getLast? with
      | some k => ((incl k).map (·.1)).getD 0
      | none => scanIdentity opn ty
    else ((incl l).map (·.1)).getD 0
  let fl := (c.act.filterMap incl).foldl (fun acc r => acc ||| r.2) (0 : BitVec 5)
  .done c.s { Out.late (c.act.map (fun l => (Place.v l (fD c.w), val l))) with flags := everyLane c fl, queue := some 1 }

/-- SHFL.BC (R94). -/
def execShflBc (w : CWord) (s : State) : Host.Outcome State Fault Refusal :=
  calud (rowAt 0x010) (shuffle (fun _ b => b)) w s

/-- SHFL.XOR (R94). -/
def execShflXor (w : CWord) (s : State) : Host.Outcome State Fault Refusal :=
  calud (rowAt 0x011) (shuffle (fun l b => (l ^^^ b : Nat))) w s

/-- SHFL.UP (R94). -/
def execShflUp (w : CWord) (s : State) : Host.Outcome State Fault Refusal :=
  calud (rowAt 0x012) (shuffle (fun l b => (l : Int) - b)) w s

/-- SHFL.DN (R94). -/
def execShflDn (w : CWord) (s : State) : Host.Outcome State Fault Refusal :=
  calud (rowAt 0x013) (shuffle (fun l b => (l : Int) + b)) w s

/-- VOTE (R95). -/
def execVote (w : CWord) (s : State) : Host.Outcome State Fault Refusal :=
  calud (rowAt 0x014) entryVote w s

/-- GRED (R97). -/
def execGred (w : CWord) (s : State) : Host.Outcome State Fault Refusal :=
  calud (rowAt 0x015) entryGred w s

/-- GSCAN (R98). -/
def execGscan (w : CWord) (s : State) : Host.Outcome State Fault Refusal :=
  calud (rowAt 0x016) entryGscan w s

end Sys2Proof.Machine
end

