-- ==== Sys2Proof/Machine/Partitions.lean ====
section
/-! DEFINITION. The packets that act on partitions, queues, dies, springs and streams (R26, R27, R222 to R226, R360, R406, R407,
R434, R435). -/

namespace Sys2Proof.Machine

/-! ### Partitions (R26, R27, R360) -/

/-- The reach mask of two words. -/
def reachMask (lo hi : Nat) : BitVec 128 := BitVec.ofNat 128 (lo + hi * 2 ^ 64)
/-- The reaches of a mask. -/
def maskList (m : BitVec 128) : List Nat := (List.range 128).filter (fun n => m.getLsbD n)

/-- The refusal of a reach mask for a partition: a reach of an absent die, of a die out of service, or of another partition
(R23, R27, R434). -/
def maskRefusal (s : State) (part : Nat) (m : BitVec 128) : Option Nat :=
  let ds := (maskList m).map (· / 32)
  if ds.any (fun d => !s.diePresent d) then some 0x02
  else if ds.any (fun d => !s.dieUp d) || s.parts.any (fun e => e.1 ≠ part && e.2.reaches &&& m ≠ 0) then some 0
  else none

/-- The version-store shares of a word, beside those of the other partitions, exceed the carve of a die (R17). -/
def sharesOver (s : State) (part w : Nat) : Bool :=
  (List.range 4).any (fun d =>
    decide (128 * (s.unit d).vscarve < shareIn w d + sumNat ((s.parts.filter (fun e => e.1 ≠ part)).map (fun e => e.2.share d))))

/-- A resize under way acts on a partition, on a reach of a mask or on the version-store shares: a later packet that acts on them
takes effect after it, against the state that it leaves (R27, R431). -/
def resizeMeets (s : State) (part : Nat) (m : BitVec 128) : Bool :=
  s.parts.any (fun e => e.2.resize.any (fun r =>
    e.1 = part || (e.2.reaches ||| r.reaches) &&& m ≠ 0 || BitVec.ofNat 64 (r.word 4) ≠ e.2.vshare))

/-- PART.CREATE (R26, R434, R437). -/
def createPart (p : Packet) (s : State) : PEnd :=
  let n := pword p 0
  let m := reachMask (pword p 1) (pword p 2)
  let size := bits (pword p 6) 16 0
  if resizeMeets s n m then .wait
  else if (look s.parts n).isSome then .refuse s 7 0
  else match maskRefusal s n m with
  | some cause => .refuse s 7 cause
  | none =>
    if sharesOver s n (pword p 4) || !hostSpan s (pword p 5) (64 * size) then .refuse s 7 0
    else
      let x : Partition := { reaches := m, ways := BitVec.ofNat 64 (pword p 3), vshare := BitVec.ofNat 64 (pword p 4)
                             vaults := reachMask (pword p 7) (pword p 8) ||| m, enc := bits (pword p 6) 36 32
                             streams := bits (pword p 6) 46 40, resize := none }
      .done ({ s with parts := set s.parts n x }.setRing n { Ring.zero with base := BitVec.ofNat 64 (pword p 5), size := BitVec.ofNat 32 size })

/-- PART.DESTROY (R434): refused while the partition holds a queue, a context or a stream. -/
def destroyPart (p : Packet) (s : State) : PEnd :=
  let n := pword p 0
  if (look s.parts n).any (·.resize.isSome) then .wait
  else if (look s.parts n).isNone || s.queues.any (fun e => e.1 ≠ 0 && e.2.en && e.2.part = n) || s.ctxs.any (fun e => e.2.part = n) ||
      s.streams.any (fun e => e.2.part = n) then .refuse s 7 0
  else .done ({ s with parts := del s.parts n }.setRing n Ring.zero)

/-- The resize that a packet asks for. -/
def resizeOf (p : Packet) (s : State) : Resize := { packet := pid p s, body := p.body, get := (s.queue p.queue).get }

/-- The remap entries of a PART.RESIZE: context and map. -/
def resizeMaps (p : Packet) (s : State) : List (Nat × Sparse (Option Nat)) := (resizeOf p s).maps

/-- R358 forbids a resize: a listed map is one that it refuses, or the contexts of the partition, with all their maps written, would
not stand as it asks. -/
def mapsRefused (s : State) (part : Nat) (old : BitVec 128) (r : Resize) : Bool :=
  let s1 := writeMaps s part old r
  r.maps.any (fun e => mapBad r.reaches e.2) ||
    s1.ctxs.any (fun e => e.2.part = part && standBad s1 e.1 e.2.map)

/-- A vault that a new share takes away holds a millrace reservation of the partition (R360). -/
def millraceLost (s : State) (part : Nat) (old new : BitVec 128) : Bool :=
  (maskList old).any (fun v => !new.getLsbD v && s.streams.any (fun e => e.2.part = part && e.2.millrace.any (fun r => r.1 = v)))

/-- PART.RESIZE (R360): the checks, then the pre-emption of every context of the partition; FINISH follows once they are
saved. -/
def resizePart (p : Packet) (s : State) : PEnd :=
  let n := pword p 0
  let m := reachMask (pword p 1) (pword p 2)
  match look s.parts n with
  | none => .refuse s 7 0
  | some x =>
    if x.resize.isSome || resizeMeets s n m then .wait
    else match maskRefusal s n m with
    | some cause => .refuse s 7 cause
    | none =>
      if (resizeMaps p s).any (fun e => partOf s e.1 ≠ n || (look s.ctxs e.1).isNone) || mapsRefused s n x.reaches (resizeOf p s) || sharesOver s n (pword p 4) ||
          (List.range 4).any (fun d => decide (65536 * shareIn (pword p 4) d < shareUsed s n d)) ||
          millraceLost s n x.vaults (reachMask (pword p 6) (pword p 7) ||| m) then .refuse s 7 0
      else
        let s' : State := { s with parts := set s.parts n { x with resize := some (resizeOf p s) } }
        let mine := s.ctxs.filter (fun e => e.2.part = n && e.2.st = .live)
        .later (mine.foldl (fun s e => requestSave s e.1) s')

/-! ### Queues (R428, R434) -/

/-- QUEUE.CREATE (R427, R428, R433). -/
def createQueue (p : Packet) (s : State) : PEnd :=
  let q := pword p 0 % 256
  let n := pword p 0 / 256
  if (s.queue q).en || (look s.parts n).isNone || !hostSpan s (pword p 1) (pword p 2) ||
      (pword p 3 ≠ 0 && !hostSpan s (pword p 3) 8) then .refuse s 7 0
  else .done (s.setQueue q { Queue.zero with base := BitVec.ofNat 64 (pword p 1), size := BitVec.ofNat 32 (pword p 2), en := true, part := n
                                             tlmir := BitVec.ofNat 64 (pword p 3) })

/-- QUEUE.DESTROY (R434): nothing more is taken up, and the packet completes with the last one taken up. -/
def destroyQueue (p : Packet) (s : State) : PEnd :=
  let q := pword p 0
  let x := s.queue q
  if q = 0 || !x.en || x.closing.isSome then .refuse s 7 0
  else if x.head.isNone && x.flights = [] then .done (s.setQueue q Queue.zero)
  else .later (s.setQueue q { x with closing := some (pid p s).2 })

/-! ### Springs (R222 to R226) -/

/-- The spans of a spring: its fill map and its pool. -/
def Spring.spans (p : Spring) : List (Nat × Nat) := [(p.mapBase, 32 * (p.size / 2 ^ p.blk)), (p.poolBase, p.poolSize)]
/-- Two spans overlap. -/
def spansMeet (a b : Nat × Nat) : Bool := decide (a.1 < b.1 + b.2 ∧ b.1 < a.1 + a.2)
/-- The span meets a declared spring's fill map or pool. -/
def meetsSpring (s : State) (a : Nat × Nat) : Bool := s.springs.any (fun e => e.2.spans.any (spansMeet a))

/-- The spring that a declaration declares, its template read. -/
def springOf (s : State) (ctx n : Nat) (spec : Spec) : Spring :=
  let num := bits n 127 122
  { ctx := ctx, num := num, base := bits n 56 0, size := bits n 111 64, blk := bits n 116 112, rlim := bits n 121 120
    mapBase := bits n 179 128, poolBase := bits n 243 192, poolSize := bits n 303 256, arg := BitVec.ofNat 256 (n / 2 ^ 512)
    entry := BitVec.ofNat 32 (bits n 415 384), spec := spec
    launchId := Config.springLaunchId (64 * ctx + num) s.order
    waiters := [], noFrame := [], queue := [], fills := [], evicting := [] }

/-- A condition of R223 that carries code 7. -/
def springRefused (s : State) (p : Spring) : Bool :=
  decide (2 ^ 57 < p.base + p.size) ||
  s.springs.any (fun e => e.2.ctx = p.ctx && (e.2.num = p.num || spansMeet (p.base, p.size) (e.2.base, e.2.size))) ||
  p.spans.any (fun a => !hostSpan s a.1 a.2 || meetsSpring s a) || !recValid p.arg || !p.spec.gen ||
  decide (1 < p.spec.iterations) || p.spec.cw ≠ 1 || p.spec.ch ≠ 1

/-- Zeroes a span of memory. -/
def zeroSpan (s : State) (pa n : Nat) : State := { s with mem := s.mem.filter (fun c => decide (c.1 < pa ∨ pa + n ≤ c.1)) }

/-- SPRING.DECL (R223). It waits for a resize of its partition, whose reaches and shares its template is checked against (R431), and for
a port or a vault that holds the writing of the fill map (R319, R445). -/
def declareSpring (p : Packet) (s : State) : PEnd :=
  let ctx := p.context.toNat
  let part := partOfPacket s p
  let dies := sumNat ((List.range 4).map (fun d => if partOnDie s part d then 2 ^ d else 0))
  if resizing s p || specHeld s ctx (bits (pnum p) 376 320) then .wait
  else match readSpec s ctx part (bits (pnum p) 376 320) dies with
  | .error _ => .refuse s 7 0
  | .ok spec =>
    let x := springOf s ctx (pnum p) spec
    if springRefused s x || dies = 0 then .refuse s 7 0
    else if linkHeld s x.mapBase (32 * (x.size / 2 ^ x.blk)) then .wait
    else
      let s' := zeroSpan s x.mapBase (32 * (x.size / 2 ^ x.blk))
      .done { s' with springs := set s'.springs x.key x, order := s'.order + 1 }

/-- The tags that wait for evictions of a spring are released (R242). -/
def freeTags (s : State) (p : Spring) : State :=
  p.evicting.foldl (fun s e => match e.2 with
    | some (tk, m, tag) => s.updMember tk m (fun m => { m with tags := m.tags &&& ~~~ tagBit (some tag) })
    | none => s) s

/-- SPRING.UNDECL (R226): every FILLED block is evicted; a port or a vault may hold the writing of its entry (R319, R445). -/
def undeclareSpring (p : Packet) (s : State) : PEnd :=
  match look s.springs (springKey p.context.toNat (pword p 0)) with
  | none => .refuse s 7 0
  | some x =>
    if x.waiters != [] || x.queue != [] || x.noFrame != [] || s.teams.any (fun e => e.2.ctx = x.ctx && (match e.2.gen with
        | some g => g.spring = x.num && !g.filled
        | none => false)) then .refuse s 7 0
    else if x.fills.any (entryHeldAt s x) then .wait
    else
      let s' := x.fills.foldl (fun s b => putEntry s x b 0) s
      .done { freeTags s' x with springs := del s'.springs x.key }

/-- A spring stops translating because its fill map or pool is lost: its waiters take cause 0x02, and its generators hold no
block any longer (R435). -/
def stopSpring (s : State) (x : Spring) : State :=
  let s := x.waiters.foldl (fun s w => match w.2 with
    | .member tk m => s.updMember tk m (fun m => { m with due := some (0x02, 0) })
    | .command id => match s.cmd id with
      | some k => stopCmd k (.err s 0x02 (x.base + w.1 * 2 ^ x.blk))
      | none => s) s
  let s : State := { s with teams := s.teams.map (fun e => if e.2.ctx = x.ctx then (e.1, { e.2 with gen := e.2.gen.map (fun g =>
    if g.spring = x.num then { g with filled := true } else g) }) else e) }
  { freeTags s x with springs := del s.springs x.key }

/-! ### DIE.OFFLINE (R435) -/

/-- A team resident on the die is abandoned with REASON 5; a generator fails its block (R234, R350, R435). -/
def offlineTeam (s : State) (e : Nat × Team) : State :=
  let t := e.2.abandon 5 0 0 0
  match t.doom, t.gen with
  | some d, none => abandonTeam s e.1 t d
  | some d, some g => match look s.springs (springKey t.ctx g.spring) with
    | some x => if g.filled then removeTeam s e.1 else failBlock (removeTeam s e.1) x g.block d.genCause d.detail
    | none => removeTeam s e.1
  | none, _ => s

/-- The pool lines homed on a die that goes (R435): a dirty one, which its LLC alone caches (R181, log entry 58), is lost. -/
def losePool (s : State) (d : Nat) : State :=
  let s := (s.snoop.filter (fun e => e.home = d)).foldl (fun s e => match e.stale with
    | some bs => s.poke e.pa bs
    | none => s) s
  { s with snoop := s.snoop.filter (fun e => e.home ≠ d) }

/-- The reaches and vaults of a die as a mask. -/
def dieMask (d : Nat) : BitVec 128 := BitVec.ofNat 128 ((2 ^ 32 - 1) * 2 ^ (32 * d))

/-- A span of physical addresses meets the vaults of the die. -/
def onDie (d : Nat) (a : Nat × Nat) : Bool := inDram a.1 && decide (a.1 < (d + 1) * 2 ^ 36 ∧ d * 2 ^ 36 < a.1 + a.2)

/-- The screen writes that a die sent and that are held in the routers of other dies are discarded (R435). -/
def dropSent (s : State) (d : Nat) : State :=
  let rest := s.screens.filter (fun x => x.die ≠ d)
  (s.screens.filter (fun x => x.die = d)).foldl (fun s x =>
    if rest.any (fun y => y.sender = x.sender && y.mem = x.mem && y.tag == x.tag) then s
    else s.updMember x.sender x.mem (fun m => { m with tags := m.tags &&& ~~~ tagBit x.tag })) { s with screens := rest }

/-- DIE.OFFLINE (R435): the seven steps as one. -/
def dieOffline (p : Packet) (s : State) : PEnd :=
  let d := pword p 0
  if !s.diePresent d then .refuse s 7 0x02
  else if !s.dieUp d || (List.range 4).all (fun x => x = d || !s.dieUp x) then .refuse s 7 0
  else
    let s := (s.teams.filter (fun e => dieOf e.2.seat.core = d && !e.2.saved)).foldl offlineTeam s
    let lost := s.snoop.any (fun e => e.home = d && e.stale.isSome)
    let s := losePool { s with marks := s.marks.filter (fun k => k.die ≠ d), tlb := s.tlb.filter (fun e => e.die ≠ d)
                               kept := s.kept.filter (fun k => !(keptCore s k).any (fun c => dieOf c = d)) } d
    let keep := ~~~ dieMask d
    let s : State := { s with parts := s.parts.map (fun e => (e.1, { e.2 with reaches := e.2.reaches &&& keep, vaults := e.2.vaults &&& keep })) }
    let s := (List.range 32).foldl (fun s i => s.setVault (32 * d + i) { s.vault (32 * d + i) with mr := 0 }) s
    let s := ((s.springs.map (·.2)).filter (fun x => x.spans.any (onDie d))).foldl stopSpring s
    let s := dropSent s d
    let s : State := { s with host := { s.host with dieoff := s.host.dieoff ||| (1#4 <<< d) } }
    .done (postEvent s 64 13 (eventBody [(0, d), (1, d), (2, 3), (3, b2n lost)]))

/-! ### Streams (R406, R407) -/

/-- STREAM.OPEN (R406). It waits for a resize of its partition, whose shares it is checked against (R431). -/
def openPacket (p : Packet) (s : State) : PEnd :=
  if resizing s p then .wait
  else match openStream s (partOfPacket s p) (BitVec.ofNat 1024 (pnum p)) with
  | .ok s' => .done s'
  | .error e => .refuse s e.1 e.2

/-- STREAM.CLOSE (R407): it takes effect at the next frame start. -/
def closePacket (p : Packet) (s : State) : PEnd :=
  if !s.edie then .refuse s 7 0x02
  else match look s.streams (pword p 0) with
  | none => .refuse s 7 0
  | some x =>
    if x.part ≠ partOfPacket s p || x.closing.isSome then .refuse s 7 0
    else .later (s.updPs (pword p 0) (fun x => { x with closing := some (pid p s, false) }))

/-- NOP (R434): it completes at issue. -/
def nopPacket (_ : Packet) (s : State) : PEnd := .done s

/-- PART_CREATE (R434). -/
def execPartCreate (p : Packet) (s : State) : Host.Outcome State Fault Refusal := .next (runPacket p createPart s)
/-- PART_DESTROY (R434). -/
def execPartDestroy (p : Packet) (s : State) : Host.Outcome State Fault Refusal := .next (runPacket p destroyPart s)
/-- PART_RESIZE (R360): a partition without a context to save is resized at once. -/
def execPartResize (p : Packet) (s : State) : Host.Outcome State Fault Refusal := .next (finishResize (runPacket p resizePart s) (pword p 0))
/-- QUEUE_CREATE (R434). -/
def execQueueCreate (p : Packet) (s : State) : Host.Outcome State Fault Refusal := .next (runPacket p createQueue s)
/-- QUEUE_DESTROY (R434). -/
def execQueueDestroy (p : Packet) (s : State) : Host.Outcome State Fault Refusal := .next (runPacket p destroyQueue s)
/-- DIE_OFFLINE (R435). -/
def execDieOffline (p : Packet) (s : State) : Host.Outcome State Fault Refusal := .next (runPacket p dieOffline s)
/-- NOP (R434). -/
def execNopPacket (p : Packet) (s : State) : Host.Outcome State Fault Refusal := .next (runPacket p nopPacket s)
/-- SPRING_DECL (R223). -/
def execSpringDecl (p : Packet) (s : State) : Host.Outcome State Fault Refusal := .next (runPacket p declareSpring s)
/-- SPRING_UNDECL (R226). -/
def execSpringUndecl (p : Packet) (s : State) : Host.Outcome State Fault Refusal := .next (runPacket p undeclareSpring s)
/-- STREAM_OPEN (R406). -/
def execStreamOpen (p : Packet) (s : State) : Host.Outcome State Fault Refusal := .next (runPacket p openPacket s)
/-- STREAM_CLOSE (R407). -/
def execStreamClose (p : Packet) (s : State) : Host.Outcome State Fault Refusal := .next (runPacket p closePacket s)

end Sys2Proof.Machine
end

