-- ==== Sys2Proof/Machine/Firmware.lean ====
section
/-! DEFINITION. The firmware complexes, boot, summary records and attestation (R24, R438 to R444), and the issue of a
packet by its type (R431, R434). -/

namespace Sys2Proof.Machine

/-! ### FWSTAT and images (R438, R439) -/

/-- FWSTAT from its fields. -/
def fwWord (act sby boot fail svn stv : Nat) : Word :=
  BitVec.ofNat 32 (act * 2 ^ 31 + sby * 2 ^ 30 + boot * 2 ^ 28 + fail * 2 ^ 24 + svn % 256 * 2 ^ 16 + stv % 65536)

/-- A field of an image's header: byte offset and length. -/
def imgField (img : List Byte) (off n : Nat) : Nat := leVal ((img.drop off).take n)
/-- The version of an image. -/
def imgVersion (img : List Byte) : Nat := imgField img 4 4
/-- The SVN of an image. -/
def imgSvn (img : List Byte) : Nat := imgField img 8 1
/-- The state-table version of an image. -/
def imgStv (img : List Byte) : Nat := imgField img 10 2

/-- The signature of an image verifies (R439): ECDSA P-384 over SHA-384 of the whole image with bytes 160 to 255 taken as zero; r and s
stand in those bytes. -/
def imgVerifies (img : List Byte) : Bool :=
  decide (256 ≤ img.length) &&
    Config.ecdsaVerifies Config.waimusKey (Config.sha384 (img.take 160 ++ List.replicate 96 0 ++ img.drop 256)) ((img.drop 160).take 48)
      ((img.drop 208).take 48)

/-- The four capability words as a device holds them: reserved bits read zero, and CAP3 is zero without an E-die (R25). -/
def capWords (caps : List Word) : List Word :=
  let w (i : Nat) : Word := caps[i]?.getD 0
  [w 0 &&& 0xFFF807FF, w 1, w 2, if (w 0).getLsbD 19 then w 3 else 0]

/-- A firmware event (R437). -/
def fwEvent (s : State) (code version : Nat) : State := postEvent s 64 12 (eventBody [(0, code), (4, version)])

/-- FW.UPDATE (R442): the standby verifies the image, takes over at a packet boundary, and the former active complex boots
the image as standby. An image of no bytes, or one that memory does not hold, is not acceptable. -/
def fwUpdate (p : Packet) (s : State) : PEnd :=
  if linkHeld s (pword p 0) (pword p 1) then .wait
  else
    let img := if pword p 1 ≠ 0 && hostSpan s (pword p 0) (pword p 1) then Mem.readN s.mem (pword p 0) (pword p 1) else []
    let h := s.host
    if !imgVerifies img || decide (imgSvn img < h.minSvn) || decide (bits h.fwstat.toNat 15 0 < imgField img 12 2) then
      .refuse (fwEvent s 2 (imgVersion img)) 7 0
    else
      let s' : State := { s with host := { h with
        fwstat := fwWord (1 - bits h.fwstat.toNat 31 31) 1 2 0 (imgSvn img) (imgStv img)
        fwver := BitVec.ofNat 32 (imgVersion img)
        digests := (Config.sha384 img, Config.sha384 img, h.digests.2.2) } }
      .done (fwEvent s' 1 (imgVersion img))

/-- FIRMWARE_FAILOVER (R441): the standby takes over with its copy of the state table; no complex is standby then (log entry
31). -/
def execFirmwareFailover (s : State) : Host.Outcome State Fault Refusal :=
  let h := s.host
  let f := h.fwstat.toNat
  if bits f 29 28 = 2 && bit f 30 then
    let s' : State := { s with host := { h with
      fwstat := fwWord (1 - bits f 31 31) 0 2 (bits f 27 24) (bits f 23 16) (bits f 15 0)
      digests := (h.digests.2.1, 0, h.digests.2.2) } }
    .next (fwEvent s' 3 h.fwver.toNat)
  else .next s

/-- Bytes of stacked DRAM, as a boot reads them; none where the span leaves it (R438). -/
def bootRead (s : State) (pa n : Nat) : List Byte := if decide (pa + n ≤ 2 ^ 38) then Mem.readN s.mem pa n else []

/-- The boot of a device just reset (R24, R439, R440): stacked DRAM comes up, or the boot fails with FAIL 4; then the image's
signature, the configuration record, the image's SVN, and then queue 0 may be enabled. -/
def boot (s : State) : State :=
  let pa := s.host.bootimg.toNat
  let img := if pa + 24 ≤ 2 ^ 38 then bootRead s pa (s.peek (pa + 16) 8) else []
  let cfg := bootRead s s.host.bootcfg.toNat Config.configBytes
  let up := Config.dramUp s.free
  let s := s.freed 1
  let failed (code : Nat) : State := { s with host := { s.host with fwstat := fwWord 0 0 3 code 0 0 } }
  if !up then failed 4
  else if !imgVerifies img then failed 1
  else match Config.configRecord cfg with
  | none => failed 3
  | some (svn, caps, halfw, disabled) =>
    if imgSvn img < svn then failed 2
    else { s with
      device := { caps := capWords caps, halfw := halfw, disabled := disabled }
      host := { s.host with fwstat := fwWord 0 1 2 0 (imgSvn img) (imgStv img), fwver := BitVec.ofNat 32 (imgVersion img), minSvn := svn
                            digests := (Config.sha384 img, Config.sha384 img, Config.sha384 cfg) } }

/-- DEVICE_RESET (R440): everything is as after reset but memory and the two boot addresses, and the boot ROMs run (log
entry 32). -/
def execDeviceReset (s : State) : Host.Outcome State Fault Refusal :=
  .next (boot { State.reset with
    mem := s.mem, now := s.now, turn := s.turn, free := s.free, agenda := s.agenda
    host := { HostBlock.zero with bootimg := s.host.bootimg, bootcfg := s.host.bootcfg } })

/-! ### The summary record (R443) -/

/-- SUMMARY (R443). -/
def summaryPacket (p : Packet) (s : State) : PEnd :=
  if !hostSpan s (pword p 0) 12416 then .refuse s 7 0
  else if linkBlocked s (pword p 0) 12416 then .wait
  else .done (writeSummary s (pword p 0))

/-- SUMREQ (R427, R443): a record address that R427 does not allow is refused. A record whose write a port or a halted vault holds is
written as it stood when its path is free. -/
def execSumreq (pa : DWord) (s : State) : Host.Outcome State Fault Refusal :=
  if hostSpan s pa.toNat 12416 then .next (s.linkWrite pa.toNat none) else .next (refuse s 0x18)

/-! ### Attestation (R444) -/

/-- A byte string of a fixed length. -/
def fixLen (n : Nat) (bs : List Byte) : List Byte := (List.range n).map (fun i => bs[i]?.getD 0)

/-- ATTEST (R444). -/
def attestPacket (p : Packet) (s : State) : PEnd :=
  if !hostSpan s (pword p 6) 400 then .refuse s 7 0
  else if linkHeld s (pword p 6) 400 then .wait
  else
    let d := s.host.digests
    let sby := bit s.host.fwstat.toNat 30
    let told := (p.body.take 6).flatMap (fun x => toBytes 8 x.toNat) ++ toBytes 8 s.now ++ toBytes 8 0 ++ toBytes 48 d.1.toNat ++
      toBytes 48 (if sby then d.2.1.toNat else 0) ++ toBytes 48 d.2.2.toNat ++ fixLen 96 Config.identityKey
    .done (s.poke (pword p 6) (told ++ fixLen 96 (Config.ecdsaSign (toBytes 48 (Config.sha384 told).toNat))))

/-- SUMMARY (R443). -/
def execSummaryP (p : Packet) (s : State) : Host.Outcome State Fault Refusal := .next (runPacket p summaryPacket s)
/-- FW_UPDATE (R442). -/
def execFwUpdate (p : Packet) (s : State) : Host.Outcome State Fault Refusal := .next (runPacket p fwUpdate s)
/-- ATTEST (R444). -/
def execAttestP (p : Packet) (s : State) : Host.Outcome State Fault Refusal := .next (runPacket p attestPacket s)

/-! ### The issue of the head packet (R431, R434) -/

/-- The effect of a packet by its TYPE. -/
def effectOf (p : Packet) (s : State) : PEnd :=
  match p.typ.toNat with
  | 0x01 => createPart p s
  | 0x02 => destroyPart p s
  | 0x03 => resizePart p s
  | 0x04 => createQueue p s
  | 0x05 => destroyQueue p s
  | 0x06 => summaryPacket p s
  | 0x07 => fwUpdate p s
  | 0x08 => attestPacket p s
  | 0x09 => dieOffline p s
  | 0x10 => nopPacket p s
  | 0x11 => createCtx p s
  | 0x12 => destroyCtx p s
  | 0x13 => launchPacket p s
  | 0x14 => preemptCtx p s
  | 0x15 => resumeCtx p s
  | 0x16 => invalidate p s
  | 0x17 => declareSpring p s
  | 0x18 => undeclareSpring p s
  | 0x19 => openPacket p s
  | 0x1A => closePacket p s
  | 0x1B => releasePass p s
  | 0x1C => taskControl p s
  | _ => .refuse s 3 0

/-- PACKET_ISSUE (R431, R432): the head packet issues once its waits and its BAR are satisfied; WAIT shows that it waits. -/
def execPacketIssue (q : Nat) (s : State) : Host.Outcome State Fault Refusal :=
  match (s.queue q).head with
  | none => .next s
  | some p =>
    if !(s.queue q).en || (s.queue q).halt || p.queue ≠ q then .next s
    else if mayIssue s p then
      let s' := runPacket p effectOf s
      .next (if p.typ = 0x03 then finishResize s' (pword p 0) else s')
    else .next (s.setQueue q { s.queue q with wait := true })

end Sys2Proof.Machine
end

