-- ==== Sys2Proof/Machine/Rays.lean ====
section
/-! DEFINITION. BVH records, the ray test, RAY and BEAM (R300 to R305). -/

namespace Sys2Proof.Machine

/-! ### Exact vectors -/

/-- Three exact values. -/
structure V3 where
  /-- x. -/
  x : Ex
  /-- y. -/
  y : Ex
  /-- z. -/
  z : Ex
  deriving DecidableEq, Repr

/-- a − b. -/
def Ex.sub (a b : Ex) : Ex := Ex.add 0 a b.opp
/-- a ÷ b for a finite b that is not zero. -/
def Ex.div (a b : Ex) : Ex :=
  match a, b with
  | .num s n d, .num t m e => .num (s != t) (n * e) (d * m)
  | .inf s, .num t _ _ => .inf (s != t)
  | _, _ => .nan
/-- −1, 0 or 1 by the sign of a value that is no NaN. -/
def Ex.sign (a : Ex) : Int := Ex.cmp a (.zero false)

/-- u − v. -/
def V3.sub (u v : V3) : V3 := { x := u.x.sub v.x, y := u.y.sub v.y, z := u.z.sub v.z }
/-- u × v. -/
def V3.cross (u v : V3) : V3 :=
  { x := (u.y.mul v.z).sub (u.z.mul v.y), y := (u.z.mul v.x).sub (u.x.mul v.z), z := (u.x.mul v.y).sub (u.y.mul v.x) }
/-- u · v. -/
def V3.dot (u v : V3) : Ex := Ex.add 0 (Ex.add 0 (u.x.mul v.x) (u.y.mul v.y)) (u.z.mul v.z)
/-- The components. -/
def V3.list (u : V3) : List Ex := [u.x, u.y, u.z]
/-- The vector of three FP32 words. -/
def V3.ofWords (l : List Nat) : V3 :=
  { x := decode f32 (l[0]?.getD 0), y := decode f32 (l[1]?.getD 0), z := decode f32 (l[2]?.getD 0) }

/-! ### The ray test (R301) -/

/-- A ray. -/
structure Ray where
  /-- Origin. -/
  o : V3
  /-- Direction. -/
  d : V3
  /-- tmin. -/
  tmin : Ex
  /-- tmax. -/
  tmax : Ex
  deriving DecidableEq, Repr

/-- A NaN input makes the ray miss everything. -/
def Ray.nan (r : Ray) : Bool := (r.o.list ++ r.d.list ++ [r.tmin, r.tmax]).any Ex.isNan
/-- An infinite origin or direction, for which R301 states no result (log entry 13). -/
def Ray.open' (r : Ray) : Bool := (r.o.list ++ r.d.list).any Ex.isInf

/-- The greater of two values. -/
def exMax (a b : Ex) : Ex := if Ex.cmp a b < 0 then b else a
/-- The lesser of two values. -/
def exMin (a b : Ex) : Ex := if Ex.cmp b a < 0 then b else a

/-- The slab interval of an axis; none when it is empty. -/
def slab (o d lo hi : Ex) : Option (Ex × Ex) :=
  if d.sign = 0 then (if Ex.cmp lo o ≤ 0 ∧ Ex.cmp o hi ≤ 0 then some (.inf true, .inf false) else none)
  else if 0 < d.sign then some ((lo.sub o).div d, (hi.sub o).div d)
  else some ((hi.sub o).div d, (lo.sub o).div d)

/-- The box test. -/
def boxPass (r : Ray) (lo hi : V3) : Bool :=
  if r.nan || r.open' || (lo.list ++ hi.list).any Ex.isNan then false
  else
    match slab r.o.x r.d.x lo.x hi.x, slab r.o.y r.d.y lo.y hi.y, slab r.o.z r.d.z lo.z hi.z with
    | some a, some b, some c =>
      Ex.cmp (exMax (exMax (exMax r.tmin a.1) b.1) c.1) (exMin (exMin (exMin r.tmax a.2) b.2) c.2) ≤ 0
    | _, _, _ => false

/-- The sign of an edge value, a zero taking the tie owner's sign; 0 when that is zero too. -/
def edgeSign (e : Ex) (vj vk d : V3) : Int :=
  if e.sign ≠ 0 then e.sign
  else ((((vj.sub vk).cross d).list.map Ex.sign).find? (fun x => x != 0)).getD 0

/-- A hit: t, e1 ÷ sum, e2 ÷ sum. -/
def hitOf (r : Ray) (v0 v1 v2 : V3) : Option (Ex × Ex × Ex) :=
  let e0 := r.d.dot ((v1.sub r.o).cross (v2.sub r.o))
  let e1 := r.d.dot ((v2.sub r.o).cross (v0.sub r.o))
  let e2 := r.d.dot ((v0.sub r.o).cross (v1.sub r.o))
  let s0 := edgeSign e0 v1 v2 r.d
  let s1 := edgeSign e1 v2 v0 r.d
  let s2 := edgeSign e2 v0 v1 r.d
  let n := (v1.sub v0).cross (v2.sub v0)
  let nd := n.dot r.d
  if s0 = 0 ∨ s0 ≠ s1 ∨ s1 ≠ s2 ∨ nd.sign = 0 then none
  else
    let t := (n.dot (v0.sub r.o)).div nd
    let sum := Ex.add 0 (Ex.add 0 e0 e1) e2
    if Ex.cmp r.tmin t ≤ 0 ∧ Ex.cmp t r.tmax ≤ 0 then some (t, e1.div sum, e2.div sum) else none

/-- A quotient as FP32 bits: .rne, an exact zero as +0, no flag. -/
def exBits (x : Ex) : Nat := if x.isZero then 0 else encodeQuiet f32 x 0 false

/-- The record of a miss. -/
def missRecord : List Nat := [0x7F800000, 0xFFFFFFFF, 0, 0]

/-- A triangle as read: its index and the ten words of its vertices and id. -/
abbrev Tri := Nat × List Nat

/-- The vertex k of a triangle. -/
def Tri.vertex (t : Tri) (k : Nat) : V3 := V3.ofWords (t.2.drop (3 * k))
/-- A coordinate is a NaN. -/
def Tri.nan (t : Tri) : Bool := ((t.2.take 9).map (decode f32)).any Ex.isNan
/-- A coordinate is infinite and none is a NaN: R301 states no result (log entry 13). -/
def Tri.open' (t : Tri) : Bool := !t.nan && ((t.2.take 9).map (decode f32)).any Ex.isInf

/-- The hit record of a ray over its candidates (R301): the least exact t, ties to the lower index. -/
def bestHit (r : Ray) (ts : List Tri) : List Nat :=
  let hits := ts.filterMap (fun t => if t.nan then none else (hitOf r (t.vertex 0) (t.vertex 1) (t.vertex 2)).map (fun h => (t, h)))
  let best := hits.foldl (fun acc h => match acc with
    | none => some h
    | some b => if Ex.cmp h.2.1 b.2.1 < 0 ∨ (Ex.cmp h.2.1 b.2.1 = 0 ∧ h.1.1 < b.1.1) then some h else some b) none
  match best with
  | none => missRecord
  | some (t, h) => [exBits h.1, t.2[9]?.getD 0, exBits h.2.1, exBits h.2.2]

/-- R301 states no result for the ray over these candidates. -/
def rayOpen (r : Ray) (ts : List Tri) : Bool := !r.nan && (r.open' || ts.any Tri.open')

/-! ### The traversal (R300) -/

/-- A traversal so far. -/
structure Trav where
  /-- The byte runs of the record that it has read. -/
  reads : List (Nat × Nat)
  /-- The byte that it found malformed. -/
  bad : Option Nat
  /-- A byte could not be read yet. -/
  stuck : Bool
  /-- The candidates. -/
  tris : List Tri
  deriving DecidableEq, Repr

/-- How a traversal reads its record: EXTENT, whether a run of bytes can be read now, and a byte. -/
structure BvhView where
  /-- EXTENT. -/
  extent : Nat
  /-- The bytes can be read now. -/
  ready : Nat → Nat → Bool
  /-- A byte. -/
  byte : Nat → Byte

/-- Reads a run of bytes and goes on with them. -/
def Trav.read (w : BvhView) (off n : Nat) (x : Trav) (k : List Byte → Trav → Trav) : Trav :=
  if x.bad.isSome || x.stuck then x
  else if w.extent < off + n then { x with bad := some (max off w.extent) }
  else
    let x := { x with reads := x.reads ++ [(off, n)] }
    if w.ready off n then k ((List.range n).map (fun i => w.byte (off + i))) x else { x with stuck := true }

/-- The first byte of a range that is not zero. -/
def nonZeroAt (bs : List Byte) (lo hi : Nat) : Option Nat := ((List.range (hi - lo)).map (· + lo)).find? (fun i => bs[i]?.getD 0 != 0)

/-- Word i of bytes. -/
def wAt (bs : List Byte) (off : Nat) : Nat := leVal ((bs.drop off).take 4)

/-- Reads a leaf's triangles. -/
def readTris (w : BvhView) (trioff : Nat) : List Nat → Trav → Trav
  | [], x => x
  | j :: r, x =>
    let off := trioff + 48 * j
    readTris w trioff r (x.read w off 48 (fun bs x => match nonZeroAt bs 40 48 with
      | some i => { x with bad := some (off + i) }
      | none => { x with tris := x.tris ++ [(j, (List.range 10).map (fun i => wAt bs (4 * i)))] }))

/-- Visits a node; `fuel` is how many more nodes its path may hold (R300: 64 from the root). A node whose bytes 24 to 27 are neither 0 nor
0x80000000 is malformed there: R300 gives them no meaning (the model's choice, log entry 97). -/
def visit (w : BvhView) (r : Ray) (nn trioff : Nat) : Nat → Nat → Trav → Trav
  | 0, i, x => if x.bad.isSome || x.stuck then x else { x with bad := some (64 + 64 * i) }
  | fuel + 1, i, x =>
    let off := 64 + 64 * i
    x.read w off 64 (fun bs x =>
      let kind := wAt bs 24
      let a := wAt bs 28
      let b := wAt bs 32
      let f (o : Nat) : V3 := V3.ofWords [wAt bs o, wAt bs (o + 4), wAt bs (o + 8)]
      if (nonZeroAt bs 36 64).isSome then { x with bad := (nonZeroAt bs 36 64).map (· + off) }
      else if kind ≠ 0 ∧ kind ≠ 0x80000000 then { x with bad := some (off + 24) }
      else if kind = 0 ∧ nn ≤ a then { x with bad := some (off + 28) }
      else if kind = 0 ∧ nn ≤ b then { x with bad := some (off + 32) }
      else if kind ≠ 0 ∧ (b = 0 ∨ 16 < b) then { x with bad := some (off + 32) }
      else if !boxPass r (f 0) (f 12) then x
      else if kind = 0 then visit w r nn trioff fuel b (visit w r nn trioff fuel a x)
      else readTris w trioff ((List.range b).map (· + a)) x)

/-- The traversal of a ray from the header on. A header whose NN is 0 names no root, and is malformed at its byte 0 (the model's choice, log
entry 97). -/
def traverse (w : BvhView) (r : Ray) : Trav :=
  Trav.read w 0 64 { reads := [], bad := none, stuck := false, tris := [] } (fun bs x =>
    match nonZeroAt bs 8 64 with
    | some i => { x with bad := some i }
    | none => if wAt bs 0 = 0 then { x with bad := some 0 } else visit w r (wAt bs 0) (wAt bs 4) 64 0 x)

/-- The record as the traversal sees it through the translations of now; `see` reads a physical byte. -/
def viewOf (s : State) (t : Team) (q : Want) (r : Rec) (see : Nat → Byte) : BvhView :=
  let tr (o : Nat) : Trans := (transLine s t q (recVa r o / 64 * 64)).2
  { extent := recExtent r
    ready := fun off n => (List.range n).all (fun i => match tr (off + i) with
      | .ok .. => true
      | _ => false)
    byte := fun o => match tr o with
      | .ok pa .. => see (pa + recVa r o % 64)
      | _ => 0 }

/-- The virtual addresses of a traversal's reads. -/
def Trav.vas (x : Trav) (r : Rec) : List Nat := (x.reads.dedup).flatMap (fun e => recVas r e.1 e.2)

/-! ### RAY (R302) -/

/-- The ray of a lane. -/
def Ctx.ray (c : Ctx) (l : Nat) : Ray :=
  let b (i : Nat) : Nat := c.v l (fB c.w + i)
  let k (i : Nat) : Nat := c.v l (fC c.w + i)
  { o := V3.ofWords [b 0, b 1, b 2], d := V3.ofWords [k 0, k 1, k 2], tmin := decode f32 (b 3), tmax := decode f32 (k 3) }

/-- Lanes that found the BVH malformed keep waiting with the lanes that have not finished their reads, and lie on no page or block
that these wait for (R235, R302). -/
def withMalformed (bad : BitVec 32) (fin : BitVec 32) : Res → Res
  | .part s o _ (some k) => .part s o (fin &&& ~~~ bad) (some { k with along := k.along ||| bad })
  | r => r

/-- RAY (R302). -/
def entryRay (c : Ctx) : Res :=
  let r := c.recA
  if recFlat r then .cause c.s 0x06 0
  else if recExtent r < 64 then .cause c.s 0x05 0
  else if !permits r .read then .cause c.s 0x06 0
  else
    let ask (ls : List LaneReq) : MemAsk := { r := r, kind := 0, need := .read, requester := true, lanes := ls }
    let w (l : Nat) : BvhView := viewOf c.s c.t (wantOf c.t (ask [])) r (c.laneByte l)
    let tv := c.act.map (fun l => (l, traverse (w l) (c.ray l)))
    let bad := maskOf ((tv.filter (fun e => e.2.bad.isSome)).map (·.1))
    let fin := maskOf ((tv.filter (fun e => !e.2.stuck)).map (·.1))
    if bad ≠ 0 ∧ tv.all (fun e => !e.2.stuck) then .cause c.s 0x05 0
    else
      let free (i k : Nat) : Nat := (Config.freeWord (c.s.free + 4 * i + k)).toNat
      withMalformed bad fin (memWord { c with s := c.s.freed (4 * tv.length) } false
        (ask (tv.map (fun e => { lane := e.1, vas := e.2.vas r })))
        (fun s tr ok => (c.sawLanes s tr ok, Out.late ((tv.zipIdx.filter (fun e => ok.any (fun l => l.lane = e.1.1) && e.1.2.bad.isNone)).flatMap (fun e =>
          let ray := c.ray e.1.1
          let h := if rayOpen ray e.1.2.tris then (List.range 4).map (free e.2) else bestHit ray e.1.2.tris
          h.zipIdx.map (fun x => (Place.v e.1.1 (fD c.w + x.2), x.1)))))))

/-! ### BEAM (R303 to R305) -/

/-- BEAM (R303). The 0x06 checks of its BVH record come after step 2 of R253, before the bounds of the destination: R303 does not place
them among R253's steps (the model's choice, log entry 98). -/
def entryBeam (c : Ctx) : Res :=
  let b := fB c.w
  let ctl := c.sc b
  let r := c.d (fA c.w)
  let size := c.sc (b + 14)
  let w := bits size 5 0 + 1
  let h := bits size 13 8 + 1
  let dst := c.endpoint (b + 15)
  checked c ([failIf (ctlBad ctl false || endBad (c.sc (b + 15)) || !bit (c.sc (b + 15)) 31 || bits size 7 6 ≠ 0 || bits size 31 14 ≠ 0) 0x01,
      endKind c.t dst, failIf (recFlat r || !permits r .read) 0x06, endBounds c.t (16 * w * h) dst, endState c.t .filling dst] ++ c.lateChecks ctl)
    (accept c false (some (fD c.w)) (c.ringOf ctl)
      (.beam r ((List.range 18).map (fun i => BitVec.ofNat 32 (c.sc (b + 1 + i)))) dst))

/-- Block register sB + i of a captured beam. -/
def bw (blk : List Word) (i : Nat) : Nat := (blk[i - 1]?.getD 0).toNat

/-- A direction component (R304): computed exactly before its one rounding. -/
def beamDir (d0 dx dy : Nat) (px py : Nat) : Nat :=
  let half (p : Nat) : Ex := .num false (2 * p + 1) 2
  encodeQuiet f32 (Ex.add 0 (Ex.add 0 (decode f32 d0) ((half px).mul (decode f32 dx))) ((half py).mul (decode f32 dy))) 0 false

/-- The ray of pixel (px0 + i, py0 + j) (R304). -/
def beamRay (blk : List Word) (i j : Nat) : Ray :=
  let px := bits (bw blk 13) 15 0 + i
  let py := bits (bw blk 13) 31 16 + j
  { o := V3.ofWords [bw blk 1, bw blk 2, bw blk 3]
    d := V3.ofWords ((List.range 3).map (fun k => beamDir (bw blk (4 + k)) (bw blk (7 + k)) (bw blk (10 + k)) px py))
    tmin := decode f32 (bw blk 17), tmax := decode f32 (bw blk 18) }

/-- A BEAM's whole rectangle: its reads, then its records (R303, R304). -/
def runBeam (s : State) (k : Command) (t : Team) (r : Rec) (blk : List Word) (dst : End) : State :=
  let w := bits (bw blk 14) 5 0 + 1
  let h := bits (bw blk 14) 13 8 + 1
  let q : Want := { die := dieOf t.seat.core, core := none, ctx := t.ctx, need := .read, spring := recS r, requester := recS r }
  let tv := (List.range (w * h)).map (fun e => (beamRay blk (e % w) (e / w), traverse (viewOf s t q r (Mem.read s.mem)) (beamRay blk (e % w) (e / w))))
  let ls : List LaneReq := [{ lane := 0, vas := (tv.flatMap (fun e => e.2.vas r)).dedup }]
  match cmdReach s k false false r ls (fun s _ _ => .ok s []) with
  | .ok s _ =>
    (match tv.findSome? (fun e => e.2.bad) with
     | some o => endCmd s k 1 0x05 (recVa r o) 0
     | none =>
       let free (i j : Nat) : Nat := (Config.freeWord (s.free + 4 * i + j)).toNat
       let bs := tv.zipIdx.flatMap (fun e =>
         let hit := if rayOpen e.1.1 e.1.2.tris then (List.range 4).map (free e.2) else bestHit e.1.1 e.1.2.tris
         (hit.flatMap (toBytes 4)).zipIdx.map (fun x => (16 * e.2 + x.2, x.1)))
       match writeEnd (s.freed (4 * tv.length)) k dst bs with
       | .ok s _ => endCmd s k 0 0 0 (16 * w * h)
       | x => stopCmd k x)
  | x => stopCmd k x

/-- BEAM_COMPLETION (R304): the records are written and the command's accesses are done. -/
def execBeamCompletion (id : Nat) (s : State) : Host.Outcome State Fault Refusal :=
  match s.cmd id with
  | none => .next s
  | some k => match k.phase, k.job, look s.teams k.team with
    | .started, .beam r blk dst, some t =>
      if runnable s k then .next (runBeam (s.updCmd id (fun k => { k with stop := .none })) k t r blk dst) else .next s
    | _, _, _ => .next s

/-- BEAM (R303). -/
def execBeam (w : CWord) (s : State) : Host.Outcome State Fault Refusal :=
  calud (rowAt 0x1CC) entryBeam w s

/-- RAY (R302). -/
def execRay (w : CWord) (s : State) : Host.Outcome State Fault Refusal :=
  calud (rowAt 0x1CD) entryRay w s

end Sys2Proof.Machine
end

