-- ==== Sys2Proof/Machine/Registers.lean ====
section
/-! DEFINITION. The device register space as the host reads and writes it (R186, R325, R326, R328, R372, R423, R425 to R428,
R437, R438), and the host's accesses to memory (R226, R425). -/

namespace Sys2Proof.Machine

/-! ### Where a register stands (R426) -/

/-- The block of a register, with its die where it has one, and the offset in it. -/
inductive Block where
  | host | queues | rings | unit (die : Nat) | vaults (die : Nat) | reaches (die : Nat) | edie | none
  deriving DecidableEq, Repr

/-- The block and offset of a register offset: none where no block stands, or its die or the E-die is not there (R426). -/
def regBlock (s : State) (off : Nat) : Block × Nat :=
  let lo := off % 0x10000
  if off < 0x10000 then (.host, lo)
  else if off < 0x20000 then (.queues, lo)
  else if off < 0x30000 then (.rings, lo)
  else if 0x1000000 ≤ off ∧ off < 0x1400000 then
    let d := (off - 0x1000000) / 0x100000
    let b := off % 0x100000 / 0x10000
    if !s.dieUp d then (.none, off) else if b = 0 then (.unit d, lo) else if b = 1 then (.vaults d, lo) else if b = 2 then (.reaches d, lo) else (.none, off)
  else if 0x2000000 ≤ off ∧ off < 0x2010000 ∧ s.edie then (.edie, lo)
  else (.none, off)

/-- The low or high half of a 64-bit value, by offset. -/
def halfOf (off x : Nat) : Nat := if off % 8 = 4 then x / 2 ^ 32 % 2 ^ 32 else x % 2 ^ 32

/-! ### Reads -/

/-- An offset that no table assigns: it reads as zero (R425), but where the host reads CAP0 to CAP3 (R25). No table gives
those an offset, so it is a free one (log entry 80). -/
def readCap (s : State) (off : Nat) : Nat :=
  match (List.range 4).find? (fun k => Config.capOffset k = off) with
  | some k => (s.device.caps[k]?.getD 0).toNat
  | none => 0

/-- The host block (R438). -/
def readHost (s : State) (off : Nat) : Nat :=
  let h := s.host
  match off with
  | 0x000 => h.fwstat.toNat
  | 0x004 => h.fwver.toNat
  | 0x008 => halfOf off h.bootimg.toNat
  | 0x00C => halfOf off h.bootimg.toNat
  | 0x010 => halfOf off h.bootcfg.toNat
  | 0x014 => halfOf off h.bootcfg.toNat
  | 0x020 => h.sumseq.toNat
  | 0x028 => h.dieoff.toNat
  | _ => readCap s off

/-- A queue's registers (R428). -/
def readQueue (x : Queue) (k : Nat) : Nat :=
  match k with
  | 0x00 => halfOf k x.base.toNat
  | 0x04 => halfOf k x.base.toNat
  | 0x08 => x.size.toNat
  | 0x0C => x.put.toNat
  | 0x10 => x.get.toNat
  | 0x14 => x.qstat
  | 0x18 => halfOf k x.tlval.toNat
  | 0x1C => halfOf k x.tlval.toNat
  | 0x20 => halfOf k x.tlmir.toNat
  | 0x24 => halfOf k x.tlmir.toNat
  | 0x30 => halfOf k x.err.toNat
  | 0x34 => halfOf k x.err.toNat
  | _ => 0

/-- An event ring's registers (R437). -/
def readRing (r : Ring) (k : Nat) : Nat :=
  match k with
  | 0x00 => halfOf k r.base.toNat
  | 0x04 => halfOf k r.base.toNat
  | 0x08 => r.size.toNat
  | 0x0C => r.put.toNat
  | 0x10 => r.get.toNat
  | 0x14 => r.lost.toNat
  | _ => 0

/-- A die's memory-unit block (R186, R191). -/
def readUnit (u : MemUnit) (off : Nat) : Nat :=
  if 0x200 ≤ off ∧ off < 0x400 then sumNat ((List.range 32).map (fun i => if u.summap.contains (8 * (off - 0x200) + i) then 2 ^ i else 0))
  else match off with
  | 0x000 => halfOf off u.fbbase.toNat
  | 0x004 => halfOf off u.fbbase.toNat
  | 0x008 => u.fbput.toNat
  | 0x00C => u.fbget.toNat
  | 0x010 => b2n u.fbovf * 2 ^ 16 + u.fbCount
  | 0x014 => u.fbovfcnt.toNat
  | 0x040 => halfOf off u.nqbase.toNat
  | 0x044 => halfOf off u.nqbase.toNat
  | 0x048 => u.nqsize.toNat
  | 0x04C => u.nqput.toNat
  | 0x050 => u.nqget.toNat
  | 0x054 => min u.nqCount 4095 * 2 + b2n u.nqovf
  | 0x058 => u.acthr.toNat
  | 0x05C => u.vscarve
  | _ => 0

/-- A die's vault block (R325). TPRED is in whole quarters (log entry 16). -/
def readVault (s : State) (d off : Nat) : Nat :=
  if 0x200 ≤ off ∧ off < 0x400 then halfOf off (get 0 s.pchg (64 * d + (off - 0x200) / 8)).toNat
  else if 0x200 ≤ off then 0
  else
    let v := 32 * d + off / 16
    let x := s.vault v
    match off % 16 with
    | 0x0 => b2n x.halt * 2 ^ 31 + b2n x.press * 2 ^ 30 + x.ivl * 2 ^ 28 + min (tpred8 s v / 2) 4095 * 2 ^ 12 + x.tmeas
    | 0x4 => x.cost * 2 ^ 16 + wrapI 12 x.budget
    | 0x8 => x.pin * 2 ^ 16 + x.floor
    | 0xC => x.mr
    | _ => 0

/-- A die's reach-power block (R326, R328). -/
def readReach (s : State) (d off : Nat) : Nat :=
  if off = 0x800 ∧ d = 0 then b2n s.phcfg.1 * 2 ^ 31 + s.phcfg.2
  else if off = 0x804 ∧ d = 0 then s.pkgcap.toNat
  else if 0x800 ≤ off then 0
  else
    let n := 32 * d + off / 0x40
    let r := s.reach n
    match off % 0x40 with
    | 0x00 => r.vid * 2 ^ 16 + r.lrate * 2 ^ 8 + b2n r.hop.isSome
    | 0x04 => r.mpcfg.toNat
    | 0x08 => r.refill * 2 ^ 16 + r.target
    | 0x0C => r.level
    | 0x10 => r.weights.toNat % 2 ^ 32
    | 0x14 => r.weights.toNat / 2 ^ 32
    | 0x18 => min (grantQueue s n).length 255 * 2 ^ 24 + openLevels s n * 2 ^ 16 + r.gmax * 2 ^ 8 + r.gpool
    | 0x20 => bits r.wlim.toNat 31 0
    | 0x24 => bits r.wlim.toNat 63 32
    | 0x28 => bits r.wlim.toNat 95 64
    | 0x2C => bits r.wlim.toNat 127 96
    | 0x30 => r.drpcnt.toNat
    | 0x34 => r.hopcnt.toNat
    | 0x38 => r.hopmax.toNat
    | 0x3C => r.spslot
    | _ => 0

/-- CSTATE or VSTATE of a stream: an ended stream is not stopped by a halt, and a slice's stop shows 3 for both (R372,
R415, R466). -/
def streamState (c : LineCore) (st : LStream) : Nat :=
  if c.stopped then 3 else if st.ended then 0 else if c.halt then 3 else if !st.on then 0 else if st.waiting || st.blocked.isSome then 2 else 1

/-- A line core's registers (R372, R463). -/
def readLine (c : LineCore) (k : Nat) : Nat :=
  if 0x100 ≤ k ∧ k < 0x180 then
    halfOf k ((if k % 16 < 8 then get 0 c.lwbase ((k - 0x100) / 16) else get 0 c.lwext ((k - 0x100) / 16))).toNat
  else match k with
  | 0x000 => b2n c.halt * 2 ^ 31 + streamState c c.cs * 2 ^ 29 + streamState c c.vs * 2 ^ 27 + c.ldq.length * 2 ^ 16 + c.stq.length * 2 ^ 8 +
      c.mq.length
  | 0x004 => c.err0.toNat
  | 0x008 => c.err1.toNat
  | 0x00C => c.err2.toNat
  | 0x010 => halfOf k c.htime.toNat
  | 0x014 => halfOf k c.htime.toNat
  | 0x020 => halfOf k c.lclen.toNat
  | 0x024 => halfOf k c.lclen.toNat
  | _ => 0

/-- The slice in scan-out (R423); the last slice during blanking. -/
def PStream.scanSlice (p : PStream) (now : Nat) : Nat :=
  match p.frame with
  | some _ => min ((pCycles now - p.tf) / (32 * p.linepc)) (p.slices - 1)
  | none => 0

/-- The registers of a stream that keep their values while it is not open (R423). -/
def StreamRegs.read (r : StreamRegs) (k : Nat) : Nat :=
  match k with
  | 0x08 => r.sbwcnt.toNat
  | 0x0C => r.sevcnt.toNat
  | 0x10 => r.slastbw.toNat
  | 0x14 => r.sbsput.toNat
  | 0x18 => r.sbsget.toNat
  | 0x1C => r.sbsdrop.toNat
  | 0x20 => r.sbadidx.toNat
  | _ => 0

/-- An open stream's registers (R423). -/
def readStream (p : PStream) (now k : Nat) : Nat :=
  match k with
  | 0x00 => 2 ^ 31 + ((p.last.map (fun l => l.1 % 3)).getD 0) * 2 ^ 25 + b2n p.last.isSome * 2 ^ 24 + p.scanSlice now % 256 * 2 ^ 16
  | 0x04 => p.frame.getD 0 % 2 ^ 32
  | _ => p.regs.read k

/-- A 4-byte read at an aligned offset (R425): an offset that no table assigns reads zero. -/
def readReg (s : State) (off : Nat) : Nat :=
  match regBlock s off with
  | (.host, o) => readHost s o
  | (.queues, o) => if o < 0x4000 then readQueue (s.queue (o / 0x40)) (o % 0x40) else 0
  | (.rings, o) => if o / 0x20 ≤ 64 then readRing (s.ring (o / 0x20)) (o % 0x20) else 0
  | (.unit d, o) => readUnit (s.unit d) o
  | (.vaults d, o) => readVault s d o
  | (.reaches d, o) => readReach s d o
  | (.edie, o) =>
    if o < 0x8000 then (if o / 0x400 < s.lcores then readLine (s.lc (o / 0x400)) (o % 0x400) else 0)
    else
      let n := (o - 0x8000) / 0x40
      if s.maxStreams ≤ n then 0
      else match look s.streams n with
        | some p => readStream p s.now (o % 0x40)
        | none => (get StreamRegs.zero s.sregs n).read (o % 0x40)
  | (.none, _) => readCap s off

/-! ### Writes -/

/-- A 64-bit value with one half replaced. -/
def putHalf (off : Nat) (old : DWord) (x : Nat) : DWord :=
  BitVec.ofNat 64 (if off % 8 = 4 then old.toNat % 2 ^ 32 + x * 2 ^ 32 else old.toNat / 2 ^ 32 * 2 ^ 32 + x)

/-- The host block's writes (R438): an address outside stacked DRAM is refused (R427). -/
def writeHost (s : State) (off : Nat) (f : DWord → DWord) : State :=
  let dram (x : DWord) : Bool := inDram x.toNat && hostPa s x.toNat
  if off / 8 = 1 then
    (if dram (f s.host.bootimg) then { s with host := { s.host with bootimg := f s.host.bootimg } } else refuse s 0x8)
  else if off / 8 = 2 then
    (if dram (f s.host.bootcfg) then { s with host := { s.host with bootcfg := f s.host.bootcfg } } else refuse s 0x10)
  else s

/-- QBASE, QSIZE and TLMIR (R427, R428). The two low words of a register pair come as one function of the old value. -/
def writeQueue (s : State) (q k : Nat) (f : DWord → DWord) (x : Nat) : State :=
  let r := s.queue q
  if k / 8 = 0 then
    let b := f r.base
    if r.en then s
    else if b.toNat % 4096 ≠ 0 || !hostSpan s b.toNat (max 1 r.size.toNat) then refuse s (0x10000 + 0x40 * q)
    else s.setQueue q { r with base := b }
  else if k = 0x08 then
    if r.en then s
    else if queueSize x && hostSpan s r.base.toNat x then s.setQueue q { r with size := BitVec.ofNat 32 x }
    else refuse s (0x10000 + 0x40 * q + 8)
  else if k / 8 = 4 then
    let b := f r.tlmir &&& 0xFFFFFFFFFFFF8
    if b = 0 || hostSpan s b.toNat 8 then s.setQueue q { r with tlmir := b } else refuse s (0x10000 + 0x40 * q + 0x20)
  else s

/-- EVBASE and EVSIZE of ring 64, EVGET and EVLOST (R437). -/
def writeRing (s : State) (n k : Nat) (f : DWord → DWord) (x : Nat) : State :=
  let r := s.ring n
  if k / 8 = 0 then
    let b := f r.base
    if n ≠ 64 then s
    else if b.toNat % 4096 ≠ 0 || !hostSpan s b.toNat (64 * max 1 r.size.toNat) then refuse s (0x20000 + 0x20 * n)
    else drainRing (s.setRing n { r with base := b }) n
  else if k = 0x08 then
    if n ≠ 64 then s
    else if ringSize x && hostSpan s r.base.toNat (64 * x) then drainRing (s.setRing n { r with size := BitVec.ofNat 32 x }) n
    else refuse s (0x20000 + 0x20 * n + 8)
  else if k = 0x10 then drainRing (s.setRing n { r with get := BitVec.ofNat 32 x }) n
  else if k = 0x14 then s.setRing n { r with lost := BitVec.ofNat 32 x }
  else s

/-- The memory unit's writes (R186, R190, R191). An NQSIZE that is not a power of two from 64 to 65,536 is stored as written: R186 gives
the register's range and no effect of another value (log entry 44). -/
def writeUnit (s : State) (d off : Nat) (f : DWord → DWord) (x : Nat) : State :=
  let u := s.unit d
  if 0x200 ≤ off ∧ off < 0x400 then
    s.setUnit d { u with summap := u.summap.filter (fun h => !(decide (8 * (off - 0x200) ≤ h ∧ h < 8 * (off - 0x200) + 32) && bit x (h - 8 * (off - 0x200)))) }
  else if off / 8 = 0 then s.setUnit d { u with fbbase := f u.fbbase &&& ~~~ 0x3FFFF }
  else if off = 0x00C then
    if 4096 < (u.fbput - BitVec.ofNat 32 x).toNat then s else s.setUnit d { u with fbget := BitVec.ofNat 32 x }
  else if off = 0x010 then s.setUnit d { u with fbovf := u.fbovf && !bit x 16 }
  else if off = 0x014 then s.setUnit d { u with fbovfcnt := BitVec.ofNat 32 x }
  else if off / 8 = 8 then s.setUnit d { u with nqbase := f u.nqbase &&& ~~~ 0xF }
  else if off = 0x048 then s.setUnit d { u with nqsize := BitVec.ofNat 32 x }
  else if off = 0x050 then s.setUnit d { u with nqget := BitVec.ofNat 32 x }
  else if off = 0x054 then s.setUnit d { u with nqovf := u.nqovf && !bit x 0 }
  else if off = 0x058 then s.setUnit d { u with acthr := BitVec.ofNat 32 (x % 4096) }
  else s

/-- The vault block's writes: VSTAT.PRESS and PCHG (R325). -/
def writeVault (s : State) (d off : Nat) (f : DWord → DWord) (x : Nat) : State :=
  if 0x200 ≤ off ∧ off < 0x400 then
    let k := 64 * d + (off - 0x200) / 8
    { s with pchg := setD 0 s.pchg k (f (get 0 s.pchg k)) }
  else if off < 0x200 ∧ off % 16 = 0 then
    let v := 32 * d + off / 16
    s.setVault v { s.vault v with press := (s.vault v).press && !bit x 30 }
  else s

/-- The reach-power block's writes without a row of their own (R326, R328). -/
def writeReach (s : State) (d off : Nat) (x : Nat) : State :=
  if off = 0x800 ∧ d = 0 then { s with phcfg := (s.phcfg.1, x % 16) }
  else if off = 0x804 ∧ d = 0 then { s with pkgcap := BitVec.ofNat 32 x }
  else if 0x800 ≤ off then s
  else
    let n := 32 * d + off / 0x40
    let r := s.reach n
    let k := off % 0x40
    let w : Word := BitVec.ofNat 32 x
    if k = 0x04 then s.setReach n { r with mpcfg := w, level := min r.level (bits x 15 0) }
    else if k = 0x10 then s.setReach n { r with weights := putHalf 0 r.weights x }
    else if k = 0x14 then s.setReach n { r with weights := putHalf 4 r.weights x }
    else if k = 0x18 then s.setReach n { r with gmax := bits x 10 8, gpool := bits x 7 0 }
    else if 0x20 ≤ k ∧ k ≤ 0x2C then
      let i := 32 * ((k - 0x20) / 4)
      s.setReach n { r with wlim := BitVec.ofNat 128 (r.wlim.toNat - bits r.wlim.toNat (i + 31) i * 2 ^ i + x * 2 ^ i) }
    else if k = 0x30 then s.setReach n { r with drpcnt := w }
    else if k = 0x34 then s.setReach n { r with hopcnt := w }
    else if k = 0x38 then s.setReach n { r with hopmax := w }
    else s

/-- A line core's windows and LCLEN (R372, R463): other bits are zero. -/
def writeLine (s : State) (n k : Nat) (f : DWord → DWord) : State :=
  s.updLc n (fun c =>
    let i := (k - 0x100) / 16
    if 0x100 ≤ k ∧ k < 0x180 then
      if k % 16 < 8 then { c with lwbase := setD 0 c.lwbase i (f (get 0 c.lwbase i) &&& 0xFFFFFFFFFFFF0) }
      else { c with lwext := setD 0 c.lwext i (f (get 0 c.lwext i) &&& 0xC000FFFFFFFFFFF0) }
    else if k / 8 = 4 then { c with lclen := f c.lclen &&& 0x3FFFF0003FFFF }
    else c)

/-- The RW registers of a stream (R423). -/
def StreamRegs.write (r : StreamRegs) (k x : Nat) : StreamRegs :=
  let w : Word := BitVec.ofNat 32 x
  if k = 0x08 then { r with sbwcnt := w }
  else if k = 0x0C then { r with sevcnt := w }
  else if k = 0x18 then { r with sbsget := w }
  else if k = 0x1C then { r with sbsdrop := w }
  else if k = 0x20 then { r with sbadidx := w }
  else r

/-- A stream's registers, open or not (R423). -/
def writeStream (s : State) (n k x : Nat) : State :=
  if s.maxStreams ≤ n then s
  else match look s.streams n with
    | some _ => s.updPs n (fun p => p.withRegs (p.regs.write k x))
    | none => { s with sregs := setD StreamRegs.zero s.sregs n ((get StreamRegs.zero s.sregs n).write k x) }

/-- A write of a register without a row of its own: `f` gives the new value of a 64-bit register from the old one, and
`x` the value of a 32-bit register. -/
def writeReg (s : State) (off : Nat) (f : DWord → DWord) (x : Nat) : State :=
  match regBlock s off with
  | (.host, o) => writeHost s o f
  | (.queues, o) => if o < 0x4000 then writeQueue s (o / 0x40) (o % 0x40) f x else s
  | (.rings, o) => if o / 0x20 ≤ 64 then writeRing s (o / 0x20) (o % 0x20) f x else s
  | (.unit d, o) => writeUnit s d o f x
  | (.vaults d, o) => writeVault s d o f x
  | (.reaches d, o) => writeReach s d o x
  | (.edie, o) =>
    if o < 0x8000 then (if o / 0x400 < s.lcores then writeLine s (o / 0x400) (o % 0x400) f else s)
    else if o < 0x9000 then writeStream s ((o - 0x8000) / 0x40) (o % 0x40) x else s
  | (.none, _) => s

/-- The offset is that of a 64-bit register, which an 8-byte write writes whole (R186, R325, R372, R428, R437, R438, R463). -/
def isWide (s : State) (off : Nat) : Bool :=
  match regBlock s off with
  | (.host, o) => o = 0x8 || o = 0x10
  | (.queues, o) => o % 0x40 = 0 || o % 0x40 = 0x20
  | (.rings, o) => o % 0x20 = 0
  | (.unit _, o) => o = 0 || o = 0x40
  | (.vaults _, o) => decide (0x200 ≤ o)
  | (.edie, o) => decide (o < 0x8000 ∧ 0x20 ≤ o % 0x400)
  | _ => false

/-- A host-link error event (R425, R437). -/
def linkError (s : State) (pa : Nat) (read : Bool) : State := postEvent s 64 10 (eventBody [(0, pa), (8, b2n read)])

/-- The state that a register's own meaning answers. -/
def answered (s : State) (o : Host.Outcome State Fault Refusal) : State :=
  match o with
  | .next s' => s'
  | _ => s

/-- A 32-bit register whose write has a row of its own: QPUT, VSCARVE, VRES, CLKCFG, MPFILL and SPSLOT. -/
def ownWrite (s : State) (off x : Nat) : Option State :=
  let w : Word := BitVec.ofNat 32 x
  match regBlock s off with
  | (.queues, o) => if o < 0x4000 ∧ o % 0x40 = 0x0C then some (answered s (execQput (o / 0x40) w s)) else none
  | (.unit d, o) => if o = 0x5C then some (answered s (execVscarve d w s)) else none
  | (.vaults d, o) => if o < 0x200 ∧ o % 16 = 8 then some (answered s (execVres (32 * d + o / 16) w s)) else none
  | (.reaches d, o) =>
    let n := 32 * d + o / 0x40
    if 0x800 ≤ o then none
    else if o % 0x40 = 0 then some (answered s (execClkcfg n w s))
    else if o % 0x40 = 0x08 then some (answered s (execMpfill n w s))
    else if o % 0x40 = 0x3C then some (answered s (execSpslot n w s))
    else none
  | _ => none

/-- A 64-bit WO register, which acts on an 8-byte write alone (R425): FBREPLAY, FBABORT, SUMREQ, QCTL and LCGO. The outer
none is any other register. -/
def ownWide (s : State) (off : Nat) (value : DWord) : Option State :=
  match regBlock s off with
  | (.host, o) => if o = 0x18 then some (answered s (execSumreq value s)) else none
  | (.queues, o) =>
    if o < 0x4000 ∧ o % 0x40 = 0x28 then
      let s := answered s (execQctlRestart (o / 0x40) value s)
      some (if o = 0x28 then answered s (execQctlEnable value s) else s)
    else none
  | (.unit d, o) =>
    if o = 0x18 then some (answered s (execFbreplay d value s)) else if o = 0x20 then some (answered s (execFbabort d value s)) else none
  | (.edie, o) => if o < 0x8000 ∧ o % 0x400 = 0x18 then some (answered s (execLcgo (o / 0x400) value s)) else none
  | _ => none

/-- A write of 32 bits. -/
def write32 (s : State) (off x : Nat) : State := (ownWrite s off x).getD (writeReg s off (fun old => putHalf off old x) x)

/-- A register access of the host that R425 allows: 4 or 8 bytes, naturally aligned. -/
def regAccess (off width : Nat) : Bool := (width = 4 || width = 8) && off % width = 0

/-- REGISTER_WRITE (R425): 4 or 8 bytes, naturally aligned; any other access writes nothing and is reported. An 8-byte write
of two 32-bit registers writes both, the lower first. -/
def execRegisterWrite (off width : Nat) (value : DWord) (s : State) : Host.Outcome State Fault Refusal :=
  let x := value.toNat
  if !regAccess off width then .next (linkError s (0x20000000000 + off) false)
  else if width = 4 then .next (write32 s off (x % 2 ^ 32))
  else match ownWide s off value with
  | some s' => .next s'
  | none =>
    if isWide s off then .next (writeReg s off (fun _ => value) (x % 2 ^ 32))
    else .next (write32 (write32 s off (x % 2 ^ 32)) (off + 4) (x / 2 ^ 32))

/-- The host's read of a register (R425): the state after it, and the value. A read of another width or alignment reads zero and is
reported. -/
def hostRead (s : State) (off width : Nat) : State × Nat :=
  if !regAccess off width then (linkError s (0x20000000000 + off) true, 0)
  else (s, readReg s off + (if width = 8 then readReg s (off + 4) * 2 ^ 32 else 0))

/-- HOST_MEMORY_ACCESS (R226, R425): a read or a write of stacked DRAM, of the CXL pool window, or of the handoff pool, in which the
host writes the mailbox and the sections (R411, R463); a write that meets the fill map or the pool of a declared spring is refused
and reported. -/
def execHostMemoryAccess (pa : Nat) (data : Option (List Byte)) (s : State) : Host.Outcome State Fault Refusal :=
  match data with
  | none => .next s
  | some bs =>
    if bs = [] || !(hostSpan s pa bs.length || (inHandoff pa && inHandoff (pa + bs.length - 1) && !paBad s pa && !paBad s (pa + bs.length - 1))) then .next s
    else if meetsSpring s (pa, bs.length) then .next (linkError s pa false)
    else .next (s.linkWrite pa (some bs))

end Sys2Proof.Machine
end

