-- ==== Sys2Proof/Machine/Tiles.lean ====
section
/-! DEFINITION. The tile store: holdings, tile reads and writes, ordered writes and screen writes (R290 to R299). -/

namespace Sys2Proof.Machine

/-- The ceiling in bytes (R290). -/
def Team.ceiling (t : Team) : Nat := 4096 * t.spec.tile

/-- TGROW (R291). -/
def entryTgrow (c : Ctx) : Res :=
  let n := c.sc (fA c.w)
  let fits := decide (c.t.hold + n ≤ c.t.ceiling)
  let out := Out.fixed (c.m.present.map (fun l => (Place.p l (fD c.w), b2n fits)))
  if n % 4096 ≠ 0 then .cause c.s 0x04 0
  else .done (if fits then c.s.updTeam c.tk (fun t => { t with hold := t.hold + n }) else c.s) out

/-- A screen write of the issuing member, or of one of its lanes, is under way (R291). -/
def Ctx.screensBefore (c : Ctx) : Bool := c.screensOut || c.s.screens.any (fun x => x.sender = c.tk && x.mem = c.m.id)

/-- TSHRINK (R290, R291). -/
def entryTshrink (c : Ctx) : Res :=
  let n := c.sc (fA c.w)
  if n % 4096 ≠ 0 then .cause c.s 0x04 0
  else if c.t.hold < n then .cause c.s 0x1C 0
  else if c.screensBefore then .wait c.s
  else .done (c.s.updTeam c.tk (fun t => { t with
    hold := t.hold - n
    tres := if t.ceiling < t.tres then max t.ceiling (t.hold - n) else t.tres
    tdata := t.tdata.filter (fun e => decide (e.1 < t.hold - n)) })) Out.none

/-- W of a layout (R294). -/
def cfgW (cfg : Word) : Nat := bits cfg.toNat 15 8 + 1
/-- H. -/
def cfgH (cfg : Word) : Nat := bits cfg.toNat 23 16 + 1
/-- Q. -/
def cfgQ (cfg : Word) : Nat := bits cfg.toNat 27 24 + 1
/-- ORD. -/
def cfgOrd (cfg : Word) : Bool := bit cfg.toNat 31
/-- P: words of a pixel (R295). -/
def cfgP (cfg : Word) : Nat := cfgQ cfg + b2n (cfgOrd cfg)
/-- The holding byte of plane q of pixel (x, y) (R295). -/
def planeAt (cfg : Word) (x y q : Nat) : Nat := ((y * cfgW cfg + x) * cfgP cfg + q) * 4

/-- A plane's value. -/
def planeOf (d : Bytes) (cfg : Word) (x y q : Nat) : Nat := leVal (Mem.readN d (planeAt cfg x y q) 4)
/-- Writes planes p onward. -/
def putPlanes (d : Bytes) (cfg : Word) (x y p : Nat) (vs : List Nat) : Bytes :=
  Mem.write d (planeAt cfg x y p) (vs.flatMap (toBytes 4))

/-- The x coordinate of a lane (R296). -/
def Ctx.px (c : Ctx) (l : Nat) : Nat := c.x (selA c.w) l (fA c.w)
/-- The y coordinate of a lane (R296). -/
def Ctx.py (c : Ctx) (l : Nat) : Nat := c.x (selB c.w) l (fB c.w)
/-- PL. -/
def Ctx.pl (c : Ctx) : Nat := mBits c.w 11 8
/-- c, the planes moved. -/
def Ctx.cnt (c : Ctx) : Nat := mBits c.w 5 4 + 1

/-- Checks 2 and 3 of R296 for local coordinates; `last` is one past the last plane that a lane touches. -/
def pixelChecks (c : Ctx) (last : Nat) : Option Nat :=
  let g := c.t.tilecfg
  if c.act.any (fun l => decide (cfgW g ≤ c.px l ∨ cfgH g ≤ c.py l)) then some 0x05
  else if decide (cfgP g < c.pl + c.cnt) || c.act.any (fun l => decide (c.t.hold < planeAt g (c.px l) (c.py l) last)) then some 0x1C
  else none

/-- A screen write of an active lane to the pixel that the lane accesses, in its own team's holding, has not been applied: the
lane's accesses follow its program order (R195, R299). -/
def Ctx.behindScreen (c : Ctx) : Bool :=
  c.s.screens.any (fun x => x.sender = c.tk && c.t.launch = some x.launch && x.owner = c.t.task.toNat % 2 ^ 48 &&
    c.act.any (fun l => ((c.m.lane l).map (·.tid)) = some x.lane && x.x = c.px l && x.y = c.py l))

/-- TLD (R296). -/
def entryTld (c : Ctx) : Res :=
  match pixelChecks c (c.pl + c.cnt) with
  | some k => .cause c.s k 0
  | none => if c.behindScreen then .wait c.s else .done c.s (Out.late (c.act.flatMap (fun l => (List.range c.cnt).map (fun i =>
      (Place.v l (fD c.w + i), planeOf c.t.tdata c.t.tilecfg (c.px l) (c.py l) (c.pl + i))))))

/-- The planes that a lane writes. -/
def Ctx.planes (c : Ctx) (l : Nat) : List Nat := (List.range c.cnt).map (fun i => c.v l (fC c.w + i))

/-- TST (R296): SEQ is no plane that a plain TST writes. -/
def entryTst (c : Ctx) : Res :=
  match pixelChecks c (c.pl + c.cnt) with
  | some k => .cause c.s k 0
  | none => if c.behindScreen then .wait c.s else .done (c.s.updTeam c.tk (fun t => { t with
      tdata := c.act.foldl (fun d l => putPlanes d t.tilecfg (c.px l) (c.py l) c.pl ((c.planes l).take (cfgQ t.tilecfg - c.pl))) t.tdata })) { Out.none with var := true }

/-- The order of keys: the first difference decides (R297). -/
def keyExceeds : List Nat → List Nat → Bool
  | a :: r, b :: q => decide (b < a) || (a == b && keyExceeds r q)
  | _, _ => false

/-- The words of a key in a layout of Q planes: SEQ, then planes 0 to Q − 1; a plane that the write lacks counts as 0
(log entry 12). -/
def keyOf (seq : Nat) (planes : List Nat) (q : Nat) : List Nat := seq :: (List.range q).map (fun i => planes[i]?.getD 0)

/-- An ordered write to a local pixel (R297). -/
def putOrdered (d : Bytes) (g : Word) (x y seq : Nat) (planes : List Nat) : Bytes :=
  let q := cfgQ g
  let old := keyOf (planeOf d g x y q) ((List.range q).map (planeOf d g x y)) q
  let new := keyOf seq planes q
  if keyExceeds new old then putPlanes d g x y 0 (new.tail ++ [seq]) else d

/-- The owner of a screen pixel: the linear index of the iteration with its s0 and s1, and the issuing team's own
values of the other levels (R298, log entry 12). -/
def Ctx.owner (c : Ctx) (l : Nat) : Option Nat :=
  let g := c.t.tilecfg
  let p := c.t.spec
  match p.find 0 (c.px l / cfgW g : Nat), p.find 1 (c.py l / cfgH g : Nat) with
  | some a, some b => if c.t.launch.isNone then none
      else some (p.indexOf (fun lv => if lv = 0 then a else if lv = 1 then b else placeIn p.trip lv c.t.index p.order))
  | _, _ => none

/-- TST.ord (R296 to R298). -/
def entryTstOrd (c : Ctx) : Res :=
  let g := c.t.tilecfg
  let seq (l : Nat) : Nat := c.v l (fC c.w + c.cnt)
  if !cfgOrd g || c.pl ≠ 0 || c.cnt ≠ cfgQ g then .cause c.s 0x1C 0
  else if mBit c.w 7 then
    if c.act.any (fun l => (c.owner l).isNone) then .cause c.s 0x05 0
    else
      let send (l : Nat) : Screen :=
        { sender := c.tk, mem := c.m.id, lane := ((c.m.lane l).map (·.tid)).getD 0, die := dieOf c.t.seat.core, tag := taOf c.w, ctx := c.t.ctx, launch := c.t.launch.getD 0, owner := (c.owner l).getD 0,
          x := c.px l % cfgW g, y := c.py l % cfgH g, key := (c.planes l ++ [seq l]).map (BitVec.ofNat 32) }
      .done { c.s with screens := c.s.screens ++ c.act.map send } { Out.none with var := true, keepTag := true }
  else match pixelChecks c (cfgP g) with
  | some k => .cause c.s k 0
  | none => if c.behindScreen then .wait c.s else .done (c.s.updTeam c.tk (fun t => { t with
      tdata := c.act.foldl (fun d l => putOrdered d g (c.px l) (c.py l) (seq l) (c.planes l)) t.tdata })) { Out.none with var := true }

/-! ### Delivery of screen writes (R298) -/

/-- Applies a screen write to a holding; none when it lands beyond the holding or the layout is not ordered. -/
def applyScreen (x : Screen) (g : Word) (hold : Nat) (d : Bytes) : Option Bytes :=
  let ws := x.key.map (·.toNat)
  if cfgOrd g && decide (planeAt g x.x x.y (cfgP g) ≤ hold) then some (putOrdered d g x.x x.y (ws.getLastD 0) ws.dropLast) else none

/-- The screen write leaves the queue; the last one of its word releases the tag (R296). -/
def leaveScreen (s : State) (i : Nat) (x : Screen) : State :=
  let rest := s.screens.eraseIdx i
  let s := { s with screens := rest }
  if rest.any (fun y => y.sender = x.sender && y.mem = x.mem && y.tag == x.tag) then s
  else s.updMember x.sender x.mem (fun m => { m with tags := m.tags &&& ~~~ tagBit x.tag })

/-- A discarded screen write counts in the issuing team's DROP. -/
def dropScreen (s : State) (x : Screen) : State := s.updTeam x.sender (fun t => { t with drop := min (t.drop + 1) 65535 })

/-- The team that owns a screen write's pixel, while it lives. -/
def ownerTeam (s : State) (x : Screen) : Option (Nat × Team) :=
  s.teams.find? (fun e => e.2.launch = some x.launch && e.2.index = x.owner)

/-- The kept holding in which a screen write lands whose owner has retired (R298). -/
def ownerKept (s : State) (x : Screen) : Option Kept :=
  s.kept.find? (fun k => k.ctx = x.ctx && k.launch = x.launch && k.index = x.owner)

/-- The die to which a screen write travels now; none while its owner has not started or is not resident, or its kept holding
is in its context's image or on a reach that is not mapped (R293, R298, R357). -/
def screenDest (s : State) (x : Screen) : Option Nat :=
  match ownerTeam s x with
  | some (_, t) => if t.saved then none else some (dieOf t.seat.core)
  | none => if !goneTask s x.launch x.owner then none
    else (ownerKept s x).bind (fun k => (keptCore s k).map dieOf)

/-- A link holds a screen write, or an earlier one from the same die to the same die has not been delivered (R20, R21, R298). -/
def screenHeld (s : State) (idx : Nat) (x : Screen) : Bool :=
  match screenDest s x with
  | none => true
  | some d => (d != x.die && (s.link x.die d).retraining) ||
    (s.screens.take idx).any (fun y => y.die = x.die && screenDest s y == some d)

/-- SCREEN_WRITE_DELIVERY (R298). -/
def execScreenWriteDelivery (idx : Nat) (s : State) : Host.Outcome State Fault Refusal :=
  match s.screens[idx]? with
  | none => .next s
  | some x =>
    match ownerTeam s x with
    | some (tk, t) =>
      if screenHeld s idx x then .next s
      else (match applyScreen x t.tilecfg t.hold t.tdata with
        | some d => .next (leaveScreen (s.updTeam tk (fun t => { t with tdata := d })) idx x)
        | none => .next (leaveScreen (dropScreen s x) idx x))
    | none =>
      if !goneTask s x.launch x.owner then .next s
      else match ownerKept s x with
      | some k =>
        if screenHeld s idx x then .next s
        else (match applyScreen x k.tilecfg k.hold k.data with
          | some d => .next (leaveScreen { s with kept := s.kept.map (fun y => if y == k then { y with data := d } else y) } idx x)
          | none => .next (leaveScreen (dropScreen s x) idx x))
      | none => .next (leaveScreen (dropScreen s x) idx x)

/-- TGROW (R291). -/
def execTgrow (w : CWord) (s : State) : Host.Outcome State Fault Refusal :=
  calud (rowAt 0x1C8) entryTgrow w s

/-- TSHRINK (R291). -/
def execTshrink (w : CWord) (s : State) : Host.Outcome State Fault Refusal :=
  calud (rowAt 0x1C9) entryTshrink w s

/-- TLD (R296). -/
def execTld (w : CWord) (s : State) : Host.Outcome State Fault Refusal :=
  calud (rowAt 0x1CA) entryTld w s

/-- TST (R296). -/
def execTst (w : CWord) (s : State) : Host.Outcome State Fault Refusal :=
  calud (rowAt 0x1CB) entryTst w s

/-- TST.ord (R297, R298). -/
def execTstOrd (w : CWord) (s : State) : Host.Outcome State Fault Refusal :=
  calud (rowTstOrd) entryTstOrd w s

end Sys2Proof.Machine
end

