-- ==== Sys2Proof/Machine/Dispatch.lean ====
section
/-! DEFINITION. One arm per instruction: the direct call of its meaning. -/

namespace Sys2Proof.Machine

/-- The effect of one instruction, packet, register write or event. -/
def exec (i : Instr) (s : State) : Host.Outcome State Fault Refusal :=
  match i with
  | .nop w => Sys2Proof.Machine.execNop w s
  | .bra w => Sys2Proof.Machine.execBra w s
  | .brx w => Sys2Proof.Machine.execBrx w s
  | .callW w => Sys2Proof.Machine.execCallW w s
  | .retW w => Sys2Proof.Machine.execRetW w s
  | .reform w => Sys2Proof.Machine.execReform w s
  | .reformJoin w => Sys2Proof.Machine.execReformJoin w s
  | .yieldW w => Sys2Proof.Machine.execYieldW w s
  | .exitW w => Sys2Proof.Machine.execExitW w s
  | .plog w => Sys2Proof.Machine.execPlog w s
  | .prd w => Sys2Proof.Machine.execPrd w s
  | .pwr w => Sys2Proof.Machine.execPwr w s
  | .shflBc w => Sys2Proof.Machine.execShflBc w s
  | .shflXor w => Sys2Proof.Machine.execShflXor w s
  | .shflUp w => Sys2Proof.Machine.execShflUp w s
  | .shflDn w => Sys2Proof.Machine.execShflDn w s
  | .vote w => Sys2Proof.Machine.execVote w s
  | .gred w => Sys2Proof.Machine.execGred w s
  | .gscan w => Sys2Proof.Machine.execGscan w s
  | .iadd w => Sys2Proof.Machine.execIadd w s
  | .isub w => Sys2Proof.Machine.execIsub w s
  | .imul w => Sys2Proof.Machine.execImul w s
  | .imulh w => Sys2Proof.Machine.execImulh w s
  | .imad w => Sys2Proof.Machine.execImad w s
  | .imin w => Sys2Proof.Machine.execImin w s
  | .imax w => Sys2Proof.Machine.execImax w s
  | .iabs w => Sys2Proof.Machine.execIabs w s
  | .shl w => Sys2Proof.Machine.execShl w s
  | .shr w => Sys2Proof.Machine.execShr w s
  | .fsh w => Sys2Proof.Machine.execFsh w s
  | .bfe w => Sys2Proof.Machine.execBfe w s
  | .bfi w => Sys2Proof.Machine.execBfi w s
  | .popc w => Sys2Proof.Machine.execPopc w s
  | .clz w => Sys2Proof.Machine.execClz w s
  | .brev w => Sys2Proof.Machine.execBrev w s
  | .bfn w => Sys2Proof.Machine.execBfn w s
  | .icmp w => Sys2Proof.Machine.execIcmp w s
  | .sel w => Sys2Proof.Machine.execSel w s
  | .mov w => Sys2Proof.Machine.execMov w s
  | .movi w => Sys2Proof.Machine.execMovi w s
  | .smovi w => Sys2Proof.Machine.execSmovi w s
  | .fadd w => Sys2Proof.Machine.execFadd w s
  | .fsub w => Sys2Proof.Machine.execFsub w s
  | .fmul w => Sys2Proof.Machine.execFmul w s
  | .ffma w => Sys2Proof.Machine.execFfma w s
  | .fmin w => Sys2Proof.Machine.execFmin w s
  | .fmax w => Sys2Proof.Machine.execFmax w s
  | .fcmp w => Sys2Proof.Machine.execFcmp w s
  | .frnd w => Sys2Proof.Machine.execFrnd w s
  | .hadd2 w => Sys2Proof.Machine.execHadd2 w s
  | .hmul2 w => Sys2Proof.Machine.execHmul2 w s
  | .hfma2 w => Sys2Proof.Machine.execHfma2 w s
  | .cvt w => Sys2Proof.Machine.execCvt w s
  | .npack w => Sys2Proof.Machine.execNpack w s
  | .nunpk w => Sys2Proof.Machine.execNunpk w s
  | .dot2 w => Sys2Proof.Machine.execDot2 w s
  | .dot4 w => Sys2Proof.Machine.execDot4 w s
  | .dot8 w => Sys2Proof.Machine.execDot8 w s
  | .dotsc w => Sys2Proof.Machine.execDotsc w s
  | .cbLd w => Sys2Proof.Machine.execCbLd w s
  | .cbRd w => Sys2Proof.Machine.execCbRd w s
  | .rcp w => Sys2Proof.Machine.execRcp w s
  | .rsq w => Sys2Proof.Machine.execRsq w s
  | .sqrtW w => Sys2Proof.Machine.execSqrtW w s
  | .exp2 w => Sys2Proof.Machine.execExp2 w s
  | .log2 w => Sys2Proof.Machine.execLog2 w s
  | .sinW w => Sys2Proof.Machine.execSinW w s
  | .cosW w => Sys2Proof.Machine.execCosW w s
  | .tanhW w => Sys2Proof.Machine.execTanhW w s
  | .ldl w => Sys2Proof.Machine.execLdl w s
  | .stl w => Sys2Proof.Machine.execStl w s
  | .ldsSync w => Sys2Proof.Machine.execLdsSync w s
  | .stsSync w => Sys2Proof.Machine.execStsSync w s
  | .bufFill w => Sys2Proof.Machine.execBufFill w s
  | .bufDone w => Sys2Proof.Machine.execBufDone w s
  | .bufDrain w => Sys2Proof.Machine.execBufDrain w s
  | .bufFree w => Sys2Proof.Machine.execBufFree w s
  | .bufStat w => Sys2Proof.Machine.execBufStat w s
  | .stashFlush w => Sys2Proof.Machine.execStashFlush w s
  | .stashInv w => Sys2Proof.Machine.execStashInv w s
  | .armW w => Sys2Proof.Machine.execArmW w s
  | .ldr w => Sys2Proof.Machine.execLdr w s
  | .str w => Sys2Proof.Machine.execStr w s
  | .ldg w => Sys2Proof.Machine.execLdg w s
  | .stg w => Sys2Proof.Machine.execStg w s
  | .stu w => Sys2Proof.Machine.execStu w s
  | .pref w => Sys2Proof.Machine.execPref w s
  | .sample w => Sys2Proof.Machine.execSample w s
  | .recld w => Sys2Proof.Machine.execRecld w s
  | .recset w => Sys2Proof.Machine.execRecset w s
  | .recqry w => Sys2Proof.Machine.execRecqry w s
  | .atom w => Sys2Proof.Machine.execAtom w s
  | .atomCas w => Sys2Proof.Machine.execAtomCas w s
  | .redA w => Sys2Proof.Machine.execRedA w s
  | .lda w => Sys2Proof.Machine.execLda w s
  | .strl w => Sys2Proof.Machine.execStrl w s
  | .fence w => Sys2Proof.Machine.execFence w s
  | .barTeam w => Sys2Proof.Machine.execBarTeam w s
  | .barClu w => Sys2Proof.Machine.execBarClu w s
  | .commitW w => Sys2Proof.Machine.execCommitW w s
  | .vqry w => Sys2Proof.Machine.execVqry w s
  | .sfill w => Sys2Proof.Machine.execSfill w s
  | .sfail w => Sys2Proof.Machine.execSfail w s
  | .sevict w => Sys2Proof.Machine.execSevict w s
  | .sqry w => Sys2Proof.Machine.execSqry w s
  | .tgrow w => Sys2Proof.Machine.execTgrow w s
  | .tshrink w => Sys2Proof.Machine.execTshrink w s
  | .tld w => Sys2Proof.Machine.execTld w s
  | .tst w => Sys2Proof.Machine.execTst w s
  | .tstOrd w => Sys2Proof.Machine.execTstOrd w s
  | .beam w => Sys2Proof.Machine.execBeam w s
  | .ray w => Sys2Proof.Machine.execRay w s
  | .xcopy w => Sys2Proof.Machine.execXcopy w s
  | .xsend w => Sys2Proof.Machine.execXsend w s
  | .shapeLd w => Sys2Proof.Machine.execShapeLd w s
  | .shapeEv w => Sys2Proof.Machine.execShapeEv w s
  | .xgath w => Sys2Proof.Machine.execXgath w s
  | .coll w => Sys2Proof.Machine.execColl w s
  | .waitk w => Sys2Proof.Machine.execWaitk w s
  | .ktest w => Sys2Proof.Machine.execKtest w s
  | .crec w => Sys2Proof.Machine.execCrec w s
  | .accOpen w => Sys2Proof.Machine.execAccOpen w s
  | .mma w => Sys2Proof.Machine.execMma w s
  | .mmas w => Sys2Proof.Machine.execMmas w s
  | .accRet w => Sys2Proof.Machine.execAccRet w s
  | .accRd w => Sys2Proof.Machine.execAccRd w s
  | .accZero w => Sys2Proof.Machine.execAccZero w s
  | .metaLd w => Sys2Proof.Machine.execMetaLd w s
  | .trapW w => Sys2Proof.Machine.execTrapW w s
  | .tret w => Sys2Proof.Machine.execTret w s
  | .tabandon w => Sys2Proof.Machine.execTabandon w s
  | .tmask w => Sys2Proof.Machine.execTmask w s
  | .sysrd w => Sys2Proof.Machine.execSysrd w s
  | .syswr w => Sys2Proof.Machine.execSyswr w s
  | .weirAcq w => Sys2Proof.Machine.execWeirAcq w s
  | .weirRel w => Sys2Proof.Machine.execWeirRel w s
  | .weirQry w => Sys2Proof.Machine.execWeirQry w s
  | .issueAsHeld t => Sys2Proof.Machine.execIssueAsHeld t s
  | .amendThenIssue t f v => Sys2Proof.Machine.execAmendThenIssue t f v s
  | .amendAndHold t f v => Sys2Proof.Machine.execAmendAndHold t f v s
  | .tplLd f v => Sys2Proof.Machine.execTplLd f v s
  | .endS => Sys2Proof.Machine.execEndS s
  | .qdrain => Sys2Proof.Machine.execQdrain s
  | .streamTrap n => Sys2Proof.Machine.execStreamTrap n s
  | .snop => Sys2Proof.Machine.execSnop s
  | .sadd d a b => Sys2Proof.Machine.execSadd d a b s
  | .ssub d a b => Sys2Proof.Machine.execSsub d a b s
  | .smul d a b => Sys2Proof.Machine.execSmul d a b s
  | .sand d a b => Sys2Proof.Machine.execSand d a b s
  | .sor d a b => Sys2Proof.Machine.execSor d a b s
  | .sxor d a b => Sys2Proof.Machine.execSxor d a b s
  | .sshl d a b => Sys2Proof.Machine.execSshl d a b s
  | .sshr d a b => Sys2Proof.Machine.execSshr d a b s
  | .ssra d a b => Sys2Proof.Machine.execSsra d a b s
  | .slt d a b => Sys2Proof.Machine.execSlt d a b s
  | .sltu d a b => Sys2Proof.Machine.execSltu d a b s
  | .saddi d a imm => Sys2Proof.Machine.execSaddi d a imm s
  | .slui d a imm => Sys2Proof.Machine.execSlui d a imm s
  | .beqz a off => Sys2Proof.Machine.execBeqz a off s
  | .bnez a off => Sys2Proof.Machine.execBnez a off s
  | .bru off => Sys2Proof.Machine.execBru off s
  | .lstart a stages => Sys2Proof.Machine.execLstart a stages s
  | .loopS off => Sys2Proof.Machine.execLoopS off s
  | .srd d n => Sys2Proof.Machine.execSrd d n s
  | .setshp a => Sys2Proof.Machine.execSetshp a s
  | .setlb a => Sys2Proof.Machine.execSetlb a s
  | .vmov f => Sys2Proof.Machine.execVmov f s
  | .vadd f => Sys2Proof.Machine.execVadd f s
  | .vsub f => Sys2Proof.Machine.execVsub f s
  | .vmul f => Sys2Proof.Machine.execVmul f s
  | .vfma f => Sys2Proof.Machine.execVfma f s
  | .vmin f => Sys2Proof.Machine.execVmin f s
  | .vmax f => Sys2Proof.Machine.execVmax f s
  | .vlerp f => Sys2Proof.Machine.execVlerp f s
  | .vabs f => Sys2Proof.Machine.execVabs f s
  | .vcmp f => Sys2Proof.Machine.execVcmp f s
  | .vsel f => Sys2Proof.Machine.execVsel f s
  | .vand f => Sys2Proof.Machine.execVand f s
  | .vor f => Sys2Proof.Machine.execVor f s
  | .vxor f => Sys2Proof.Machine.execVxor f s
  | .vshl f => Sys2Proof.Machine.execVshl f s
  | .vshr f => Sys2Proof.Machine.execVshr f s
  | .vcvt f => Sys2Proof.Machine.execVcvt f s
  | .vtrn f => Sys2Proof.Machine.execVtrn f s
  | .vbrow f => Sys2Proof.Machine.execVbrow f s
  | .vbcol f => Sys2Proof.Machine.execVbcol f s
  | .vrotc f => Sys2Proof.Machine.execVrotc f s
  | .vperm f => Sys2Proof.Machine.execVperm f s
  | .vrsum f => Sys2Proof.Machine.execVrsum f s
  | .ldw f => Sys2Proof.Machine.execLdw f s
  | .ldwr f => Sys2Proof.Machine.execLdwr f s
  | .ldx f => Sys2Proof.Machine.execLdx f s
  | .stw f => Sys2Proof.Machine.execStw f s
  | .stwr f => Sys2Proof.Machine.execStwr f s
  | .stx f => Sys2Proof.Machine.execStx f s
  | .qnop sem => Sys2Proof.Machine.execQnop sem s
  | .semInit a sm c => Sys2Proof.Machine.execSemInit a sm c s
  | .semAdd sm k => Sys2Proof.Machine.execSemAdd sm k s
  | .semSub sm k => Sys2Proof.Machine.execSemSub sm k s
  | .semRd a sm => Sys2Proof.Machine.execSemRd a sm s
  | .cqpush a sem q => Sys2Proof.Machine.execCqpush a sem q s
  | .cqpop a sem q => Sys2Proof.Machine.execCqpop a sem q s
  | .cpld a sem setf => Sys2Proof.Machine.execCpld a sem setf s
  | .cpst a sem waitf clrf => Sys2Proof.Machine.execCpst a sem waitf clrf s
  | .mmc a sem => Sys2Proof.Machine.execMmc a sem s
  | .partCreate p => Sys2Proof.Machine.execPartCreate p s
  | .partDestroy p => Sys2Proof.Machine.execPartDestroy p s
  | .partResize p => Sys2Proof.Machine.execPartResize p s
  | .queueCreate p => Sys2Proof.Machine.execQueueCreate p s
  | .queueDestroy p => Sys2Proof.Machine.execQueueDestroy p s
  | .summaryP p => Sys2Proof.Machine.execSummaryP p s
  | .sumreq pa => Sys2Proof.Machine.execSumreq pa s
  | .fwUpdate p => Sys2Proof.Machine.execFwUpdate p s
  | .attestP p => Sys2Proof.Machine.execAttestP p s
  | .dieOffline p => Sys2Proof.Machine.execDieOffline p s
  | .nopPacket p => Sys2Proof.Machine.execNopPacket p s
  | .ctxCreate p => Sys2Proof.Machine.execCtxCreate p s
  | .ctxDestroy p => Sys2Proof.Machine.execCtxDestroy p s
  | .launchP p => Sys2Proof.Machine.execLaunchP p s
  | .preemptP p => Sys2Proof.Machine.execPreemptP p s
  | .resumeP p => Sys2Proof.Machine.execResumeP p s
  | .tlbInv p => Sys2Proof.Machine.execTlbInv p s
  | .springDecl p => Sys2Proof.Machine.execSpringDecl p s
  | .springUndecl p => Sys2Proof.Machine.execSpringUndecl p s
  | .streamOpen p => Sys2Proof.Machine.execStreamOpen p s
  | .streamClose p => Sys2Proof.Machine.execStreamClose p s
  | .passRelease p => Sys2Proof.Machine.execPassRelease p s
  | .taskCtl p => Sys2Proof.Machine.execTaskCtl p s
  | .resultWriteback team mem idx => Sys2Proof.Machine.execResultWriteback team mem idx s
  | .eddyBinDraw team bin => Sys2Proof.Machine.execEddyBinDraw team bin s
  | .issueAgeing team mem => Sys2Proof.Machine.execIssueAgeing team mem s
  | .bankSwitch core => Sys2Proof.Machine.execBankSwitch core s
  | .trapEntry team mem => Sys2Proof.Machine.execTrapEntry team mem s
  | .budgetExpiry team mem => Sys2Proof.Machine.execBudgetExpiry team mem s
  | .faultHeldRetry team mem => Sys2Proof.Machine.execFaultHeldRetry team mem s
  | .fbreplay die value => Sys2Proof.Machine.execFbreplay die value s
  | .fbabort die value => Sys2Proof.Machine.execFbabort die value s
  | .backInvalidate pa => Sys2Proof.Machine.execBackInvalidate pa s
  | .versionCommit team => Sys2Proof.Machine.execVersionCommit team s
  | .horizon => Sys2Proof.Machine.execHorizon s
  | .springMiss idx => Sys2Proof.Machine.execSpringMiss idx s
  | .generatorPlacement idx core bank => Sys2Proof.Machine.execGeneratorPlacement idx core bank s
  | .frameAllocation ctx spring => Sys2Proof.Machine.execFrameAllocation ctx spring s
  | .generatorFailure ctx spring block => Sys2Proof.Machine.execGeneratorFailure ctx spring block s
  | .evictionEnd ctx spring block => Sys2Proof.Machine.execEvictionEnd ctx spring block s
  | .engineCommandStart id => Sys2Proof.Machine.execEngineCommandStart id s
  | .engineCommandCompletion id => Sys2Proof.Machine.execEngineCommandCompletion id s
  | .xsendLanding id => Sys2Proof.Machine.execXsendLanding id s
  | .arrivalGroupStart team slot => Sys2Proof.Machine.execArrivalGroupStart team slot s
  | .collectiveCompletion idx => Sys2Proof.Machine.execCollectiveCompletion idx s
  | .barrierCompletion clu team n => Sys2Proof.Machine.execBarrierCompletion clu team n s
  | .matrixEntryStart id => Sys2Proof.Machine.execMatrixEntryStart id s
  | .matrixEntryCompletion id => Sys2Proof.Machine.execMatrixEntryCompletion id s
  | .matrixReset core => Sys2Proof.Machine.execMatrixReset core s
  | .matrixResetEnd core => Sys2Proof.Machine.execMatrixResetEnd core s
  | .beamCompletion id => Sys2Proof.Machine.execBeamCompletion id s
  | .screenWriteDelivery idx => Sys2Proof.Machine.execScreenWriteDelivery idx s
  | .abandonment team => Sys2Proof.Machine.execAbandonment team s
  | .uncorrectableError teams => Sys2Proof.Machine.execUncorrectableError teams s
  | .teamPlacement die => Sys2Proof.Machine.execTeamPlacement die s
  | .placementRecheck die => Sys2Proof.Machine.execPlacementRecheck die s
  | .effectivePriorityRise launch => Sys2Proof.Machine.execEffectivePriorityRise launch s
  | .launchHold launch die => Sys2Proof.Machine.execLaunchHold launch die s
  | .retirement team => Sys2Proof.Machine.execRetirement team s
  | .launchCompletion launch => Sys2Proof.Machine.execLaunchCompletion launch s
  | .sensorReading reach quarters => Sys2Proof.Machine.execSensorReading reach quarters s
  | .chargeCounterTick => Sys2Proof.Machine.execChargeCounterTick s
  | .millpondRefill reach => Sys2Proof.Machine.execMillpondRefill reach s
  | .weirGrant reach => Sys2Proof.Machine.execWeirGrant reach s
  | .droop reach => Sys2Proof.Machine.execDroop reach s
  | .hopLock reach => Sys2Proof.Machine.execHopLock reach s
  | .hopAbort reach => Sys2Proof.Machine.execHopAbort reach s
  | .clkcfg reach value => Sys2Proof.Machine.execClkcfg reach value s
  | .mpfill reach value => Sys2Proof.Machine.execMpfill reach value s
  | .spslot reach value => Sys2Proof.Machine.execSpslot reach value s
  | .vscarve die value => Sys2Proof.Machine.execVscarve die value s
  | .vres vault value => Sys2Proof.Machine.execVres vault value s
  | .dieLinkRetrain a b => Sys2Proof.Machine.execDieLinkRetrain a b s
  | .cxlPortRetrain port => Sys2Proof.Machine.execCxlPortRetrain port s
  | .preemptSaveComplete ctx => Sys2Proof.Machine.execPreemptSaveComplete ctx s
  | .qput q value => Sys2Proof.Machine.execQput q value s
  | .packetTakeUp q => Sys2Proof.Machine.execPacketTakeUp q s
  | .packetIssue q => Sys2Proof.Machine.execPacketIssue q s
  | .timelineAdvance q => Sys2Proof.Machine.execTimelineAdvance q s
  | .qctlRestart q value => Sys2Proof.Machine.execQctlRestart q value s
  | .qctlEnable value => Sys2Proof.Machine.execQctlEnable value s
  | .hostMemoryAccess pa data => Sys2Proof.Machine.execHostMemoryAccess pa data s
  | .registerWrite off width value => Sys2Proof.Machine.execRegisterWrite off width value s
  | .firmwareFailover => Sys2Proof.Machine.execFirmwareFailover s
  | .deviceReset => Sys2Proof.Machine.execDeviceReset s
  | .lcgo lc value => Sys2Proof.Machine.execLcgo lc value s
  | .frameStart stream => Sys2Proof.Machine.execFrameStart stream s
  | .sliceLatch stream frame slice => Sys2Proof.Machine.execSliceLatch stream frame slice s
  | .sliceLaunch lc => Sys2Proof.Machine.execSliceLaunch lc s
  | .sliceCompletion lc => Sys2Proof.Machine.execSliceCompletion lc s
  | .sliceDeadline stream frame slice => Sys2Proof.Machine.execSliceDeadline stream frame slice s
  | .backwaterCopy stream frame slice => Sys2Proof.Machine.execBackwaterCopy stream frame slice s
  | .tileRowEncode stream frame row => Sys2Proof.Machine.execTileRowEncode stream frame row s
  | .dpLineStart stream start => Sys2Proof.Machine.execDpLineStart stream start s
  | .copyCommandStart lc store => Sys2Proof.Machine.execCopyCommandStart lc store s
  | .copyCommandCompletion lc store => Sys2Proof.Machine.execCopyCommandCompletion lc store s
  | .mmcCompletion lc => Sys2Proof.Machine.execMmcCompletion lc s
  | .dieLinkTrained a b => Sys2Proof.Machine.execDieLinkTrained a b s
  | .cxlPortTrained port => Sys2Proof.Machine.execCxlPortTrained port s
  | .riseExpiry team => Sys2Proof.Machine.execRiseExpiry team s
  | .stretchEnd reach => Sys2Proof.Machine.execStretchEnd reach s

end Sys2Proof.Machine
end

