-- ==== Sys2Proof/Machine/Fetch.lean ====
section
/-! DEFINITION. Fetching the word of a member (R50, R182, R229) and of a line-core stream (R362), when a member is ready
(R83, R84, R88), the passing of device time (R84, R323, R330, R342), the model's default order of what happens next, and
the placing of one instruction for the next step. -/

namespace Sys2Proof.Machine

/-- What a step finds to do. -/
inductive Fetched where
  /-- Nothing executes; this is the next state. -/
  | stop (s : State)
  /-- The instruction executes in the state. -/
  | go (i : Instr) (s : State)

/-! ### A member's next word (R50, R109, R182, R188, R229) -/

/-- The virtual addresses of the ten bytes of a member's next word (R50, R163, R164). -/
def codeVas (t : Team) (pc : Word) : List Nat := (List.range 10).map (fun i => recVa t.spec.code (10 * pc.toNat + i))

/-- The fetch as a memory access of every present lane, for the parking of its member (R182, R229). -/
def fetchReqs (t : Team) (m : Member) : List LaneReq := m.present.map (fun l => { lane := l, vas := codeVas t m.pc })

/-- The fetch as the translation sees it. -/
def fetchWant (t : Team) : Want :=
  { die := dieOf t.seat.core, core := some t.seat.core, ctx := t.ctx, need := .fetch, spring := recS t.spec.code, requester := true }

/-- The bytes of a translated word. -/
def codeBytes (s : State) (tr : List (Nat × Trans)) (vas : List Nat) : List Byte := vas.map (fun a => Mem.read s.mem (bytePa tr a))

/-- The park of a fetch: what it met now (R182, R229). One that was parked before keeps its place in the order of parking (R188). -/
def parkFetch (s : State) (k : Stuck) (old : Option Park) : Park :=
  { kind := k.kind, faults := k.faults, misses := k.misses, retry := 0, failed := (old.map (·.failed)).getD [], unrecorded := k.unrecorded,
    order := (old.map (·.order)).getD s.order, fetch := true }

/-- A fetch that does not translate parks its member (R182, R229). -/
def parkMember (s : State) (tk : Nat) (t : Team) (m : Member) (x : Reached) : State :=
  let z := stuckOf s tk t m 12 x
  { z.1.updMember tk m.id (fun m => { m with park := some (parkFetch z.1 z.2 m.park) }) with order := z.1.order + 1 }

/-- The word in memory at a member's PC (R50): its causes 0x05 and 0x06, its translation, and cause 0x01 of a word that no
table assigns (R65). -/
def fetchCode (s : State) (tk : Nat) (t : Team) (m : Member) : Fetched :=
  if recExtent t.spec.code < 10 * m.pc.toNat + 10 then .stop (takeCause s tk m.id 0x05 0)
  else if !recX t.spec.code then .stop (takeCause s tk m.id 0x06 0)
  else
    let y := reachLines s t (fetchWant t) (fetchReqs t m)
    if linesHeld y.1 t y.2.tr then .stop y.1
    else match y.2.cause with
    | some k => .stop (takeCause y.1 tk m.id k 0)
    | none =>
      if y.2.bad != [] then .stop (parkMember y.1 tk t m y.2)
      else match decodeBytes (codeBytes y.1 y.2.tr (codeVas t m.pc)) with
        | .error _ => .stop (takeCause y.1 tk m.id 0x01 0)
        | .ok p => .go p.1 { y.1.updMember tk m.id (fun m => { m with park := none }) with cur := some (tk, m.id) }

/-- The instruction of a word that has issued and acts again for its unfinished lanes: it is not fetched again (R109,
R188). -/
def Cont.instr (k : Cont) : Option Instr := (rowOfOp k.op k.w).map (fun r => r.con k.w)

/-- Another parked member of the same context and die is to retry before this one (R188). -/
def retryBefore (s : State) (t : Team) (p : Park) : Bool :=
  s.teams.any (fun e => e.2.ctx = t.ctx && dieOf e.2.seat.core = dieOf t.seat.core &&
    e.2.members.any (fun x => !held s e.2 x && (match x.park with
      | some q => decide (q.retry ≠ 0 ∧ q.order < p.order)
      | none => false)))

/-- The next word of a member that no wait holds: the word under re-execution, or else the one at its PC. -/
def nextWord (s : State) (tk : Nat) (t : Team) (m : Member) : Fetched :=
  match m.cont.bind (fun k => if k.pc = m.pc then k.instr else none) with
  | some i => .go i { s with cur := some (tk, m.id) }
  | none => fetchCode s tk t m

/-- A member's attempt to issue (R83, R184, R188). -/
def attempt (tk mid : Nat) (s : State) : Fetched :=
  match look s.teams tk with
  | none => .stop s
  | some t => match t.member mid with
    | none => .stop s
    | some m =>
      if m.lanes = [] || held s t m || bankHeld s t m || (m.park.any (retryBefore s t)) then .stop s
      else nextWord s tk t m

/-- What an attempt comes to. -/
def Fetched.run : Fetched → State
  | .stop s => s
  | .go i s => match exec i s with
    | .next s' => s'
    | _ => s

/-- A member as far as an issue changes it. -/
def issueView (s : State) (tk mid : Nat) : Option (Option Member × Option Doom) :=
  (look s.teams tk).map (fun t => (t.member mid, t.doom))

/-- A member is ready: an attempt to issue would do something to it, were its bank the issuing one (R83, R84). -/
def ready (s : State) (tk mid : Nat) : Bool :=
  match look s.teams tk with
  | none => false
  | some t =>
    let s := s.setCore t.seat.core { s.core t.seat.core with bank := t.seat.bank, switched := 0 }
    issueView (attempt tk mid s).run tk mid != issueView s tk mid

/-- The members that a YIELD still waits for: those of its list that have issued no word since, and are ready (R88). -/
def yieldsTo (s : State) (others : List (Nat × Nat × Nat)) : List (Nat × Nat × Nat) :=
  others.filter (fun o => (match (look s.teams o.1).bind (fun t => t.member o.2.1) with
    | some x => x.words = o.2.2
    | none => false) && ready s o.1 o.2.1)

/-- The other groups that are ready on a core, with the words that each has issued (R88). -/
def readyOthers (s : State) (core tk mid : Nat) : List (Nat × Nat × Nat) :=
  s.teams.flatMap (fun e => if e.2.seat.core = core then
    (e.2.members.filter (fun x => !(e.1 = tk && x.id = mid) && ready s e.1 x.id)).map (fun x => (e.1, x.id, x.words)) else [])

/-- A YIELD takes with it the groups that are ready as it issues (R88). -/
def withRivals (s : State) (core tk mid : Nat) (i : Instr) (s' : State) : State :=
  match i with
  | .yieldW _ => { s' with rivals := readyOthers s core tk mid }
  | _ => s'

/-- The issue port of the member, or a port after it, has issued a word in this fe-cycle (R84): words of one fe-cycle are applied
port 0 first (R145). -/
def portBusy (s : State) (t : Team) (m : Member) : Bool :=
  (s.core t.seat.core).ports.any (fun e => decide (portOf m.slot ≤ e.1) && e.2 = feCycles s.now)

/-- The member's issue port takes its word in this fe-cycle (R84). -/
def portTaken (s : State) (t : Team) (m : Member) : State :=
  let x := s.core t.seat.core
  s.setCore t.seat.core { x with ports := set x.ports (portOf m.slot) (feCycles s.now) }

/-- The weight that a fetched word would draw from its millpond in a member (R330). -/
def drawOf (s : State) (tk : Nat) (t : Team) (m : Member) (i : Instr) : Nat :=
  match caludOf i with
  | some (op, w) => if m.again then 0 else (ctxOf s tk t m op w).millWeight
  | none => 0

/-- A member inside an open weir waits on its millpond: its next word weighs more than the level (R330). -/
def pondWaiter (s : State) (tk : Nat) (t : Team) (m : Member) : Bool :=
  m.weir.isSome && m.lanes != [] && !held s t m && !bankHeld s t m && (match nextWord s tk t m with
    | .go i _ => decide ((s.reach (reachOf t.seat.core)).level < drawOf s tk t m i)
    | .stop _ => false)

/-- A word outside any weir that would draw from a millpond on which a group inside a weir waits: the groups inside go first
(R330). -/
def behindWeirs (s : State) (tk : Nat) (t : Team) (m : Member) (i : Instr) : Bool :=
  m.weir.isNone && decide (drawOf s tk t m i ≠ 0) &&
    s.teams.any (fun e => reachOf e.2.seat.core = reachOf t.seat.core && e.2.members.any (pondWaiter s e.1 e.2))

/-- A member's attempt in its turn: its port takes one word in a fe-cycle, and its millpond serves the groups inside a weir
first (R84, R330). -/
def takeTurn (tk mid : Nat) (s : State) : Fetched :=
  match (look s.teams tk).bind (fun t => (t.member mid).map (fun m => (t, m))) with
  | none => .stop s
  | some (t, m) =>
    if portBusy s t m then .stop s
    else match attempt tk mid s with
      | .stop s' => .stop s'
      | .go i s' => if behindWeirs s tk t m i then .stop s else .go i (portTaken (withRivals s t.seat.core tk mid i s') t m)

/-- A member's turn: a YIELD that no longer waits is over, and the member attempts to issue (R88). -/
def fetchMember (tk mid : Nat) (s : State) : Fetched :=
  match (look s.teams tk).bind (fun t => t.member mid) with
  | some m => match m.wait with
    | .yield others =>
      if yieldsTo s others = [] then takeTurn tk mid (s.updMember tk mid (fun m => { m with wait := .none }))
      else .stop (s.updMember tk mid (fun m => { m with wait := .yield (yieldsTo s others) }))
    | _ => takeTurn tk mid s
  | none => .stop s

/-! ### A stream's next word (R362, R364, R371, R389) -/

/-- A stream's turn: its blocked LD goes on, or its next patch word is fetched (R362, R389). -/
def fetchStream (n : Nat) (vec : Bool) (s : State) : Fetched :=
  let c := s.lc n
  let st := c.stream vec
  if c.halt || c.stopped then .stop s
  else if st.blocked.isSome then .stop (unblock s n vec)
  else if !st.on then .stop s
  else match st.fetch with
  | none => .stop (haltLc s n 0x05 (partyOf vec) 0 0 st.pc 0)
  | some w => match decodePatch w with
    | .error _ => .stop (haltLc s n 0x01 (partyOf vec) 0 0 st.pc 0)
    | .ok i => .go i { s with curLc := some (n, vec) }

/-! ### Device time (R84, R323, R330, R342) -/

/-- BUDGET falls by one each fe-cycle in a handler and in a masked region, and not while the member is parked or its context
is saved (R342). -/
def Member.spend (m : Member) (t : Team) (n : Nat) : Member :=
  if (m.trap.inh || m.trap.mask) && m.park.isNone && !t.saved then { m with trap := { m.trap with budget := m.trap.budget - n } } else m

/-- The ready time restarts while the member is not ready (R84). -/
def Member.restamp (m : Member) (isReady : Bool) (now : Nat) : Member := if isReady then m else { m with ready := now }

/-- A group that has stopped being ready holds a YIELD no longer (R88). -/
def Member.reyield (m : Member) (s : State) : Member :=
  match m.wait with
  | .yield others => { m with wait := .yield (yieldsTo s others) }
  | _ => m

/-- The state that an event's meaning answers. -/
def after (f : State → Host.Outcome State Fault Refusal) (s : State) : State :=
  match f s with
  | .next s' => s'
  | _ => s

/-- Every millpond's refill (R330, R334). -/
def refillAll (s : State) : State := (List.range 128).foldl (fun s n => after (execMillpondRefill n) s) s

/-- Every reach's grants at the start of the phase slot (R332, R334). -/
def grantAtPhase (s : State) : State := (List.range 128).foldl (fun s n => after (execWeirGrant n) s) s

/-- What a moment of device time brings: the charge counters each microsecond, and the millponds' refills then and at the start of
the phase slot, which makes its grants as well (R323, R330, R332, R334). -/
def perMoment (s : State) : State :=
  let s := if s.now % 1000 = 0 then after execChargeCounterTick s else s
  let s := if s.now % 1000 = 0 || phaseStart s then refillAll s else s
  if phaseStart s then grantAtPhase s else s

/-- One nanosecond of device time. Writes that a port or a halted vault held are offered again (R21, R319, R445). -/
def tick (s : State) : State :=
  let now := s.now + 1
  let n := feCycles now - feCycles s.now
  let s' : State := { s with
    now := now
    teams := s.teams.map (fun e => (e.1, { e.2 with members := e.2.members.map (fun m =>
      ((m.spend e.2 n).restamp (ready s e.1 m.id) now).reyield s) })) }
  perMoment (retryHeld s')

/-- Nanoseconds of device time. -/
def elapse : Nat → State → State
  | 0, s => s
  | n + 1, s => elapse n (tick s)

/-! ### The default order (R48, R85)

What happens next is the head of the agenda. Where the agenda is empty, it is the first member, in the order of R84, that can
go on now; where no member can, the next of all else that may happen, in rounds: each stream and each event of the device's units
has its turn once, and then a nanosecond passes. A turn of what cannot happen yet changes nothing. -/

/-- A turn of the default order. -/
abbrev Turn := State → Fetched
/-- The meaning of an event of the device's units. -/
abbrev Event := State → Host.Outcome State Fault Refusal

/-- The members in the order in which they are offered: retries in the order of parking (R188), then by issue port (R145), issue
priority, ready time, slot and lowest %lane (R84). -/
def memberOrder (s : State) : List (Nat × Nat) :=
  let all := s.teams.flatMap (fun e => e.2.members.map (fun m => (e.1, e.2, m)))
  let key (x : Nat × Team × Member) : Nat := match x.2.2.park with
    | some p => p.order
    | none =>
      let prio := if x.2.2.aged then 8 else min 7 (x.2.1.prio + b2n (x.2.2.arrival.isSome || x.2.2.trap.inh))
      s.order + ((portOf x.2.2.slot * 9 + (8 - prio)) * 2 ^ 64 + x.2.2.ready) * 1024 + x.2.2.slot * 32 + x.2.2.low
  (sortBy key all).map (fun x => (x.1, x.2.2.id))

/-- The first member whose turn would do something to it now (R84). -/
def nextMember (s : State) : Option (Nat × Nat) :=
  (memberOrder s).find? (fun x => issueView (fetchMember x.1 x.2 s).run x.1 x.2 != issueView s x.1 x.2)

/-- The streams of the line cores that run. -/
def streamTurns (s : State) : List Turn :=
  s.lcs.flatMap (fun e => if e.2.run = .none then [] else [fetchStream e.1 false, fetchStream e.1 true])

/-- A moment of the retries of R187: every 1,024 fe-cycles. -/
def retryMoment (s : State) : Bool := feCycles s.now % 1024 = 0 && feCycles (s.now - 1) != feCycles s.now

/-- The events of a member. -/
def memberEvents (s : State) (tk : Nat) (m : Member) : List Event :=
  ((List.range m.pend.length).map (fun i => execResultWriteback tk m.id i)) ++
  [execTrapEntry tk m.id, execBudgetExpiry tk m.id, execIssueAgeing tk m.id] ++
  (if m.park.any (·.unrecorded) && retryMoment s then [execFaultHeldRetry tk m.id] else []) ++
  (match m.wait with
   | .barrier clu n => [execBarrierCompletion clu tk n]
   | _ => [])

/-- The events of a team. -/
def teamEvents (s : State) (tk : Nat) (t : Team) : List Event :=
  t.members.flatMap (memberEvents s tk) ++
  t.bins.map (fun b => execEddyBinDraw tk b.num) ++
  t.arrivals.map (fun a => execArrivalGroupStart tk a.1) ++
  [execVersionCommit tk, execRiseExpiry tk, execBankSwitch t.seat.core, execWeirGrant (reachOf t.seat.core)] ++
  (match t.gen with
   | some g => if g.filled then [execAbandonment tk, execRetirement tk] else [execGeneratorFailure t.ctx g.spring g.block]
   | none => [execAbandonment tk, execRetirement tk])

/-- The events of an engine command. -/
def commandEvents (s : State) (k : Command) : List Event :=
  if k.stop = .unrecorded && !retryMoment s then []
  else if k.matrix then [execMatrixReset k.core, execMatrixEntryStart k.id, execMatrixEntryCompletion k.id]
  else [execEngineCommandStart k.id] ++ (if k.job.isBeam then [execBeamCompletion k.id] else []) ++
    [execEngineCommandCompletion k.id, execXsendLanding k.id]

/-- The events of a spring. -/
def springEvents (p : Spring) : List Event :=
  p.evicting.map (fun e => execEvictionEnd p.ctx p.num e.1) ++ (if p.noFrame = [] then [] else [execFrameAllocation p.ctx p.num])

/-- The placements of waiting generators that can be made, or that a vault alone refuses (R237, R324). -/
def generatorEvents (s : State) : List Event :=
  (genQueue s).zipIdx.flatMap (fun g =>
    ((look s.parts (partOf s g.1.1.ctx)).map (fun p => (List.range 128).filter (fun n => p.reaches.getLsbD n))).getD [] |>.flatMap (fun n =>
      (reachCores s n).flatMap (fun c => [0, 1].filterMap (fun b =>
        if (genPlace s g.1.1 g.1.2 false c b).isSome then some (execGeneratorPlacement g.2 c b) else none))))

/-- The events of a launch. -/
def launchEvents (k : Nat) : List Event :=
  execEffectivePriorityRise k :: (List.range 4).map (fun d => execLaunchHold k d) ++ [execLaunchCompletion k]

/-- The events of a line core. -/
def lineEvents (n : Nat) (c : LineCore) : List Event :=
  (if c.ldq = [] then [] else [execCopyCommandStart n false, execCopyCommandCompletion n false]) ++
  (if c.stq = [] then [] else [execCopyCommandStart n true, execCopyCommandCompletion n true]) ++
  (if c.mq = [] then [] else [execMmcCompletion n]) ++
  (match c.run with
   | .slice .. => [execSliceCompletion n]
   | _ => [])

/-- The events of a presentation stream. -/
def presentEvents (n : Nat) (p : PStream) : List Event :=
  [execFrameStart n, execSliceLatch n p.latch.1 p.latch.2] ++
  (if p.listed = [] then [] else (List.range 32).map execSliceLaunch) ++
  p.frames.flatMap (fun x => (List.range p.slices).flatMap (fun k =>
    [execBackwaterCopy n x.num k, execTileRowEncode n x.num k, execSliceDeadline n x.num k]))

/-- The events of a queue. -/
def queueEvents (q : Nat) : List Event := [execTimelineAdvance q, execPacketTakeUp q, execPacketIssue q]

/-- Every event of the device's own units that may have its turn now. The inputs of the outside world, among them host
writes, sensor readings, droops, errors and links, come by the agenda alone. -/
def unitEvents (s : State) : List Event :=
  s.queues.flatMap (fun e => queueEvents e.1) ++
  s.teams.flatMap (fun e => teamEvents s e.1 e.2) ++
  s.cmds.flatMap (commandEvents s) ++
  s.colls.map (fun e => execCollectiveCompletion e.1) ++
  (List.range s.screens.length).map execScreenWriteDelivery ++
  (List.range s.misses.length).map execSpringMiss ++
  s.springs.flatMap (fun e => springEvents e.2) ++
  generatorEvents s ++
  (if s.marks = [] then [] else [execHorizon]) ++
  (if s.launches = [] then [] else (List.range 4).map execTeamPlacement ++ (List.range 4).map execPlacementRecheck) ++
  s.launches.flatMap (fun e => launchEvents e.1) ++
  s.ctxs.map (fun e => execPreemptSaveComplete e.1) ++
  s.cores.filterMap (fun e => if e.2.mreset then some (execMatrixResetEnd e.1) else none) ++
  s.reaches.flatMap (fun e => if e.2.hop.isSome then [execHopLock e.1, execHopAbort e.1] else []) ++
  s.lcs.flatMap (fun e => lineEvents e.1 e.2) ++
  s.streams.flatMap (fun e => presentEvents e.1 e.2)

/-- All that may happen beside the members' words, in the order of a round. -/
def turns (s : State) : List Turn := streamTurns s ++ (unitEvents s).map (fun e s => .stop (after e s))

/-- IEEE 1588 disciplines the device time from now on, or no longer (R328, R334). Under it the device time is that of the fabric
domain, from which the next microsecond of the millponds counts. -/
def timeLock (s : State) (on : Bool) (time : Nat) : State :=
  let s : State := { s with phcfg := (on, s.phcfg.2) }
  if on then { s with now := time, reaches := s.reaches.map (fun e => (e.1, { e.2 with filled := time / 1000, moved := none })) } else s

/-- What an agent's turn finds to do. -/
def fetchAgent (a : Agent) (s : State) : Fetched :=
  match a with
  | .member tk mid => fetchMember tk mid s
  | .stream n vec => fetchStream n vec s
  | .event i => .go i s
  | .elapse n => .stop (elapse n s)
  | .hostRead off width => .stop (hostRead s off width).1
  | .timeLock on time => .stop (timeLock s on time)

/-- What the next step finds to do: the head of the agenda, or a member's word, or the next turn of the round. -/
def fetch (s : State) : Fetched :=
  match s.agenda, nextMember s with
  | a :: r, _ => fetchAgent a { s with agenda := r }
  | [], some x => fetchMember x.1 x.2 s
  | [], none => match (turns s)[s.turn]? with
    | some f => f { s with turn := s.turn + 1 }
    | none => .stop (elapse 1 { s with turn := 0 })

/-! ### Placing one instruction -/

/-- Where the placed word and its table stand: the page table at 0x10000, 0x11000 and 0x12000, the code at 0x13000, in
stacked DRAM, mapped to their own addresses. -/
def placeBase : Nat := 0x10000

/-- The page table of one leaf: L4 and L3 entries that name the next table, an L2 entry that maps the first GiB to itself,
with R, W and X. -/
def placeTable (s : State) : State :=
  ((s.poke placeBase (toBytes 8 (placeBase + 0x1001))).poke (placeBase + 0x1000) (toBytes 8 (placeBase + 0x2001))).poke (placeBase + 0x2000)
    (toBytes 8 0x1F)

/-- The code record of a placed word: ten bytes, R and X. -/
def placeCode : Rec := BitVec.ofNat 256 (placeBase + 0x3000 + 10 * 2 ^ 64 + 2 ^ 234 + 2 ^ 236)

/-- What the placed team declares: one group of 32 lanes with the whole of every file. -/
def placeSpec : Spec :=
  { passKey := 0, adopt := false, keep := false, gen := false, flat := false, half := false, sres := 0, prio := 0, weir := 7,
    pclass := 0, tile := 0, vq := 0, loops := [{ start := 0, limit := 1, step := 1 }], order := [0], cw := 1, ch := 1, acc := 8, preds := 48,
    sregs := 128, roles := [{ entry := 0, groups := 1, regs := 256 }], carve := [], recs := [], code := placeCode }

/-- A context of partition 0 whose table is the placed one. -/
def placeCtx : Context :=
  { part := 0, root := placeBase, save := 0, saveBytes := 0, flat := false, prc := false, st := .live, preempters := [], map := [] }

/-- A number that no context and no cached translation uses. -/
def freeCtx (s : State) : Nat := maxNat (s.ctxs.map (·.1) ++ s.tlb.map (·.ctx) ++ s.springs.map (fun e => e.2.ctx)) + 1

/-- A Calud word placed as the only word of a new team of one group on core 0, whose turn is next. -/
def placeCalud (s : State) (bs : List Byte) : State :=
  let ctx := freeCtx s
  let tk := s.freshTeam
  let seat : Seat :=
    { core := 0, vcore := 0, bank := (s.core 0).bank, cluster := 0, run := 0, placed := s.now, rising := false, charge := 0 }
  let s := (placeTable s).poke (placeBase + 0x3000) bs
  let t := startTeam s ctx 0 none 0 0 seat placeSpec 0 none
  { s with ctxs := set s.ctxs ctx placeCtx, teams := set s.teams tk t, freshTeam := tk + 1,
           cores := setD CoreState.zero s.cores 0 { s.core 0 with switched := 0, mreset := false, ports := [] },
           agenda := .member tk 0 :: s.agenda }

/-- A patch word placed as the only word of the vector stream of line core 0, whose turn is next. A 32-bit word that decodes
as a slot stands in template 0, which the patch word issues as held. -/
def placePatch (s : State) (w : BitVec 32) : State :=
  let run (s : State) (code : BitVec 32) : State := startLine s 0 [] (toBytes 4 code.toNat) .section_
  let held (lo valid : Nat) : State :=
    (run s (patchWord 0 0 0 0)).updStream 0 true (fun st => { st with tpl := [(0, BitVec.ofNat 256 (w.toNat * 2 ^ lo + 2 ^ valid))] })
  let s := if streamControl w then run s w
    else match decodeS0 w, decodeQ w with
    | .ok _, _ => held 208 255
    | _, .ok _ => held 0 250
    | _, _ => run s w
  { s with agenda := .stream 0 true :: s.agenda }

/-- The state with one instruction placed so that the next step runs it. -/
def placeWord (s : State) (nbits w : Nat) : State :=
  if nbits > 32 then placeCalud s (leBytes 10 w) else placePatch s (BitVec.ofNat 32 (leNat (leBytes 4 w)))

end Sys2Proof.Machine
end

