-- ==== Sys2Proof/Machine/Step.lean ====
section
/-! DEFINITION. One step of the machine: the agent whose turn it is fetches its instruction, which executes (R48). -/

namespace Sys2Proof.Machine

/-- One step: an instruction executes, or the turn passes without one. -/
def step (s : State) : Host.Outcome State Fault Refusal :=
  match fetch s with
  | .stop s' => .next s'
  | .go i s' => exec i s'

/-- The state with an instruction placed where the next step fetches it (R50, R362). -/
def State.withFetchWord (s : State) (nbits w : Nat) : State := placeWord s nbits w

end Sys2Proof.Machine
end

