-- ==== Sys2Proof/Safety.lean ====
section
/-! DEFINITION. What a safe run is, in the terms that statements use: when a word issues and passes its checks, what it
leaves alone, when a memory word performs in every lane, when a slot of a line core issues, and the invariant of the
machine's memory. -/

namespace Sys2Proof.Machine

/-! ### The invariant of memory -/

/-- Memory stands in its canonical form: rising addresses, and no byte that an unlisted address reads as. -/
def MemCanonical (s : State) : Prop := Memory.wf s.mem = true

/-! ### A Calud word that issues -/

/-- The row of R64 and the word of a Calud instruction; none for every other instruction. -/
def calRow (i : Instr) : Option (CRow × CWord) :=
  match i with
  | .reformJoin w => some (rowReformJoin, w)
  | .tstOrd w => some (rowTstOrd, w)
  | i => (caludOf i).map (fun p => (rowAt p.1, p.2))

/-- A member's turn has come, and no wait of R83, R84, R103, R109, R184 or R330 holds its word back. `c` is what the word
sees. -/
structure Attempts (r : CRow) (w : CWord) (s : State) (c : Ctx) : Prop where
  /-- The member that issues is member `c.m` of team `c.t` under key `c.tk`. -/
  who : issuer s = some (c.tk, c.t, c.m)
  /-- The context is that of the word in its member (R53, R111). -/
  ctx : c = ctxOf s c.tk c.t c.m r.op w
  /-- Nothing holds the member (R83). -/
  free : held s c.t c.m = false
  /-- Its bank issues (R184). -/
  bank : bankHeld s c.t c.m = false
  /-- No tag stands in the way (R109, R110). -/
  tags : tagBlocked c.m w = false
  /-- Its queue, its millpond and its engine take it (R103, R330, R255). -/
  unit : c.unitBusy = false

/-- The word passes checks 1 to 3 of R65 and the pending-read check of R112, and acts in some lane; no lane of an earlier attempt is left
over (R188). -/
structure Checks (r : CRow) (w : CWord) (s : State) (c : Ctx) : Prop extends Attempts r w s c where
  /-- Check 1 of R65. -/
  legal : r.legal w = true
  /-- Check 2 of R65. -/
  present : c.unitFails = false
  /-- Not the never-guard (R53). -/
  guarded : neverGuard w = false
  /-- Some lane is active (R53). -/
  active : c.act ≠ []
  /-- Check 3 of R65 and the check of R112. -/
  early : c.earlyCause r = none
  /-- Every lane of the word acts now (R188). -/
  whole : (r.uniform w || c.others (maskOf c.act) == 0) = true

/-- The word passes these checks and the weir's limit of R333. -/
structure Issues (r : CRow) (w : CWord) (s : State) (c : Ctx) : Prop extends Checks r w s c where
  /-- The weir's limit (R333). -/
  charge : c.overCharge = false

/-- What a word with an effect and an outcome ends in: it completes; but where the outcome raises an enabled flag, it takes cause 0x24, with
its flags set and nothing else written (R42), and else, where its charge would exceed its weir's limit, cause 0x20 with no effect (R333). -/
def Ctx.ends (c : Ctx) (s1 : State) (o : Out) : State :=
  if trapsFp c.t o.flags = true then takeCause (c.draw (c.s.updMember c.tk c.m.id (fun m => m.raise o.flags))) c.tk c.m.id 0x24 0
  else if c.overCharge = true then takeCause (c.draw c.s) c.tk c.m.id 0x20 0
  else complete c s1 o

/-- An instruction of a row, whenever its checks pass, ends with an outcome that its operands give, in a state that they give: where no
enabled flag and no weir's limit stops it, it completes. -/
def CompletesIn (r : CRow) (i : CWord → Instr) (pre : Ctx → Prop) (st : Ctx → State) (out : Ctx → Out) : Prop :=
  ∀ w s c, Checks r w s c → pre c → exec (i w) s = .next (c.ends (st c) (out c))

/-- A word that touches nothing but registers, with no condition on its operands. -/
def Completes (r : CRow) (i : CWord → Instr) (out : Ctx → Out) : Prop := CompletesIn r i (fun _ => True) (fun c => c.s) out

/-- A word that fails check 2 of R65, under any guard, the never-guard among them. -/
def TrapsAtCheck2 (r : CRow) (i : CWord → Instr) (pre : Ctx → Prop) : Prop :=
  ∀ w s c, Attempts r w s c → r.legal w = true → pre c → exec (i w) s = .next (c.draw (takeCause c.s c.tk c.m.id 0x02 0))

/-- A word that takes a precise cause of its own entry (R65, check 4). -/
def Traps (r : CRow) (i : CWord → Instr) (pre : Ctx → Prop) (cause : Ctx → Nat) : Prop :=
  ∀ w s c, Issues r w s c → pre c → exec (i w) s = .next (c.draw (takeCause c.s c.tk c.m.id (cause c) 0))

/-! ### Results, as a statement writes them -/

/-- A fixed-latency x destination: `f` gives the value of each lane, or of the lowest active lane for a scalar (R29, R54). -/
def eachLane (c : Ctx) (wide : Bool) (f : Nat → Nat) : Out :=
  Out.fixed ((c.lanes (selD c.w)).flatMap (fun l => dstX c wide l (f l)))

/-- A predicate destination by lane. -/
def eachPred (c : Ctx) (f : Nat → Bool) : Out := Out.fixed (c.act.map (fun l => (Place.p l (fD c.w), b2n (f l))))

/-- A vector destination by lane. -/
def eachV (c : Ctx) (f : Nat → Nat) : Out := Out.fixed (c.act.map (fun l => (Place.v l (fD c.w), f l)))

/-- A scalar destination. -/
def oneS (c : Ctx) (x : Nat) : Out := Out.fixed [(.s (fD c.w), x)]

/-- The last value that a list of writes gives a place. -/
def lastWrite (ws : List (Place × Nat)) (p : Place) : Option Nat := (ws.reverse.find? (fun e => e.1 == p)).map (·.2)

/-- The member has the place: a lane's register exists where the lane is present, and a predicate is one of 48. -/
def Member.has (m : Member) (p : Place) : Prop :=
  match p with
  | .v l _ => l ∈ m.present
  | .p l r => l ∈ m.present ∧ r < 48
  | _ => True

/-- The member of a key and number. -/
def State.memberAt (s : State) (tk mid : Nat) : Option Member := (look s.teams tk).bind (fun t => t.member mid)

/-! ### What a word leaves alone -/

/-- Two states agree but for the teams and the level of a millpond. -/
structure OnlyTeams (s s' : State) : Prop where
  /-- Every part of the state but the teams, the free values' counter and the reaches. -/
  rest : { s' with teams := s.teams, free := s.free, reaches := s.reaches } = s
  /-- Every byte of memory. -/
  bytes : ∀ a, Mem.read s'.mem a = Mem.read s.mem a
  /-- Every register of a reach but the level of its millpond. -/
  ponds : ∀ n, { s'.reach n with level := (s.reach n).level } = s.reach n

/-- Two states agree but for what words of one team and its reach's millpond may touch. -/
structure OnlyTeam (s s' : State) (tk : Nat) : Prop extends OnlyTeams s s' where
  /-- Every other team. -/
  others : ∀ k, k ≠ tk → look s'.teams k = look s.teams k

/-- A word of a row may write a place, by its destination field (R59, R134). -/
def Ctx.mayWrite (c : Ctx) (r : CRow) (p : Place) : Bool :=
  let named (x : Nat) : Bool := decide (fD c.w ≤ x ∧ x < fD c.w + (r.span c.w).1)
  match p with
  | .v _ x => (r.sig.1 = .v || (r.sig.1.selectable && !selD c.w)) && named x
  | .s x => (r.sig.1 = .s || (r.sig.1.selectable && selD c.w)) && named x
  | .p _ x => r.sig.1 = .p && named x
  | .cb _ => r.op = 0x0D2
  | .d x => r.sig.1 = .d && x = fD c.w

/-- A register word leaves alone: the team's own state, the other teams and members, the special and exception registers (but for the
entry of a handler), and every register that neither its destination field names nor a pending result will write. A member whose own
results stand in a queue of its port and that enters a handler has the results written that the queue accepted before them (R103), of other
members too. `fp` says that its row raises floating-point flags. -/
structure RegFrame (s s' : State) (c : Ctx) (r : CRow) (fp : Bool) : Prop extends OnlyTeams s s' where
  /-- Every other team. -/
  others : (∀ q ∈ c.m.pend, q.queue = none) → ∀ k, k ≠ c.tk → look s'.teams k = look s.teams k
  /-- The team's own state, but for its members and an abandonment. -/
  team : ∃ t', look s'.teams c.tk = some t' ∧ { t' with members := c.t.members, doom := c.t.doom } = c.t
  /-- The other members. -/
  members : (∀ q ∈ c.m.pend, q.queue = none) → ∀ id, id ≠ c.m.id → s'.memberAt c.tk id = s.memberAt c.tk id
  /-- The registers of the member, its place in the team and its special registers. -/
  own : ∀ m', s'.memberAt c.tk c.m.id = some m' →
    (∀ p, c.mayWrite r p = false → p ∉ c.m.pendPlaces → m'.file p = c.m.file p) ∧
    m'.present = c.m.present ∧ m'.slot = c.m.slot ∧ m'.role = c.m.role ∧ m'.arrival = c.m.arrival ∧ m'.latch = c.m.latch ∧
    (m'.trap = c.m.trap ∨ c.m.trap.inh = false ∧ m'.trap.inh = true ∧ m'.trap.mask = c.m.trap.mask ∧ m'.pc = c.t.tvec)
  /-- Its flags: they are only set, and only by a row that raises them (R41). -/
  flags : ∀ m' l, s'.memberAt c.tk c.m.id = some m' →
    c.m.laneFlags l &&& ~~~ m'.laneFlags l = 0 ∧ (fp = false → m'.laneFlags l = c.m.laneFlags l)

/-! ### A memory word that performs in every lane -/

/-- Every line of the word's accesses translates without a fault, a miss or a cause (R166), no link or port holds one
(R21, R445), its version does not wait, and the race and quota checks pass (R207, R211). `s1` is the state with the
accesses counted (R189), and `tr` the translations. -/
structure Performs (c : Ctx) (a : MemAsk) (s1 : State) (tr : List (Nat × Trans)) : Prop where
  /-- The version is open for it (R212). -/
  open_ : (recV a.r && c.t.ver.waiting && a.lanes.any (fun l => l.vas != [])) = false
  /-- The translations. -/
  lines : tr = (reachLines c.s c.t (wantOf c.t a) a.lanes).2.tr
  /-- Every lane's every line translated. -/
  every : a.lanes.all (laneOk tr) = true
  /-- No line is refused (R167). -/
  noCause : transCause tr = none
  /-- No link or port holds a line. -/
  path : linesHeld (reachLines c.s c.t (wantOf c.t a) a.lanes).1 c.t tr = false
  /-- The state before the bytes move. -/
  marks : ∃ s0, (if recV a.r && !recI a.r || recV a.r && a.need.writes
      then versionWord (reachLines c.s c.t (wantOf c.t a) a.lanes).1 c.tk c.t c.m tr a.need.writes a.lanes
      else ((reachLines c.s c.t (wantOf c.t a) a.lanes).1, none)) = (s0, none) ∧ s1 = c.accessAgain (touchLines s0 c.t a.need.writes tr a.lanes) tr a.lanes

/-- The accesses of LDR, STR, LDG and STG (R169, R170). -/
def Ctx.ask (c : Ctx) (kind : Nat) (need : Need) (requester : Bool) (n : Nat) (off : Nat → Nat) (ls : List Nat) : MemAsk :=
  { r := c.recA, kind := kind, need := need, requester := requester, lanes := laneReqs c.recA n off ls }

/-- The cells that a store of the lanes' bytes writes, lane by lane: each byte of a lane at the physical address that its translation
gives (R166). -/
def storedCells (tr : List (Nat × Trans)) (lanes : List LaneReq) (data : Nat → List Byte) : List (Nat × List Host.Cell) :=
  lanes.map (fun l => (l.lane, (l.vas.zip (data l.lane)).map (fun e => (bytePa tr e.1, e.2))))

/-- The state once lanes' bytes are stored, into memory or, under MODE V, into the team's version (R166, R204): the model also notes
which lanes need not read them yet (R195, log entry 52). -/
def Ctx.stored (c : Ctx) (s : State) (tr : List (Nat × Trans)) (lanes : List LaneReq) (data : Nat → List Byte) : State :=
  c.storeCells s (recV c.recA) 0 (storedCells tr lanes data)

/-- The outcome of a store: no register is written. -/
def Out.stored : Out := { Out.none with var := true }

/-- A translated line counts its access in its leaf (R189). -/
def countsLine (die : Nat) (e : Nat × Trans) : Bool :=
  match e.2 with
  | .ok pa _ leaf _ => countsAccess die pa leaf
  | _ => false

/-! ### A word with the roles of R196 -/

/-- A word with a role at a scope passes at once: a release finds the screen writes of its lanes delivered (R299) and, from cluster
scope on, its windows clean (R150) and its marks within the horizon share (R212). -/
structure Passes (c : Ctx) (scope : Nat) (rel : Bool) : Prop where
  /-- The member waits for nothing. -/
  wait : c.m.wait = .none
  /-- No screen write of a lane of the member is under way. -/
  screens : (rel && c.screensOut) = false
  /-- Its windows are clean. -/
  clean : (!rel || decide (scope < 2) || c.t.clean) = true
  /-- Its version can commit. -/
  fits : (!rel || decide (scope < 2) || commitFits c.s c.tk c.t) = true

/-- The context with its team read again. -/
def Ctx.reread (c : Ctx) (s : State) : Ctx :=
  match look s.teams c.tk with
  | some t => { c with s := s, t := t }
  | none => c

/-- The context once a release has performed its lanes' writes at its scope (R195, R217) and, from cluster scope on, committed the
version (R196, R205). -/
def Ctx.passed (c : Ctx) (scope : Nat) (rel : Bool) : Ctx :=
  let c := if rel then c.released scope else c
  if rel && decide (2 ≤ scope) then
    c.reread ((commitVersion c.s c.tk c.t).updMember c.tk c.m.id (fun m => { m with wait := .committed }))
  else c

/-- The state once a word with a role is performed: from cluster scope on, the mark of its commit goes, the team's region ends, and an
acquire drops clean stash bytes (R150, R196, R203). -/
def Ctx.regionEnds (c : Ctx) (scope : Nat) (rel acq : Bool) (s : State) : State :=
  if decide (2 ≤ scope) && (rel || acq) then
    let s := (newRegion s c.tk).updMember c.tk c.m.id (fun m => if m.wait = .committed then { m with wait := .none } else m)
    if acq then s.updTeam c.tk Team.dropClean else s
  else s

/-! ### Engine words -/

/-- The command of an accepted word (R246). -/
def Ctx.command (c : Ctx) (matrix : Bool) (token : Option Nat) (ring : Option Rec) (job : Job) : Command :=
  { id := c.s.freshCmd, core := c.t.seat.core, team := c.tk, mem := c.m.id, slot := c.m.slot, pc := c.m.pc, matrix := matrix,
    token := token, uses := fTokens c.w, ring := ring, job := job, phase := .accepted, stop := .none, startAt := 0 }

/-- A state that has accepted a command: it stands last among the commands, the counts of its buffers have risen (R143), and
its token is PENDING (R246). -/
def State.taken (s : State) (k : Command) : State :=
  let s := countIn { s with cmds := s.cmds ++ [k], freshCmd := s.freshCmd + 1 } k
  match k.token with
  | some n => s.updTeam k.team (fun t => t.setToken n .pending)
  | none => s

/-- An engine word whose checks all pass is accepted: `pre` is the state that its own effects leave. -/
def Accepts (r : CRow) (i : CWord → Instr) (pre : Ctx → Prop) (checks : Ctx → List (Option Nat)) (st : Ctx → State)
    (matrix : Bool) (token : Ctx → Option Nat) (ring : Ctx → Option Rec) (job : Ctx → Job) : Prop :=
  CompletesIn r i (fun c => pre c ∧ ∀ x ∈ checks c, x = none)
    (fun c => (st c).taken { c.command matrix (token c) (ring c) (job c) with id := (st c).freshCmd }) (fun _ => Out.none)

/-! ### A slot of a line core -/

/-- A stream of a line core issues a word of one slot: it runs, no LD slot of its last word is blocked, and its line core has
not halted (R362, R372, R389). `b` is what the slot sees. -/
structure SlotIssues (s : State) (b : BCtx) : Prop where
  /-- The stream's turn has come. -/
  who : lineIssuer s = some (b.n, b.vec, true)
  /-- The state before the slot writes. -/
  ctx : b = bctx s b.n b.vec

/-- The stream goes on at its next word. -/
def State.slotNext (s : State) (b : BCtx) : State :=
  s.updStream b.n b.vec (fun st => { st with waiting := false, pc := (st.pc + 1) % 2 ^ 15 })

/-- A slot that halts its line core at its word (R371, R372). -/
def SlotHalts (i : Instr) (s : State) (b : BCtx) (cause slot arg err2 : Nat) : Prop :=
  exec i s = .next (haltLc s b.n cause (partyOf b.vec) slot arg b.st.pc err2)

/-- A slot that fails a check of R371 as its word reaches issue. A word is checked once, before any wait. -/
def SlotFails (i : Instr) (s : State) (b : BCtx) (cause slot arg err2 : Nat) : Prop :=
  b.st.waiting = false → SlotHalts i s b cause slot arg err2

/-! ### Packets -/

/-- A packet of a type that its queue may issue: the queue runs, and every check of R429 to R434 passes. -/
structure Admits (typ : Nat) (p : Packet) (s : State) : Prop where
  /-- The TYPE. -/
  type : p.typ.toNat = typ
  /-- The queue is enabled. -/
  enabled : (s.queue p.queue).en = true
  /-- No queue error has halted it. -/
  runs : (s.queue p.queue).halt = false
  /-- Nothing destroys it. -/
  stays : (s.queue p.queue).closing = none
  /-- The checks of R429 to R434. -/
  checks : checkPacket s p = none
  /-- Its CONTEXT is one of the queue's partition, or a new one for CTX.CREATE (R434). -/
  context : contextBad s p = false

/-- The packet has issued: QGET has moved past it, and it stands among the packets taken up, completed or not (R429, R431, R433). -/
def State.issues (s : State) (p : Packet) (fin : Bool) : State :=
  let x := s.queue p.queue
  s.setQueue p.queue { x with
    get := x.get + BitVec.ofNat 32 (8 * p.len), head := none, wait := false, next := x.next + 1
    flights := x.flights ++ [{ num := x.next, sig := if p.sig then some p.sigval else none, done := fin }]
    last := if p.sig then p.sigval else x.last }

/-- A packet under conditions of its own type issues with its effect: `fin` says that it has completed with it. -/
def Issued (i : Packet → Instr) (typ : Nat) (fin : Bool) (pre : Packet → State → Prop) (eff : Packet → State → State) : Prop :=
  ∀ p s, Admits typ p s → pre p s → exec (i p) s = .next ((eff p s).issues p fin)

end Sys2Proof.Machine
end

