-- ==== Sys2Proof/Certificates/Slice0/Obligations.lean ====
section
/-! DEFINITION. The statements about the KV4 for the provers. -/

open Sys2Proof Sys2Proof.Machine

/-! ### Words of registers alone -/

/-- R114, R115, R30: IADD, ISUB, IMUL, IMULH, IMAD, IMIN, IMAX and IABS complete, and each lane of the destination takes
the exact integer value of the operation, wrapped to the type's width or clamped under .sat.
R116 to R120: the shifts, the funnel shift, the bit-field words, the bit counts, the reversal and the bitwise split
function complete, and each lane of the destination takes the value that its rule gives. -/
def Obligations.IntegerShiftAndBitWords : Prop :=
  (
    let val (f : Int → Int → Int → Int) (c : Ctx) : Out :=
      let ty := tyOr 2 c.w
      eachLane c (is64 ty) (fun l => intResult ty (satOf c.w)
        (f (intVal ty (c.a (is64 ty) l)) (intVal ty (c.b (is64 ty) l)) (intVal ty (c.c' (is64 ty) l))))
    Completes (rowAt 0x040) .iadd (val (fun a b _ => a + b)) ∧
    Completes (rowAt 0x041) .isub (val (fun a b _ => a - b)) ∧
    Completes (rowAt 0x042) .imul (val (fun a b _ => a * b)) ∧
    Completes (rowAt 0x043) .imulh (val (fun a b _ => a * b / 2 ^ 32)) ∧
    Completes (rowAt 0x044) .imad (val (fun a b c => a * b + c)) ∧
    Completes (rowAt 0x045) .imin (val (fun a b _ => min a b)) ∧
    Completes (rowAt 0x046) .imax (val (fun a b _ => max a b)) ∧
    Completes (rowAt 0x047) .iabs (val (fun a _ _ => |a|))) ∧
  (
    let ty (c : Ctx) : Nat := tyOr 2 c.w
    let wide (c : Ctx) : Bool := is64 (ty c)
    let n (c : Ctx) : Nat := if wide c then 64 else 32
    let count (c : Ctx) (l : Nat) : Nat := if mBit c.w 10 then c.b false l % n c else c.b false l
    Completes (rowAt 0x048) .shl (fun c => eachLane c (wide c) (fun l =>
      if n c ≤ count c l then 0 else c.a (wide c) l * 2 ^ count c l % 2 ^ n c)) ∧
    Completes (rowAt 0x049) .shr (fun c => eachLane c (wide c) (fun l =>
      if intSigned (ty c) then wrapI (n c) (sgn (n c) (c.a (wide c) l) / (2 ^ min (count c l) (n c) : Int))
      else if n c ≤ count c l then 0 else c.a (wide c) l / 2 ^ count c l)) ∧
    Completes (rowAt 0x04A) .fsh (fun c => eachLane c false (fun l =>
      let k := if mBit c.w 10 then c.c' false l % 32 else min (c.c' false l) 32
      let t := c.a false l * 2 ^ 32 + c.b false l
      if mBit c.w 11 then t * 2 ^ k / 2 ^ 32 % 2 ^ 32 else t / 2 ^ k % 2 ^ 32)) ∧
    Completes (rowAt 0x04B) .bfe (fun c => eachLane c false (fun l =>
      let pos := min (c.b false l) 32
      let len := min (c.c' false l) (32 - pos)
      let x := c.a false l / 2 ^ pos % 2 ^ len
      if len = 0 then 0 else if intSigned (ty c) then wrapI 32 (sgn len x) else x)) ∧
    Completes (rowAt 0x04C) .bfi (fun c => eachLane c false (fun l =>
      let pos := min (c.c' false l % 256) 32
      let len := min (c.c' false l / 256 % 256) (32 - pos)
      c.b false l % 2 ^ pos + c.a false l % 2 ^ len * 2 ^ pos + c.b false l / 2 ^ (pos + len) * 2 ^ (pos + len))) ∧
    Completes (rowAt 0x04D) .popc (fun c => eachLane c false (fun l =>
      ((List.range 64).filter (fun i => (c.a (wide c) l).testBit i)).length)) ∧
    Completes (rowAt 0x04E) .clz (fun c => eachLane c false (fun l =>
      if c.a (wide c) l = 0 then n c else n c - 1 - Nat.log2 (c.a (wide c) l))) ∧
    Completes (rowAt 0x04F) .brev (fun c => eachLane c (wide c) (fun l =>
      (((List.range (n c)).filter (fun i => (c.a (wide c) l).testBit i)).map (fun i => 2 ^ (n c - 1 - i))).sum)) ∧
    Completes (rowAt 0x050) .bfn (fun c => eachLane c false (fun l =>
      ((List.range 32).map (fun j =>
        let t := 2 * b2n ((c.a false l).testBit j) + b2n ((c.b false l).testBit j)
        if (if (c.c' false l).testBit j then mBits c.w 7 4 else mBits c.w 3 0).testBit t then 2 ^ j else 0)).sum)))

/-- R91, R92, R121 to R123: ICMP writes its relation, SEL chooses by a predicate, MOV, MOVI and SMOVI copy, PLOG is a split
function of three predicates, PRD and PWR move predicates to and from a register. Each completes. -/
def Obligations.CompareSelectMoveAndPredicateWords : Prop :=
  Completes (rowAt 0x051) .icmp (fun c =>
    let ty := mBits c.w 4 0
    let rel (a b : Int) : Bool := match mBits c.w 11 9 with
      | 0 => a = b
      | 1 => a ≠ b
      | 2 => a < b
      | 3 => a ≤ b
      | 4 => b < a
      | _ => b ≤ a
    eachPred c (fun l => rel (intVal ty (c.a (is64 ty) l)) (intVal ty (c.b (is64 ty) l)))) ∧
  Completes (rowAt 0x052) .sel (fun c =>
    let wide := mBits c.w 4 0 = 11
    eachLane c wide (fun l => if c.p l (fC c.w) then c.a wide l else c.b wide l)) ∧
  Completes (rowAt 0x053) .mov (fun c => eachLane c (tyOr 2 c.w = 11) (fun l => c.a (tyOr 2 c.w = 11) l)) ∧
  Completes (rowAt 0x054) .movi (fun c => eachLane c false (fun _ => (fImm c.w).toNat)) ∧
  Completes (rowAt 0x055) .smovi (fun c => oneS c (fImm c.w).toNat) ∧
  Completes (rowAt 0x008) .plog (fun c => eachPred c (fun l =>
    (if c.p l (fC c.w) then mBits c.w 7 4 else mBits c.w 3 0).testBit (2 * b2n (c.p l (fA c.w)) + b2n (c.p l (fB c.w))))) ∧
  Completes (rowAt 0x009) .prd (fun c => eachV c (fun l =>
    ((List.range (mBits c.w 4 0 + 1)).map (fun i => b2n (c.p l (fA c.w + i)) * 2 ^ i)).sum)) ∧
  Completes (rowAt 0x00A) .pwr (fun c => Out.fixed (c.act.flatMap (fun l => (List.range (mBits c.w 4 0 + 1)).map (fun i =>
    (Place.p l (fD c.w + i), b2n ((c.a false l).testBit i))))))

/-- R94 to R98: each lane of a shuffle takes its source lane's value where that lane is active, and its own elsewhere; VOTE
gives the mask, the count, the least lane or the agreement of a predicate; GRED and GSCAN combine the active lanes'
values over the tree of R45 and are written later, through the reduction queue. -/
def Obligations.CrossLaneWordsCombineTheActiveLanes : Prop :=
  let from_ (src : Nat → Nat → Int) (c : Ctx) : Out := eachV c (fun l =>
    let k := src l (c.b false l)
    if 0 ≤ k ∧ k ≤ 31 ∧ k.toNat ∈ c.act then c.v k.toNat (fA c.w) else c.v l (fA c.w))
  let yOut (c : Ctx) (x : Nat) : List (Place × Nat) :=
    if selD c.w then [(.s (fD c.w), x)] else c.act.map (fun l => (Place.v l (fD c.w), x))
  let leaves (c : Ctx) : List (Option Rounded) :=
    (List.range 32).map (fun l => if c.act.contains l then some (c.v l (fA c.w), 0) else none)
  let comb (c : Ctx) : Rounded → Rounded → Rounded := combine2 (mBits c.w 10 8) (mBits c.w 4 0) (rmOf c.w)
  Completes (rowAt 0x010) .shflBc (from_ (fun _ b => b)) ∧
  Completes (rowAt 0x011) .shflXor (from_ (fun l b => ((l ^^^ b : Nat) : Int))) ∧
  Completes (rowAt 0x012) .shflUp (from_ (fun l b => (l : Int) - b)) ∧
  Completes (rowAt 0x013) .shflDn (from_ (fun l b => (l : Int) + b)) ∧
  Completes (rowAt 0x014) .vote (fun c =>
    let p := c.act.filter (fun l => c.p l (fA c.w))
    Out.fixed (yOut c (match mBits c.w 11 10 with
      | 0 => (p.map (fun l => 2 ^ l)).sum
      | 1 => p.length
      | 2 => p.headD 32
      | _ => b2n (p ≠ []) + 2 * b2n (p = c.act)))) ∧
  Completes (rowAt 0x015) .gred (fun c => match treeRoot (comb c) 5 (leaves c) with
    | none => Out.none
    | some r => { Out.late (yOut c r.1) with flags := c.act.map (fun l => (l, r.2)), queue := some 1 }) ∧
  Completes (rowAt 0x016) .gscan (fun c =>
    let incl (l : Nat) : Option Rounded := scanTree (comb c) (leaves c) l
    let val (l : Nat) : Nat :=
      if mBit c.w 11 then match (c.act.filter (fun k => decide (k < l))).getLast? with
        | some k => ((incl k).map (·.1)).getD 0
        | none => scanIdentity (mBits c.w 10 8) (mBits c.w 4 0)
      else ((incl l).map (·.1)).getD 0
    let fl := (c.act.filterMap incl).foldl (fun acc r => acc ||| r.2) 0
    { Out.late (c.act.map (fun l => (Place.v l (fD c.w), val l))) with flags := c.act.map (fun l => (l, fl)), queue := some 1 })

/-- R124 to R127: FADD, FSUB, FMUL and FFMA round the exact result once and raise its flags, an invalid operation giving the
canonical NaN with IV; FMIN and FMAX choose by the order of R96; FCMP writes its relation, IV where an ordered relation meets
a NaN; FRND rounds to an integral value. Each completes. -/
def Obligations.FloatWordsRoundTheExactResultOnce : Prop :=
  let one (c : Ctx) (f : Nat → Nat → Rounded) : Out :=
    Out.ofAcc (perLane c (selD c.w) (rmOf c.w) 1 (fun l rs => (dstX c false l (f l (rs.headD 0)).1, (f l (rs.headD 0)).2)))
  let a (c : Ctx) (l : Nat) : Ex := decodeZ (ftzOf c.w) f32 (c.a false l)
  let b (c : Ctx) (l : Nat) : Ex := decodeZ (ftzOf c.w) f32 (c.b false l)
  let k (c : Ctx) (l : Nat) : Ex := decodeZ (ftzOf c.w) f32 (c.c' false l)
  let end_ (c : Ctx) (r : Nat) (x : Option Ex) : Rounded := match x with
    | none => (0x7FC00000, flIV)
    | some x => encode f32 x (rmOf c.w) (ftzOf c.w) false r
  Completes (rowAt 0x0C0) .fadd (fun c => one c (fun l r => end_ c r (Ex.add? (rmOf c.w) (a c l) (b c l)))) ∧
  Completes (rowAt 0x0C1) .fsub (fun c => one c (fun l r => end_ c r (Ex.add? (rmOf c.w) (a c l) (b c l).opp))) ∧
  Completes (rowAt 0x0C2) .fmul (fun c => one c (fun l r => end_ c r (Ex.mul? (a c l) (b c l)))) ∧
  Completes (rowAt 0x0C3) .ffma (fun c => one c (fun l r =>
    end_ c r ((Ex.mul? (a c l) (b c l)).bind (fun p => Ex.add? (rmOf c.w) p (k c l))))) ∧
  Completes (rowAt 0x0C4) .fmin (fun c => eachLane c false (fun l => minMaxF f32 (ftzOf c.w) false (c.a false l) (c.b false l))) ∧
  Completes (rowAt 0x0C5) .fmax (fun c => eachLane c false (fun l => minMaxF f32 (ftzOf c.w) true (c.a false l) (c.b false l))) ∧
  Completes (rowAt 0x0C6) .fcmp (fun c => Out.ofAcc (perLane c false 0 0 (fun l _ =>
    let y := fcmp (mBits c.w 11 9) (a c l) (b c l)
    ([(Place.p l (fD c.w), b2n y.1)], y.2)))) ∧
  Completes (rowAt 0x0C7) .frnd (fun c => one c (fun l r => match a c l with
    | .nan => (0x7FC00000, 0)
    | .inf s => (signBit f32 s + 0x7F800000, 0)
    | .num s n d =>
      let v := roundInt s n d (rmOf c.w) r
      ((encode f32 (.num s v.1.natAbs 1) 0 false false 0).1, if v.2 then 0 else flIX)))

/-- R128 to R131: the paired 16-bit words act on each half by itself, CVT converts between types, NPACK writes two narrow
elements and keeps the others, NUNPK reads one narrow element, scaled. Each completes. -/
def Obligations.PackedAndConversionWordsActByElement : Prop :=
  let two (c : Ctx) (f : Fmt32 → Nat → Nat → Nat → Nat → Rounded) : Out :=
    Out.ofAcc (perLane c false (rmOf c.w) 2 (fun l rs =>
      let e (i : Nat) : Rounded := f (fmtOfTy (mBits c.w 4 0)) (rs[i]?.getD 0)
        (half (c.v l (fA c.w)) i) (half (c.v l (fB c.w)) i) (half (c.v l (fC c.w)) i)
      ([(Place.v l (fD c.w), (e 0).1 + 2 ^ 16 * (e 1).1)], (e 0).2 ||| (e 1).2)))
  Completes (rowAt 0x0C8) .hadd2 (fun c => two c (fun fm r a b _ => fAdd fm (rmOf c.w) (ftzOf c.w) r a b)) ∧
  Completes (rowAt 0x0C9) .hmul2 (fun c => two c (fun fm r a b _ => fMul fm (rmOf c.w) (ftzOf c.w) r a b)) ∧
  Completes (rowAt 0x0CA) .hfma2 (fun c => two c (fun fm r a b k => fFma fm (rmOf c.w) (ftzOf c.w) r a b k)) ∧
  Completes (rowAt 0x0CB) .cvt (fun c =>
    let dt := mBits c.w 4 0
    let st := mBits c.w 11 8
    Out.ofAcc (perLane c (selD c.w) (rmOf c.w) 1 (fun l rs =>
      let wideS := st = 3 ∨ st = 7
      let x := c.a wideS l
      let r := rs.headD 0
      let y : Rounded :=
        if st ≤ 7 then (if dt ≤ 7 then (intResult dt (mBit c.w 13) (intVal st x), 0)
          else encode (fmtOfTy dt) (.ofInt (intVal st x)) (rmOf c.w) (mBit c.w 12) false r)
        else if dt ≤ 7 then
          let z := floatToInt (decodeZ (mBit c.w 12) (styFmt st) x) (rmOf c.w) (intSigned dt) (intBits dt) r
          (widen dt z.1, z.2)
        else encode (fmtOfTy dt) (decodeZ (mBit c.w 12) (styFmt st) x) (rmOf c.w) (mBit c.w 12) false r
      (dstX c (is64 dt) l y.1, y.2)))) ∧
  Completes (rowAt 0x0CC) .npack (fun c =>
    let ty := mBits c.w 4 0
    let i := 2 * mBits c.w 11 10
    let conv (r x : Nat) : Rounded := toNarrow c.cb ty (rmOf c.w) (ftzOf c.w) (mBit c.w 9) r x
    Out.ofAcc (perLane c false (rmOf c.w) 2 (fun l rs =>
      let e0 := conv (rs[0]?.getD 0) (c.v l (fA c.w))
      let e1 := conv (rs[1]?.getD 0) (c.v l (fB c.w))
      ([(Place.v l (fD c.w), setNarrow ty (setNarrow ty (c.v l (fD c.w)) i e0.1) (i + 1) e1.1)], e0.2 ||| e1.2)))) ∧
  Completes (rowAt 0x0CD) .nunpk (fun c =>
    let ty := mBits c.w 4 0
    Out.ofAcc (perLane c false (rmOf c.w) 1 (fun l rs =>
      let b := c.x (selB c.w) l (fB c.w)
      let e := narrowValue c.cb ty (ftzOf c.w) (c.v l (fA c.w)) (b % narrowCount ty)
      let y := encode f32 (if mBit c.w 10 then Ex.mul e (blockScale (bits b 15 8)) else e) (rmOf c.w) (ftzOf c.w) false (rs.headD 0)
      ([(Place.v l (fD c.w), y.1)], y.2))))

/-- R43, R132 to R135: a dot word over floats forms the exact sum of its products, rounds it once as a block and adds it to
the accumulator; one over integers wraps or clamps the exact sum; CB.LD writes codebook entries in pairs and CB.RD reads one.
Each completes.
R103, R136, R137: RCP, RSQ, SQRT, EXP2, LOG2, SIN, COS and TANH complete through the SFU queue, each lane taking the
function's value as R136 and R137 round it, and its flags at once. -/
def Obligations.DotCodebookAndSpecialFunctionWords : Prop :=
  (
    let ty (c : Ctx) : Nat := mBits c.w 4 0
    let block (ftz : Bool) (acc : Nat) (ps : List (Option Ex)) : Rounded :=
      let s := roundSum f32 0 ftz 0 (decodeZ ftz f32 acc) (dotBlock ps).1
      (s.1, s.2 ||| (dotBlock ps).2)
    let floats (c : Ctx) (n : Nat) (acc : Nat → Nat) (val : Nat → Nat → Ex) (sa sb : Ex) : Out :=
      Out.ofAcc (perLane c false 0 0 (fun l _ =>
        let y := block (ftzOf c.w) (acc l) ((List.range n).map (fun i =>
          Ex.mul? ((val (c.v l (fA c.w)) i).mul sa) ((val (c.v l (fB c.w)) i).mul sb)))
        ([(Place.v l (fD c.w), y.1)], y.2)))
    let ints (c : Ctx) (n : Nat) : Out := eachV c (fun l =>
      let e (x i : Nat) : Int := intVal (ty c) (bits x (n * i + n - 1) (n * i))
      let sum : Int := (if intSigned (ty c) then sgn 32 (c.v l (fC c.w)) else (c.v l (fC c.w) : Int)) +
        ((List.range (32 / n)).map (fun i => e (c.v l (fA c.w)) i * e (c.v l (fB c.w)) i)).sum
      if satOf c.w then (if intSigned (ty c) then satS 32 sum else satU 32 sum) else wrapI 32 sum)
    let unit : Ex := .num false 1 1
    let narrow (c : Ctx) : Nat → Nat → Ex := narrowValue c.cb (ty c) (ftzOf c.w)
    Completes (rowAt 0x0CE) .dot2 (fun c => if ty c ≤ 7 then ints c 16
      else floats c 2 (fun l => c.v l (fC c.w)) (fun x i => decodeZ (ftzOf c.w) (fmtOfTy (ty c)) (half x i)) unit unit) ∧
    Completes (rowAt 0x0CF) .dot4 (fun c => if ty c ≤ 7 then ints c 8
      else floats c 4 (fun l => c.v l (fC c.w)) (narrow c) unit unit) ∧
    Completes (rowAt 0x0D0) .dot8 (fun c => floats c 8 (fun l => c.v l (fC c.w)) (narrow c) unit unit) ∧
    Completes (rowAt 0x0D1) .dotsc (fun c => floats c (narrowCount (ty c)) (fun l => c.v l (fD c.w)) (narrow c)
      (blockScale (bits (c.sc (fC c.w)) 7 0)) (blockScale (bits (c.sc (fC c.w)) 15 8))) ∧
    Completes (rowAt 0x0D2) .cbLd (fun c => Out.fixed (
      let two (e x : Nat) : List (Place × Nat) := [(.cb e, bits x 15 0), (.cb (e + 1), bits x 31 16)]
      if selA c.w then two (fB c.w) (c.sc (fA c.w))
      else (c.m.present.filter (fun j => j ≤ (14 - fB c.w) / 2)).flatMap (fun j => two (fB c.w + 2 * j) (c.v j (fA c.w))))) ∧
    Completes (rowAt 0x0D3) .cbRd (fun c => eachLane c false (fun _ => c.cb (fA c.w)))) ∧
  (
    let out (fn : Fun) (c : Ctx) : Out :=
      { Out.ofAcc (perLane c (selD c.w) 0 0 (fun l _ =>
          let y := sfu fn (c.a false l) (rmOf c.w) (ftzOf c.w)
          (dstX c false l y.1, y.2))) with var := true, queue := some 0 }
    Completes (rowAt 0x140) .rcp (out .rcp) ∧ Completes (rowAt 0x141) .rsq (out .rsq) ∧
    Completes (rowAt 0x142) .sqrtW (out .sqrt) ∧ Completes (rowAt 0x143) .exp2 (out .exp2) ∧
    Completes (rowAt 0x144) .log2 (out .log2) ∧ Completes (rowAt 0x145) .sinW (out .sin) ∧
    Completes (rowAt 0x146) .cosW (out .cos) ∧ Completes (rowAt 0x147) .tanhW (out .tanh))

/-- R76, R86, R88 to R90: NOP has every operand field and M zero and no effect but its PD, TA and TW: no register, flag or
generator of its member is written but by pending results and windows that were there, and nothing beyond its team but its
millpond's level is touched; BRA, BRX, CALL and RET send each active lane to its target, CALL
writing the link; YIELD restarts the ready time and waits for the groups that were ready; EXIT ends the active lanes, here
where other lanes of the team live on and no cluster barrier is left waiting for it. Each completes.
R89, R150, R219: the EXIT that ends its team ends its active lanes where its windows hold no dirty byte, and the one that
leaves every other participant at cluster barrier n carries the team's arrival: the version commits, and the barrier counts
the team. That the EXIT itself commits for the arrival which it brings about is the model's reading of R219 (log entry 57). An arrival
slot whose lanes have all ended is armed again (R156). Each completes. -/
def Obligations.ControlFlowWordsAndTheLastExit : Prop :=
  (
    let go (c : Ctx) (ws : List (Place × Nat)) (f : Nat → Word) : Out := { Out.fixed ws with next := c.act.map (fun l => (l, f l)) }
    (∀ w, (rowAt 0x000).legal w = true → w.body = .r 0 0 0 0 0) ∧
    (∀ w s c, Issues (rowAt 0x000) w s c →
      exec (.nop w) s = .next (complete c c.s Out.none) ∧ OnlyTeam s (complete c c.s Out.none) c.tk ∧
      ∀ m', (complete c c.s Out.none).memberAt c.tk c.m.id = some m' →
        m'.pc = c.m.pc + 1 ∧ (∀ p, m'.file p = c.m.file p) ∧ m'.trap = c.m.trap ∧
        ∀ l, m'.laneFlags l = c.m.laneFlags l ∧ (m'.lane l).map (·.rng) = (c.m.lane l).map (·.rng)) ∧
    Completes (rowAt 0x001) .bra (fun c => go c [] (fun _ => c.m.pc + fOff c.w)) ∧
    Completes (rowAt 0x002) .brx (fun c => go c [] (fun l => c.m.pc + fOff c.w + BitVec.ofNat 32 (c.v l (fA c.w)))) ∧
    Completes (rowAt 0x003) .callW (fun c =>
      go c (c.act.map (fun l => (Place.v l (fD c.w), (c.m.pc + 1).toNat))) (fun _ => c.m.pc + fOff c.w)) ∧
    Completes (rowAt 0x004) .retW (fun c => go c [] (fun l => BitVec.ofNat 32 (c.v l (fA c.w)))) ∧
    CompletesIn (rowAt 0x006) .yieldW (fun _ => True) (fun c =>
      c.s.updMember c.tk c.m.id (fun m => { m with ready := c.s.now, wait := if c.s.rivals = [] then .none else .yield c.s.rivals }))
      (fun _ => Out.none) ∧
    -- the groups that it waits for are those that its attempt found ready on its core
    (∀ s core tk mid w s', (withRivals s core tk mid (.yieldW w) s').rivals = readyOthers s core tk mid) ∧
    CompletesIn (rowAt 0x007) .exitW (fun c => c.ended.idle = false ∧ c.ended.lastArrival = none)
      (fun c => c.s.updTeam c.tk (fun t =>
        (t.updMember c.m.id (fun m => { m with lanes := m.lanes.filter (fun e => !c.act.contains e.1) })).endArrivals))
      (fun _ => Out.none)) ∧
  (
    let fin (c : Ctx) (s : State) : State := s.updTeam c.tk (fun t =>
      (t.updMember c.m.id (fun m => { m with lanes := m.lanes.filter (fun e => !c.act.contains e.1) })).endArrivals)
    CompletesIn (rowAt 0x007) .exitW (fun c => c.ended.idle = true ∧ c.t.clean = true) (fun c => fin c c.s) (fun _ => Out.none) ∧
    ∀ n, CompletesIn (rowAt 0x007) .exitW (fun c => c.ended.idle = false ∧ c.ended.lastArrival = some n ∧ Passes c 2 true)
      (fun c => c.regionEnds 2 true false
        (fin c ((c.passed 2 true).s.updTeam c.tk (fun t => { t with arrived := insertNat n t.arrived }))))
      (fun _ => Out.none))

/-- R80, R82, R87, R331: REFORM settles its member's results and windows, once its port's queues have written what they accepted
before them (R103), and files the active lanes by %lane into the bins of its key, lanes that find no bin going on; in a handler it only
settles; under an open weir it takes cause 0x21, in a handler too (the model's choice, log entry 72), and it waits for a tag that no
result holds. REFORM.join merges the members of a family that wait at one PC with one codebook, each waiting word drawing its weight as
it issues, where the millpond holds them all (R330); in a handler it only settles, and it waits where a sibling has not come, a tag stays
or the millpond does not hold the weights. A REFORM.join that waits releases the reuse latch: R113 names 'a REFORM' alone, and this is the
model's reading (log entry 73). -/
def Obligations.ReformFilesAndJoinMergesLanes : Prop :=
  CompletesIn (rowAt 0x005) .reform (fun c => c.m.weir = none ∧ c.m.settled.tags = 0 ∧ c.m.trap.inh = false)
    (fun c =>
      let m := c.m.settled
      let key : Bin := { num := 0, role := m.role, pc := m.pc + 1, cb := m.cb, lanes := [], since := 0 }
      let used := c.s.teams.flatMap (fun t => if t.1 ≠ c.tk ∧ t.2.seat.core = c.t.seat.core ∧ t.2.saved = false then
        t.2.bins.map (·.num) else [])
      let y := fileLanes c.s.now used key (m.lanes.filter (fun e => c.act.contains e.1)) c.t.bins
      (c.s.settleQueues c.tk c.m.id).updTeam c.tk (fun t =>
        { t.updMember c.m.id (fun _ => { m with latch := none, lanes := m.lanes.filter (fun e => !y.2.contains e.1) }) with bins := y.1 }))
    (fun _ => Out.none) ∧
  CompletesIn (rowAt 0x005) .reform (fun c => c.m.weir = none ∧ c.m.settled.tags = 0 ∧ c.m.trap.inh = true)
    (fun c => (c.s.settleQueues c.tk c.m.id).updMember c.tk c.m.id (fun _ => c.m.settled)) (fun _ => Out.none) ∧
  Traps (rowAt 0x005) .reform (fun c => c.m.weir ≠ none) (fun _ => 0x21) ∧
  (∀ w s c, Issues (rowAt 0x005) w s c → c.m.weir = none → c.m.settled.tags ≠ 0 → exec (.reform w) s = .next c.s) ∧
  CompletesIn rowReformJoin .reformJoin (fun c => c.m.settled.tags = 0 ∧ c.m.trap.inh = false ∧
      (∀ x : Member, x ∈ c.t.members → x.slot = c.m.slot → x.id ≠ c.m.id → x.wait = .join ∧ x.trap.inh = false) ∧
      (if c.m.again then 0 else c.millWeight) + c.siblings.length * ((c.s.reach (reachOf c.t.seat.core)).weights.toNat % 256) ≤
        (c.s.reach (reachOf c.t.seat.core)).level)
    (fun c => (({ c with s := c.s.settleQueues c.tk c.m.id } : Ctx).drawJoins c.siblings.length).updTeam c.tk (fun t => { t with
      members := t.members.filter (fun x => x.slot != c.m.settled.slot) ++
        joined c.m.settled.id ((c.m.settled :: c.siblings).map Member.settled) }))
    (fun _ => Out.none) ∧
  CompletesIn rowReformJoin .reformJoin (fun c => c.m.settled.tags = 0 ∧ c.m.trap.inh = true)
    (fun c => (c.s.settleQueues c.tk c.m.id).updMember c.tk c.m.id (fun _ => { c.m.settled with wait := .none })) (fun _ => Out.none) ∧
  (∀ w s c, Issues rowReformJoin w s c → c.m.settled.tags ≠ 0 →
    exec (.reformJoin w) s = .next (c.s.settleQueues c.tk c.m.id)) ∧
  (∀ w s c, Issues rowReformJoin w s c → c.m.settled.tags = 0 → c.m.trap.inh = false →
    (∀ x : Member, x ∈ c.t.members → x.slot = c.m.slot → x.id ≠ c.m.id → x.wait = .join ∧ x.trap.inh = false) →
    (c.s.reach (reachOf c.t.seat.core)).level < (if c.m.again then 0 else c.millWeight) +
      c.siblings.length * ((c.s.reach (reachOf c.t.seat.core)).weights.toNat % 256) →
    exec (.reformJoin w) s = .next (c.s.settleQueues c.tk c.m.id)) ∧
  ∀ w s c, Issues rowReformJoin w s c → c.m.settled.tags = 0 → c.m.trap.inh = false →
    (∃ x ∈ c.t.members, x.slot = c.m.slot ∧ x.id ≠ c.m.id ∧ (x.wait ≠ .join ∨ x.trap.inh = true)) →
    exec (.reformJoin w) s =
      .next ((c.s.settleQueues c.tk c.m.id).updMember c.tk c.m.id (fun _ => { c.m.settled with wait := .join, latch := none }))

/-! ### Local store -/

/-- R141, R142, R148: LDL reads each lane's bytes of a buffer that is not EMPTY or of a sync object, and of a stash window
after the fill of its entries performs; STL writes each lane's bytes, ascending lanes, into a FILLING buffer, a sync object, or
a stash window whose bytes become dirty. Each completes; no byte of memory but what a fill counts is touched.
R145, R152: LDS.SYNC takes full words and leaves them empty, STS.SYNC writes empty words and leaves them full, lane by lane in
ascending order. Where every lane's word stands ready at its turn, the word completes. Which lanes read a store at once is R153's,
through a free value (log entry 52). -/
def Obligations.LocalStoreAndSyncWords : Prop :=
  (
    let ty (c : Ctx) : Nat := mBits c.w 4 0
    let n (c : Ctx) : Nat := tySize (ty c)
    let load (c : Ctx) (o : Obj) (ls : List Nat) : Out :=
      Out.late (ls.flatMap (fun l => dstX c (ty c = 11) l (loaded (ty c) (Mem.readN o.data (c.lsOff l) (n c)))))
    let seen (c : Ctx) (o : Obj) : Out :=
      Out.late (c.dLanes.flatMap (fun l => dstX c (ty c = 11) l (loaded (ty c) (c.objBytes o (c.lsOff l) (n c) l))))
    let fills (c : Ctx) (o : Obj) : MemAsk :=
      { r := o.recd, kind := 8, need := .read, requester := true, lanes := c.dLanes.map (fun l =>
          { lane := l, vas := (o.fillBytes (c.lsOff l / 128)).map (fun x => recVa o.recd (o.offset + x)) }), back := true }
    (∀ o, CompletesIn (rowAt 0x160) .ldl
      (fun c => c.t.obj (fA c.w) = some o ∧ (o.kind = .sync ∨ o.kind = .buffer ∧ o.st ≠ .empty) ∧
        lsChecks o (n c) (c.dLanes.map c.lsOff) = none)
      (fun c => c.sawObj (n c) c.dLanes) (fun c => seen c o)) ∧
    -- what a lane reads is what the object holds where every lane reads the writes to its words (R153)
    (∀ c : Ctx, ∀ o off k l, (∀ w, c.unread c.s l (some (c.tk, fA c.w)) w = []) → c.objBytes o off k l = Mem.readN o.data off k) ∧
    (∀ o s1 tr w s c, Checks (rowAt 0x160) w s c → c.t.obj (fA c.w) = some o → o.kind = .stash →
      lsChecks o (n c) (c.dLanes.map c.lsOff) = none → stashChecks o false (n c) (c.dLanes.map c.lsOff) = none →
      Performs c (fills c o) s1 tr →
      let o' := (fills c o).lanes.foldl (fun x l =>
        x.filled (c.lsOff l.lane / 128) (o.fillBytes (c.lsOff l.lane / 128))
          (c.t.underFlush (fA c.w) (o.fillBytes (c.lsOff l.lane / 128)) (readLane c s1 tr l))) o
      exec (.ldl w) s = .next (c.ends ((c.sawLanes s1 tr (fills c o).lanes).updObj c.tk (fA c.w) (fun _ => o')) (load c o' c.dLanes))) ∧
    (∀ o, CompletesIn (rowAt 0x161) .stl
      (fun c => c.t.obj (fA c.w) = some o ∧ (o.kind = .buffer → o.st = .filling) ∧
        lsChecks o (n c) (c.act.map c.lsOff) = none ∧
        (o.kind = .stash → stashChecks o true (n c) (c.act.map c.lsOff) = none))
      (fun c =>
        let bs (l : Nat) : List Byte := toBytes (n c) (c.c' (ty c = 11) l)
        let s := c.s.updObj c.tk (fA c.w) (fun o' => c.act.foldl (fun x l =>
          if o.kind = .stash then x.stashStore (c.lsOff l) (bs l) else { x with data := Mem.write x.data (c.lsOff l) (bs l) }) o')
        if o.kind = .stash then s else s.addLate (c.lateObj o (n c) bs))
      (fun _ => { Out.none with var := true }))) ∧
  (
    let served (load : Bool) (c : Ctx) (o : Obj) : Obj × List (Nat × Nat) :=
      serveLanes load (fun o i => c.objTurn (fun q => o.isFull i == (q.op == 0x162)) i) c.lsOff (fun l => c.v l (fC c.w)) o c.act
    let after (load : Bool) (c : Ctx) (o : Obj) : State :=
      (c.s.updObj c.tk (fA c.w) (fun _ => (served load c o).1)).overLate (some (c.tk, fA c.w)) ((served load c o).2.map (fun e => c.lsOff e.1))
    (∀ o, CompletesIn (rowAt 0x162) .ldsSync
      (fun c => c.t.obj (fA c.w) = some o ∧ o.kind = .sync ∧ lsChecks o 4 (c.act.map c.lsOff) = none ∧
        (served true c o).2.length = c.act.length)
      (fun c => after true c o)
      (fun c => Out.late ((served true c o).2.map (fun e => (Place.v e.1 (fD c.w), e.2))))) ∧
    (∀ o, CompletesIn (rowAt 0x163) .stsSync
      (fun c => c.t.obj (fA c.w) = some o ∧ o.kind = .sync ∧ lsChecks o 4 (c.act.map c.lsOff) = none ∧
        (served false c o).2.length = c.act.length)
      (fun c => c.performAt 1 (fun x => x.space.isSome) (after false c o)) (fun _ => { Out.none with var := true })) ∧
    -- a group is served at a word unless another that can be served there has waited longer, ties to the lower slot (R145)
    (∀ c : Ctx, ∀ can i, c.objTurn can i = true ↔ ∀ m ∈ c.t.members, m.id ≠ c.m.id → ∀ q, m.queued = some q → q.obj = fA c.w → q.word = i →
      can q = true → (c.waitOn i).since ≤ q.since ∧ (q.since = (c.waitOn i).since → c.m.slot ≤ m.slot)) ∧
    -- one lane: a full word is taken and left empty, an empty word is written and left full
    (∀ o l off, o.isFull (off / 4) = true → serveLanes true (fun _ _ => true) (fun _ => off) (fun _ => 0) o [l] =
      (o.setFull (off / 4) false, [(l, leVal (Mem.readN o.data off 4))])) ∧
    (∀ o l off x, o.isFull (off / 4) = false → (serveLanes false (fun _ _ => true) (fun _ => off) (fun _ => x) o [l]).1 =
      { (o.setFull (off / 4) true) with data := Mem.write o.data off (toBytes 4 x) }))

/-- R141, R144, R146, R151, R154: BUF.FILL, BUF.DONE, BUF.DRAIN and BUF.FREE move a buffer by the table of R144, BUF.STAT
reads an object's state, STASH.FLUSH and STASH.INV complete on a window without dirty bytes, INV emptying it, and ARM arms or
disarms a slot. Each completes.
R150, R151: STASH.FLUSH and STASH.INV take the dirty bytes of a window at issue and write each back to the address that its record
gives, one access for each dirty entry; the window's entries stand clean, or INVALID after STASH.INV, from the issue on. Each
completes where every access performs. -/
def Obligations.BufferStashAndArrivalWords : Prop :=
  (
    let moves (op : Nat) (i : CWord → Instr) (src : List BufState) (dst : BufState) : Prop :=
      ∀ o, CompletesIn (rowAt op) i (fun c => c.t.obj (fA c.w) = some o ∧ o.kind = .buffer ∧ o.st ∈ src ∧
          c.objTurn (movesNow o) 0 = true ∧ (op = 0x165 → o.pendw = 0) ∧ (op = 0x167 → (o.st = .filling → o.pendw = 0) ∧ (o.st = .full ∨ o.st = .draining → o.pendr = 0)))
        (fun c =>
          let s := c.s.updObj c.tk (fA c.w) (fun o => { o with st := dst })
          if op = 0x165 then { s with late := s.late.filter (fun x => x.space != some (c.tk, fA c.w)) } else s)
        (fun _ => Out.none)
    let kept (c : Ctx) (o : Obj) (s : State) : State :=
      s.updTeam c.tk (fun t => { t with objs := t.objs.set (fA c.w) o, flushes := t.flushes.filter (fun f => f.cells != []) })
    moves 0x164 .bufFill [.empty] .filling ∧ moves 0x165 .bufDone [.filling] .full ∧
    moves 0x166 .bufDrain [.full, .draining] .draining ∧ moves 0x167 .bufFree [.empty, .filling, .full, .draining] .empty ∧
    (∀ o, CompletesIn (rowAt 0x168) .bufStat (fun c => c.t.obj (fA c.w) = some o) (fun c => c.s) (fun c => oneS c
      (match o.kind with
       | .buffer => (match o.st with | .empty => 0 | .filling => 1 | .full => 2 | .draining => 3) + min o.pendw 255 * 2 ^ 8 + min o.pendr 255 * 2 ^ 16
       | .stash => min o.dirtyEntries.length 255 * 2 ^ 8 + 2 ^ 24
       | .sync => 2 ^ 25))) ∧
    (∀ o, CompletesIn (rowAt 0x169) .stashFlush (fun c => c.t.obj (fA c.w) = some o ∧ o.kind = .stash ∧ o.dirtyEntries = [] ∧ c.m.again = false)
      (fun c => kept c o c.s) (fun _ => Out.none)) ∧
    (∀ o, CompletesIn (rowAt 0x16A) .stashInv (fun c => c.t.obj (fA c.w) = some o ∧ o.kind = .stash ∧ (∀ e ∈ o.entries, e.2.dirty = 0) ∧
        c.m.again = false)
      (fun c => kept c { o with entries := [] } c.s) (fun _ => Out.none)) ∧
    -- a word that re-executes with nothing left of its snapshot is done
    (∀ o, CompletesIn (rowAt 0x169) .stashFlush (fun c => c.t.obj (fA c.w) = some o ∧ o.kind = .stash ∧ c.m.again = true ∧ c.flush = [])
      (fun c => c.s) (fun _ => Out.none)) ∧
    (∀ o, CompletesIn (rowAt 0x16A) .stashInv (fun c => c.t.obj (fA c.w) = some o ∧ o.kind = .stash ∧ c.m.again = true ∧ c.flush = [])
      (fun c => c.s) (fun _ => Out.none)) ∧
    CompletesIn (rowAt 0x16B) .armW (fun _ => True)
      (fun c => c.s.updTeam c.tk (fun t =>
        let a := get ArrSlot.zero t.arrivals (fA c.w)
        let h := c.sc (fB c.w)
        let b := if h = 0xFFFFFFFF then { a with armed := none, starts := [] } else { a with armed := some (BitVec.ofNat 32 h, c.m.role) }
        { t with arrivals := setD ArrSlot.zero t.arrivals (fA c.w) b }))
      (fun _ => Out.none)) ∧
  (
    let does (op : Nat) (i : CWord → Instr) (emptied : Obj → Obj) : Prop :=
      ∀ o t1 s1 tr w s c, Checks (rowAt op) w s c → c.t.obj (fA c.w) = some o → o.kind = .stash → o.dirtyEntries ≠ [] → c.m.again = false →
        let cells := o.dirtyCells
        let ents := (cells.map (·.1 / 128)).dedup
        let on (i : Nat) : List Host.Cell := cells.filter (fun e => e.1 / 128 = i)
        let va (x : Nat) : Nat := recVa o.recd (o.offset + x)
        let snap := c.s.updTeam c.tk (fun t => { t with
          objs := t.objs.set (fA c.w) (emptied o)
          -- older snapshots of the window give up the bytes that the new one holds
          flushes := (t.flushes.map (fun x => if x.obj = fA c.w then { x with cells := x.cells.filter (fun e => !cells.any (fun y => y.1 = e.1)) }
              else x)).filter (·.cells != []) ++
            [{ mem := c.m.id, handler := c.m.trap.inh, obj := fA c.w, cells := cells }] })
        let c1 := { c with s := snap, t := t1 }
        look snap.teams c.tk = some t1 →
        Performs c1 { r := o.recd, kind := 9, need := .write, requester := false,
                      lanes := ents.map (fun i => { lane := c.act.headD 0, vas := (on i).map (fun e => va e.1) }), back := true } s1 tr →
        exec (i w) s = .next (c.ends
          ((c1.storeCells s1 (recV o.recd) 2 [(c.act.headD 0, (ents.flatMap on).map (fun e => (bytePa tr (va e.1), e.2)))]).updTeam c.tk
            (fun t => { t with flushes := (t.flushes.map (fun f => if f.obj = fA c.w ∧ f.mem = c.m.id ∧ f.handler = c.m.trap.inh then
                { f with cells := f.cells.filter (fun e => !ents.contains (e.1 / 128)) } else f)).filter (·.cells != []) })) Out.none)
    does 0x169 .stashFlush (fun o => o.dirtyEntries.foldl (fun o i => o.cleaned i) o) ∧
    does 0x16A .stashInv (fun o => { o with entries := [] }) ∧
    -- each entry's bytes are among the cells once, with the values that the window held
    (∀ o : Obj, ∀ e ∈ o.dirtyCells, e.2 = Mem.read o.data e.1 ∧ e.1 / 128 ∈ o.dirtyEntries ∧ (o.entry (e.1 / 128)).dirty.getLsbD (e.1 % 128) = true))

/-! ### Memory through records -/

/-- R166, R169, R170: LDR and LDG, where every lane passes the checks of R165 and every line translates, complete and write
each lane the bytes that its virtual address holds: of LDR under its type, of LDG the element by whole registers. Of a word that
another lane has written and whose write is not performed for the lane yet (R195, R198, R200), it reads one state, which a free
value picks (log entry 52); else it reads the bytes of its version and of memory.
R166, R170, R171, R204: STR, STG and STU, where every lane passes the checks of R165 and every line translates, complete;
each lane's bytes go to the physical addresses that the translations of its record addresses give, into memory directly or,
under MODE V, into the team's version, a higher lane's bytes last. A byte that another lane has written, in a write that nothing orders
before the store, may keep that lane's value (R99, R198), by a free value (log entry 52); every other stored byte takes the store's, and
a byte that is not stored keeps its own. A load of LDR or LDG may be performed as late as its result is written (R99), by a free value
(log entry 52).
R163, R165: an access that is misaligned takes cause 0x04, one that is aligned and out of bounds 0x05, and one that is
aligned, in bounds and not permitted 0x06, before anything is read or written: LDR and STR. -/
def Obligations.RecordLoadsStoresAndTheirTraps : Prop :=
  (
    (∀ s1 tr w s c, Checks (rowAt 0x170) w s c →
      let ty := mBits c.w 4 0
      let ask := c.ask 0 .read true (tySize ty) c.off c.dLanes
      recChecks c.recA .read (tySize ty) c.oddFlat (c.dLanes.map c.off) = none → Performs c ask s1 tr →
      exec (.ldr w) s = .next (c.ends (c.sawLanes s1 tr ask.lanes) { Out.late (ask.lanes.flatMap (fun l =>
        dstX c (ty = 11) l.lane (widen ty (leVal (readLane c s1 tr l))))) with
        loads := ask.lanes.flatMap (fun l => c.laneLoads tr (if ty = 11 then 2 else ty) l ((dstX c (ty = 11) l.lane 0).map (·.1))) })) ∧
    (∀ s1 tr w s c, Checks (rowAt 0x172) w s c →
      let ask := c.ask 3 .read true (2 ^ recEsz c.recA) c.elemOff c.act
      recFlat c.recA = false →
      recChecks c.recA .read (2 ^ recEsz c.recA) (elemOdd c.recA (fD c.w)) (c.act.map c.elemOff) = none → Performs c ask s1 tr →
      exec (.ldg w) s = .next (c.ends (c.sawLanes s1 tr ask.lanes) { Out.late (ask.lanes.flatMap (fun l =>
        (List.range (eszRegs c.recA)).map (fun i => (Place.v l.lane (fD c.w + i), wordOf (readLane c s1 tr l) i)))) with
        loads := ask.lanes.flatMap (fun l =>
          c.laneLoads tr 2 l ((List.range (eszRegs c.recA)).map (fun i => Place.v l.lane (fD c.w + i)))) })) ∧
    -- a lane reads its version's byte, else memory's (R204), where it reads every write to the byte's word; and what it reads is
    -- always one state of the word (R200): the present one, or one that some later write has overwritten
    (∀ (c : Ctx) (s : State) (a l : Nat) (cur : Byte), (c.unread s l none (a / 4 * 4) = [] → c.seesByte s l none a cur = cur) ∧
      (c.seesByte s l none a cur = cur ∨ ∃ x ∈ c.unread s l none (a / 4 * 4), x.old[a % 4]? = some (c.seesByte s l none a cur))) ∧
    ∀ (c : Ctx) (s : State) (tr : List (Nat × Trans)) (l : LaneReq), (∀ a ∈ l.vas, c.unread s l.lane none (bytePa tr a / 4 * 4) = []) →
      readLane c s tr l = l.vas.map (fun a => match look c.t.ver.cells (bytePa tr a) with
        | some b => b
        | none => Mem.read s.mem (bytePa tr a))) ∧
  (
    (∀ s1 tr w s c, Checks (rowAt 0x171) w s c →
      let ty := mBits c.w 4 0
      let ask := c.ask 1 .write false (tySize ty) c.off c.act
      recChecks c.recA .write (tySize ty) c.oddFlat (c.act.map c.off) = none → Performs c ask s1 tr →
      exec (.str w) s = .next (c.ends
        (c.stored s1 tr ask.lanes (fun l => toBytes (tySize ty) (c.c' (ty = 11) l))) Out.stored)) ∧
    (∀ s1 tr w s c, Checks (rowAt 0x173) w s c →
      let n := 2 ^ recEsz c.recA
      let ask := c.ask 4 .write false n c.elemOff c.act
      recFlat c.recA = false →
      recChecks c.recA .write n (elemOdd c.recA (fC c.w)) (c.act.map c.elemOff) = none → Performs c ask s1 tr →
      exec (.stg w) s = .next (c.ends
        (c.stored s1 tr ask.lanes (fun l =>
          ((List.range (eszRegs c.recA)).flatMap (fun i => toBytes 4 (c.v l (fC c.w + i)))).take n)) Out.stored)) ∧
    (∀ s1 tr w s c, Checks (rowAt 0x174) w s c →
      let wide := mBits c.w 4 0 = 11
      let n := if wide then 8 else 4
      let ls := c.act.filter (fun l => c.stuBytes n l ≠ [])
      let ask : MemAsk := { r := c.recA, kind := 5, need := .write, requester := false,
                            lanes := ls.map (fun l => { lane := l, vas := (c.stuBytes n l).map (fun j => recVa c.recA (c.off l + j)) }) }
      c.oddFlat = false →
      (∀ l ∈ ls, ∀ j ∈ c.stuBytes n l, outOfBounds c.recA (if recFlat c.recA then c.off l else c.off l + j) 1 = false) →
      (ls ≠ [] → permits c.recA .write = true) → Performs c ask s1 tr →
      exec (.stu w) s = .next (c.ends
        (c.stored s1 tr ask.lanes (fun l => (c.stuBytes n l).map (fun j =>
          BitVec.ofNat 8 ((c.v l (fC c.w) + (if wide then 2 ^ 32 * c.v l (fC c.w + 1) else 0)) / 2 ^ (8 * j))))) Out.stored)) ∧
    -- what the team reads of a byte after a store: one of the lanes' bytes of it, or what it read before, and before alone where no lane
    -- stores it; the last of the lanes' bytes where every write of its word that another lane may miss is read by the storing lanes
    ∀ (c : Ctx) (s : State) (v : Bool) (cs : List (Nat × List Host.Cell)) (a : Nat), look s.teams c.tk = some c.t →
      ∃ t', look (c.storeCells s v 0 cs).teams c.tk = some t' ∧
        (readByte (c.storeCells s v 0 cs) t' a = readByte s c.t a ∨ ∃ e ∈ cs, (a, readByte (c.storeCells s v 0 cs) t' a) ∈ e.2) ∧
        ((∀ e ∈ cs, ∀ x ∈ e.2, x.1 ≠ a) → readByte (c.storeCells s v 0 cs) t' a = readByte s c.t a) ∧
        (∀ x, (∀ y ∈ s.late, y.space = none → y.word = a / 4 * 4 → y.ver = v → ∀ e ∈ cs, c.reads s e.1 y = true) →
          ((cs.flatMap (·.2)).reverse.find? (fun e => e.1 = a)) = some (a, x) → readByte (c.storeCells s v 0 cs) t' a = x) ∧
        (v = true → (c.storeCells s v 0 cs).mem = s.mem)) ∧
  (
    let n (c : Ctx) : Nat := tySize (mBits c.w 4 0)
    let odd (c : Ctx) (ls : List Nat) : Prop := c.oddFlat = true ∨ ∃ l ∈ ls, c.off l % n c ≠ 0
    let out (c : Ctx) (ls : List Nat) : Prop := ∃ l ∈ ls, outOfBounds c.recA (c.off l) (n c) = true
    Traps (rowAt 0x170) .ldr (fun c => odd c c.dLanes) (fun _ => 0x04) ∧
    Traps (rowAt 0x170) .ldr (fun c => ¬ odd c c.dLanes ∧ out c c.dLanes) (fun _ => 0x05) ∧
    Traps (rowAt 0x170) .ldr (fun c => ¬ odd c c.dLanes ∧ ¬ out c c.dLanes ∧ recR c.recA = false) (fun _ => 0x06) ∧
    Traps (rowAt 0x171) .str (fun c => odd c c.act) (fun _ => 0x04) ∧
    Traps (rowAt 0x171) .str (fun c => ¬ odd c c.act ∧ out c c.act) (fun _ => 0x05) ∧
    Traps (rowAt 0x171) .str (fun c => ¬ odd c c.act ∧ ¬ out c c.act ∧ (recW c.recA = false ∨ recI c.recA = true)) (fun _ => 0x06))

/-- R172 to R175: PREF has no effect; SAMPLE filters its texels and writes four channels; RECLD loads a record, the null record
in place of an invalid one; RECSET changes one field of a record, by the table of R175, and writes it where it stays valid; RECQRY reads
one field. Each completes. A RECSET of the flat record takes cause 0x02, a slice beyond the extent 0x05, and a result that is not valid
0x06. That the 0x02 is a check of the word's entry, after checks 1 to 3 of R65, is the model's choice (log entry 91). -/
def Obligations.TextureAndRecordWords : Prop :=
  Completes (rowAt 0x175) .pref (fun _ => Out.none) ∧
  (∀ s1 tr w s c, Checks (rowAt 0x176) w s c →
    let r := c.recA
    let f := recSfmt r
    let t := texelSize f
    let off (k : Nat × Nat × Nat) : Nat := k.2.1 * recStride r + k.1 * t
    let ask : MemAsk := { r := r, kind := 6, need := .read, requester := true,
                          lanes := c.act.map (fun l => { lane := l, vas := (c.taps l).flatMap (fun k => recVas r (off k) t) }) }
    recFlat r = false → f ≠ 0 → recStride r % t = 0 → texWidth r ≠ 0 → texHeight r ≠ 0 → texWidth r * t ≤ recStride r →
    recR r = true → Performs c ask s1 tr →
    exec (.sample w) s = .next (c.ends (c.sawLanes s1 tr ask.lanes) (Out.late (ask.lanes.flatMap (fun l =>
      let bs := readLane c s1 tr l
      (List.range 4).map (fun ch => (Place.v l.lane (fD c.w + ch), encodeQuiet f32
        (exactSum ((c.taps l.lane).zipIdx.map (fun k =>
          (texelChannel f ((bs.drop (t * k.2)).take t) ch).mul (.num false k.1.2.2 65536)))) 0 false))))))) ∧
  (∀ s1 tr w s c, Checks (rowAt 0x177) w s c →
    let o := c.sc (fB c.w)
    let ask := c.ask 7 .read true 32 (fun _ => o) (c.act.take 1)
    recFlat c.recA = false → recChecks c.recA .read 32 false [o] = none → Performs c ask s1 tr →
    exec (.recld w) s = .next (c.ends (c.sawLanes s1 tr ask.lanes) (Out.late (ask.lanes.map (fun l =>
      let x : Rec := BitVec.ofNat 256 (leVal (readLane c s1 tr l))
      (Place.d (fD c.w), if recPlain x then x.toNat else 0)))))) ∧
  (∀ r, CompletesIn (rowAt 0x178) .recset
    (fun c => recFlat c.recA = false ∧ recset (fB c.w) (c.sc (fC c.w)) c.recA = some r ∧ recPlain r = true)
    (fun c => c.s) (fun c => Out.fixed [(.d (fD c.w), r.toNat)])) ∧
  Traps (rowAt 0x178) .recset (fun c => recFlat c.recA = true) (fun _ => 0x02) ∧
  Traps (rowAt 0x178) .recset (fun c => recFlat c.recA = false ∧ recset (fB c.w) (c.sc (fC c.w)) c.recA = none) (fun _ => 0x05) ∧
  (∀ r, Traps (rowAt 0x178) .recset (fun c => recFlat c.recA = false ∧ recset (fB c.w) (c.sc (fC c.w)) c.recA = some r ∧ recPlain r = false)
    (fun _ => 0x06)) ∧
  -- the field that each code changes, bit by bit: EXTENT, STRIDE, WIDTH, the attributes, the slice, and ESZ, SWZ and SFMT
  (∀ (r : Rec) (x : Nat),
    let changes (n : Nat) (f : Nat → Bool) : Prop := ∃ r', recset n x r = some r' ∧ ∀ i, i < 256 → r'.getLsbD i = f i
    let field (hi lo v : Nat) (i : Nat) : Bool := if lo ≤ i ∧ i ≤ hi then v.testBit (i - lo) else r.getLsbD i
    changes 2 (field 111 64 (min (recExtent r) x)) ∧ changes 4 (field 191 160 x) ∧ changes 5 (field 127 112 x) ∧
    changes 6 (fun i => if i = 237 then x.testBit 3 else if 234 ≤ i ∧ i ≤ 236 then r.getLsbD i && x.testBit (i - 234) else r.getLsbD i) ∧
    (if x ≤ recExtent r then
      changes 7 (fun i => if i ≤ 56 then (recBase r + x).testBit i else field 111 64 (recExtent r - x) i) else recset 7 x r = none) ∧
    changes 8 (fun i => if 243 < i then field 255 244 (x / 2 ^ 4) i else field 243 241 x i)) ∧
  Completes (rowAt 0x179) .recqry (fun c => oneS c (match fB c.w with
    | 0 => rbits c.recA 31 0
    | 1 => rbits c.recA 56 32
    | 2 => rbits c.recA 95 64
    | 3 => rbits c.recA 111 96
    | 4 => recStride c.recA
    | 5 => recWidth c.recA
    | 6 => rbits c.recA 240 234
    | _ => recSfmt c.recA * 2 ^ 8 + recSwz c.recA * 2 ^ 4 + recEsz c.recA))

/-! ### Atomic words, fences, barriers and commits -/

/-- R196, R201, R214 to R217: ATOM, ATOM.CAS, RED, LDA and STRL, where every lane passes the checks of R165 through a direct
record, the roles of their order pass and every line translates, complete: lane by lane, ascending, the old value is read,
the new one, by the table of R216, written, and the old one returned but by RED and STRL; LDA reads as a load does. A RED or STRL .rel
whose release must wait for a commit or a screen write completes with its accesses put off (R205, R217). That an atomic of every scope
reads what memory holds last and stores its word at once, over the team's version of it too, is the model's reading of R195, R201 and R204
(log entries 52 and 76): R201 gives no atomicity towards accesses out of scope. -/
def Obligations.AtomicWordsActLaneByLane : Prop :=
  let does (op : Nat) (i : CWord → Instr) (need : Need) (kind : Nat) (returns : Bool)
      (act : Ctx → State → List (Nat × Trans) → List LaneReq → State × Out) : Prop :=
    ∀ s1 tr w s c, Checks (rowAt op) w s c →
      let n := if atom64 c.w then 8 else 4
      let ls := if returns then c.dLanes else c.act
      let c' := c.passed (scopeOf c.w) (ordRel c.w)
      let ask := c'.ask kind need false n c.off ls
      recChecks c.recA need n c.oddFlat (ls.map c.off) = none → recV c.recA = false →
      Passes c (scopeOf c.w) (ordRel c.w) → Performs c' ask s1 tr →
      let y := act c' s1 tr ask.lanes
      exec (i w) s = .next (c.ends (c.regionEnds (scopeOf c.w) (ordRel c.w) (ordAcq c.w) y.1) y.2)
  let changes (f : Ctx → Nat → Nat → Option Nat) (returns : Bool) (c : Ctx) (s : State) (tr : List (Nat × Trans)) (ls : List LaneReq) :
      State × Out :=
    let y := rmw c (scopeOf c.w) (if atom64 c.w then 8 else 4) tr (f c) s ls
    (y.1, if returns then { Out.late (y.2.flatMap (fun e => dstX c (atom64 c.w) e.1 e.2)) with acq := ordAcq c.w } else Out.stored)
  does 0x1A0 .atom .atomic 2 true (changes (fun c l old => some (combineA (mBits c.w 11 8) (mBits c.w 2 0) old (c.atomC l))) true) ∧
  does 0x1A1 .atomCas .atomic 2 true (changes (fun c l old => if old = c.atomC l then some (c.casNew l) else none) true) ∧
  does 0x1A2 .redA .atomic 2 false (changes (fun c l old => some (combineA (mBits c.w 11 8) (mBits c.w 2 0) old (c.atomC l))) false) ∧
  does 0x1A3 .lda .read 0 true (fun c s tr ls => (c.sawLanes s tr ls,
    { Out.late (ls.flatMap (fun l => dstX c (atom64 c.w) l.lane (leVal (readLane c s tr l)))) with acq := ordAcq c.w })) ∧
  does 0x1A4 .strl .write 1 false (changes (fun c l _ => some (c.atomC l)) false) ∧
  (
    let later (op : Nat) (i : CWord → Instr) (need : Need) (kind : Nat) (aop : CWord → Option (Nat × Nat)) : Prop :=
      ∀ s1 tr w s c, Checks (rowAt op) w s c →
        let n := if atom64 c.w then 8 else 4
        let sc := scopeOf c.w
        -- a commit that does not fit the horizon share is waited for from now on (R212)
        let c' : Ctx := if c.screensOut then c else { c with s := c.s.updTeam c.tk (fun t => { t with ver := { t.ver with waiting := true } }) }
        let ask := c'.ask kind need false n c.off c.act
        recChecks c.recA need n c.oddFlat (c.act.map c.off) = none → recV c.recA = false → ordRel c.w = true → ordAcq c.w = false →
        c.m.wait = .none → (c.screensOut = true ∧ sc < 2 ∨ c.screensOut = true ∧ c.t.clean = true ∨
          c.screensOut = false ∧ 2 ≤ sc ∧ c.t.clean = true ∧ commitFits c.s c.tk c.t = false) →
        Performs c ask s1 tr → Performs c' ask s1 tr →
        exec (i w) s = .next (c.ends (s1.updTeam c.tk (fun t => { t with rels := t.rels ++ [
          { mem := c.m.id, tag := c.m.wordTag c.w, slot := c.m.slot, scope := sc, lanes := c.m.present.map c.tid, committed := false,
            accesses := ask.lanes.map (fun l => { lane := c.tid l.lane, pas := l.vas.map (bytePa tr), op := aop c.w, x := c.atomC l.lane }) }] }))
          { Out.stored with keepTag := true })
    later 0x1A2 .redA .atomic 2 (fun w => some (mBits w 11 8, mBits w 2 0)) ∧ later 0x1A4 .strl .write 1 (fun _ => none)) ∧
  -- the values of `combine` (R216), and operand C with the new value of ATOM.CAS after it (R214)
  (∀ aty old x : Nat,
    let n := if 4 ≤ aty then 64 else 32
    let val (b : Nat) : Int := if aty = 1 ∨ aty = 5 then (BitVec.ofNat n b).toInt else b
    old < 2 ^ n → x < 2 ^ n →
    (aty ≠ 3 → combineA 0 aty old x = (old + x) % 2 ^ n ∧ combineA 1 aty old x = (if val old ≤ val x then old else x) ∧
      combineA 2 aty old x = (if val old ≤ val x then x else old)) ∧
    (∀ i, (combineA 3 aty old x).testBit i = (old.testBit i && x.testBit i) ∧ (combineA 4 aty old x).testBit i = (old.testBit i || x.testBit i) ∧
      (combineA 5 aty old x).testBit i = (old.testBit i ^^ x.testBit i)) ∧
    combineA 6 aty old x = x) ∧
  (∀ old x : Nat, old < 2 ^ 32 → x < 2 ^ 32 →
    let a := decode f32 old
    let b := decode f32 x
    combineA 0 3 old x = (match Ex.add? 0 a b with
      | none => 0x7FC00000
      | some e => (encode f32 e 0 false false 0).1) ∧
    (a = .nan → b = .nan → combineA 1 3 old x = 0x7FC00000 ∧ combineA 2 3 old x = 0x7FC00000) ∧
    (a = .nan → b ≠ .nan → combineA 1 3 old x = x ∧ combineA 2 3 old x = x) ∧
    (a ≠ .nan → b = .nan → combineA 1 3 old x = old ∧ combineA 2 3 old x = old) ∧
    (a ≠ .nan → b ≠ .nan → Ex.cmp a b < 0 ∨ old = 2 ^ 31 ∧ x = 0 → combineA 1 3 old x = old ∧ combineA 2 3 old x = x) ∧
    (a ≠ .nan → b ≠ .nan → 0 < Ex.cmp a b ∨ old = 0 ∧ x = 2 ^ 31 → combineA 1 3 old x = x ∧ combineA 2 3 old x = old)) ∧
  (∀ (c : Ctx) (l : Nat),
    let r (i : Nat) : Nat := c.x (selC c.w) l (fC c.w + i)
    if atom64 c.w then c.atomC l = r 0 + 2 ^ 32 * r 1 ∧ c.casNew l = r 2 + 2 ^ 32 * r 3 else c.atomC l = r 0 ∧ c.casNew l = r 1) ∧
  -- one lane: it returns the last value of its word (R201), and stores the new one at once
  ∀ (c : Ctx) (scope n : Nat) (tr : List (Nat × Trans)) (f : Nat → Nat → Option Nat) (s : State) (l : LaneReq) (x : Nat),
    f l.lane (leVal (l.vas.map (fun a => Mem.read s.mem (bytePa tr a)))) = some x →
    (rmw c scope n tr f s [l]).2 = [(l.lane, leVal (l.vas.map (fun a => Mem.read s.mem (bytePa tr a))))] ∧
    (rmw c scope n tr f s [l]).1.mem = (writeCells s c.tk false (laneCells tr l (toBytes n x))).mem

/-- R196, R203 to R206, R212, R218 to R221: FENCE, COMMIT, BAR.TEAM, BAR.CLU and VQRY. A release of cluster scope or wider and a
COMMIT commit the version at once where its marks fit the horizon share; a COMMIT whose marks do not fit waits; a barrier's
member waits at it, the last of its team at a cluster barrier committing first; the region ends once the word is performed; VQRY
reads the quota, the charge, the horizon share and the commits. Each completes.
R205, R209, R212, R219: a version that waited commits once its marks fit, and its members go on; marks past their horizon go; a
barrier at which every participant waits opens, and a cluster's barrier opens in every team of it. That each team whose version is empty
begins a region with the completion, and not with its own arrival, is the model's reading of R203 and R219 (log entry 11). -/
def Obligations.FencesBarriersCommitsAndHorizons : Prop :=
  (
    let done (op : Nat) (i : CWord → Instr) (scope : Ctx → Nat) (rel acq : Ctx → Bool) (pre : Ctx → Prop) (f : Ctx → State) : Prop :=
      CompletesIn (rowAt op) i (fun c => pre c ∧ Passes c (scope c) (rel c))
        (fun c => c.regionEnds (scope c) (rel c) (acq c) (f (c.passed (scope c) (rel c)))) (fun _ => Out.none)
    let wait (clu : Bool) (c : Ctx) (s : State) : State :=
      s.updMember c.tk c.m.id (fun m => { m with wait := .barrier clu (fA c.w) })
    let back (c : Ctx) : Prop := ∀ p ∈ c.m.pend, p.queue ≠ none
    done 0x1A5 .fence (fun c => scopeOf c.w) (fun c => ordRel c.w || scopeOf c.w = 0) (fun c => ordAcq c.w)
      (fun c => ordAcq c.w = true → back c) (fun c => c.s) ∧
    -- an acquiring fence waits for the loads and atomics before it (R218)
    (∀ w s c, Issues (rowAt 0x1A5) w s c → ordAcq c.w = true → ¬ back c → exec (.fence w) s = .next c.s) ∧
    CompletesIn (rowAt 0x1A6) .barTeam (fun c => c.m.arrival = none ∧ c.screensOut = false)
      (fun c => wait false c (c.released 1).s) (fun _ => Out.none) ∧
    done 0x1A6 .barTeam (fun _ => 1) (fun _ => true) (fun _ => true) (fun c => c.m.arrival ≠ none ∧ back c) (fun c => c.s) ∧
    CompletesIn (rowAt 0x1A7) .barClu
      (fun c => c.m.arrival = none ∧ c.screensOut = false ∧ othersArrived c.t c.m.id true (fA c.w) = false)
      (fun c => wait true c (c.released 2).s) (fun _ => Out.none) ∧
    done 0x1A7 .barClu (fun _ => 2) (fun _ => true) (fun _ => false)
      (fun c => c.m.arrival = none ∧ othersArrived c.t c.m.id true (fA c.w) = true)
      (fun c => wait true c
        ({ c with s := c.s.updTeam c.tk (fun t => { t with arrived := insertNat (fA c.w) t.arrived }) }.released 2).s) ∧
    done 0x1A7 .barClu (fun _ => 2) (fun _ => true) (fun _ => true) (fun c => c.m.arrival ≠ none ∧ back c) (fun c => c.s) ∧
    -- a fence that acquires as well, and one of group scope, waits for the screen writes of its lanes (R299)
    (∀ w s c, Issues (rowAt 0x1A5) w s c → ordRel c.w = true → ordAcq c.w = true ∨ scopeOf c.w = 0 → (ordAcq c.w = true → back c) →
      c.screensOut = true → exec (.fence w) s = .next c.s) ∧
    -- a FENCE.rel of team scope or wider issues, and is performed once these are delivered and the commit fits (R205, R218)
    (let put (c : Ctx) (s : State) : State := s.updTeam c.tk (fun t => { t with rels := t.rels ++ [
        { mem := c.m.id, tag := c.m.wordTag c.w, slot := c.m.slot, scope := scopeOf c.w, lanes := c.m.present.map c.tid, accesses := [],
          committed := false }] })
     CompletesIn (rowAt 0x1A5) .fence (fun c => ordRel c.w = true ∧ ordAcq c.w = false ∧ scopeOf c.w ≠ 0 ∧ c.screensOut = true ∧
        (scopeOf c.w < 2 ∨ c.t.clean = true)) (fun c => put c c.s) (fun _ => { Out.none with keepTag := true }) ∧
     CompletesIn (rowAt 0x1A5) .fence (fun c => ordRel c.w = true ∧ ordAcq c.w = false ∧ 2 ≤ scopeOf c.w ∧ c.screensOut = false ∧
        c.t.clean = true ∧ c.m.wait = .none ∧ commitFits c.s c.tk c.t = false)
      (fun c => put c (c.s.updTeam c.tk (fun t => { t with ver := { t.ver with waiting := true } })))
      (fun _ => { Out.none with keepTag := true })) ∧
    (∀ w s c, Issues (rowAt 0x1A6) w s c → c.m.arrival = none → c.screensOut = true → exec (.barTeam w) s = .next c.s) ∧
    CompletesIn (rowAt 0x1A8) .commitW (fun c => c.m.wait = .none ∧ commitFits c.s c.tk c.t = true)
      (fun c => c.regionEnds 2 true false ((commitVersion c.s c.tk c.t).updMember c.tk c.m.id (fun m => { m with wait := .committed })))
      (fun _ => Out.none) ∧
    CompletesIn (rowAt 0x1A8) .commitW (fun c => c.m.wait = .committed)
      (fun c => c.s.updMember c.tk c.m.id (fun m => { m with wait := .none })) (fun _ => Out.none) ∧
    (∀ w s c, Issues (rowAt 0x1A8) w s c → c.m.wait ≠ .committed → commitFits c.s c.tk c.t = false → exec (.commitW w) s =
      .next ((c.s.updTeam c.tk (fun t => { t with ver := { t.ver with waiting := true } })).updMember c.tk c.m.id
        (fun m => { m with wait := .commit }))) ∧
    Completes (rowAt 0x1A9) .vqry (fun c => oneS c (match fA c.w with
      | 0 => c.t.spec.vq * 65536
      | 1 => chargeOf c.t.ver.reads c.t.ver.writes
      | 2 => 32 * (shareLines c.s c.tk).length
      | _ => c.t.ver.commits))) ∧
  (
    (∀ tk s t, look s.teams tk = some t → t.ver.waiting = true → t.doom = none → commitFits s tk t = true → t.rels = [] →
      ∃ s' t', exec (.versionCommit tk) s = .next s' ∧ look s'.teams tk = some t' ∧ t'.ver.cells = [] ∧ t'.ver.reads = [] ∧
        t'.ver.writes = [] ∧ t'.ver.waiting = false ∧ s'.mem = (commitVersion s tk t).mem ∧ t'.ver.since = s'.commits ∧ t'.arriving = none ∧
        (∀ n, t.arriving = some n → n ∈ t'.arrived) ∧
        s'.commits = (if t.ver.reads = [] ∧ t.ver.writes = [] then s.commits else s.commits + 1) ∧
        t'.members = t.members.map (fun m => if m.wait = .commit then { m with wait := .committed } else m)) ∧
    -- a release whose lanes' screen writes are delivered is performed, once its commit has been: its tag goes, the region ends, and each of
    -- its accesses is made in memory, of a RED on what stands there (R201, R205, R216, R218)
    (∀ tk s t r, look s.teams tk = some t → t.rels = [r] → t.ver.waiting = false → t.doom = none → t.saved = false →
      (∀ x ∈ s.screens, x.sender = tk → x.lane ∉ r.lanes) →
      let s0 := if r.scope < 2 ∨ r.committed = true then s else commitVersion s tk t
      (r.scope < 2 ∨ r.committed = true ∨ commitFits s tk t = true) →
      ∃ s' t', exec (.versionCommit tk) s = .next s' ∧ look s'.teams tk = some t' ∧ t'.rels = [] ∧ s'.commits = s0.commits ∧
        (2 ≤ r.scope → t'.ver.since = s'.commits) ∧
        (∀ m ∈ t'.members, m.id = r.mem → ∀ n, r.tag = some n → m.tags.getLsbD n = false) ∧
        (∀ a, (∀ x ∈ r.accesses, a ∉ x.pas) → Mem.read s'.mem a = Mem.read s0.mem a) ∧
        (∀ x, r.accesses = [x] → x.pas.Nodup → leVal (x.pas.map (Mem.read s'.mem)) = (match x.op with
          | none => x.x
          | some (aop, aty) => combineA aop aty (leVal (x.pas.map (Mem.read s0.mem))) x.x) % 2 ^ (8 * x.pas.length))) ∧
    (∀ tk s t r, look s.teams tk = some t → t.rels = [r] → t.ver.waiting = false → t.doom = none → t.saved = false →
      (∀ x ∈ s.screens, x.sender = tk → x.lane ∉ r.lanes) → 2 ≤ r.scope → r.committed = false → commitFits s tk t = false →
      exec (.versionCommit tk) s = .next (s.updTeam tk (fun t => { t with ver := { t.ver with waiting := true } }))) ∧
    (∀ s, ∃ t, exec .horizon s = .next t ∧ { t with marks := s.marks } = s ∧
      ∀ k, k ∈ t.marks ↔ k ∈ s.marks ∧ ∃ e ∈ s.teams, e.1 ≠ k.team ∧ e.2.ver.waiting = false ∧ e.2.ver.ended = false ∧
        e.2.ver.since < k.num) ∧
    (∀ tk n s t, look s.teams tk = some t → (∃ m ∈ t.members, m.arrival = none ∧ m.lanes ≠ []) →
      (∀ m ∈ t.members, m.arrival = none → m.lanes ≠ [] → m.id = t.fresh ∨ m.wait = .barrier false n) →
      exec (.barrierCompletion false tk n) s = .next (s.updTeam tk (fun t =>
        { t with members := t.members.map (fun m => if m.wait = .barrier false n then { m with wait := .none, ready := s.now } else m) }))) ∧
    (∀ tk n s t, look s.teams tk = some t → (∀ e ∈ clusterOf s tk t, look s.teams e.1 = some e.2 ∧ n ∈ e.2.arrived) →
      ∃ s', exec (.barrierCompletion true tk n) s = .next s' ∧ ∀ e ∈ clusterOf s tk t, ∃ t', look s'.teams e.1 = some t' ∧ n ∉ t'.arrived ∧
        (e.2.ver.reads = [] → e.2.ver.writes = [] → t'.ver.since = s.commits) ∧ ∀ m ∈ t'.members, m.wait ≠ .barrier true n))

/-! ### Springs, tiles, engines, the matrix engine and rays -/

/-- R240 to R243: SFILL zeroes the rest of its block and fills it, and its group ends; SFAIL fails the generator with the detail
of its operands; each takes cause 0x02 in a team that fills no block. SEVICT begins the eviction of a FILLED block, empties a FAILED
one and leaves any other alone, once the misses that went to the block's home before it have arrived (R228); SQRY reads the state of
a block. Each completes. That a word whose way a retraining link or port or a halted vault holds waits at issue, with none of its effect,
is the model's reading of R21, R319 and R445 (log entry 15). -/
def Obligations.SpringWords : Prop :=
  -- no link, port or vault holds the way to the block's home, and no earlier miss is on that way
  let reaches (c : Ctx) (p : Spring) : Prop :=
    let pa := p.entryPa (p.blockOf (recVa c.recA (c.sc (fB c.w))))
    pathHeld c.s (dieOf c.t.seat.core) pa = false ∧ linkHeld c.s pa 32 = false ∧ ∀ y ∈ c.s.misses, afterMiss c.s c.t.seat.core (homeDie c.s pa) y = false
  (∀ p g, CompletesIn (rowAt 0x1C0) .sfill
    (fun c => c.filling = some (p, g) ∧ c.sc (fA c.w) ≤ 2 ^ p.blk ∧
      (∀ m ∈ c.t.members, m.id ≠ c.m.id → m.lanes = []) ∧ c.t.bins = [] ∧ (∀ k ∈ c.s.cmds, k.team ≠ c.tk) ∧ c.t.clean = true ∧
      -- nothing holds the zero fill, or the way to the block's home
      (let at0 := entFrame (c.s.fillEntry p g.block) + c.sc (fA c.w)
       pathHeld c.s (dieOf c.t.seat.core) (p.entryPa g.block) = false ∧ pathHeld c.s (dieOf c.t.seat.core) at0 = false ∧
       linkHeld c.s at0 (2 ^ p.blk - c.sc (fA c.w)) = false ∧ homeHeld c.s p g.block = false))
    (fun c =>
      let n := c.sc (fA c.w)
      let at0 := entFrame (c.s.fillEntry p g.block) + n
      let s := (c.s.poke at0 (List.replicate (2 ^ p.blk - n) 0)).overLate none ((List.range (2 ^ p.blk - n)).map (at0 + ·))
      -- every direct write of the team is performed at device scope before the block is filled (R232)
      let s := fillBlock (s.withLate (s.late.map (fun x => if x.team = c.tk && x.space.isNone && !x.ver then { x with upto := 5 } else x))) p g.block
      s.updTeam c.tk (fun t => ({ t with gen := some { g with filled := true }, ver := { t.ver with dirw := true } }.updMember c.m.id
        (fun m => { m with lanes := [] })).endArrivals))
    (fun _ => Out.none)) ∧
  TrapsAtCheck2 (rowAt 0x1C0) .sfill (fun c => ∀ g, c.t.gen = some g → g.filled = true) ∧
  CompletesIn (rowAt 0x1C1) .sfail (fun c => c.filling ≠ none)
    (fun c =>
      let d : Doom := { reason := 1, cause := 0x0A, pc := c.m.pc, slot := c.m.slot, genCause := 0x0A,
                        detail := BitVec.ofNat 64 (c.sc (fB c.w) * 2 ^ 32 + c.sc (fA c.w)) }
      c.s.updTeam c.tk (fun t => { t with doom := some d }))
    (fun _ => Out.none) ∧
  TrapsAtCheck2 (rowAt 0x1C1) .sfail (fun c => ∀ g, c.t.gen = some g → g.filled = true) ∧
  (∀ p st, CompletesIn (rowAt 0x1C2) .sevict
    (fun c => recFlat c.recA = false ∧ recS c.recA = true ∧ recW c.recA = true ∧ c.sc (fB c.w) < recExtent c.recA ∧
      springAt c.s c.t.ctx (recVa c.recA (c.sc (fB c.w))) = some p ∧ reaches c p ∧
      entState (c.s.fillEntry p (p.blockOf (recVa c.recA (c.sc (fB c.w))))) = st)
    (fun c =>
      let b := p.blockOf (recVa c.recA (c.sc (fB c.w)))
      if st = 2 then beginEviction c.s p b ((taOf c.w).map (fun t => (c.tk, c.m.id, t)))
      else if st = 3 then putEntry c.s p b 0 else c.s)
    (fun _ => if st = 2 then { Out.none with keepTag := true } else Out.none)) ∧
  (∀ p w s c, Issues (rowAt 0x1C2) w s c → recFlat c.recA = false → recS c.recA = true → recW c.recA = true →
    c.sc (fB c.w) < recExtent c.recA → springAt c.s c.t.ctx (recVa c.recA (c.sc (fB c.w))) = some p → ¬ reaches c p →
    exec (.sevict w) s = .next c.s) ∧
  CompletesIn (rowAt 0x1C2) .sevict
    (fun c => recFlat c.recA = false ∧ recS c.recA = true ∧ recW c.recA = true ∧ c.sc (fB c.w) < recExtent c.recA ∧
      springAt c.s c.t.ctx (recVa c.recA (c.sc (fB c.w))) = none)
    (fun c => c.s) (fun _ => Out.none) ∧
  CompletesIn (rowAt 0x1C3) .sqry (fun c => recChecks c.recA .read 1 c.oddFlat (c.dLanes.map c.off) = none) (fun c => c.s)
    (fun c => Out.late (c.dLanes.flatMap (fun l => dstX c false l
      (match springAt c.s c.t.ctx (recVa c.recA (c.off l)) with
       | none => 2 ^ 31
       | some p =>
         let e := c.s.fillEntry p (p.blockOf (recVa c.recA (c.off l)))
         p.num * 2 ^ 8 + entDepth e * 2 ^ 3 + b2n (entEvp e) * 2 ^ 2 + entState e))))

/-- R290 to R298: TGROW grows the holding up to the team's ceiling and tells in every present lane whether it did; TSHRINK gives
bytes back, once no screen write of its lanes is under way; TLD and TST read and write planes of pixels, of which SEQ is none to
write (R295, R296); TST.ord writes a pixel by the order of its key, or sends a screen write
to the tile's owner. Each completes. -/
def Obligations.TileStoreWords : Prop :=
  let screensHome (c : Ctx) : Prop := ∀ x ∈ c.s.screens, x.sender = c.tk → x.mem ≠ c.m.id ∧ ∀ e ∈ c.m.lanes, e.2.tid ≠ x.lane
  -- no screen write of an active lane to the pixel that it accesses is under way
  let inOrder (c : Ctx) : Prop := ∀ x ∈ c.s.screens, x.sender = c.tk → c.t.launch = some x.launch → x.owner = c.t.task.toNat % 2 ^ 48 →
    ∀ l ∈ c.act, ∀ e, c.m.lane l = some e → ¬ (e.tid = x.lane ∧ x.x = c.px l ∧ x.y = c.py l)
  (∀ w s c, Issues (rowAt 0x1C9) w s c → c.sc (fA c.w) % 4096 = 0 → c.sc (fA c.w) ≤ c.t.hold → ¬ screensHome c →
    exec (.tshrink w) s = .next c.s) ∧
  CompletesIn (rowAt 0x1C8) .tgrow (fun c => c.sc (fA c.w) % 4096 = 0)
    (fun c => if c.t.hold + c.sc (fA c.w) ≤ 4096 * c.t.spec.tile then c.s.updTeam c.tk (fun t => { t with hold := t.hold + c.sc (fA c.w) })
      else c.s)
    (fun c => Out.fixed (c.m.present.map (fun l =>
      (Place.p l (fD c.w), if c.t.hold + c.sc (fA c.w) ≤ 4096 * c.t.spec.tile then 1 else 0)))) ∧
  CompletesIn (rowAt 0x1C9) .tshrink
    (fun c => c.sc (fA c.w) % 4096 = 0 ∧ c.sc (fA c.w) ≤ c.t.hold ∧ screensHome c)
    (fun c =>
      let n := c.sc (fA c.w)
      c.s.updTeam c.tk (fun t => { t with
        hold := t.hold - n
        tres := if t.ceiling < t.tres then max t.ceiling (t.hold - n) else t.tres
        tdata := t.tdata.filter (fun e => decide (e.1 < t.hold - n)) }))
    (fun _ => Out.none) ∧
  CompletesIn (rowAt 0x1CA) .tld (fun c => pixelChecks c (c.pl + c.cnt) = none ∧ inOrder c) (fun c => c.s)
    (fun c => Out.late (c.act.flatMap (fun l => (List.range c.cnt).map (fun i =>
      (Place.v l (fD c.w + i), leVal (Mem.readN c.t.tdata (planeAt c.t.tilecfg (c.px l) (c.py l) (c.pl + i)) 4)))))) ∧
  CompletesIn (rowAt 0x1CB) .tst (fun c => pixelChecks c (c.pl + c.cnt) = none ∧ inOrder c)
    (fun c => c.s.updTeam c.tk (fun t => { t with
      tdata := c.act.foldl (fun d l =>
        putPlanes d t.tilecfg (c.px l) (c.py l) c.pl ((c.planes l).take (cfgQ t.tilecfg - c.pl))) t.tdata }))
    (fun _ => Out.stored) ∧
  (let legal (c : Ctx) : Prop := cfgOrd c.t.tilecfg = true ∧ c.pl = 0 ∧ c.cnt = cfgQ c.t.tilecfg
   let seq (c : Ctx) (l : Nat) : Nat := c.v l (fC c.w + c.cnt)
   CompletesIn rowTstOrd .tstOrd
     (fun c => legal c ∧ mBit c.w 7 = false ∧ pixelChecks c (cfgP c.t.tilecfg) = none ∧ inOrder c)
     (fun c => c.s.updTeam c.tk (fun t => { t with
       tdata := c.act.foldl (fun d l => putOrdered d c.t.tilecfg (c.px l) (c.py l) (seq c l) (c.planes l)) t.tdata }))
     (fun _ => Out.stored) ∧
   CompletesIn rowTstOrd .tstOrd
     (fun c => legal c ∧ mBit c.w 7 = true ∧ ∀ l ∈ c.act, c.owner l ≠ none)
     (fun c => { c.s with screens := c.s.screens ++ c.act.map (fun l =>
         ({ sender := c.tk, mem := c.m.id, lane := ((c.m.lane l).map (·.tid)).getD 0, die := dieOf c.t.seat.core, tag := taOf c.w, ctx := c.t.ctx, launch := c.t.launch.getD 0, owner := (c.owner l).getD 0,
            x := c.px l % cfgW c.t.tilecfg, y := c.py l % cfgH c.t.tilecfg,
            key := (c.planes l ++ [seq c l]).map (BitVec.ofNat 32) } : Screen)) })
     (fun _ => { Out.stored with keepTag := true }))

/-- R246, R253 to R263: XCOPY, XSEND, XGATH and COLL, where every check of R253 passes, are accepted: the command enters the
core's journal and its produced token is PENDING. SHAPE.LD and SHAPE.EV load and drop a shape. Each completes. -/
def Obligations.CopyGatherAndCollectiveWordsAreAccepted : Prop :=
  let ctl (c : Ctx) : Nat := c.sc (fA c.w)
  let late (c : Ctx) : List (Option Nat) := c.lateChecks (ctl c)
  let shp (c : Ctx) : Bool := fSub c.w = 1
  let sh (c : Ctx) : Option (List Word) := if shp c then c.shapeOf (ctl c) else none
  let n (c : Ctx) : Nat := c.sc (fA c.w + 3)
  let src (c : Ctx) : End := c.endpoint (fA c.w + 1)
  let dst (c : Ctx) : End := c.endpoint (fB c.w)
  let span (c : Ctx) (k : Nat) : Nat := match sh c with
    | some x => shapeSpan x k
    | none => n c
  let token (c : Ctx) : Option Nat := some (fD c.w)
  let ring (c : Ctx) : Option Rec := c.ringOf (ctl c)
  let same (c : Ctx) : State := c.s
  Accepts (rowAt 0x1D0) .xcopy (fun c => fSub c.w = 2)
    (fun c => [failIf (ctlBad (ctl c) false || c.sc (fA c.w + 1) ≠ 0 || c.sc (fA c.w + 2) ≠ 0 || endBad (c.sc (fB c.w))) 0x01,
      endKind c.t (dst c), endBounds c.t (n c) (dst c), endPermit .write (dst c), endState c.t .filling (dst c)] ++ late c)
    same false token ring (fun c => .zero (dst c) (n c)) ∧
  Accepts (rowAt 0x1D0) .xcopy (fun c => fSub c.w ≠ 2)
    (fun c => [failIf (ctlBad (ctl c) (shp c) || endBad (c.sc (fA c.w + 1)) || endBad (c.sc (fB c.w)) || (shp c && n c ≠ 0)) 0x01,
      endKind c.t (src c), endKind c.t (dst c), failIf (shp c && (sh c).isNone) 0x18, endBounds c.t (span c 3) (src c),
      endBounds c.t (span c 6) (dst c), failIf (decide (2 ^ 32 - 1 < ((sh c).map shapeBytes).getD (n c))) 0x05,
      endPermit .read (src c), endPermit .write (dst c), endState c.t .full (src c), endState c.t .filling (dst c),
      endOverlap (src c) (dst c) (span c 3) (span c 6)] ++ late c)
    same false token ring (fun c => .copy (src c) (dst c) (sh c) (n c)) ∧
  Accepts (rowAt 0x1D1) .xsend (fun _ => True)
    (fun c =>
      let x := c.sc (fB c.w)
      let y := c.sc (fB c.w + 2)
      [failIf (ctlBad (ctl c) (shp c) || endBad (c.sc (fA c.w + 1)) || (shp c && n c ≠ 0) || bits x 15 11 ≠ 0 || bits y 31 30 ≠ 0 ||
         bits y 23 19 ≠ 0) 0x01,
       endKind c.t (src c), failIf (shp c && (sh c).isNone) 0x18, endBounds c.t (span c 3) (src c),
       failIf (decide (2 ^ 32 - 1 < ((sh c).map shapeBytes).getD (n c))) 0x05, endPermit .read (src c), endState c.t .full (src c)] ++ late c)
    same false token ring (fun c =>
      let x := c.sc (fB c.w)
      let y := c.sc (fB c.w + 2)
      .send (src c) (sh c) (n c) (bits x 31 16 * 2 ^ 32 + c.sc (fB c.w + 1)) (bits x 10 0) (bits y 29 24) (bits y 18 0)
        (BitVec.ofNat 32 (c.sc (fB c.w + 3)))) ∧
  Accepts (rowAt 0x1D4) .xgath (fun _ => True)
    (fun c =>
      let d := c.endpoint (fA c.w + 3)
      let r := c.d (bits (c.sc (fA c.w + 1)) 5 0)
      [failIf (ctlBad (ctl c) false || endBad (c.sc (fA c.w + 1)) || endBad (c.sc (fA c.w + 3)) || bit (c.sc (fA c.w + 1)) 31 ||
         !bit (c.sc (fA c.w + 3)) 31) 0x01,
       endKind c.t (src c), endKind c.t d,
       failIf (c.act.any (fun l => outOfBounds r (c.sc (fA c.w + 2) + c.v l (fB c.w) * recStride r) (2 ^ recEsz r))) 0x05,
       firstCause (c.act.map (fun l => match d with
         | .obj k _ => endBounds c.t (2 ^ recEsz r) (.obj k (c.sc (fA c.w + 4) + l * 2 ^ recEsz r))
         | .glob .. => none)),
       endPermit .read (src c), endState c.t .filling d] ++ late c)
    same false token ring (fun c =>
      let r := c.d (bits (c.sc (fA c.w + 1)) 5 0)
      .gath (src c) (c.endpoint (fA c.w + 3)) (2 ^ recEsz r) (c.act.map (fun l => (l, c.v l (fB c.w) * recStride r)))) ∧
  Accepts (rowAt 0x1D5) .coll (fun _ => True)
    (fun c =>
      let x := c.sc (fA c.w + 3)
      let cnt := c.sc (fA c.w + 4)
      let len := cnt * collSize (bits x 2 0)
      let end_ := if fSub c.w = 3 then (bits x 27 16 + 1) * len else len
      [failIf (ctlBad (ctl c) false || endBad (c.sc (fA c.w + 1)) || endBad (c.sc (fB c.w)) || bits x 31 28 ≠ 0 || bit x 7 || bit x 3 ||
         !([2, 3, 4].contains (bits x 6 4)) || decide (3 < bits x 2 0) || cnt = 0 || decide (2 ^ 20 < cnt)) 0x01,
       endKind c.t (src c), endKind c.t (dst c), endBounds c.t len (src c), endBounds c.t end_ (dst c),
       failIf (decide (2 ^ 32 - 1 < end_)) 0x05, endPermit .read (src c), endPermit .write (dst c), endState c.t .full (src c),
       endState c.t .filling (dst c), endOverlap (src c) (dst c) len end_] ++ late c)
    same false token ring (fun c =>
      let x := c.sc (fA c.w + 3)
      .coll (src c) (dst c) (fSub c.w) (bits x 2 0) (bits x 6 4) (bits x 15 8) (bits x 27 16 + 1) (c.sc (fA c.w + 4))) ∧
  (let words (c : Ctx) : List Word := (List.range 9).map (fun i => BitVec.ofNat 32 (c.sc (fB c.w + i)))
   CompletesIn (rowAt 0x1D2) .shapeLd (fun c => shapeLegal (words c) = true)
     (fun c => c.s.updTeam c.tk (fun t => { t with shapes := set t.shapes (fA c.w) (words c) })) (fun _ => Out.none)) ∧
  CompletesIn (rowAt 0x1D3) .shapeEv (fun _ => True)
    (fun c => c.s.updTeam c.tk (fun t => { t with shapes := del t.shapes (fA c.w) })) (fun _ => Out.none)

/-- R247, R264 to R267: WAITK completes where no named token is PENDING or EMPTY or holds an error, waits for a PENDING one, and
takes the cause of the first named token that holds an error, which it writes into the member's token registers; KTEST writes whether none is PENDING; CREC completes
where the ring's DONE has come to its operand, its read an acquire.
R331 to R335: WEIR.ACQ waits for its grant, and WEIR.REL closes the weir, where the group is whole, in no handler, and the
weir's state allows it; otherwise each takes cause 0x21. WEIR.QRY reads the open weir. Each completes. -/
def Obligations.TokenRingAndWeirWords : Prop :=
  (
    let none_ (c : Ctx) (p : Token → Bool) : Prop := ∀ k ∈ fTokens c.w, p (c.t.token k) = false
    CompletesIn (rowAt 0x1D6) .waitk
      (fun c => none_ c (· == .empty) ∧ none_ c (· == .pending) ∧ none_ c (fun x => x.err.isSome)) (fun c => c.s) (fun _ => Out.none) ∧
    Traps (rowAt 0x1D6) .waitk (fun c => ¬ none_ c (· == .empty)) (fun _ => 0x18) ∧
    (∀ w s c, Issues (rowAt 0x1D6) w s c → none_ c (· == .empty) → ¬ none_ c (· == .pending) → exec (.waitk w) s = .next c.s) ∧
    -- the first ERROR token in K1, K2, K3 order
    (∀ k x va before after w s c, Issues (rowAt 0x1D6) w s c → none_ c (· == .empty) → none_ c (· == .pending) →
      fTokens c.w = before ++ k :: after → (∀ j ∈ before, (c.t.token j).err = none) → (c.t.token k).err = some (x, va) →
      exec (.waitk w) s = .next (c.draw (takeCause (c.s.updMember c.tk c.m.id (fun m =>
        { m with trap := { m.trap with kerr := BitVec.ofNat 32 (k * 2 ^ 8 + x), kerrva := BitVec.ofNat 64 va } })) c.tk c.m.id x 0))) ∧
    CompletesIn (rowAt 0x1D7) .ktest (fun c => none_ c (· == .empty)) (fun c => c.s) (fun c =>
      Out.fixed (c.m.present.map (fun l =>
        (Place.p l (fD c.w), if (fTokens c.w).any (fun k => c.t.token k == .pending) then 0 else 1)))) ∧
    (∀ s1 tr w s c, Checks (rowAt 0x1D8) w s c →
      let x := c.sc (fA c.w)
      let r := c.d (x % 32)
      let ask : MemAsk := { r := r, kind := 0, need := .read, requester := false, lanes := [{ lane := c.act.headD 0, vas := recVas r 8 8 }] }
      let y := reachLines c.s c.t (wantOf c.t ask) ask.lanes
      let done := leVal ((recVas r 8 8).map (fun a => Mem.read c.s.mem (bytePa y.2.tr a)))
      x < 32 → ringCheck r = none → y.2.cause = none → y.2.bad = [] →
      (0 ≤ sgn 64 (done + 2 ^ 64 - c.scPair (fB c.w)) → Performs c ask s1 tr →
        exec (.crec w) s = .next (c.ends (c.regionEnds 4 false true s1) Out.none)) ∧
      (sgn 64 (done + 2 ^ 64 - c.scPair (fB c.w)) < 0 → exec (.crec w) s = .next c.s))) ∧
  (
    let bad (c : Ctx) : Prop := familySplit c.t c.m = true ∨ c.m.trap.inh = true
    CompletesIn (rowAt 0x1F8) .weirAcq (fun c => ¬ bad c ∧ c.m.weir = none ∧ fA c.w ≤ c.t.spec.weir)
      (fun c => c.s.updMember c.tk c.m.id (fun m => { m with wait := .weir (fA c.w) c.s.now })) (fun _ => Out.none) ∧
    Traps (rowAt 0x1F8) .weirAcq (fun c => bad c ∨ c.m.weir ≠ none ∨ c.t.spec.weir < fA c.w) (fun _ => 0x21) ∧
    CompletesIn (rowAt 0x1F9) .weirRel (fun c => ¬ bad c ∧ c.m.weir ≠ none)
      (fun c => c.s.updMember c.tk c.m.id (fun m => { m with weir := none })) (fun _ => Out.none) ∧
    Traps (rowAt 0x1F9) .weirRel (fun c => bad c ∨ c.m.weir = none) (fun _ => 0x21) ∧
    Completes (rowAt 0x1FA) .weirQry (fun c => oneS c (match c.m.weir with
      | some x => 2 ^ 31 + x.level * 2 ^ 24 + x.charge
      | none => 0)))

/-- R271 to R287: ACC.OPEN opens a tile, ACC.ZERO, MMA, MMAS, META.LD and ACC.RET are accepted into the matrix queue where
every check of their entries passes, and ACC.RD reads a tile no command of the team touches. Each completes.
R113: an MMA or MMAS that names the latched register takes the latched rows, and one that names another reads its registers; with RU = 1
the latch stays or is loaded with what the word reads, and with RU = 0 it is released. -/
def Obligations.MatrixWordsAreAccepted : Prop :=
  let none' (_ : Ctx) : Option Nat := none
  let noRing (_ : Ctx) : Option Rec := none
  let opened (c : Ctx) : State :=
    c.s.updTile c.tk (fD c.w) (fun x => { x with opened := true, remain := mBits c.w 11 0, owner := c.m.slot })
  let free (c : Ctx) : Prop := (c.t.tileAt (fD c.w)).opened = false ∧ familySplit c.t c.m = false
  CompletesIn (rowAt 0x1E0) .accOpen (fun c => free c ∧ mBit c.w 12 = false) opened (fun _ => Out.none) ∧
  Accepts (rowAt 0x1E0) .accOpen (fun c => free c ∧ mBit c.w 12 = true) (fun _ => []) opened true none' noRing (fun c => .accZero (fD c.w)) ∧
  Accepts (rowAt 0x1E5) .accZero (fun c => c.notOwner (fD c.w) = false) (fun _ => []) (fun c => c.s) true none' noRing (fun c => .accZero (fD c.w)) ∧
  (let mma (sparse : Bool) (op : Nat) (i : CWord → Instr) : Prop :=
    let x (c : Ctx) : Nat := c.sc (fB c.w)
    let tile (c : Ctx) : Nat := bits (x c) 4 0
    let scl (c : Ctx) : Bool := fSub c.w = 1
    let soff (c : Ctx) : Nat := if scl c then c.sc (fB c.w + 3) else 0
    let buf (c : Ctx) (off : Nat) : End := .obj (bits (x c) 13 8) off
    let rows (c : Ctx) : List (Nat × Nat × Word) := c.aRows (if sparse then 8 else 16)
    Accepts (rowAt op) i (fun _ => True)
      (fun c =>
        let y := c.sc (fB c.w + 2)
        [failIf (bits (x c) 31 25 ≠ 0 || bits (x c) 15 14 ≠ 0 || bits (x c) 7 5 ≠ 0 || (sparse && bits y 31 7 ≠ 0) ||
           decide (8 ≤ bits (x c) 19 16) || decide (8 ≤ bits (x c) 23 20) ||
           widthClass (bits (x c) 19 16) ≠ widthClass (bits (x c) 23 20) || (scl c && widthClass (bits (x c) 19 16) = 0)) 0x01,
         failIf (decide (c.t.spec.acc ≤ tile c) || (sparse && decide (4 * c.t.spec.acc < bits y 6 0 + unitSpan (bits (x c) 19 16))) ||
           (c.t.obj (bits (x c) 13 8)).isNone) 0x03,
         failIf (c.notOwner (tile c) || familySplit c.t c.m || (c.t.tileAt (tile c)).remain = 0) 0x19,
         endKind c.t (buf c (c.sc (fB c.w + 1))), endState c.t .full (buf c (c.sc (fB c.w + 1))),
         failIf (c.sc (fB c.w + 1) % 64 ≠ 0 || soff c % 64 ≠ 0) 0x04,
         endBounds c.t 2048 (buf c (c.sc (fB c.w + 1))), if scl c then endBounds c.t 128 (buf c (soff c)) else none, c.tokenCheck])
      (fun c => (c.s.updTile c.tk (tile c) (fun t => { t with remain := t.remain - 1 })).updMember c.tk c.m.id
        (fun m => { m with latch := c.latchAfter (rows c) }))
      true (fun c => some (fD c.w)) noRing (fun c =>
        .mma (tile c) (bits (x c) 19 16) (bits (x c) 23 20) (bit (x c) 24) (scl c) (bits (x c) 13 8) (c.sc (fB c.w + 1)) (soff c)
          (if sparse then some (bits (c.sc (fB c.w + 2)) 6 0) else none) (rows c)
          (if scl c then c.m.present.map (fun l => (l, BitVec.ofNat 32 (c.v l (fA c.w + if sparse then 8 else 16)))) else [])
          ((List.range 16).map (fun i => (i, BitVec.ofNat 16 (c.cb i)))))
   mma false 0x1E1 .mma ∧ mma true 0x1E2 .mmas) ∧
  -- the reuse latch: the row of element register j in lane l, and what the word leaves of the latch
  (∀ (c : Ctx) n j l, j < n → l ∈ c.m.present →
    let row (rows : List (Nat × Nat × Word)) : Option (Nat × Nat × Word) := rows.find? (fun e => e.1 = j && e.2.1 = l)
    (∀ x e, c.m.latch = some x → x.reg = fA c.w → row x.rows = some e → row (c.aRows n) = some e) ∧
    ((∀ x, c.m.latch = some x → x.reg ≠ fA c.w) → row (c.aRows n) = some (j, l, BitVec.ofNat 32 (c.v l (fA c.w + j))))) ∧
  (∀ (c : Ctx) rows,
    (c.w.common.ru = false → c.latchAfter rows = none) ∧
    (c.w.common.ru = true → ∀ x, c.m.latch = some x → x.reg = fA c.w → c.latchAfter rows = some x) ∧
    (c.w.common.ru = true → (∀ x, c.m.latch = some x → x.reg ≠ fA c.w) → c.latchAfter rows = some { reg := fA c.w, rows := rows })) ∧
  (let ctl (c : Ctx) : Nat := c.sc (fB c.w)
   let e (c : Ctx) : End := c.endpoint (fB c.w + 1)
   let n (c : Ctx) : Nat := c.sc (fB c.w + 3)
   Accepts (rowAt 0x1E6) .metaLd (fun _ => True)
     (fun c => [failIf (ctlBad (ctl c) false || endBad (c.sc (fB c.w + 1)) || n c = 0 || n c % 128 ≠ 0 || decide (16384 < n c)) 0x01,
       failIf (decide (4 * c.t.spec.acc < fA c.w + n c / 128)) 0x03, endKind c.t (e c), endBounds c.t (n c) (e c), endPermit .read (e c),
       endState c.t .full (e c)] ++ c.lateChecks (ctl c))
     (fun c => c.s) true (fun c => some (fD c.w)) (fun c => c.ringOf (ctl c)) (fun c => .metaLd (fA c.w) (e c) (n c)) ∧
   Accepts (rowAt 0x1E3) .accRet (fun _ => True)
     (fun c =>
       let f := n c
       let p := retPitch f
       [failIf (ctlBad (ctl c) false || endBad (c.sc (fB c.w + 1)) || bits f 15 6 ≠ 0 || decide (3 < bits f 4 2) || bits f 1 0 = 3 ||
          decide (p < 32 * retSize f) || p % retSize f ≠ 0) 0x01,
        failIf (!(c.t.tileAt (fA c.w)).opened || c.notOwner (fA c.w) || familySplit c.t c.m) 0x19, endKind c.t (e c),
        endBounds c.t (31 * p + 32 * retSize f) (e c), endPermit .write (e c), endState c.t .filling (e c)] ++ c.lateChecks (ctl c))
     (fun c => c.s.updTile c.tk (fA c.w) (fun x => { x with opened := false, remain := 0 }))
     true (fun c => some (fD c.w)) (fun c => c.ringOf (ctl c)) (fun c => .accRet (fA c.w) (e c) (BitVec.ofNat 32 (n c)))) ∧
  CompletesIn (rowAt 0x1E4) .accRd
    (fun c => c.notOwner (fA c.w) = false ∧ (∀ l ∈ c.act, c.x (selB c.w) l (fB c.w) + (mBits c.w 4 0 + 1) ≤ 32) ∧
      ∀ k ∈ c.s.cmds, ¬ (k.team = c.tk ∧ k.job.tile = some (fA c.w)))
    (fun c => c.s) (fun c => Out.late (c.act.flatMap (fun l => (List.range (mBits c.w 4 0 + 1)).map (fun i =>
      (Place.v l (fD c.w + i), (c.t.tileAt (fA c.w)).elem l (c.x (selB c.w) l (fB c.w) + i))))))

/-- R300 to R303: RAY, where the BVH is well formed along every lane's path and every line translates, writes each lane its
best hit, four free words where the ray or a triangle it meets holds an infinity (log entry 13); BEAM, where every check
passes, is accepted with its block of eighteen words. Each completes.
R296 to R298, R300, R303, R304: a beam traverses the rays of its rectangle, each ray's direction rounded once, and writes a hit record
of 16 bytes for each; a malformed BVH gives ERROR with cause 0x05 and the address; a screen write reaches the tile of its owner by the
order of its key, after those that its die sent to the same die before it (R20), or is dropped and counted; the last of a word's
releases its tag. The hit record of a ray with infinite data is a free
value (log entry 13). -/
def Obligations.RaysBeamsAndScreenWrites : Prop :=
  (
    (∀ s1 tr w s c, Checks (rowAt 0x1CD) w s c →
      let r := c.recA
      let ask (ls : List LaneReq) : MemAsk := { r := r, kind := 0, need := .read, requester := true, lanes := ls }
      let path (l : Nat) : Trav := traverse (viewOf c.s c.t (wantOf c.t (ask [])) r (c.laneByte l)) (c.ray l)
      recFlat r = false → 64 ≤ recExtent r → recR r = true → (∀ l ∈ c.act, (path l).bad = none ∧ (path l).stuck = false) →
      Performs { c with s := c.s.freed (4 * c.act.length) } (ask (c.act.map (fun l => { lane := l, vas := (path l).vas r }))) s1 tr →
      exec (.ray w) s = .next (c.ends (c.sawLanes s1 tr (c.act.map (fun l => { lane := l, vas := (path l).vas r }))) (Out.late
       (c.act.zipIdx.flatMap (fun e =>
        (if rayOpen (c.ray e.1) (path e.1).tris then (List.range 4).map (fun k => (Config.freeWord (c.s.free + 4 * e.2 + k)).toNat)
         else bestHit (c.ray e.1) (path e.1).tris).zipIdx.map (fun x => (Place.v e.1 (fD c.w + x.2), x.1))))))) ∧
    (let ctl (c : Ctx) : Nat := c.sc (fB c.w)
     let size (c : Ctx) : Nat := c.sc (fB c.w + 14)
     let dst (c : Ctx) : End := c.endpoint (fB c.w + 15)
     Accepts (rowAt 0x1CC) .beam (fun _ => True)
       (fun c => [failIf (ctlBad (ctl c) false || endBad (c.sc (fB c.w + 15)) || !bit (c.sc (fB c.w + 15)) 31 || bits (size c) 7 6 ≠ 0 ||
           bits (size c) 31 14 ≠ 0) 0x01,
         endKind c.t (dst c), failIf (recFlat (c.d (fA c.w)) || !permits (c.d (fA c.w)) .read) 0x06,
         endBounds c.t (16 * (bits (size c) 5 0 + 1) * (bits (size c) 13 8 + 1)) (dst c), endState c.t .filling (dst c)] ++ c.lateChecks (ctl c))
       (fun c => c.s) false (fun c => some (fD c.w)) (fun c => c.ringOf (ctl c))
       (fun c => .beam (c.d (fA c.w)) ((List.range 18).map (fun i => BitVec.ofNat 32 (c.sc (fB c.w + 1 + i)))) (dst c)))) ∧
  (
    (∀ s k id t r blk dst s2 x, s.cmd id = some k → k.phase = .started → k.job = .beam r blk dst → look s.teams k.team = some t →
      runnable s k = true → k.ring = none →
      let b (i : Nat) : Nat := (blk[i - 1]?.getD 0).toNat
      let w := b 14 % 2 ^ 6 + 1
      let h := b 14 / 2 ^ 8 % 2 ^ 6 + 1
      let s1 := s.updCmd id (fun k => { k with stop := .none })
      let q : Want := { die := dieOf t.seat.core, core := none, ctx := t.ctx, need := .read, spring := recS r, requester := recS r }
      -- the direction of pixel (px, py): D + (px + 1/2) DX + (py + 1/2) DY, exact and then rounded
      let half (n : Nat) : Ex := .num false (2 * n + 1) 2
      let dir (i px py : Nat) : Nat := encodeQuiet f32 (Ex.add 0 (Ex.add 0 (decode f32 (b (4 + i))) ((half px).mul (decode f32 (b (7 + i)))))
        ((half py).mul (decode f32 (b (10 + i))))) 0 false
      let ray (e : Nat) : Ray :=
        let px := b 13 % 2 ^ 16 + e % w
        let py := b 13 / 2 ^ 16 + e / w
        { o := V3.ofWords [b 1, b 2, b 3], d := V3.ofWords [dir 0 px py, dir 1 px py, dir 2 px py], tmin := decode f32 (b 17), tmax := decode f32 (b 18) }
      let tv (e : Nat) : Trav := traverse (viewOf s1 t q r (Mem.read s1.mem)) (ray e)
      let reads : List LaneReq := [{ lane := 0, vas := ((List.range (w * h)).flatMap (fun e => (tv e).vas r)).dedup }]
      cmdReach s1 k false false r reads (fun s _ _ => .ok s []) = .ok s2 x →
      ((∀ e, e < w * h → (tv e).bad = none ∧ rayOpen (ray e) (tv e).tris = false) → ∀ s3 y,
        writeEnd (s2.freed (4 * (w * h))) k dst ((List.range (w * h)).flatMap (fun e =>
          ((bestHit (ray e) (tv e).tris).flatMap (toBytes 4)).zipIdx.map (fun z => (16 * e + z.2, z.1)))) = .ok s3 y →
        exec (.beamCompletion id) s = .next (leaveCmd (uncount s3 k) k .complete)) ∧
      (∀ o, (List.range (w * h)).findSome? (fun e => (tv e).bad) = some o →
        exec (.beamCompletion id) s = .next (leaveCmd (uncount s2 k) k (.error 0x05 (recVa r o))))) ∧
    (∀ s i x tk t, s.screens[i]? = some x → s.teams.find? (fun e => e.2.launch = some x.launch && e.2.index = x.owner) = some (tk, t) →
      look s.teams tk = some t → t.saved = false → (dieOf t.seat.core ≠ x.die → (s.link x.die (dieOf t.seat.core)).retraining = false) →
      (∀ y ∈ s.screens.take i, y.die = x.die → screenDest s y ≠ some (dieOf t.seat.core)) →
      ∃ s' t', exec (.screenWriteDelivery i) s = .next s' ∧ s'.screens = s.screens.eraseIdx i ∧ look s'.teams tk = some t' ∧
        (cfgOrd t.tilecfg = true → planeAt t.tilecfg x.x x.y (cfgP t.tilecfg) ≤ t.hold →
          t'.tdata = putOrdered t.tdata t.tilecfg x.x x.y ((x.key.map (·.toNat)).getLastD 0) (x.key.map (·.toNat)).dropLast ∧
          ∀ u, look s.teams x.sender = some u → x.sender ≠ tk → ∃ u', look s'.teams x.sender = some u' ∧ u'.drop = u.drop) ∧
        (cfgOrd t.tilecfg = false ∨ t.hold < planeAt t.tilecfg x.x x.y (cfgP t.tilecfg) → t'.tdata = t.tdata ∧
          ∀ u, look s.teams x.sender = some u → ∃ u', look s'.teams x.sender = some u' ∧ u'.drop = min (u.drop + 1) 65535) ∧
        ∀ m, s.memberAt x.sender x.mem = some m → ∃ m', s'.memberAt x.sender x.mem = some m' ∧
          ((∀ y ∈ s.screens.eraseIdx i, ¬ (y.sender = x.sender ∧ y.mem = x.mem ∧ y.tag = x.tag)) → m'.tags = m.tags &&& ~~~ tagBit x.tag) ∧
          ((∃ y ∈ s.screens.eraseIdx i, y.sender = x.sender ∧ y.mem = x.mem ∧ y.tag = x.tag) → m'.tags = m.tags)))

/-! ### System words and weirs -/

/-- R338, R341, R342, R344 to R347: TRAP takes cause 0x28 with its operand; that it counts as a word of its member's windows, beside
R344's "does not commit", is the model's reading of R105 (log entry 34); TRET outside a handler takes
cause 0x02, and in one it resumes the member at %tepc with INH clear, the windows of handler words closing there (log entry 53); TABANDON dooms the task with reason 0; TMASK sets the mask,
its budget only outside a handler. Each acts where it issues. -/
def Obligations.TrapWordsEnterLeaveAndMask : Prop :=
  (∀ w s c, Issues (rowAt 0x1F0) w s c →
    exec (.trapW w) s = .next (c.draw (takeCause (c.s.updMember c.tk c.m.id Member.countWord) c.tk c.m.id 0x28 (fA c.w)))) ∧
  TrapsAtCheck2 (rowAt 0x1F1) .tret (fun c => c.m.trap.inh = false) ∧
  (∀ w s c, Issues (rowAt 0x1F1) w s c → c.m.trap.inh = true →
    ∃ m', exec (.tret w) s = .next (c.draw ((c.s.settleQueues c.tk c.m.id).updMember c.tk c.m.id (fun m => m.resume.stamp c.s.now c.w.common.y))) ∧
      m' = c.m.resume.stamp c.s.now c.w.common.y ∧ m'.pc = c.m.trap.tepc ∧ m'.trap.inh = false ∧ m'.pcmask = c.m.trap.pcm ∧
      m'.trap.mask = c.m.trap.mask ∧ m'.trap.budget = (if c.m.trap.mask then c.m.trap.aside.getD 65536 else 0) ∧
      m'.trap.ppend = (c.m.trap.ppend && c.m.trap.mask) ∧ m'.trap.tcause = c.m.trap.tcause) ∧
  CompletesIn (rowAt 0x1F2) .tabandon (fun _ => True)
    (fun c =>
      let d : Doom := { reason := 0, cause := 0, pc := c.m.pc, slot := c.m.slot, genCause := 0x0A, detail := 0 }
      c.s.updTeam c.tk (fun t => if t.doom.isSome then t else { t with doom := some d }))
    (fun _ => Out.none) ∧
  CompletesIn (rowAt 0x1F3) .tmask (fun _ => True)
    (fun c =>
      let on : Bool := fA c.w = 1
      c.s.updMember c.tk c.m.id (fun m => { m with trap :=
        if m.trap.inh then { m.trap with mask := on }
        else { m.trap with mask := on, budget := if on then 65536 else 0, ppend := m.trap.ppend && on } }))
    (fun _ => Out.none)

/-- R61, R341, R348: SYSRD reads every special register that the spec lists: per lane %tid, %lane and %fpflags, and for the
member the numbers of its slot, core and task, the clock, the capabilities and every trap, race, spring and token register. It
completes.
R41, R112, R294, R349: SYSWR writes %debug, %fpenable, %arrmiss, %tilecfg and %tvec of its team, reserved bits as zero, and
%fpflags of its member's present lanes; a register that may not be written takes cause 0x02 and an illegal %tilecfg cause 0x1C.
It completes. -/
def Obligations.SpecialRegistersAreReadAndWritten : Prop :=
  (
    let m (c : Ctx) : Member := c.m
    let value (c : Ctx) (n l : Nat) : Nat := match n with
      | 0x00 => ((c.m.lane l).map (fun x => x.tid.toNat)).getD 0
      | 0x01 => l
      | 0x02 => (m c).slot
      | 0x03 => c.t.task.toNat % 2 ^ 32
      | 0x04 => c.t.seat.cluster.toNat
      | 0x05 => c.t.seat.vcore
      | 0x06 => c.t.task.toNat / 2 ^ 48
      | 0x07 => c.t.task.toNat
      | 0x08 => c.s.now % 2 ^ 64
      | 0x10 => (c.s.device.caps[0]?.getD 0).toNat
      | 0x11 => (c.s.device.caps[1]?.getD 0).toNat
      | 0x12 => (c.s.device.caps[2]?.getD 0).toNat
      | 0x13 => (c.s.device.caps[3]?.getD 0).toNat
      | 0x18 => b2n c.t.prc
      | 0x19 => (if selD c.w then c.act.foldl (fun acc k => acc ||| (m c).laneFlags k) 0 else (m c).laneFlags l).toNat
      | 0x1A => c.t.fpenable.toNat
      | 0x20 => c.t.arrmiss
      | 0x22 => (m c).trap.raceva.toNat
      | 0x24 => (m c).trap.racetask.toNat
      | 0x26 => (m c).trap.springva.toNat
      | 0x28 => (m c).trap.gentask.toNat
      | 0x2A => (m c).trap.springdet.toNat
      | 0x2C => (m c).trap.kerr.toNat
      | 0x2E => (m c).trap.kerrva.toNat
      | 0x30 => c.t.tilecfg.toNat
      | 0x31 => c.t.drop * 2 ^ 16 + c.t.spec.tile * 2 ^ 8 + c.t.hold / 4096
      | 0x34 => c.t.tvec.toNat
      | 0x35 => (m c).trap.tcause.toNat
      | 0x36 => (m c).trap.tepc.toNat
      | 0x37 => b2n (m c).trap.inh * 2 ^ 31 + b2n (m c).trap.mask * 2 ^ 30 + b2n (m c).trap.ppend * 2 ^ 29 + (m c).trap.budget
      | 0x38 => (if (m c).trap.inh then (m c).trap.pcm else (m c).pcmask).toNat
      | _ => 0
    Completes (rowAt 0x1F4) .sysrd (fun c => eachLane c (sr64 (fA c.w)) (fun l => value c (fA c.w) l))) ∧
  (
    let val (c : Ctx) (l : Nat) : Nat := c.x (selB c.w) l (fB c.w)
    let x (c : Ctx) : Nat := val c c.m.low
    let one (n : Nat) (pre : Ctx → Prop) (f : Ctx → Team → Team) : Prop :=
      CompletesIn (rowAt 0x1F5) .syswr (fun c => fA c.w = n ∧ pre c) (fun c => c.s.updTeam c.tk (f c)) (fun _ => Out.none)
    one 0x18 (fun _ => True) (fun c t => { t with prc := (x c).testBit 0 }) ∧
    one 0x1A (fun _ => True) (fun c t => { t with fpenable := BitVec.ofNat 5 (x c) }) ∧
    one 0x20 (fun _ => True) (fun c t => { t with arrmiss := x c % 65536 }) ∧
    one 0x30 (fun c => tilecfgOk (x c) = true) (fun c t => { t with tilecfg := BitVec.ofNat 32 (x c) }) ∧
    one 0x34 (fun _ => True) (fun c t => { t with tvec := BitVec.ofNat 32 (x c) }) ∧
    CompletesIn (rowAt 0x1F5) .syswr (fun c => fA c.w = 0x19)
      (fun c => c.s.updMember c.tk c.m.id (fun m => { m with lanes := m.lanes.map (fun e => (e.1, { e.2 with flags := BitVec.ofNat 5 (val c e.1) })) }))
      (fun _ => Out.none) ∧
    TrapsAtCheck2 (rowAt 0x1F5) .syswr (fun c => fA c.w ∉ [0x18, 0x19, 0x1A, 0x20, 0x30, 0x34]) ∧
    Traps (rowAt 0x1F5) .syswr (fun c => fA c.w = 0x30 ∧ tilecfgOk (x c) = false) (fun _ => 0x1C))

/-! ### What every Calud word does -/

/-- R53, R65: a word under the never-guard that passes checks 1 and 2, and a word with no active lane that passes checks 1 to 3 and
the pending-read check, completes without an effect of its own: no register, flag or generator of its member is written but by
pending results and windows that were there, and nothing beyond its team but its millpond's level is touched. Every Calud
instruction.
R83, R103, R109, R110, R184, R330: a word whose member is held, whose bank does not issue while it is not parked, whose tags are
pending, or whose queue, millpond or engine has no room leaves the state as it is. That a parked word's retry waits for no bank is the
model's reading of R184 and R188 (log entry 92). With no member to issue, it faults by name. Every Calud
instruction. -/
def Obligations.WordsThatActInNoLaneOrWaitChangeNothingElse : Prop :=
  (
    ∀ i r w s c, calRow i = some (r, w) → Attempts r w s c → r.legal w = true → c.unitFails = false →
      (neverGuard w = true ∨ c.act = [] ∧ c.earlyCause r = none) → c.overCharge = false →
      (r.uniform w || c.others (maskOf c.act) == 0) = true →
      exec i s = .next (complete c c.s Out.none) ∧ OnlyTeam s (complete c c.s Out.none) c.tk ∧
      ∀ m', (complete c c.s Out.none).memberAt c.tk c.m.id = some m' →
        m'.pc = c.m.pc + 1 ∧ (∀ p, m'.file p = c.m.file p) ∧ m'.trap = c.m.trap ∧
        ∀ l, m'.laneFlags l = c.m.laneFlags l ∧ (m'.lane l).map (·.rng) = (c.m.lane l).map (·.rng)) ∧
  (
    (∀ i r w s tk t m, calRow i = some (r, w) → issuer s = some (tk, t, m) →
      (held s t m = true ∨ bankHeld s t m = true ∨ tagBlocked m w = true ∨ (ctxOf s tk t m r.op w).unitBusy = true) → exec i s = .next s) ∧
    (∀ i r w s, calRow i = some (r, w) → issuer s = none → exec i s = .fault .noIssuer))

/-- R65: a word that fails check 1 takes cause 0x01, whatever its guard; one that passes it and fails check 2 takes cause 0x02, whatever
its guard, an XSEND to a core of an absent die or to a disabled core (R12, R23, R24, R259) among them (that this is the word's check 2,
before its operands are checked, is the model's choice, log entry 83); one that passes both and is not under the never-guard takes cause 0x03 where a register lies beyond the allotment, and else, under %debug PRC, cause 0x30 where it names a register
with a pending result. The word's own entry does nothing. Every Calud instruction.
R42, R333: a float word that raises an enabled flag takes cause 0x24 with its flags set and no register written, and an
integer word whose charge would exceed its weir's limit takes cause 0x20. The same stands for every other row in its completion
statement: `Ctx.ends` says of each what an enabled flag and a charge over the limit make of it. -/
def Obligations.ChecksFlagsAndLimitsTrapBeforeAnyWrite : Prop :=
  (
    ∀ i r w s c, calRow i = some (r, w) → Attempts r w s c →
      (r.legal w = false → exec i s = .next (c.draw (takeCause c.s c.tk c.m.id 0x01 0))) ∧
      (r.legal w = true → c.unitFails = true → exec i s = .next (c.draw (takeCause c.s c.tk c.m.id 0x02 0))) ∧
      (r.legal w = true → c.unitFails = false → neverGuard w = false →
        (allotmentFails c.t c.m (c.row r) w = true → exec i s = .next (c.draw (takeCause c.s c.tk c.m.id 0x03 0))) ∧
        (allotmentFails c.t c.m (c.row r) w = false → c.t.prc = true → c.touchesPending r = true →
          exec i s = .next (c.draw (takeCause c.s c.tk c.m.id 0x30 0)))) ∧
      -- check 2 is that of an XSEND to a core of an absent die (R23, R259), of TRET, of SYSWR, of SFILL and of SFAIL
      (c.unitFails = true → r.op ∈ [0x1D1, 0x1F1, 0x1F5, 0x1C0, 0x1C1])) ∧
  TrapsAtCheck2 (rowAt 0x1D1) .xsend
    (fun c => ∃ p, physCore c.s c.t.ctx (c.sc (fB c.w) % 2 ^ 11) = some p ∧ (c.s.diePresent (dieOf p) = false ∨ p ∈ c.s.device.disabled)) ∧
  (
    let a (c : Ctx) (l : Nat) : Ex := decodeZ (ftzOf c.w) f32 (c.a false l)
    let b (c : Ctx) (l : Nat) : Ex := decodeZ (ftzOf c.w) f32 (c.b false l)
    let flags (c : Ctx) (f : Option Ex → Nat → Rounded) (op : Ctx → Nat → Option Ex) : List (Nat × BitVec 5) :=
      (perLane c (selD c.w) (rmOf c.w) 1 (fun l rs => ([], (f (op c l) (rs.headD 0)).2))).flags
    let end_ (c : Ctx) (x : Option Ex) (r : Nat) : Rounded := match x with
      | none => (0x7FC00000, flIV)
      | some x => encode f32 x (rmOf c.w) (ftzOf c.w) false r
    let word (op : Nat) (i : CWord → Instr) (f : Ctx → Nat → Option Ex) : Prop :=
      ∀ w s c, Issues (rowAt op) w s c → trapsFp c.t (flags c (end_ c) f) = true →
        exec (i w) s = .next (takeCause (c.draw (c.s.updMember c.tk c.m.id (fun m => m.raise (flags c (end_ c) f)))) c.tk c.m.id 0x24 0)
    word 0x0C0 .fadd (fun c l => Ex.add? (rmOf c.w) (a c l) (b c l)) ∧
    word 0x0C1 .fsub (fun c l => Ex.add? (rmOf c.w) (a c l) (b c l).opp) ∧
    word 0x0C2 .fmul (fun c l => Ex.mul? (a c l) (b c l)) ∧
    (∀ i r w s c, calRow i = some (r, w) → 0x040 ≤ r.op → r.op ≤ 0x055 → Attempts r w s c → r.legal w = true → neverGuard w = false →
      c.act ≠ [] → c.earlyCause r = none → c.overCharge = true → exec i s = .next (takeCause (c.draw c.s) c.tk c.m.id 0x20 0)))

/-- R110: a word whose TW names a pending tag does not issue, but for the tag under which it goes on itself; a named tag that is
not pending imposes no wait; and a word that waits on a tag and allocates it waits for its release first, and then its
variable-latency result holds the tag. -/
def Obligations.TagWaitsHoldAWordUntilRelease : Prop :=
  (∀ i r w s tk t m k, calRow i = some (r, w) → issuer s = some (tk, t, m) → k < 6 →
    w.common.tw.getLsbD k = true → m.tags.getLsbD k = true → m.contTag.getLsbD k = false → exec i s = .next s) ∧
  (∀ (m : Member) (w : CWord), (∀ k, k < 6 → w.common.tw.getLsbD k = true → m.tags.getLsbD k = false) →
    (w.common.ta.toNat ≤ 5 → m.tags.getLsbD w.common.ta.toNat = false) → tagBlocked m w = false) ∧
  (∀ i r w s c k, calRow i = some (r, w) → k < 6 → w.common.tw.getLsbD k = true → w.common.ta.toNat = k → c.m.cont = none →
    Attempts r w s c → c.m.tags.getLsbD k = false) ∧
  (∀ r w s c o k, Issues r w s c → k < 6 → w.common.tw.getLsbD k = true → w.common.ta.toNat = k → c.m.cont = none →
    o.var = true → o.next = [] → o.writes ≠ [] →
    ∃ m', (complete c c.s o).memberAt c.tk c.m.id = some m' ∧ m'.tags.getLsbD k = true)

/-- R39, R41: a word that completes adds the flags that its outcome raises in a lane to the lane's %fpflags, and leaves every other flag;
the lane's generator takes the last state that the outcome gives it, and else keeps its own.
R104 to R107: a fixed-latency result with PD = 0 stands in the register file at once, the last write of a place last, and
the member's next word reads it; every other register keeps its value, and the PC moves on by one.
R105, R106: a fixed-latency result with PD = n opens a window of n words: where no other window is open, each of the next n
words of the member reads the old value, and the word after them the new one.
R103, R109, R111: a variable-latency result leaves the registers as they are and stands among the member's pending results,
its tag pending; RESULT_WRITEBACK completes for a result whose queue, if it has one, accepted no waiting word before it: it writes the
result, the last write of a place last, and frees its tag; the result of a later word of a queue waits. Where another result has been
written over a place meanwhile, either of the two stands (R111), by a free value; where a later word's window holds the place, words
inside the window read the landing (R106); and a load that was not performed before reads its bytes then (R99). That the queues are those
of an issue port, which a group slot gives, is the model's choice (log entry 6), and so is which loads are performed as late (log entry 52). -/
def Obligations.ResultsStandByTheirDistanceOrTheirWriteback : Prop :=
  (
    ∀ r w s c o l, Issues r w s c → o.next = [] → l ∈ c.m.present →
      ∃ m', (complete c c.s o).memberAt c.tk c.m.id = some m' ∧
        (∀ i, i < 5 → (m'.laneFlags l).getLsbD i =
          ((c.m.laneFlags l).getLsbD i || o.flags.any (fun e => decide (e.1 = l) && e.2.getLsbD i))) ∧
        (m'.lane l).map (·.rng) = some (((o.rng.filter (fun e => e.1 = l)).getLast?.map (·.2)).getD (c.rng l))) ∧
  (
    ∀ r w s c o, Issues r w s c → o.var = false → o.next = [] → w.common.pd = 0 → (∀ e ∈ o.writes, c.m.has e.1) →
      ∃ m', (complete c c.s o).memberAt c.tk c.m.id = some m' ∧ m'.pc = c.m.pc + 1 ∧ m'.present = c.m.present ∧
        (∀ p x, lastWrite o.writes p = some x → m'.file p = p.cut x ∧ m'.windowed p = p.cut x) ∧
        (∀ p, lastWrite o.writes p = none → m'.file p = c.m.file p)) ∧
  (
    ∀ r w s c o, Issues r w s c → o.var = false → o.next = [] → w.common.pd ≠ 0 → (∀ e ∈ o.writes, c.m.has e.1) →
      o.writes ≠ [] → c.m.windows = [] →
      ∃ m', (complete c c.s o).memberAt c.tk c.m.id = some m' ∧ m'.pc = c.m.pc + 1 ∧
        ∀ p x, lastWrite o.writes p = some x →
          (∀ k, k < w.common.pd.toNat → (Member.countWord^[k] m').windowed p = c.m.file p) ∧
          (Member.countWord^[w.common.pd.toNat] m').windowed p = p.cut x) ∧
  (
    (∀ r w s c o, Issues r w s c → o.var = true → o.next = [] → o.writes ≠ [] → c.m.cont = none →
      ∃ m' q, (complete c c.s o).memberAt c.tk c.m.id = some m' ∧ (∀ p, m'.file p = c.m.file p) ∧
        m'.pend.getLast? = some q ∧ q.writes = o.writes ∧ q.queue = o.queue ∧ (∀ x ∈ q.loads, x ∈ o.loads) ∧ m'.pend.length = c.m.pend.length + 1 ∧
        (w.common.ta.toNat ≤ 5 → q.tag = some w.common.ta.toNat ∧ m'.tags.getLsbD w.common.ta.toNat = true) ∧
        (6 ≤ w.common.ta.toNat → q.tag = none ∧ m'.tags = c.m.tags)) ∧
    (∀ s tk mid k u m q, look s.teams tk = some u → u.member mid = some m → m.pend[k]? = some q →
      (∀ n, q.queue = some n → (∃ x ∈ m.pend.take k, x.queue = some n) ∨ (∃ x ∈ queueWords s u.seat.core (portOf m.slot) n, x.since < q.since)) →
      q.queue ≠ none → exec (.resultWriteback tk mid k) s = .next s) ∧
    (∀ s tk mid k u m q, look s.teams tk = some u → u.member mid = some m → m.pend[k]? = some q → (∀ e ∈ q.writes, m.has e.1) →
      (∀ n, q.queue = some n →
        (∀ x ∈ m.pend.take k, x.queue ≠ some n) ∧ ∀ x ∈ queueWords s u.seat.core (portOf m.slot) n, q.since ≤ x.since) →
      ∃ s' m', exec (.resultWriteback tk mid k) s = .next s' ∧ s'.memberAt tk mid = some m' ∧ s'.mem = s.mem ∧
        m'.pend = (m.pend.eraseIdx k).map (fun x => { x with overs := x.overs ++ (x.writes.map (·.1)).filter (fun p => q.writes.any (fun e => e.1 == p)) }) ∧
        (∀ p, lastWrite q.writes p = none → m'.file p = m.file p) ∧
        (∀ g, q.tag = some g → g < 6 → m'.tags.getLsbD g = false) ∧ (q.tag = none → m'.tags = m.tags) ∧
        -- every load was performed before
        (q.loads = [] → ∀ p x, lastWrite q.writes p = some x →
          (m'.file p = p.cut x ∨ p ∈ q.overs ∧ m'.file p = m.file p) ∧
          ((∀ v ∈ m.windows, q.word < v.word → ∀ e ∈ v.old, e.1 ≠ p) → p ∉ q.overs → m'.windowed p = p.cut x) ∧
          (∀ v o, m.windows = [v] → q.word < v.word → v.old = [(p, o)] → (m.trap.inh = false ∨ v.handler = true) → m'.windowed p = p.cut x)) ∧
        -- a load that is performed now
        (∀ p x ld, q.writes = [(p, x)] → q.loads = [ld] → ld.place = p → q.overs = [] → m.windows = [] →
          m'.file p = p.cut (loaded ld.ty (ld.pas.map (readByte s u)) % 2 ^ 32))))

/-- R76, R77: after a word completes, each present lane of its member stands in a member of the same slot
whose PC is the lane's next PC.
R330, R333: a completed word draws the weight of its class from its reach's millpond, and enters it into its weir's window,
which keeps the last 32 words. -/
def Obligations.CompletedWordsGoOnDrawAndCharge : Prop :=
  (
    ∀ r w s c o l x, Issues r w s c → o.writes = [] → o.flags = [] → o.rng = [] → (l, x) ∈ c.m.lanes →
      ∃ t' m', look (complete c c.s o).teams c.tk = some t' ∧ m' ∈ t'.members ∧ m'.slot = c.m.slot ∧ l ∈ m'.present ∧
        m'.pc = ((o.next.find? (fun e => e.1 = l)).map (·.2)).getD (c.m.pc + 1)) ∧
  (
    ∀ r w s c o, Issues r w s c → c.m.cont = none → o.next = [] →
      ((complete c c.s o).reach (reachOf c.t.seat.core)).level = (s.reach (reachOf c.t.seat.core)).level - c.millWeight ∧
      ∃ m', (complete c c.s o).memberAt c.tk c.m.id = some m' ∧
        (c.m.trap.inh = false → m'.weir = c.m.weir.map (fun x => { x with window := (weightIn x.weights c.opClass :: x.window).take 32 })) ∧
        (c.m.trap.inh = true → m'.weir = c.m.weir))

/-- R338, R339, R341: a precise cause that does not abandon the task enters the handler at %tvec: %tcause takes the cause and its
argument, %tepc the PC that TRET resumes at, INH is set, BUDGET is 65,536, the partial-completion mask is saved, and every
pending result is written first (R339's drain as log entry 53 reads it), or, where another result was written over its place, either of the
two stands (R111), by a free value.
Memory is untouched, and so is every other team where no pending result stands in a queue; a queue first writes what it accepted before
(R103), by the issue ports of log entry 6.
R338, R350: a cause in a handler or under MASK, with %tvec all ones, by a spring generator, or with number 0x1A or 0x2C
abandons the task at the word's PC; no member changes. -/
def Obligations.CausesEnterTheHandlerOrAbandonTheTeam : Prop :=
  (
    ∀ s tk mid k arg t m, look s.teams tk = some t → t.member mid = some m → t.gen = none → k ≠ 0x1A → k ≠ 0x2C →
      m.trap.inh = false → m.trap.mask = false → t.tvec ≠ 0xFFFFFFFF →
      ((∀ q ∈ m.pend, q.queue = none) → OnlyTeam s (takeCause s tk mid k arg) tk) ∧ { takeCause s tk mid k arg with teams := s.teams } = s ∧
      ∃ m', (takeCause s tk mid k arg).memberAt tk mid = some m' ∧ m'.pc = t.tvec ∧
        m'.trap.tcause = BitVec.ofNat 32 (arg * 2 ^ 16 + k) ∧ m'.trap.tepc = (if k = 0x28 then m.pc + 1 else m.pc) ∧
        m'.trap.inh = true ∧ m'.trap.mask = false ∧ m'.trap.budget = 65536 ∧ m'.trap.pcm = m.pcmask ∧ m'.pcmask = 0 ∧
        m'.park = none ∧ m'.pend = [] ∧
        (∀ p, lastWrite m.pendWrites p = none → m'.file p = m.file p) ∧
        ((∀ q ∈ m.pend, q.overs = []) → ∀ p x, m.has p → lastWrite m.pendWrites p = some x → m'.file p = p.cut x)) ∧
  (
    ∀ s tk mid k arg t m, look s.teams tk = some t → t.member mid = some m →
      (t.gen ≠ none ∨ k = 0x1A ∨ k = 0x2C ∨ m.trap.inh = true ∨ m.trap.mask = true ∨ t.tvec = 0xFFFFFFFF) →
      OnlyTeam s (takeCause s tk mid k arg) tk ∧
      ∃ t' d, look (takeCause s tk mid k arg).teams tk = some t' ∧ t'.doom = some d ∧ t'.members = t.members ∧
        d.cause = k ∧ d.pc = m.pc ∧ d.slot = m.slot ∧ d.reason = (if k = 0x2C then 2 else if k = 0x1A then 3 else 1))

/-! ### Frames -/

/-- The frame of the words that touch registers alone, whatever they come to (a wait, a cause, a completion): the integer, bit,
float, narrow, dot, codebook, special-function, shuffle and predicate words, NOP, PREF, BUF.STAT, RECSET, RECQRY, VQRY, SQRY, TLD,
KTEST, ACC.RD, SYSRD and WEIR.QRY.
R166, R189, R204: what a performing memory word leaves of memory. Its accesses themselves touch no byte where no translated
leaf counts them; a store through a record writes no byte but its cells', cells that are written are each written, the last of an address
last, and under MODE V no byte of memory at all; completing the word touches none. -/
def Obligations.RegisterAndMemoryWordsLeaveAllElseAlone : Prop :=
  (
    ∀ i r w s s' c, calRow i = some (r, w) →
      (r.op ∈ [0x000, 0x008, 0x009, 0x00A, 0x168, 0x175, 0x178, 0x179, 0x1A9, 0x1C3, 0x1CA, 0x1D7, 0x1E4, 0x1F4, 0x1FA] ∨
        0x010 ≤ r.op ∧ r.op ≤ 0x016 ∨ 0x040 ≤ r.op ∧ r.op ≤ 0x055 ∨ 0x0C0 ≤ r.op ∧ r.op ≤ 0x0D3 ∨ 0x140 ≤ r.op ∧ r.op ≤ 0x147) →
      issuer s = some (c.tk, c.t, c.m) → c = ctxOf s c.tk c.t c.m r.op w → exec i s = .next s' →
      RegFrame s s' c r (r.op = 0x015 || r.op = 0x016 || decide (0x0C0 ≤ r.op ∧ r.op ≤ 0x0D1) || decide (0x140 ≤ r.op ∧ r.op ≤ 0x147))) ∧
  (
    (∀ c a s1 tr, Performs c a s1 tr → (∀ e ∈ tr, countsLine (dieOf c.t.seat.core) e = false) →
      ∀ x, Mem.read s1.mem x = Mem.read c.s.mem x) ∧
    (∀ s tk cells x, Mem.read (writeCells s tk false cells).mem x = ((cells.reverse.find? (fun e => e.1 = x)).map (·.2)).getD (Mem.read s.mem x)) ∧
    (∀ s tk cells, (writeCells s tk true cells).mem = s.mem) ∧
    (∀ (c : Ctx) s v upto cs a, (∀ e ∈ cs, ∀ x ∈ e.2, x.1 ≠ a) → Mem.read (c.storeCells s v upto cs).mem a = Mem.read s.mem a) ∧
    (∀ c s o, (complete c s o).mem = s.mem ∧ (o.next = [] → ∀ k, k ≠ c.tk → look (complete c s o).teams k = look s.teams k) ∧
      { complete c s o with teams := s.teams, free := s.free, reaches := s.reaches } = s))

/-! ### Line cores -/

/-- R362, R364, R365, R368, R369, R371: ISSUE_AS_HELD issues the held copy of its template, AMEND_THEN_ISSUE the amended copy, and
AMEND_AND_HOLD keeps it; TPL.LD loads a template image, END ends the stream, QDRAIN waits for empty queues, TRAP halts with cause
0x28. A word that no table allows takes cause 0x01, an unloaded template 0x42, an image beyond the section 0x05. LCGO starts a
program from its two sections. Each completes. -/
def Obligations.PatchWordsAmendIssueLoadAndEnd : Prop :=
  let word (i : Instr) (pre : BCtx → Prop) (f : State → BCtx → State) : Prop :=
    ∀ s b, SlotIssues s b → pre b → exec i s = .next (f s b)
  let next (s : State) (b : BCtx) (f : LStream → LStream) : State :=
    s.updStream b.n b.vec (fun st => { f st with pc := (st.pc + 1) % 2 ^ 15, waiting := false })
  let put (t : BitVec 6) (y : BitVec 256) (st : LStream) : LStream := { st with tpl := set st.tpl t.toNat y }
  let halts (i : Instr) (pre : BCtx → Prop) (cause arg : Nat) : Prop := ∀ s b, SlotIssues s b → pre b → SlotHalts i s b cause 0 arg 0
  (∀ t x, word (.issueAsHeld t) (fun b => look b.st.tpl t.toNat = some x) (fun s b => issueTpl b.n b.vec x s s)) ∧
  (∀ t f v x, amendOk f v = true → word (.amendThenIssue t f v) (fun b => look b.st.tpl t.toNat = some x)
    (fun s b => issueTpl b.n b.vec (amend x f v) (s.updStream b.n b.vec (put t (amend x f v))) s)) ∧
  (∀ t f v x, amendOk f v = true → word (.amendAndHold t f v) (fun b => look b.st.tpl t.toNat = some x)
    (fun s b => next s b (put t (amend x f v)))) ∧
  -- the amended field holds V, and every other bit of the copy stays
  (∀ (x : BitVec 256) (f : BitVec 8) (v : BitVec 16) n k, fieldWidth f.toNat = some n → amendOk f v = true →
    (amend x f v).getLsbD k =
      if fieldLow f.toNat ≤ k ∧ k < fieldLow f.toNat + n then v.getLsbD (k - fieldLow f.toNat) else x.getLsbD k) ∧
  (∀ f v, f.toNat ≤ 63 → word (.tplLd f v) (fun b => 32 * v.toNat + 32 ≤ b.st.len) (fun s b =>
    next s b (fun st => { st with
      tpl := set st.tpl f.toNat (BitVec.ofNat 256 (leVal ((List.range 32).map (fun i => Mem.read st.code (32 * v.toNat + i))))) }))) ∧
  word .endS (fun _ => True) (fun s b => next s b (fun st => { st with on := false, ended := true })) ∧
  word .qdrain (fun b => b.c.ldq = [] ∧ b.c.stq = [] ∧ b.c.mq = []) (fun s b => next s b id) ∧
  word .qdrain (fun b => b.c.ldq ≠ [] ∨ b.c.stq ≠ [] ∨ b.c.mq ≠ [])
    (fun s b => s.updStream b.n b.vec (fun st => { st with waiting := true })) ∧
  (∀ n, halts (.streamTrap n) (fun _ => True) 0x28 n.toNat) ∧
  (∀ t f v, amendOk f v = false → halts (.amendThenIssue t f v) (fun _ => True) 0x01 0 ∧ halts (.amendAndHold t f v) (fun _ => True) 0x01 0) ∧
  (∀ t, halts (.issueAsHeld t) (fun b => look b.st.tpl t.toNat = none) 0x42 t.toNat) ∧
  (∀ t f v, amendOk f v = true → halts (.amendThenIssue t f v) (fun b => look b.st.tpl t.toNat = none) 0x42 t.toNat ∧
    halts (.amendAndHold t f v) (fun b => look b.st.tpl t.toNat = none) 0x42 t.toNat) ∧
  (∀ f v, 63 < f.toNat → halts (.tplLd f v) (fun _ => True) 0x01 0) ∧
  (∀ f v, f.toNat ≤ 63 → halts (.tplLd f v) (fun b => b.st.len < 32 * v.toNat + 32) 0x05 0) ∧
  -- LCGO; a store that the halted line core had started completes first
  (∀ n s, (∀ k, (s.lc n).stq.head? = some k → k.started = false) → endStore s n = s) ∧
  (∀ n (v : DWord) s, s.lcores ≤ n → exec (.lcgo n v) s = .next s) ∧
  (∀ n (v : DWord) s, n < s.lcores → (s.lc n).runs = false → claimed s n = false → v.toNat < 2 ^ 52 →
    let cs := v.toNat % 2 ^ 26
    let vs := v.toNat / 2 ^ 26
    let cl := (s.lc n).lclen.toNat % 2 ^ 18
    let vl := (s.lc n).lclen.toNat / 2 ^ 32 % 2 ^ 18
    sectionOk cs cl = true → sectionOk vs vl = true →
    let s0 := endStore s n
    exec (.lcgo n v) s = .next (startLine s0 n (Mem.readN s.mem (poolBase + cs) cl) (Mem.readN s.mem (poolBase + vs) vl) .section_))

/-- R373, R376, R378 to R380: each S0 slot writes its x register, branches, sets up and closes loops, reads a stream value, or sets
shp and lb, and its stream goes on at the next word or at the target. x0 reads 0 and discards writes. Each completes. -/
def Obligations.ScalarSlotsGiveTheirRulesValues : Prop :=
  let gives (i : Instr) (d : BitVec 5) (f : BCtx → Word) : Prop := ∀ s b, SlotIssues s b →
    exec i s = .next ((s.slotNext b).updStream b.n b.vec (fun st => st.setX d.toNat (f b)))
  let goes (s : State) (b : BCtx) (off : BitVec 16) : State :=
    s.updStream b.n b.vec (fun st => { st with pc := (((b.st.pc : Int) + off.toInt) % 2 ^ 15).toNat })
  let turn (s : State) (b : BCtx) (x : Bool) : State := s.updLc b.n (fun c =>
    let c := c.setStream b.vec { c.stream b.vec with sg := BitVec.ofNat 8 (2 * b.st.sg.toNat + b2n x) }
    if b.vec then { c with lb := BitVec.ofNat 5 (b.c.lb.toNat + 31) } else c)
  (∀ s b, SlotIssues s b → exec .snop s = .next (s.slotNext b)) ∧
  (∀ d x y, gives (.sadd d x y) d (fun b => b.x x + b.x y)) ∧
  (∀ d x y, gives (.ssub d x y) d (fun b => b.x x - b.x y)) ∧
  (∀ d x y, gives (.smul d x y) d (fun b => b.x x * b.x y)) ∧
  (∀ d x y, gives (.sand d x y) d (fun b => b.x x &&& b.x y)) ∧
  (∀ d x y, gives (.sor d x y) d (fun b => b.x x ||| b.x y)) ∧
  (∀ d x y, gives (.sxor d x y) d (fun b => b.x x ^^^ b.x y)) ∧
  (∀ d x y, gives (.sshl d x y) d (fun b => if 32 ≤ (b.x y).toNat then 0 else BitVec.ofNat 32 ((b.x x).toNat * 2 ^ (b.x y).toNat))) ∧
  (∀ d x y, gives (.sshr d x y) d (fun b => if 32 ≤ (b.x y).toNat then 0 else BitVec.ofNat 32 ((b.x x).toNat / 2 ^ (b.x y).toNat))) ∧
  (∀ d x y, gives (.ssra d x y) d (fun b => if 32 ≤ (b.x y).toNat then (if (b.x x).toInt < 0 then 0xFFFFFFFF else 0)
    else BitVec.ofInt 32 ((b.x x).toInt / 2 ^ (b.x y).toNat))) ∧
  (∀ d x y, gives (.slt d x y) d (fun b => if (b.x x).toInt < (b.x y).toInt then 1 else 0)) ∧
  (∀ d x y, gives (.sltu d x y) d (fun b => if (b.x x).toNat < (b.x y).toNat then 1 else 0)) ∧
  (∀ d x (imm : BitVec 16), gives (.saddi d x imm) d (fun b => b.x x + BitVec.ofInt 32 imm.toInt)) ∧
  (∀ d x (imm : BitVec 16), gives (.slui d x imm) d (fun b => BitVec.ofNat 32 (imm.toNat * 2 ^ 16 + (b.x x).toNat % 2 ^ 16))) ∧
  (∀ x off s b, SlotIssues s b →
    exec (.beqz x off) s = .next (if b.x x = 0 then goes (s.slotNext b) b off else s.slotNext b) ∧
    exec (.bnez x off) s = .next (if b.x x ≠ 0 then goes (s.slotNext b) b off else s.slotNext b) ∧
    exec (.bru off) s = .next (goes (s.slotNext b) b off)) ∧
  (∀ x n s b, SlotIssues s b → exec (.lstart x n) s = .next ((s.slotNext b).updStream b.n b.vec (fun st =>
    if b.x x = 0 then { st with lc := 0, ec := 0, sg := 0 } else { st with lc := b.x x - 1, ec := BitVec.ofNat 32 (n.toNat + 1), sg := 1 }))) ∧
  (∀ off s b, SlotIssues s b → exec (.loopS off) s = .next (
    let ec (s : State) : State := s.updStream b.n b.vec (fun st => { st with ec := b.st.ec - 1 })
    if 0 < b.st.lc.toNat then goes (turn ((s.slotNext b).updStream b.n b.vec (fun st => { st with lc := b.st.lc - 1 })) b true) b off
    else if 1 < b.st.ec.toNat then goes (turn (ec (s.slotNext b)) b false) b off
    else if b.st.ec.toNat = 1 then turn (ec (s.slotNext b)) b false
    else s.slotNext b)) ∧
  (∀ d (n : BitVec 16), n.toNat ≤ 9 → gives (.srd d n) d (fun b => match n.toNat with
    | 0 => BitVec.ofNat 32 b.st.pc
    | 1 => b.st.lc
    | 2 => b.st.ec
    | 3 => if b.vec then BitVec.ofNat 32 b.c.lb.toNat else 0
    | 4 => if b.vec then b.c.shp else 0
    | 5 => BitVec.ofNat 32 b.n
    | 6 => if b.vec then 1 else 0
    | 7 => BitVec.ofNat 32 (b.now % 2 ^ 32)
    | 8 => BitVec.ofNat 32 (b.now / 2 ^ 32 % 2 ^ 32)
    | _ => BitVec.ofNat 32 b.st.sg.toNat)) ∧
  (∀ d (n : BitVec 16) s b st f k vals, SlotIssues s b → 16 ≤ n.toNat → n.toNat ≤ 31 → b.c.run = .slice st f k vals →
    exec (.srd d n) s = .next ((s.slotNext b).updStream b.n b.vec (fun x => x.setX d.toNat (vals[n.toNat - 16]?.getD 0)))) ∧
  (∀ d (n : BitVec 16) s b, SlotIssues s b → (9 < n.toNat ∧ n.toNat < 16 ∨ 31 < n.toNat) → SlotFails (.srd d n) s b 0x01 1 0 0) ∧
  (∀ x s b, SlotIssues s b → b.vec = true → ((b.x x).toNat / 2 ^ 28 % 4 ≠ 3 ∧ b.x x &&& 0xCE00FFC0#32 = 0) →
    exec (.setshp x) s = .next ((s.slotNext b).updLc b.n (fun c => { c with shp := b.x x }))) ∧
  (∀ x s b, SlotIssues s b → (b.vec = false ∨ (b.x x).toNat / 2 ^ 28 % 4 = 3 ∨ b.x x &&& 0xCE00FFC0#32 ≠ 0) →
    SlotFails (.setshp x) s b 0x01 1 0 0) ∧
  (∀ x s b, SlotIssues s b → b.vec = true →
    exec (.setlb x) s = .next ((s.slotNext b).updLc b.n (fun c => { c with lb := BitVec.ofNat 5 (b.x x).toNat }))) ∧
  (∀ x s b, SlotIssues s b → b.vec = false → SlotFails (.setlb x) s b 0x01 1 0 0) ∧
  (∀ (st : LStream) v r r', st.xr 0 = 0 ∧ st.setX 0 v = st ∧ (r ≠ 0 → (st.setX r v).xr r' = if r' = r then v else st.xr r'))

/-- R371, R374, R375, R377, R381 to R386: each V slot gives every element below NR × NC the value of its operation, rounded once or
wrapped or clamped, zeroes the rest of its 512 bytes, writes them to its register unless D is 127, and pushes them onto its slot's
ring. In the control stream, or where its fields or the shape fail, it takes cause 0x01. Each completes. -/
def Obligations.VectorSlotsActByElement : Prop :=
  let n (b : BCtx) : Nat := b.c.nr * b.c.nc
  let wrote (f : VForm) (b : BCtx) (r : BitVec 4096) (c : LineCore) : LineCore :=
    let c := if f.d.toNat ≤ 63 then c.setW (if f.d.toNat < 32 then f.d.toNat else 32 + (f.d.toNat - 32 + b.c.lb.toNat) % 32) r else c
    if f.v1 then { c with o1 := (r :: c.o1).take 4 } else { c with o0 := (r :: c.o0).take 4 }
  let makes (i : VForm → Instr) (op : Nat) (size : VForm → Nat) (pre : VForm → BCtx → Prop) (el : VForm → BCtx → Nat → Nat) : Prop :=
    (∀ f s b, SlotIssues s b → b.vec = true → vOk op f = true → n b * size f ≤ 512 → pre f b →
      ∃ r : BitVec 4096, exec (i f) s = .next ((s.slotNext b).updLc b.n (wrote f b r)) ∧
        ∀ k, elem r (size f) k = if k < n b then el f b k % 2 ^ (8 * size f) else 0) ∧
    (∀ f s b, SlotIssues s b → (b.vec = false ∨ vOk op f = false ∨ 512 < n b * size f ∨ ¬ pre f b) →
      SlotFails (i f) s b 0x01 (if f.v1 then 3 else 2) 0 0)
  let ty (f : VForm) : Nat := f.ty.toNat
  let sz (f : VForm) : Nat := vSize (ty f)
  let a (f : VForm) (b : BCtx) (k : Nat) : Nat := b.src f.a.toNat (sz f) k
  let b' (f : VForm) (b : BCtx) (k : Nat) : Nat := b.src f.b.toNat (sz f) k
  let c' (f : VForm) (b : BCtx) (k : Nat) : Nat := b.src f.c.toNat (sz f) k
  let fl (f : VForm) (x : Nat) : Ex := decodeZ f.ftz (vFmt (ty f)) x
  let int (f : VForm) (x : Nat) : Int := if ty f = 5 then (x % 2 ^ 8 : Nat) else sgn (8 * sz f) x
  let round (f : VForm) (x : Ex) : Nat := encodeQuiet (vFmt (ty f)) x f.rm.toNat f.ftz
  let fit (f : VForm) (sat : Bool) (x : Int) : Nat :=
    if sat then (if ty f = 5 then satU 8 x else satS (8 * sz f) x) else wrapI (8 * sz f) x
  let arith (f : VForm) (x : Ex) (y : Int) : Nat := if vFloat (ty f) then round f x else fit f f.sat y
  let ok : VForm → BCtx → Prop := fun _ _ => True
  let ew (i : VForm → Instr) (op : Nat) (el : VForm → Nat → Nat → Nat → Nat) : Prop :=
    makes i op sz ok (fun f b k => el f (a f b k) (b' f b k) (c' f b k))
  let moves (i : VForm → Instr) (op : Nat) (pre : VForm → BCtx → Prop) (src : VForm → BCtx → Nat → Nat → Nat) : Prop :=
    makes i op sz pre (fun f b k => a f b (src f b (k / b.c.nc) (k % b.c.nc)))
  ew .vmov 0x00 (fun f x _ _ => if vFloat (ty f) then round f (fl f x) else x) ∧
  ew .vadd 0x01 (fun f x y _ => arith f (Ex.add f.rm.toNat (fl f x) (fl f y)) (int f x + int f y)) ∧
  ew .vsub 0x02 (fun f x y _ => arith f (Ex.add f.rm.toNat (fl f x) (fl f y).opp) (int f x - int f y)) ∧
  ew .vmul 0x03 (fun f x y _ => arith f ((fl f x).mul (fl f y)) (int f x * int f y)) ∧
  ew .vfma 0x04 (fun f x y z => arith f (Ex.add f.rm.toNat ((fl f x).mul (fl f y)) (fl f z)) (int f x * int f y + int f z)) ∧
  ew .vmin 0x05 (fun f x y _ => if vFloat (ty f) then minMaxF (vFmt (ty f)) f.ftz false x y else fit f false (min (int f x) (int f y))) ∧
  ew .vmax 0x06 (fun f x y _ => if vFloat (ty f) then minMaxF (vFmt (ty f)) f.ftz true x y else fit f false (max (int f x) (int f y))) ∧
  ew .vlerp 0x07 (fun f x y z => round f (Ex.add f.rm.toNat (fl f x) ((fl f z).mul (Ex.add f.rm.toNat (fl f y) (fl f x).opp)))) ∧
  ew .vabs 0x08 (fun f x _ _ => arith f (fl f x).abs |int f x|) ∧
  ew .vcmp 0x09 (fun f x y _ =>
    let rel (p : Int → Int → Prop) [DecidableRel p] : Bool :=
      if vFloat (ty f) then (!(fl f x).isNan && !(fl f y).isNan && decide (p (Ex.cmp (fl f x) (fl f y)) 0)) else decide (p (int f x) (int f y))
    let holds : Bool := match f.parm.toNat with
      | 0 => rel (· = ·)
      | 1 => !rel (· = ·)
      | 2 => rel (· < ·)
      | 3 => rel (· ≤ ·)
      | 4 => rel (· > ·)
      | _ => rel (· ≥ ·)
    if holds then 2 ^ (8 * sz f) - 1 else 0) ∧
  ew .vsel 0x0A (fun _ x y z => if z ≠ 0 then x else y) ∧
  ew .vand 0x0B (fun _ x y _ => x &&& y) ∧ ew .vor 0x0C (fun _ x y _ => x ||| y) ∧ ew .vxor 0x0D (fun _ x y _ => x ^^^ y) ∧
  ew .vshl 0x0E (fun f x y _ => if 8 * sz f ≤ y then 0 else x * 2 ^ y) ∧
  ew .vshr 0x0F (fun f x y _ => if 8 * sz f ≤ y then (if int f x < 0 then 2 ^ (8 * sz f) - 1 else 0) else wrapI (8 * sz f) (int f x / 2 ^ y)) ∧
  moves .vbrow 0x21 (fun f b => f.parm.toNat < b.c.nr) (fun f b _ c => f.parm.toNat * b.c.nc + c) ∧
  moves .vbcol 0x22 (fun f b => f.parm.toNat < b.c.nc) (fun f b r _ => r * b.c.nc + f.parm.toNat) ∧
  moves .vrotc 0x23 ok (fun f b r c => r * b.c.nc + (c + f.parm.toNat) % b.c.nc) ∧
  moves .vperm 0x24 ok (fun f b r c => r * b.c.nc + b' f b (r * b.c.nc + c) % b.c.nc) ∧
  -- VTRN: index c × NR + r receives A(r, c)
  makes .vtrn 0x20 sz ok (fun f b k => a f b (k % b.c.nr * b.c.nc + k / b.c.nr)) ∧
  -- VRSUM: the row sum in column 0 by the pairwise tree of R45
  makes .vrsum 0x25 sz ok (fun f b k => if k % b.c.nc = 0 then
      (treeRoot (fun x y => arith f (Ex.add f.rm.toNat (fl f x) (fl f y)) (int f x + int f y)) 9
        ((List.range b.c.nc).map (fun c => some (rsumLeaf f (a f b (k / b.c.nc * b.c.nc + c)))))).getD 0 else 0) ∧
  -- VCVT: the elements of the result have the destination's size, and the shape check takes the larger
  (∀ f s b, SlotIssues s b → b.vec = true → vOk 0x10 f = true →
    let dt := f.parm.toNat
    n b * max (sz f) (vSize dt) ≤ 512 →
    ∃ r : BitVec 4096, exec (.vcvt f) s = .next ((s.slotNext b).updLc b.n (wrote f b r)) ∧
      ∀ k, elem r (vSize dt) k = if k < n b then
          (if vFloat dt then encodeQuiet (vFmt dt) (if vFloat (ty f) then fl f (a f b k) else Ex.ofInt (int f (a f b k))) f.rm.toNat f.ftz
           else if vFloat (ty f) then (floatToInt (fl f (a f b k)) f.rm.toNat (dt ≠ 5) (8 * vSize dt) 0).1
           else if f.sat then (if dt = 5 then satU 8 (int f (a f b k)) else satS (8 * vSize dt) (int f (a f b k)))
           else wrapI (8 * vSize dt) (int f (a f b k))) % 2 ^ (8 * vSize dt)
        else 0) ∧
  (∀ f s b, SlotIssues s b → (b.vec = false ∨ vOk 0x10 f = false ∨ 512 < n b * max (sz f) (vSize f.parm.toNat)) →
    SlotFails (.vcvt f) s b 0x01 (if f.v1 then 3 else 2) 0 0)

/-- R387 to R389: an LD whose tiles are full reads its bytes of the line store into its register, clears their full bits under
TAKE and updates its base under POST; one that meets an empty tile blocks alone; an ST writes its bytes of the line store and no
other, and sets the full bits under FILL. A read that an unordered write of another party meets takes each aligned word's value from before
or after the write, and a signal, a fill that is seen, and a value that is popped order the two (R400). A misaligned access takes cause 0x04 and one beyond the line store 0x05. Each completes. -/
def Obligations.LineStoreSlotsLoadStoreAndBlock : Prop :=
  let addr (b : BCtx) (a : BitVec 5) (off : BitVec 16) (post : Bool) : Nat := if post then (b.x a).toNat else (b.x a + off.signExtend 32).toNat
  -- the byte runs of operation 0 (512 bytes), 1 (the rows of the shape) and 2 (4 bytes)
  let rows (b : BCtx) (op ad pitch : Nat) : List (Nat × Nat) :=
    if op = 0 then [(ad, 512)] else if op = 2 then [(ad, 4)] else (List.range b.c.nr).map (fun k => (ad + 16 * pitch * k, b.c.nc * b.c.es))
  let even (b : BCtx) (op ad : Nat) : Prop := if op = 2 then ad % 4 = 0 else ad % 16 = 0 ∧ (op = 1 → b.c.nc * b.c.es % 16 = 0)
  let within (b : BCtx) (op ad pitch : Nat) : Prop :=
    (∀ r ∈ rows b op ad pitch, r.1 + r.2 ≤ 262144) ∧ (op = 1 → b.c.nr * b.c.nc * b.c.es ≤ 512)
  let post (b : BCtx) (a : BitVec 5) (off : BitVec 16) (p : Bool) (s : State) : State :=
    if p then s.updStream b.n b.vec (fun st => st.setX a.toNat (b.x a + off.signExtend 32)) else s
  let load (i : LdForm → Instr) (op : Nat) : Prop :=
    ∀ f s b, SlotIssues s b → ldOk op f = true → (op ≠ 2 → b.vec = true) →
      let rs := rows b op (addr b f.a f.off f.post) f.pitch.toNat
      let party := partyOf b.vec
      -- the line core once the stream has seen the tiles full
      let c1 := b.c.sawFull party (tilesOf rs)
      let s0 := s.slotNext b
      (even b op (addr b f.a f.off f.post) → within b op (addr b f.a f.off f.post) f.pitch.toNat →
        (b.c.allFull (tilesOf rs) = true → (op = 2 → f.post = true → f.d.toNat - 96 ≠ f.a.toNat) →
          let s1 := (s0.setLc b.n ((s0.lc b.n).sawFull party (tilesOf rs))).freed (c1.draws party rs)
          let s1 := if f.take then s1.updLc b.n (fun c => c.clear (tilesOf rs)) else s1
          ∃ bs, exec (i f) s = .next (post b f.a f.off f.post (
            if op = 2 then s1.updStream b.n b.vec (fun st => st.setX (f.d.toNat - 96) (BitVec.ofNat 32 bs))
            else s1.updLc b.n (fun c => c.setW (physW b.c.lb f.d.toNat) (BitVec.ofNat 4096 bs)))) ∧
            -- the bytes as they stand where no unordered write meets them, and else each word one that the read may return
            ((∀ r ∈ rs, c1.raced party r = false) → bs = leVal (rs.flatMap (fun r => Mem.readN b.c.ls r.1 r.2)) ∧ c1.draws party rs = 0) ∧
            ∀ k j r, rs[k]? = some r → 4 * j + 4 ≤ r.2 →
              BitVec.ofNat 32 (bs / 2 ^ (8 * (r.2 * k + 4 * j))) ∈ c1.mayRead party (r.1 + 4 * j)) ∧
        (b.c.allFull (tilesOf rs) = false → ∃ x, exec (i f) s = .next (s0.updStream b.n b.vec (fun st => { st with blocked := some x })) ∧
          x.rows = rs ∧ x.take = f.take ∧ x.st = none ∧ x.sig = none ∧ x.pc = b.st.pc)) ∧
      (¬ even b op (addr b f.a f.off f.post) → SlotFails (i f) s b 0x04 4 0 0) ∧
      (even b op (addr b f.a f.off f.post) → ¬ within b op (addr b f.a f.off f.post) f.pitch.toNat → SlotFails (i f) s b 0x05 4 0 0)
  let store (i : StForm → Instr) (op : Nat) : Prop :=
    ∀ f s b, SlotIssues s b → stOk op f = true → (op ≠ 2 → b.vec = true) →
      let rs := rows b op (addr b f.a f.off f.post) f.pitch.toNat
      let v : Nat := if 96 ≤ f.s.toNat then (b.st.xr (f.s.toNat - 96)).toNat else (b.reg f.s.toNat).toNat
      (even b op (addr b f.a f.off f.post) → within b op (addr b f.a f.off f.post) f.pitch.toNat →
        ∃ ls races, exec (i f) s = .next ((post b f.a f.off f.post (s.slotNext b)).updLc b.n (fun c =>
            { c with ls := ls, races := races, full := if f.fill then (tilesOf rs).foldl (fun l t => insertNat t l) c.full else c.full })) ∧
          -- another party that is not ordered after it may still read a word as it was, and one that sees the fill may not
          (∃ r, races = r :: (if f.fill then b.c.fill (partyOf b.vec) (tilesOf rs) else b.c).races ∧ r.party = partyOf b.vec ∧
            r.after = [partyOf b.vec] ∧ r.sems = [] ∧ r.cqs = [] ∧ (r.tiles = if f.fill then (tilesOf rs).foldl (fun l t => insertNat t l) [] else []) ∧
            ∀ w v, (w, v) ∈ r.old ↔ v = b.c.lword w ∧ ∃ e ∈ rs, ∃ j, 4 * j < e.2 ∧ w = e.1 + 4 * j) ∧
          -- the last row that covers a byte gives it, row k's first byte being byte k × (row length) of the value
          ∀ x, Mem.read ls x = match rs.zipIdx.reverse.find? (fun e => decide (e.1.1 ≤ x ∧ x < e.1.1 + e.1.2)) with
            | some e => BitVec.ofNat 8 (v / 2 ^ (8 * (e.2 * e.1.2 + (x - e.1.1))))
            | none => Mem.read b.c.ls x) ∧
      (¬ even b op (addr b f.a f.off f.post) → SlotFails (i f) s b 0x04 5 0 0) ∧
      (even b op (addr b f.a f.off f.post) → ¬ within b op (addr b f.a f.off f.post) f.pitch.toNat → SlotFails (i f) s b 0x05 5 0 0)
  load .ldw 0 ∧ load .ldwr 1 ∧ load .ldx 2 ∧ store .stw 0 ∧ store .stwr 1 ∧ store .stx 2 ∧
  -- R400: what a read of a word may return, and the three cases that order two parties
  (∀ c : LineCore, ∀ p a, c.lword a ∈ c.mayRead p a) ∧
  (∀ c : LineCore, ∀ p q as a, (∀ k r, c.ldq = k :: r → k.started = false) →
    (∀ m, p ≠ q → a ∈ as → c.lword a ∈ ({ c.writes p as with ls := m } : LineCore).mayRead q a) ∧ (a ∈ as → (c.writes p as).mayRead p a = [c.lword a]) ∧
    (a ∉ as → (c.writes p as).mayRead q a = c.mayRead q a)) ∧
  (∀ c : LineCore, ∀ p q a, (∀ k r, c.ldq = k :: r → k.started = false) → (∀ r ∈ c.races, r.party = p ∨ q ∈ r.after) →
    (∀ sm, ((c.signalled p sm).consumed q sm).mayRead q a = [c.lword a]) ∧
    (∀ ts us t, t ∈ ts → t ∈ us → ((c.fill p ts).sawFull q us).mayRead q a = [c.lword a]) ∧
    (∀ x, get [] c.cqs x = [] → (∀ r ∈ c.races, look r.cqs x = none) → ((c.pushedCq p x).poppedCq q x).mayRead q a = [c.lword a]))

/-- R391 to R394, R396, R398: QNOP takes a unit of its wait semaphore and adds one to its signal; SEM.INIT, SEM.ADD, SEM.SUB and SEM.RD
set, raise, lower and read a semaphore; CQPUSH and CQPOP move a value through a queue register; CPLD, CPST and MMC push a command
onto their queue. Where they must wait the whole word waits, and where a rule names a cause they halt the line core. Each
completes. R400: a wait and a pop order the word's accesses after what the other party signalled or pushed after its writes, and SEM.ADD is a
signal of its own word's party (log entry 99). -/
def Obligations.QueueSlotsMoveSemaphoresValuesAndCommands : Prop :=
  let runs (i : Instr) (pre : BCtx → Prop) (f : BCtx → State → State) : Prop :=
    ∀ s b, SlotIssues s b → pre b → exec i s = .next (f b (s.slotNext b))
  let halts (i : Instr) (pre : BCtx → Prop) (cause arg : Nat) (err2 : BCtx → Nat) : Prop :=
    ∀ s b, SlotIssues s b → pre b → SlotFails i s b cause 6 arg (err2 b)
  let stops (i : Instr) (pre : BCtx → Prop) (arg : Nat) : Prop := ∀ s b, SlotIssues s b → pre b → SlotHalts i s b 0x43 6 arg 0
  let waits (i : Instr) (pre : BCtx → Prop) : Prop := ∀ s b, SlotIssues s b → pre b → exec i s = .next (s.setWaiting b.n b.vec true)
  let queues (i : Instr) (pre : BCtx → Prop) (sm : Nat) : Prop := ∀ s b, SlotIssues s b → pre b → exec i s =
    .next ((s.updLc b.n (fun c => if c.waiters.contains (partyOf b.vec, sm) then c
      else { c with waiters := c.waiters ++ [(partyOf b.vec, sm)] })).setWaiting b.n b.vec true)
  let ready (f : SemForm) (b : BCtx) : Prop := semFormBad b.c f = none
  let free (f : SemForm) (b : BCtx) : Prop := ∀ x, f.wait = some x → b.c.canTake (partyOf b.vec) x.toNat 1 = true
  let took (f : SemForm) (b : BCtx) (s : State) : State := match f.wait with
    | some x => s.updLc b.n (fun c => { c with sems := upd c.sems x.toNat (fun y => { y with count := y.count - 1 }),
                                               waiters := c.waiters.filter (· ≠ (partyOf b.vec, x.toNat)) })
    | none => s
  -- the word's accesses come after the writes that were signalled before the unit it takes (R400)
  let ordered (f : SemForm) (b : BCtx) (s : State) : State := match f.wait with
    | some x => s.updLc b.n (fun c => c.consumed (partyOf b.vec) x.toNat)
    | none => s
  let signals (f : SemForm) (b : BCtx) (s : State) : State := match f.sig with
    | some x => signal s b.n x.toNat (partyOf b.vec) b.st.pc
    | none => s
  let full (b : BCtx) (q : Nat) : Prop := 8 ≤ (b.c.cq q).length
  let block (b : BCtx) (a : BitVec 5) : List Word := (List.range 4).map (fun k => b.st.xr (a.toNat + k))
  let push (party : Nat) (b : BCtx) (a : BitVec 5) (f : SemForm) (f0 f1 : Bool) (pa : Nat) (s : State) : State :=
    let k : LCmd := { pc := b.st.pc, ws := f.wait, ss := f.sig, blk := block b a, pa := pa, f0 := f0, f1 := f1,
                      consumed := false, started := false, data := [] }
    s.updLc b.n (fun c => c.setQueueOf party (c.queueOf party ++ [k]))
  let pa (b : BCtx) (a : BitVec 5) : Nat :=
    bits (get 0 b.c.lwbase (copyWin (block b a))).toNat 51 4 * 16 + copyOff (block b a)
  (∀ f, runs (.qnop f) (fun b => ready f b ∧ free f b) (fun b s => signals f b (took f b (ordered f b s)))) ∧
  (∀ a sm (c : BitVec 9), c ≠ 0 → runs (.semInit a sm c) (fun b => (b.x a).toNat ≤ c.toNat)
    (fun b s => s.updLc b.n (fun l => { l with sems := set l.sems sm.toNat { count := (b.x a).toNat, ceiling := c.toNat } }))) ∧
  (∀ a sm (c : BitVec 9), c ≠ 0 → halts (.semInit a sm c) (fun b => c.toNat < (b.x a).toNat) 0x40 sm.toNat (fun b => b.c.err2Of sm.toNat)) ∧
  (∀ sm (k : BitVec 9) x, k ≠ 0 → runs (.semAdd sm k) (fun b => look b.c.sems sm.toNat = some x ∧ x.count + k.toNat ≤ x.ceiling)
    (fun b s => s.updLc b.n (fun l =>
      { l.signalled (partyOf b.vec) sm.toNat with sems := upd l.sems sm.toNat (fun y => { y with count := y.count + k.toNat }) }))) ∧
  (∀ sm (k : BitVec 9) x, k ≠ 0 → halts (.semAdd sm k) (fun b => look b.c.sems sm.toNat = some x ∧ x.ceiling < x.count + k.toNat) 0x40
    sm.toNat (fun _ => x.ceiling * 2 ^ 16 + x.count)) ∧
  (∀ sm (k : BitVec 9) x, k ≠ 0 → runs (.semSub sm k)
    (fun b => look b.c.sems sm.toNat = some x ∧ k.toNat ≤ x.count ∧ ∀ e ∈ b.c.waiters, e.2 ≠ sm.toNat)
    (fun b s => (s.updLc b.n (fun l => l.consumed (partyOf b.vec) sm.toNat)).updLc b.n (fun l =>
      { l with sems := upd l.sems sm.toNat (fun y => { y with count := y.count - k.toNat }), waiters := l.waiters.filter (· ≠ (partyOf b.vec, sm.toNat)) }))) ∧
  (∀ sm (k : BitVec 9) x, k ≠ 0 → queues (.semSub sm k) (fun b => look b.c.sems sm.toNat = some x ∧ x.count < k.toNat) sm.toNat) ∧
  (∀ a sm x, runs (.semRd a sm) (fun b => look b.c.sems sm.toNat = some x)
    (fun b s => s.updStream b.n b.vec (fun st => st.setX a.toNat (BitVec.ofNat 32 x.count)))) ∧
  (∀ a sm (k : BitVec 9), k ≠ 0 → halts (.semAdd sm k) (fun b => look b.c.sems sm.toNat = none) 0x41 sm.toNat (fun _ => 0) ∧
    halts (.semSub sm k) (fun b => look b.c.sems sm.toNat = none) 0x41 sm.toNat (fun _ => 0) ∧
    halts (.semRd a sm) (fun b => look b.c.sems sm.toNat = none) 0x41 sm.toNat (fun _ => 0)) ∧
  (∀ a f (q : BitVec 2), runs (.cqpush a f q)
    (fun b => ready f b ∧ (b.vec = true ↔ 2 ≤ q.toNat) ∧ ¬ full b q.toNat ∧ free f b)
    (fun b s => signals f b ((took f b ((ordered f b s).updLc b.n (fun l => l.pushedCq (partyOf b.vec) q.toNat))).updLc b.n
      (fun l => { l with cqs := set l.cqs q.toNat (l.cq q.toNat ++ [b.x a]) })))) ∧
  (∀ a f (q : BitVec 2) v r, runs (.cqpop a f q)
    (fun b => ready f b ∧ (b.vec = true ↔ q.toNat < 2) ∧ b.c.cq q.toNat = v :: r ∧ free f b)
    (fun b s => signals f b (((took f b ((ordered f b s).updLc b.n (fun l => l.poppedCq (partyOf b.vec) q.toNat))).updLc b.n
      (fun l => { l with cqs := set l.cqs q.toNat r })).updStream b.n b.vec
      (fun st => st.setX a.toNat v)))) ∧
  (∀ a f (q : BitVec 2),
    halts (.cqpush a f q) (fun b => ready f b ∧ ¬ (b.vec = true ↔ 2 ≤ q.toNat)) 0x43 q.toNat (fun _ => 0) ∧
    halts (.cqpop a f q) (fun b => ready f b ∧ ¬ (b.vec = true ↔ q.toNat < 2)) 0x43 q.toNat (fun _ => 0) ∧
    stops (.cqpush a f q) (fun b => ready f b ∧ (b.vec = true ↔ 2 ≤ q.toNat) ∧ full b q.toNat ∧ (b.c.stream (!b.vec)).ended = true)
      q.toNat ∧
    stops (.cqpop a f q) (fun b => ready f b ∧ (b.vec = true ↔ q.toNat < 2) ∧ b.c.cq q.toNat = [] ∧ (b.c.stream (!b.vec)).ended = true)
      q.toNat ∧
    waits (.cqpush a f q) (fun b => ready f b ∧ (b.vec = true ↔ 2 ≤ q.toNat) ∧ full b q.toNat ∧ (b.c.stream (!b.vec)).ended = false) ∧
    waits (.cqpop a f q) (fun b => ready f b ∧ (b.vec = true ↔ q.toNat < 2) ∧ b.c.cq q.toNat = [] ∧ (b.c.stream (!b.vec)).ended = false)) ∧
  (∀ (a : BitVec 5) f setf, a.toNat ≤ 28 → runs (.cpld a f setf)
    (fun b => ready f b ∧ copyCheck false a b = none ∧ b.c.ldq.length < 16) (fun b s => push 2 b a f setf false (pa b a) s)) ∧
  (∀ (a : BitVec 5) f waitf clrf, a.toNat ≤ 28 → runs (.cpst a f waitf clrf)
    (fun b => ready f b ∧ copyCheck true a b = none ∧ b.c.stq.length < 16) (fun b s => push 3 b a f waitf clrf (pa b a) s)) ∧
  (∀ (a : BitVec 5) f, a.toNat ≤ 28 → runs (.mmc a f)
    (fun b => ready f b ∧ mmcCheck a b = none ∧ b.c.mq.length < 16) (fun b s => push 4 b a f false false 0 s)) ∧
  (∀ (a : BitVec 5) f setf waitf clrf, a.toNat ≤ 28 →
    waits (.cpld a f setf) (fun b => ready f b ∧ copyCheck false a b = none ∧ 16 ≤ b.c.ldq.length) ∧
    waits (.cpst a f waitf clrf) (fun b => ready f b ∧ copyCheck true a b = none ∧ 16 ≤ b.c.stq.length) ∧
    waits (.mmc a f) (fun b => ready f b ∧ mmcCheck a b = none ∧ 16 ≤ b.c.mq.length)) ∧
  -- a signal adds one unit, and halts the line core where the ceiling is reached
  (∀ s n sm src pc x, look (s.lc n).sems sm = some x →
    (x.count < x.ceiling → signal s n sm src pc = s.updLc n (fun c => { c.signalled src sm with sems := set c.sems sm { x with count := x.count + 1 } })) ∧
    (x.ceiling ≤ x.count → signal s n sm src pc = haltLc s n 0x40 src 6 sm pc (x.ceiling * 2 ^ 16 + x.count)))

/-- R361, R371, R372: what a slot leaves alone. A slot that does not halt its line core changes nothing but its line core and the model's
own counter of free values, and that only where an LDX updates its own destination (the choice of log entry 23) or an LD's read meets a
write that it may not be ordered with (R400): no byte of memory, no
other line core, no register of the other stream, and of its own stream only its PC, its waiting flag and what its own rule writes. -/
def Obligations.SlotsTouchOnlyTheirLineCore : Prop :=
  ∀ i k s s' b, slotOf i = some k → SlotIssues s b → exec i s = .next s' → (s'.lc b.n).halt = false →
    { s' with lcs := s.lcs, free := s.free } = s ∧
    ((k.num = 4 → b.c.races = [] ∧ ∀ x, b.c.ldq.head? = some x → x.started = false) →
      (∀ f, i = .ldx f → f.post = true → f.d.toNat - 96 ≠ f.a.toNat) → s'.free = s.free) ∧
    (∀ n, n ≠ b.n → s'.lc n = s.lc n) ∧
    (s'.lc b.n).stream (!b.vec) = b.c.stream (!b.vec) ∧
    (let c := s'.lc b.n
     let st := c.stream b.vec
     (∀ r, .x r ∉ k.dst → st.xr r = b.st.xr r) ∧
     (∀ r, .w r ∉ k.dst → (∀ x, .w x ∈ k.dst → physW b.c.lb x ≠ physW b.c.lb r) → r < 64 → c.wr (physW b.c.lb r) = b.c.wr (physW b.c.lb r)) ∧
     (k.num ≠ 1 → st.lc = b.st.lc ∧ st.ec = b.st.ec ∧ st.sg = b.st.sg ∧ c.shp = b.c.shp ∧ c.lb = b.c.lb) ∧
     (k.num ≠ 2 → c.o0 = b.c.o0) ∧ (k.num ≠ 3 → c.o1 = b.c.o1) ∧
     (k.num ≠ 5 → c.ls = b.c.ls) ∧ (k.num ≠ 4 → k.num ≠ 5 → c.full = b.c.full) ∧ (k.num < 4 → c.races = b.c.races) ∧
     (k.num ≠ 6 → c.sems = b.c.sems ∧ c.cqs = b.c.cqs ∧ c.ldq = b.c.ldq ∧ c.stq = b.c.stq ∧ c.mq = b.c.mq ∧ c.waiters = b.c.waiters) ∧
     st.tpl = b.st.tpl ∧ st.code = b.st.code ∧ st.len = b.st.len ∧ st.on = b.st.on ∧ st.ended = b.st.ended ∧
     c.lwbase = b.c.lwbase ∧ c.lwext = b.c.lwext ∧ c.lclen = b.c.lclen ∧ c.run = b.c.run ∧ c.stopped = b.c.stopped ∧
     c.err0 = b.c.err0 ∧ c.err1 = b.c.err1 ∧ c.err2 = b.c.err2 ∧ c.htime = b.c.htime)

/-! ### Words, fetching, reset and memory -/

/-- R51, R55, R364, R378, R381, R386, R388, R390: words written out field by field decode to the instructions they stand for, among
them the examples that the spec gives after R369 and R386. -/
def Obligations.WordsDecodeAsTheSpecWritesThem : Prop :=
  let always : Common := { gn := false, g := 63, y := false, ru := false, tw := 0, ta := 7, pd := 0 }
  -- M, C, B, A, D, OP, FMT, GN, G, Y, RU, TW, TA, PD
  let r (m : BitVec 16) (c b a d : BitVec 8) (op : BitVec 9) : BitVec 80 :=
    m ++ c ++ b ++ a ++ d ++ op ++ (0#2) ++ (0#1) ++ (63#6) ++ (0#1) ++ (0#1) ++ (0#6) ++ (7#3) ++ (0#3)
  -- IADD.i32 v3, v1, v2
  decodeCalud (r 2 0 2 1 3 0x040) = .ok (.iadd { common := always, body := .r 3 1 2 0 2 }) ∧
  -- BRA to itself, as the never-guard's opposite: off32 = 0
  decodeCalud ((0#32) ++ (0#8) ++ (0#8) ++ (0x001#9) ++ (2#2) ++ (0#1) ++ (63#6) ++ (0#1) ++ (0#1) ++ (0#6) ++ (7#3) ++ (0#3)) =
    .ok (.bra { common := always, body := .b 0 0 0 }) ∧
  -- MOVI v9, 0x12345678 under !p4, waiting on tag 1, with PD = 2
  decodeCalud ((0x12345678#32) ++ (0#8) ++ (9#8) ++ (0x054#9) ++ (1#2) ++ (1#1) ++ (4#6) ++ (0#1) ++ (0#1) ++ (2#6) ++ (7#3) ++ (2#3)) =
    .ok (.movi { common := { gn := true, g := 4, y := false, ru := false, tw := 2, ta := 7, pd := 2 }, body := .i 9 0 0x12345678 }) ∧
  -- WAITK k5, k9: SUB, V3, V2, K3, K2, CRQ, V1, K1, B, A, zero, D
  decodeCalud ((0#2) ++ (0#1) ++ (1#1) ++ (0#6) ++ (9#6) ++ (0#1) ++ (1#1) ++ (5#6) ++ (0#8) ++ (0#8) ++ (0#2) ++ (0#6) ++ (0x1D6#9) ++ (3#2) ++
      (0#1) ++ (63#6) ++ (0#1) ++ (0#1) ++ (0#6) ++ (7#3) ++ (0#3)) =
    .ok (.waitk { common := always, body := .e 0 0 0 (some 5) (some 9) none false 0 }) ∧
  -- the words of the examples after R369
  decodePatch 0x03050080 = .ok (.tplLd 5 128) ∧ decodePatch 0x14000000 = .ok (.issueAsHeld 5) ∧
  decodePatch 0x15430400 = .ok (.amendThenIssue 5 0x43 1024) ∧
  -- SADDI x4, x2, -1
  decodeS0 ((0x10#6) ++ (4#5) ++ (2#5) ++ (0xFFFF#16)) = .ok (.saddi 4 2 0xFFFF) ∧
  -- the slot of the example after R386: VFMA.f32 w40, w33, x5, w41
  decodeV false 0x1001421CAA40 =
    .ok (.vfma { v1 := false, ty := 0, rm := 0, ftz := false, sat := false, d := 40, a := 33, b := 101, c := 41, parm := 0 }) ∧
  -- LDWR w7, x3, 256 with POST and PITCH 4; STX x1, x2, 8 with FILL
  decodeLd ((1#4) ++ (7#7) ++ (3#5) ++ (256#16) ++ (0#1) ++ (1#1) ++ (4#6)) =
    .ok (.ldwr { d := 7, a := 3, off := 256, take := false, post := true, pitch := 4 }) ∧
  decodeSt ((2#4) ++ (97#7) ++ (2#5) ++ (8#16) ++ (1#1) ++ (0#1) ++ (0#6)) =
    .ok (.stx { s := 97, a := 2, off := 8, fill := true, post := false, pitch := 0 }) ∧
  -- CPLD x8, setf with wait=sm3, sig=sm4
  decodeQ ((0x08#6) ++ (8#5) ++ (1#1) ++ (3#5) ++ (1#1) ++ (4#5) ++ (1#9)) = .ok (.cpld 8 { wait := some 3, sig := some 4 } true)

/-- R51, R55, R64, R65: every Calud instruction that is well formed decodes from its encoding, and every word that decodes is the
encoding of its instruction, which is well formed: no bit of a word is dropped. -/
def Obligations.CaludEncodingsRoundTrip : Prop :=
  (∀ i b, wellFormed i = true → encodeCalud i = some b → decodeCalud b = .ok i) ∧
  (∀ b i, decodeCalud b = .ok i → wellFormed i = true ∧ encodeCalud i = some b)

/-- R364 to R369, R378, R381 to R386, R388, R390: the same of patch words and of the S0, V0, V1, LD, ST and Q slots of a template. -/
def Obligations.LineCoreEncodingsRoundTrip : Prop :=
  (∀ i w, wellFormed i = true → encodePatch i = some w → decodePatch w = .ok i) ∧
  (∀ w i, decodePatch w = .ok i → wellFormed i = true ∧ encodePatch i = some w) ∧
  (∀ i w, wellFormed i = true → encodeS0 i = some w → decodeS0 w = .ok i) ∧
  (∀ w i, decodeS0 w = .ok i → wellFormed i = true ∧ encodeS0 i = some w) ∧
  (∀ i op f w, vopOf i = some (op, f) → wellFormed i = true → encodeV i = some w → decodeV f.v1 w = .ok i) ∧
  (∀ v1 w i, decodeV v1 w = .ok i → wellFormed i = true ∧ encodeV i = some w ∧ ∃ op f, vopOf i = some (op, f) ∧ f.v1 = v1) ∧
  (∀ i w, wellFormed i = true → encodeLdSt i = some w → decodeLd w = .ok i ∨ decodeSt w = .ok i) ∧
  (∀ w i, decodeLd w = .ok i ∨ decodeSt w = .ok i → wellFormed i = true ∧ encodeLdSt i = some w) ∧
  (∀ i w, wellFormed i = true → encodeQ i = some w → decodeQ w = .ok i) ∧
  (∀ w i, decodeQ w = .ok i → wellFormed i = true ∧ encodeQ i = some w)

/-- R52: TA = 6 fails check 1 and takes cause 0x01; RU = 1 fails it and takes that cause on every opcode but MMA and MMAS,
where it is legal; and PD, TW and Y have no part in it. -/
def Obligations.EveryPdTwAndYIsLegal : Prop :=
  (∀ i r w, calRow i = some (r, w) → (w.common.ta = 6 ∨ w.common.ru = true ∧ r.op ≠ 0x1E1 ∧ r.op ≠ 0x1E2) →
    r.legal w = false ∧
    ∀ s c, Attempts r w s c → exec i s = .next (c.draw (takeCause c.s c.tk c.m.id 0x01 0))) ∧
  (∀ i r w pd tw y, calRow i = some (r, w) → r.legal { w with common := { w.common with pd := pd, tw := tw, y := y } } = r.legal w) ∧
  (∃ w, (rowAt 0x1E1).legal w = true ∧ w.common.ru = true) ∧ ∃ w, (rowAt 0x1E2).legal w = true ∧ w.common.ru = true

/-- R50, R65, R109, R182, R362: a step whose member's ten bytes at the PC decode runs exec of that instruction in the state whose
fetch has been made, with the member as its issuer and its issue port taken; one that goes on with a word runs that word; one whose word lies beyond the code
record, lacks X, or does not decode takes cause 0x05, 0x06 or 0x01. R84, R330: no step runs a second word of an issue port in one
fe-cycle, nor a word outside any weir before the groups inside one that wait on its millpond. A step whose line-core stream's word decodes runs exec of it,
and an event of the agenda is its own instruction. -/
def Obligations.AStepRunsTheDecodedInstruction : Prop :=
  (∀ s rest tk mid t m, s.agenda = .member tk mid :: rest →
    let s0 : State := { s with agenda := rest }
    look s.teams tk = some t → t.member mid = some m → (∀ l, m.wait ≠ .yield l) → m.lanes ≠ [] → held s0 t m = false →
    offBank s0 t = false → m.park = none →
    -- the issue port takes one word in a fe-cycle (R84), and a millpond serves the groups inside a weir first (R330)
    (portBusy s0 t m = true → step s = .next s0) ∧
    (portBusy s0 t m = false → m.cont = none →
      let vas := (List.range 10).map (fun k => recVa t.spec.code (10 * m.pc.toNat + k))
      let y := reachLines s0 t (fetchWant t) (m.present.map (fun l => { lane := l, vas := vas }))
      (recExtent t.spec.code < 10 * m.pc.toNat + 10 → step s = .next (takeCause s0 tk mid 0x05 0)) ∧
      (10 * m.pc.toNat + 10 ≤ recExtent t.spec.code → recX t.spec.code = false → step s = .next (takeCause s0 tk mid 0x06 0)) ∧
      (10 * m.pc.toNat + 10 ≤ recExtent t.spec.code → recX t.spec.code = true →
        linesHeld y.1 t y.2.tr = false → y.2.cause = none → y.2.bad = [] →
        let word := decodeBytes (vas.map (fun a => Mem.read y.1.mem (bytePa y.2.tr a)))
        (∀ i more, word = .ok (i, more) →
          let s1 : State := { y.1.updMember tk mid (fun m => { m with park := none }) with cur := some (tk, mid) }
          (behindWeirs s0 tk t m i = true → step s = .next s0) ∧
          (behindWeirs s0 tk t m i = false → step s = exec i (portTaken (withRivals s0 t.seat.core tk mid i s1) t m))) ∧
        (∀ e, word = .error e → step s = .next (takeCause y.1 tk mid 0x01 0)))) ∧
    (∀ k r i, portBusy s0 t m = false → m.cont = some k → k.pc = m.pc → rowOfOp k.op k.w = some r → i = r.con k.w →
      behindWeirs s0 tk t m i = false → step s = exec i (portTaken (withRivals s0 t.seat.core tk mid i { s0 with cur := some (tk, mid) }) t m)) ∧
    -- its port has then taken its word of this fe-cycle, whatever becomes of the member
    (∀ s1, s1.now = s0.now → portBusy (portTaken s1 t m) t m = true) ∧
    -- a YIELD takes the groups that its attempt finds ready (R88); no other word notes them
    (∀ s1 i, (∀ w, i ≠ .yieldW w) → withRivals s0 t.seat.core tk mid i s1 = s1)) ∧
  (∀ s rest n vec st, s.agenda = .stream n vec :: rest →
    let s0 : State := { s with agenda := rest }
    (s.lc n).halt = false → (s.lc n).stopped = false → st = (s.lc n).stream vec → st.on = true → st.blocked = none →
    (st.len < 4 * st.pc + 4 → step s = .next (haltLc s0 n 0x05 (partyOf vec) 0 0 st.pc 0)) ∧
    (4 * st.pc + 4 ≤ st.len →
      let word := decodePatch (BitVec.ofNat 32 (leVal ((List.range 4).map (fun k => Mem.read st.code (4 * st.pc + k)))))
      (∀ i, word = .ok i → step s = exec i { s0 with curLc := some (n, vec) }) ∧
      (∀ e, word = .error e → step s = .next (haltLc s0 n 0x01 (partyOf vec) 0 0 st.pc 0)))) ∧
  (∀ s rest i, s.agenda = .event i :: rest → step s = exec i { s with agenda := rest })

/-- R3, R14: memory reads a byte that a write stores, at the addresses that it stores to, and keeps every other byte; the canonical
form survives each write; and a byte that nothing has written reads 0 (a choice of the model, log entry 1).
R195, R204: a team reads its own written byte, versioned or direct, and memory's elsewhere; a versioned write is seen by the team alone
until it commits, and its commit writes every cell of the version to memory and empties it. That a direct write of the team stands over its
version's byte at once, for the team too, is the model's reading of R195 and R204 (log entry 76). -/
def Obligations.MemoryAndVersionsReadWhatWasWritten : Prop :=
  (
    (∀ (s : State) pa bs x, Mem.read (s.poke pa bs).mem x =
      if pa ≤ x ∧ x < pa + bs.length then bs[x - pa]?.getD 0 else Mem.read s.mem x) ∧
    (∀ (s : State) pa n k, k < n → (s.peek pa n) / 256 ^ k % 256 = (Mem.read s.mem (pa + k)).toNat) ∧
    (∀ (s : State) pa bs, MemCanonical s → MemCanonical (s.poke pa bs)) ∧
    (∀ m m', Memory.wf m = true → Memory.wf m' = true → (∀ x, Mem.read m x = Mem.read m' x) → m = m') ∧
    (∀ x, Mem.read State.reset.mem x = 0)) ∧
  (
    (∀ s tk t cells x, look s.teams tk = some t → ∃ t', look (writeCells s tk true cells).teams tk = some t' ∧
      readByte (writeCells s tk true cells) t' x = ((cells.reverse.find? (fun e => e.1 = x)).map (·.2)).getD (readByte s t x) ∧
      (writeCells s tk true cells).mem = s.mem ∧ ∀ u k, k ≠ tk → look s.teams k = some u →
        look (writeCells s tk true cells).teams k = some u) ∧
    -- a direct write of a team is what the team reads next, its version's byte or not (R195)
    (∀ s tk t cells x, look s.teams tk = some t → ∃ t', look (writeCells s tk false cells).teams tk = some t' ∧
      readByte (writeCells s tk false cells) t' x = ((cells.reverse.find? (fun e => e.1 = x)).map (·.2)).getD (readByte s t x)) ∧
    (∀ s tk t x, look s.teams tk = some t → t.ver.writes ≠ [] →
      Mem.read (commitVersion s tk t).mem x = ((t.ver.cells.reverse.find? (fun e => e.1 = x)).map (·.2)).getD (Mem.read s.mem x) ∧
      ∃ t', look (commitVersion s tk t).teams tk = some t' ∧ t'.ver.cells = [] ∧ t'.ver.reads = [] ∧ t'.ver.writes = [] ∧
        (commitVersion s tk t).commits = s.commits + 1))

/-- Every step keeps memory in its canonical form, whatever runs: a word, a slot, a packet, an event or the passing of time. The form
is the model's own (log entry 1). -/
def Obligations.StepsKeepMemoryCanonical : Prop := ∀ s s', MemCanonical s → step s = .next s' → MemCanonical s'

/-- R25, R186, R325, R326, R372, R428, R438: what reset leaves, as the host reads it. CAP0 to CAP3 have the Reset values
of R25; no partition, context, queue, team, launch, spring, stream or command exists; FWSTAT, QSTAT, FBSTAT, NQSTAT, VSTAT and
LCSTAT read 0; VSCARVE is 4, SPSLOT 2, and CLKCFG holds VID 0x50 and LRATE 1. Memory is in its canonical form, the model's own
(log entry 1). -/
def Obligations.ResetLeavesWhatTheRegisterMapsGive : Prop :=
  let s := State.reset
  MemCanonical s ∧ s.device.caps = [0x01F80701, 0x08008000, 0x8084FE74, 0x82042401] ∧
  s.parts = [] ∧ s.ctxs = [] ∧ s.teams = [] ∧ s.launches = [] ∧ s.springs = [] ∧ s.streams = [] ∧ s.cmds = [] ∧
  (∀ q, (s.queue q).en = false ∧ (s.queue q).halt = false ∧ (s.queue q).wait = false) ∧
  readReg s 0 = 0 ∧
  (∀ q, q < 256 → readReg s (0x10000 + 0x40 * q + 0x14) = 0) ∧
  (∀ d, d < 4 → readReg s (0x1000000 + 0x100000 * d + 0x10) = 0 ∧ readReg s (0x1000000 + 0x100000 * d + 0x54) = 0 ∧
    readReg s (0x1000000 + 0x100000 * d + 0x5C) = 4) ∧
  (∀ d r, d < 4 → r < 32 → readReg s (0x1020000 + 0x100000 * d + 0x40 * r) = 0x00500100 ∧
    readReg s (0x1020000 + 0x100000 * d + 0x40 * r + 0x3C) = 2 ∧ readReg s (0x1010000 + 0x100000 * d + 0x10 * r) = 0) ∧
  (∀ n, n < 32 → readReg s (0x2000000 + 0x400 * n) = 0)

/-! ### Packets -/

/-- R26, R27, R360, R434, R437, R439, R442 to R444: the packets of queue 0, and NOP. Each issues with its effect: a partition comes to
be with its reaches, shares and ring, or goes; a resize asks for the saves of its contexts, or is done at once where there is nothing to
save; a queue comes to be or goes; a summary record, an attestation and an image takeover are made. Each completes. Nothing of a resize
under way that meets the packet, and nothing that holds its accesses to memory, stands against it. That a partition's ring begins with its
counters at 0, and that a packet waits for a resize that it meets, are the model's readings (log entry 39), and so are a closed queue's
values after QUEUE.DESTROY and what it waits for (log entry 46). -/
def Obligations.AdministrativePacketsTakeEffect : Prop :=
  let w (p : Packet) (n : Nat) : Nat := (p.body[n]?.getD 0).toNat
  let mask (lo hi : Nat) : BitVec 128 := BitVec.ofNat 128 (lo + hi * 2 ^ 64)
  Issued .partCreate 0x01 true
    (fun p s => resizeMeets s (w p 0) (mask (w p 1) (w p 2)) = false ∧ look s.parts (w p 0) = none ∧
      maskRefusal s (w p 0) (mask (w p 1) (w p 2)) = none ∧ sharesOver s (w p 0) (w p 4) = false ∧
      hostSpan s (w p 5) (64 * (w p 6 % 2 ^ 17)) = true)
    (fun p s =>
      let m := mask (w p 1) (w p 2)
      let x : Partition := { reaches := m, ways := BitVec.ofNat 64 (w p 3), vshare := BitVec.ofNat 64 (w p 4),
                             vaults := mask (w p 7) (w p 8) ||| m, enc := w p 6 / 2 ^ 32 % 2 ^ 5, streams := w p 6 / 2 ^ 40 % 2 ^ 7,
                             resize := none }
      { s with parts := set s.parts (w p 0) x }.setRing (w p 0)
        { Ring.zero with base := BitVec.ofNat 64 (w p 5), size := BitVec.ofNat 32 (w p 6 % 2 ^ 17) }) ∧
  Issued .partDestroy 0x02 true
    (fun p s => (∃ x, look s.parts (w p 0) = some x ∧ x.resize = none) ∧ (∀ e ∈ s.queues, e.1 = 0 ∨ e.2.en = false ∨ e.2.part ≠ w p 0) ∧
      (∀ e ∈ s.ctxs, e.2.part ≠ w p 0) ∧ ∀ e ∈ s.streams, e.2.part ≠ w p 0)
    (fun p s => { s with parts := del s.parts (w p 0) }.setRing (w p 0) Ring.zero) ∧
  -- PART.RESIZE with a context to save: every live context of the partition is asked to stop, and the packet is under way
  (∀ p s x c, Admits 0x03 p s → look s.parts (w p 0) = some x → x.resize = none → resizeMeets s (w p 0) (mask (w p 1) (w p 2)) = false →
    maskRefusal s (w p 0) (mask (w p 1) (w p 2)) = none →
    (∀ e ∈ resizeMaps p s, partOf s e.1 = w p 0 ∧ look s.ctxs e.1 ≠ none) → mapsRefused s (w p 0) x.reaches (resizeOf p s) = false →
    sharesOver s (w p 0) (w p 4) = false → (∀ d, d < 4 → shareUsed s (w p 0) d ≤ 65536 * shareIn (w p 4) d) →
    millraceLost s (w p 0) x.vaults (mask (w p 6) (w p 7) ||| mask (w p 1) (w p 2)) = false →
    c ∈ s.ctxs → c.2.part = w p 0 → c.2.st = .live →
    ∃ t, exec (.partResize p) s = .next t ∧ look t.parts (w p 0) = some { x with
        resize := some { packet := (p.queue, (s.queue p.queue).next), body := p.body, get := (s.queue p.queue).get } } ∧
      (∀ e ∈ t.ctxs, e.2.part = w p 0 → e.2.st ≠ .live) ∧ t.queue p.queue = (s.issues p false).queue p.queue) ∧
  -- with no context at all, it is done with its issue
  (∀ p s x, Admits 0x03 p s → look s.parts (w p 0) = some x → x.resize = none → resizeMeets s (w p 0) (mask (w p 1) (w p 2)) = false →
    maskRefusal s (w p 0) (mask (w p 1) (w p 2)) = none → w p 5 = 0 →
    sharesOver s (w p 0) (w p 4) = false → (∀ d, d < 4 → shareUsed s (w p 0) d ≤ 65536 * shareIn (w p 4) d) →
    millraceLost s (w p 0) x.vaults (mask (w p 6) (w p 7) ||| mask (w p 1) (w p 2)) = false → (∀ e ∈ s.ctxs, e.2.part ≠ w p 0) →
    ∃ t y, exec (.partResize p) s = .next t ∧ look t.parts (w p 0) = some y ∧ y.resize = none ∧
      y.reaches = mask (w p 1) (w p 2) ∧ y.ways = BitVec.ofNat 64 (w p 3) ∧ y.vshare = BitVec.ofNat 64 (w p 4) ∧
      y.enc = x.enc ∧ y.streams = x.streams ∧
      (∀ v, v < 128 → s.dieUp (v / 32) = true → y.vaults.getLsbD v = (mask (w p 6) (w p 7) ||| mask (w p 1) (w p 2)).getLsbD v) ∧
      ∃ f, (t.queue p.queue).flights.getLast? = some f ∧ f.num = (s.queue p.queue).next ∧ f.done = true) ∧
  Issued .queueCreate 0x04 true
    (fun p s => w p 0 % 256 ≠ p.queue ∧ (s.queue (w p 0 % 256)).en = false ∧ look s.parts (w p 0 / 256) ≠ none ∧
      hostSpan s (w p 1) (w p 2) = true ∧ (w p 3 = 0 ∨ hostSpan s (w p 3) 8 = true))
    (fun p s => s.setQueue (w p 0 % 256) { Queue.zero with
      base := BitVec.ofNat 64 (w p 1), size := BitVec.ofNat 32 (w p 2), en := true, part := w p 0 / 256, tlmir := BitVec.ofNat 64 (w p 3) }) ∧
  Issued .queueDestroy 0x05 true
    (fun p s => let x := s.queue (w p 0)
      w p 0 ≠ 0 ∧ w p 0 ≠ p.queue ∧ x.en = true ∧ x.closing = none ∧ x.head = none ∧ x.flights = [])
    (fun p s => s.setQueue (w p 0) Queue.zero) ∧
  Issued .queueDestroy 0x05 false
    (fun p s => let x := s.queue (w p 0)
      w p 0 ≠ 0 ∧ w p 0 ≠ p.queue ∧ x.en = true ∧ x.closing = none ∧ (x.head ≠ none ∨ x.flights ≠ []))
    (fun p s => s.setQueue (w p 0) { s.queue (w p 0) with closing := some (s.queue p.queue).next }) ∧
  Issued .summaryP 0x06 true (fun p s => hostSpan s (w p 0) 12416 = true ∧ linkHeld s (w p 0) 12416 = false ∧ s.heldWrites = [])
    (fun p s =>
      let bs := summaryHead s ++ (List.range 256).flatMap (fun q => queueEntry (s.queue q)) ++ (List.range 65).flatMap (evRingEntry s)
      { s.poke (w p 0) bs with host := { s.host with sumseq := s.host.sumseq + 1 } }) ∧
  Issued .fwUpdate 0x07 true
    (fun p s =>
      let img := Mem.readN s.mem (w p 0) (w p 1)
      linkHeld s (w p 0) (w p 1) = false ∧ 256 ≤ w p 1 ∧ hostSpan s (w p 0) (w p 1) = true ∧
        Config.ecdsaVerifies Config.waimusKey (Config.sha384 (img.take 160 ++ List.replicate 96 0 ++ img.drop 256))
          ((img.drop 160).take 48) ((img.drop 208).take 48) = true ∧
        s.host.minSvn ≤ imgSvn img ∧ imgField img 12 2 ≤ s.host.fwstat.toNat % 2 ^ 16)
    (fun p s =>
      let img := Mem.readN s.mem (w p 0) (w p 1)
      -- the other complex is active, the standby holds the image, BOOT is 2
      let s' : State := { s with host := { s.host with
        fwstat := fwWord (1 - s.host.fwstat.toNat / 2 ^ 31) 1 2 0 (imgSvn img) (imgStv img)
        fwver := BitVec.ofNat 32 (imgVersion img)
        digests := (Config.sha384 img, Config.sha384 img, s.host.digests.2.2) } }
      postEvent s' 64 12 (eventBody [(0, 1), (4, imgVersion img)])) ∧
  Issued .attestP 0x08 true (fun p s => hostSpan s (w p 6) 400 = true ∧ linkHeld s (w p 6) 400 = false)
    (fun p s =>
      let told := (p.body.take 6).flatMap (fun x => toBytes 8 x.toNat) ++ toBytes 8 s.now ++ toBytes 8 0 ++ toBytes 48 s.host.digests.1.toNat ++
        toBytes 48 (if s.host.fwstat.getLsbD 30 then s.host.digests.2.1.toNat else 0) ++ toBytes 48 s.host.digests.2.2.toNat ++
        fixLen 96 Config.identityKey
      s.poke (w p 6) (told ++ fixLen 96 (Config.ecdsaSign (toBytes 48 (Config.sha384 told).toNat)))) ∧
  Issued .nopPacket 0x10 true (fun _ _ => True) (fun _ s => s)

/-- R179, R223, R226, R293, R308, R351, R352, R354, R406, R407, R434: the packets of a context, a spring or a stream. Each issues with its
effect: a context comes to be or goes, a launch is taken up, a pre-emption is asked for, a resume restores, cached translations and
kept holdings go, a task is dispatched again or released, a spring or a stream is declared, opened or closed. Each completes. That a
PREEMPT of a saved context completes at once, and a RESUME without room waits, are the model's readings (log entry 40); so is the wait of
TLB.INV for accesses that are still out (log entry 52). -/
def Obligations.ContextPacketsTakeEffect : Prop :=
  let w (p : Packet) (n : Nat) : Nat := (p.body[n]?.getD 0).toNat
  let part (s : State) (p : Packet) : Nat := (s.queue p.queue).part
  let me (s : State) (p : Packet) : Nat × Nat := (p.queue, (s.queue p.queue).next)
  let ctx (p : Packet) : Nat := p.context.toNat
  let quiet (s : State) (p : Packet) : Prop := ∀ x, look s.parts (part s p) = some x → x.resize = none
  Issued .ctxCreate 0x11 true (fun p s => hostSpan s (w p 1) (max 1 (w p 2)) = true)
    (fun p s =>
      let c : Context := { part := part s p, root := w p 0, save := w p 1, saveBytes := w p 2, flat := (w p 3).testBit 0, prc := (w p 3).testBit 1,
                           st := .live, preempters := [], map := [] }
      { s with ctxs := set s.ctxs (ctx p) c }) ∧
  Issued .ctxDestroy 0x12 true
    (fun p s => quiet s p ∧ (∀ e ∈ s.teams, e.2.ctx ≠ ctx p) ∧ (∀ e ∈ s.springs, e.2.ctx ≠ ctx p) ∧ (∀ a ∈ s.abands, a.ctx ≠ ctx p) ∧
      ∀ c, look s.ctxs (ctx p) = some c → c.preempters = [])
    (fun p s => { s with ctxs := del s.ctxs (ctx p), kept := s.kept.filter (fun k => k.ctx ≠ ctx p), tlb := s.tlb.filter (fun e => e.ctx ≠ ctx p) }) ∧
  -- LAUNCH: the record is read once; the launch id is one that nothing of the context uses; the packet is under way
  (∀ p s q, Admits 0x13 p s → quiet s p → (∀ d, d < 4 → (w p 1).testBit d = true → s.diePresent d = true) →
    specHeld s (ctx p) (w p 0) = false → readSpec s (ctx p) (part s p) (w p 0) (w p 1) = .ok q → q.gen = false →
    (∃ d, d < 4 ∧ (w p 1).testBit d = true ∧ partOnDie s (part s p) d = true) →
    ∃ l s1, s1 = ({ s with launches := set s.launches s.freshLaunch l, freshLaunch := s.freshLaunch + 1, lids := setD 0 s.lids (ctx p) l.lid } : State) ∧
      exec (.launchP p) s = .next (s1.issues p false) ∧
      l.ctx = ctx p ∧ l.part = part s p ∧ l.packet = me s p ∧ l.spec = q ∧ l.dies = BitVec.ofNat 4 (w p 1) ∧ l.cursor = 0 ∧ l.again = [] ∧
      ((usedLids s (ctx p)).length < 65535 → l.lid.toNat ∉ usedLids s (ctx p))) ∧
  Issued .preemptP 0x14 false (fun p s => quiet s p ∧ ∃ c, look s.ctxs (ctx p) = some c ∧ c.st = .live)
    (fun p s => (requestSave s (ctx p)).updCtx (ctx p) (fun c => { c with preempters := [me s p] })) ∧
  Issued .preemptP 0x14 true (fun p s => quiet s p ∧ ∃ c, look s.ctxs (ctx p) = some c ∧ c.st = .saved) (fun _ s => s) ∧
  (∀ c q, let map (p : Packet) : Sparse (Option Nat) := if (w p 0).testBit 0 then remapOf (pnum p / 2 ^ 64) else c.map
    let back (p : Packet) (s : State) : State := resumeContext (s.updCtx (ctx p) (fun x => { x with map := map p })) (ctx p)
    Issued .resumeP 0x15 true
      (fun p s => quiet s p ∧ look s.parts (part s p) = some q ∧ look s.ctxs (ctx p) = some c ∧ c.st = .saved ∧ linkHeld s c.save (max 1 c.saveBytes) = false ∧
        imageOk s c = true ∧ ((w p 0).testBit 0 = true → remapBad s (ctx p) q.reaches (map p) = false) ∧ resumeFits (back p s) (ctx p) = true) back) ∧
  -- a saved team that a resume restores stands on its core again, not saved, its members ready from now on
  (∀ s k t core, look s.teams k = some t → resumeCore s t = some core →
    ∃ t', look (restoreTeam s (k, t)).teams k = some t' ∧ t'.saved = false ∧ t'.seat.core = core ∧
      t'.members = t.members.map (fun m => m.restore s.now)) ∧
  -- TLB.INV: an access of a release through a dropped entry that is still out holds the packet; the other writes that teams of the
  -- context made to a page of a dropped entry are performed for every party, and so are their loads from it, which stand as they are
  (let hit (p : Packet) (e : TlbEntry) : Bool := e.ctx = ctx p && (w p 1 = 0 || decide (e.va < w p 0 + w p 1 ∧ w p 0 < e.va + e.size))
   let inGone (p : Packet) (s : State) (pa : Nat) : Bool := (s.tlb.filter (hit p)).any (fun e =>
     decide (entryPfn e.leaf.toNat / e.size * e.size ≤ pa ∧ pa < entryPfn e.leaf.toNat / e.size * e.size + e.size))
   let out (p : Packet) (s : State) : Prop := ∃ e ∈ s.teams, e.2.ctx = ctx p ∧ ∃ r ∈ e.2.rels, ∃ a ∈ r.accesses, ∃ pa ∈ a.pas, inGone p s pa = true
   (∀ p s, Admits 0x16 p s → out p s → exec (.tlbInv p) s = .next s) ∧
   Issued .tlbInv 0x16 true (fun p s => ¬ out p s)
    (fun p s =>
      let through (x : Late) : Bool := x.space.isNone && (look s.teams x.team).any (fun t => t.ctx = ctx p) && inGone p s x.word
      let s : State := (teamsOf s (ctx p)).foldl (fun u e => u.firmLoads e.1 (fun x => x.pas.any (inGone p s))) s
      { s with tlb := s.tlb.filter (fun e => !hit p e) }.withLate (s.late.map (fun x => if through x then { x with upto := 5 } else x)))) ∧
  -- SPRING.DECL: every entry of the fill map is UNFILLED, and the spring is declared
  (∀ p s q, Admits 0x17 p s → quiet s p →
    let dies := ((List.range 4).map (fun d => if partOnDie s (part s p) d then 2 ^ d else 0)).sum
    dies ≠ 0 → specHeld s (ctx p) (pnum p / 2 ^ 320 % 2 ^ 57) = false →
    readSpec s (ctx p) (part s p) (pnum p / 2 ^ 320 % 2 ^ 57) dies = .ok q →
    springRefused s (springOf s (ctx p) (pnum p) q) = false →
    let x := springOf s (ctx p) (pnum p) q
    linkHeld s x.mapBase (32 * (x.size / 2 ^ x.blk)) = false →
    let s0 : State := zeroSpan s x.mapBase (32 * (x.size / 2 ^ x.blk))
    let s1 : State := { s0 with springs := set s.springs (64 * x.ctx + x.num) x, order := s.order + 1 }
    exec (.springDecl p) s = .next (s1.issues p true) ∧
      ∀ b, b < x.size / 2 ^ x.blk → ∀ k, k < 32 → Mem.read s1.mem (x.mapBase + 32 * b + k) = 0) ∧
  (∀ x, Issued .springUndecl 0x18 true
    (fun p s => look s.springs (springKey (ctx p) (w p 0)) = some x ∧ x.waiters = [] ∧ x.queue = [] ∧ x.noFrame = [] ∧
      (∀ b ∈ x.fills, linkHeld s (x.entryPa b) 32 = false) ∧
      ∀ e ∈ s.teams, e.2.ctx = x.ctx → ∀ g, e.2.gen = some g → g.spring = x.num → g.filled = true)
    (fun _ s =>
      let s' := x.fills.foldl (fun s b => putEntry s x b 0) s
      { freeTags s' x with springs := del s'.springs x.key })) ∧
  (∀ p s s', Admits 0x19 p s → quiet s p → openStream s (part s p) (BitVec.ofNat 1024 (pnum p)) = .ok s' →
    exec (.streamOpen p) s = .next (s'.issues p true)) ∧
  (∀ x, Issued .streamClose 0x1A false
    (fun p s => s.edie = true ∧ look s.streams (w p 0) = some x ∧ x.part = part s p ∧ x.closing = none)
    (fun p s => s.updPs (w p 0) (fun x => { x with closing := some (me s p, false) }))) ∧
  Issued .passRelease 0x1B true (fun _ _ => True)
    (fun p s => { s with kept := s.kept.filter (fun k => !(k.ctx = ctx p && k.passKey = w p 0)) }) ∧
  (let known (p : Packet) (s : State) (a : Aband) : Prop :=
     s.abands.find? (fun a => a.ctx = ctx p && a.task = BitVec.ofNat 64 (w p 0)) = some a ∧ a.st = .waiting
   (∀ a, Issued .taskCtl 0x1C true (fun p s => known p s a ∧ (w p 1).testBit 0 = true)
     (fun p s => { s with abands := s.abands.filter (fun x => !(x.ctx = ctx p && x.task = BitVec.ofNat 64 (w p 0))) })) ∧
   ∀ a, Issued .taskCtl 0x1C false (fun p s => known p s a ∧ (w p 1).testBit 0 = false)
     (fun p s =>
       let s' : State := { s with abands := s.abands.map (fun x =>
         if x.ctx = ctx p && x.task = BitVec.ofNat 64 (w p 0) then { x with st := .again p.queue (s.queue p.queue).next } else x) }
       s'.updLaunch a.launch (fun l => { l with again := l.again ++ [(w p 0 % 2 ^ 48, a.retry + 1)] })))

/-! ### Queues, the host and the firmware -/

/-- R436: a queue error halts the queue before its packet. QERR and the event are written, and nothing else of the queue or the machine
changes: QGET, the earlier packets and the greatest accepted SIGVAL stay. Earlier packets complete and the timeline advances for them, on a
halted queue too. A write of QCTL with RESTART sets QGET and clears HALT. Where a header breaks the rules of codes 1 and 2 both, it gets
code 2 (the model's reading, log entry 30), and the order of the other checks is the model's (log entry 38). -/
def Obligations.QueueErrorsHaltTheQueueBeforeThePacket : Prop :=
  let halted (s : State) (q code cause : Nat) : State :=
    let x := s.queue q
    let err : Nat := x.get.toNat * 2 ^ 32 + cause * 2 ^ 8 + code
    let y : Queue := { x with halt := true, wait := false, head := none, err := BitVec.ofNat 64 err }
    postEvent (s.setQueue q y) (if q = 0 then 64 else x.part) 2 (eventBody [(0, q), (8, err)])
  let runs (s : State) (q : Nat) : Prop := (s.queue q).en = true ∧ (s.queue q).halt = false ∧ (s.queue q).closing = none
  -- a check of R429 to R434 fails: whichever packet it is
  (∀ i ∈ [Instr.partCreate, .partDestroy, .queueCreate, .queueDestroy, .summaryP, .fwUpdate, .attestP, .dieOffline, .nopPacket, .ctxCreate,
      .ctxDestroy, .launchP, .preemptP, .resumeP, .tlbInv, .springDecl, .springUndecl, .streamOpen, .streamClose, .passRelease, .taskCtl],
    ∀ p s, runs s p.queue →
      (∀ code, checkPacket s p = some code → exec (i p) s = .next (halted s p.queue code 0)) ∧
      (checkPacket s p = none → contextBad s p = true → exec (i p) s = .next (halted s p.queue 7 0))) ∧
  (∀ p s code, runs s p.queue → checkPacket s p = some code → (∀ e ∈ s.parts, e.2.resize = none) →
    exec (.partResize p) s = .next (halted s p.queue code 0)) ∧
  -- the header: LEN of 0, LEN above QSIZE, LEN that is not the type's (R429); more bytes than the ring holds
  (∀ q s, runs s q → (s.queue q).head = none → (s.queue q).size ≠ 0 → ringHeld s (s.queue q) 1 = false →
    let x := s.queue q
    let s1 := s.setQueue q { x with seen := x.put }
    let avail := (x.put - x.get).toNat
    let h := ringWord s x 0
    (x.size.toNat < avail → exec (.packetTakeUp q) s = .next (halted s1 q 8 0)) ∧
    (8 ≤ avail → avail ≤ x.size.toNat → h / 2 ^ 16 % 2 ^ 16 = 0 → exec (.packetTakeUp q) s = .next (halted s1 q 1 0)) ∧
    (8 ≤ avail → avail ≤ x.size.toNat → x.size.toNat < 8 * (h / 2 ^ 16 % 2 ^ 16) → exec (.packetTakeUp q) s = .next (halted s1 q 2 0)) ∧
    ∀ t, ptypeOf (h % 2 ^ 8) = some t → t.typ ≠ 0x03 → t.typ ≠ 0x15 → 8 ≤ avail → avail ≤ x.size.toNat →
      8 * (h / 2 ^ 16 % 2 ^ 16) ≤ x.size.toNat → h / 2 ^ 16 % 2 ^ 16 ≠ 3 + 2 * (h / 2 ^ 10 % 2 ^ 3) + t.words →
      exec (.packetTakeUp q) s = .next (halted s1 q 1 0)) ∧
  -- the packets before it
  (∀ q s v, (s.queue q).halt = true → (s.queue q).closing = none → (s.queue q).tlmir = 0 →
    (((s.queue q).flights.takeWhile (·.done)).filterMap (·.sig)).getLast? = some v →
    ∃ t, exec (.timelineAdvance q) s = .next t ∧ t.queue q = { s.queue q with
      tlval := v, flights := (s.queue q).flights.dropWhile (·.done) }) ∧
  -- RESTART
  (∀ q s (v : DWord), v.getLsbD 1 = true → q < 256 →
    exec (.qctlRestart q v) s = .next (s.setQueue q { s.queue q with
      get := BitVec.ofNat 32 (v.toNat / 2 ^ 32 / 8 * 8), halt := false, head := none, wait := false }))

/-- R428 to R433, R440: QPUT takes the host's count; a whole packet at the head is taken up with the fields of R430; it issues once its
waits and its BAR allow, as its own type's packet, and waits until then; the timeline takes the last SIGVAL of the packets that have
completed with every earlier one, and its mirror is written; queue 0 is enabled once the firmware runs. -/
def Obligations.QueuesTakeUpIssueAndAdvance : Prop :=
  (∀ q v s, q ≤ 255 → exec (.qput q v) s = .next (s.setQueue q { s.queue q with put := BitVec.ofNat 32 (v.toNat / 8 * 8) })) ∧
  (∀ q s, let x := s.queue q
    let w (i : Nat) : Nat := leVal ((List.range 8).map (fun k => Mem.read s.mem (x.base.toNat + (x.get.toNat + 8 * i + k) % x.size.toNat)))
    let len := w 0 / 2 ^ 16 % 2 ^ 16
    let nw := w 0 / 2 ^ 10 % 2 ^ 3
    let avail := (x.put - x.get).toNat
    x.en = true → x.halt = false → x.head = none → x.closing = none → x.size ≠ 0 → avail ≤ x.size.toNat → 8 * len ≤ avail →
    ringHeld s x len = false → ∀ t, ptypeOf (w 0 % 2 ^ 8) = some t → t.typ ≠ 0x03 → t.typ ≠ 0x15 → len = 3 + 2 * nw + t.words →
    (∀ p, p = readPacket s q x len → checkPacket (s.setQueue q { x with seen := x.put }) p = none) →
    ∃ p, exec (.packetTakeUp q) s = .next (s.setQueue q { x with seen := x.put, head := some p }) ∧
      p.queue = q ∧ p.typ.toNat = w 0 % 2 ^ 8 ∧ p.sig = (w 0).testBit 8 ∧ p.bar = (w 0).testBit 9 ∧ p.len = len ∧
      p.sigval.toNat = w 1 ∧ p.context.toNat = w 2 % 2 ^ 32 ∧
      p.waits = (List.range nw).map (fun i => (w (4 + 2 * i) % 256, BitVec.ofNat 64 (w (3 + 2 * i)))) ∧
      p.body.map (·.toNat) = (List.range (len - (3 + 2 * nw))).map (fun i => w (3 + 2 * nw + i))) ∧
  (∀ q p s, (s.queue q).head = some p → (s.queue q).en = true → (s.queue q).halt = false → p.queue = q →
    let met : Prop := (∀ e ∈ p.waits, 0 ≤ ((s.queue e.1).tlval - e.2).toInt) ∧ (p.bar = true → ∀ f ∈ (s.queue q).flights, f.done = true)
    (met → ∀ e ∈ [(0x01, Instr.partCreate), (0x02, .partDestroy), (0x03, .partResize), (0x04, .queueCreate), (0x05, .queueDestroy),
        (0x06, .summaryP), (0x07, .fwUpdate), (0x08, .attestP), (0x09, .dieOffline), (0x10, .nopPacket), (0x11, .ctxCreate),
        (0x12, .ctxDestroy), (0x13, .launchP), (0x14, .preemptP), (0x15, .resumeP), (0x16, .tlbInv), (0x17, .springDecl),
        (0x18, .springUndecl), (0x19, .streamOpen), (0x1A, .streamClose), (0x1B, .passRelease), (0x1C, .taskCtl)],
      p.typ.toNat = e.1 → exec (.packetIssue q) s = exec (e.2 p) s) ∧
    (met → Admits 0x10 p s → exec (.packetIssue q) s = .next (s.issues p true)) ∧
    (¬ met → exec (.packetIssue q) s = .next (s.setQueue q { s.queue q with wait := true }))) ∧
  (∀ q s, (s.queue q).closing = none →
    let x := s.queue q
    let rest := x.flights.dropWhile (·.done)
    let sigs := (x.flights.takeWhile (·.done)).filterMap (·.sig)
    (sigs = [] → exec (.timelineAdvance q) s = .next (s.setQueue q { x with flights := rest })) ∧
    ∀ v, sigs.getLast? = some v →
      (x.tlmir ≠ 0 → linkHeld s x.tlmir.toNat 8 = true → exec (.timelineAdvance q) s = .next s) ∧
      ((x.tlmir ≠ 0 → linkHeld s x.tlmir.toNat 8 = false) →
      let s1 := s.setQueue q { x with flights := rest, tlval := v }
      exec (.timelineAdvance q) s = .next (if x.tlmir = 0 then s1 else s1.poke x.tlmir.toNat (toBytes 8 v.toNat)))) ∧
  (∀ (v : DWord) s, v.getLsbD 0 = true → s.host.fwstat.toNat / 2 ^ 28 % 4 = 2 → (∃ k, k < 13 ∧ (s.queue 0).size.toNat = 4096 * 2 ^ k) →
    hostSpan s (s.queue 0).base.toNat (s.queue 0).size.toNat = true →
    exec (.qctlEnable v) s = .next (s.setQueue 0 { s.queue 0 with en := true })) ∧
  -- an event stands in its ring, behind its sequence number; a ring from empty to not empty interrupts (R437)
  (∀ s n evt body, let r := s.ring n
    r.isFull s = false → r.held = [] → r.out = [] → entryHeld s n = false → body.length = 32 →
    let t := postEvent s n evt body
    t.ring n = { r with put := r.put + 1, seq := r.seq + 1 } ∧
      Mem.readN t.mem (r.base.toNat + 64 * (r.put.toNat % r.size.toNat)) 64 =
        toBytes 8 (evt + (r.seq + 1).toNat * 2 ^ 32) ++ List.replicate 24 0 ++ body ∧
      t.host.interrupts = s.host.interrupts ++ (if r.put = r.get then [n] else []))

/-- R186, R325, R425 to R428, R437, R438: the host's register writes. A width or an alignment that R425 does not allow writes nothing and is
reported; read-only registers and halves of write-only ones ignore a write; a register with an effect of its own has it; the others take the
value that their tables allow, and a value that they do not allow is refused with an event. That a ring's whole span, BOOTIMG and BOOTCFG
must lie in memory, and what the low bits of an aligned base do, are the model's readings (log entry 44). -/
def Obligations.RegisterWritesActByTheirTables : Prop :=
  let queue (q o : Nat) : Nat := 0x10000 + 0x40 * q + o
  let ring (n o : Nat) : Nat := 0x20000 + 0x20 * n + o
  let unit (d o : Nat) : Nat := 0x1000000 + 0x100000 * d + o
  let vault (v o : Nat) : Nat := 0x1010000 + 0x100000 * (v / 32) + 0x10 * (v % 32) + o
  let reach (n o : Nat) : Nat := 0x1020000 + 0x100000 * (n / 32) + 0x40 * (n % 32) + o
  let low (v : DWord) : Word := BitVec.ofNat 32 v.toNat
  let refused (s : State) (off : Nat) : State := postEvent s 64 3 (eventBody [(0, off)])
  (∀ off width v s, width ≠ 4 ∧ width ≠ 8 ∨ off % width ≠ 0 →
    exec (.registerWrite off width v) s = .next (postEvent s 64 10 (eventBody [(0, 0x20000000000 + off), (8, 0)]))) ∧
  (∀ v s, ∀ off ∈ [0x000, 0x004, 0x018, 0x01C, 0x020, 0x028], exec (.registerWrite off 4 v) s = .next s) ∧
  (∀ q v s, q < 256 → ∀ o ∈ [0x10, 0x14, 0x18, 0x1C, 0x28, 0x2C, 0x30, 0x34], exec (.registerWrite (queue q o) 4 v) s = .next s) ∧
  (∀ d v s, d < 4 → ∀ o ∈ [0x008, 0x018, 0x01C, 0x020, 0x024, 0x04C], exec (.registerWrite (unit d o) 4 v) s = .next s) ∧
  (∀ v s,
    (inDram v.toNat = true → hostPa s v.toNat = true →
      exec (.registerWrite 0x008 8 v) s = .next { s with host := { s.host with bootimg := v } } ∧
      exec (.registerWrite 0x010 8 v) s = .next { s with host := { s.host with bootcfg := v } }) ∧
    (inDram v.toNat = false ∨ hostPa s v.toNat = false →
      exec (.registerWrite 0x008 8 v) s = .next (refused s 0x008) ∧ exec (.registerWrite 0x010 8 v) s = .next (refused s 0x010)) ∧
    exec (.registerWrite 0x018 8 v) s = exec (.sumreq v) s) ∧
  (∀ q v s, q < 256 →
    exec (.registerWrite (queue q 0x0C) 4 v) s = exec (.qput q (low v)) s ∧
    ((s.queue q).en = true → exec (.registerWrite (queue q 0) 8 v) s = .next s ∧ exec (.registerWrite (queue q 8) 4 v) s = .next s) ∧
    ((s.queue q).en = false →
      (v.toNat % 4096 = 0 ∧ hostSpan s v.toNat (max 1 (s.queue q).size.toNat) = true → exec (.registerWrite (queue q 0) 8 v) s = .next (s.setQueue q { s.queue q with base := v })) ∧
      (v.toNat % 4096 ≠ 0 ∨ hostSpan s v.toNat (max 1 (s.queue q).size.toNat) = false → exec (.registerWrite (queue q 0) 8 v) s = .next (refused s (queue q 0))) ∧
      ((∃ k, k < 13 ∧ (low v).toNat = 4096 * 2 ^ k) → hostSpan s (s.queue q).base.toNat (low v).toNat = true → exec (.registerWrite (queue q 8) 4 v) s = .next (s.setQueue q { s.queue q with size := low v })) ∧
      ((∀ k, k < 13 → (low v).toNat ≠ 4096 * 2 ^ k) ∨ hostSpan s (s.queue q).base.toNat (low v).toNat = false → exec (.registerWrite (queue q 8) 4 v) s = .next (refused s (queue q 8)))) ∧
    (q ≠ 0 → exec (.registerWrite (queue q 0x28) 8 v) s = exec (.qctlRestart q v) s)) ∧
  (∀ n v s, n ≤ 64 → (s.ring n).held = [] →
    exec (.registerWrite (ring n 0x14) 4 v) s = .next (s.setRing n { s.ring n with lost := low v }) ∧
    exec (.registerWrite (ring n 0x0C) 4 v) s = .next s ∧
    (n < 64 → exec (.registerWrite (ring n 0) 8 v) s = .next s ∧ exec (.registerWrite (ring n 8) 4 v) s = .next s) ∧
    ∃ t, exec (.registerWrite (ring n 0x10) 4 v) s = .next t ∧ t.ring n = { s.ring n with get := low v }) ∧
  (∀ d v s, d < 4 → s.dieUp d = true →
    exec (.registerWrite (unit d 0x014) 4 v) s = .next (s.setUnit d { s.unit d with fbovfcnt := low v }) ∧
    exec (.registerWrite (unit d 0x058) 4 v) s = .next (s.setUnit d { s.unit d with acthr := BitVec.ofNat 32 (v.toNat % 2 ^ 12) }) ∧
    exec (.registerWrite (unit d 0x05C) 4 v) s = exec (.vscarve d (low v)) s ∧
    exec (.registerWrite (unit d 0x018) 8 v) s = exec (.fbreplay d v) s ∧ exec (.registerWrite (unit d 0x020) 8 v) s = exec (.fbabort d v) s) ∧
  (∀ n v s, n < 128 → s.dieUp (n / 32) = true →
    exec (.registerWrite (vault n 0x8) 4 v) s = exec (.vres n (low v)) s ∧ exec (.registerWrite (vault n 0x4) 4 v) s = .next s ∧
    exec (.registerWrite (reach n 0x00) 4 v) s = exec (.clkcfg n (low v)) s ∧ exec (.registerWrite (reach n 0x08) 4 v) s = exec (.mpfill n (low v)) s ∧
    exec (.registerWrite (reach n 0x3C) 4 v) s = exec (.spslot n (low v)) s ∧ exec (.registerWrite (reach n 0x0C) 4 v) s = .next s ∧
    exec (.registerWrite (reach n 0x30) 4 v) s = .next (s.setReach n { s.reach n with drpcnt := low v })) ∧
  -- the counters of a stream that is not open keep what is written to them (R423)
  (∀ n v s, n < 64 → n < s.maxStreams → s.edie = true → look s.streams n = none → ∀ o ∈ [0x08, 0x0C, 0x18, 0x1C, 0x20],
    ∃ t, exec (.registerWrite (0x2008000 + 0x40 * n + o) 4 v) s = .next t ∧ { t with sregs := s.sregs } = s ∧
      readReg t (0x2008000 + 0x40 * n + o) = (low v).toNat) ∧
  -- the blocks of a die that is absent or out of service ignore every write
  (∀ d o v s, d < 4 → s.dieUp d = false → o < 0x100000 → o % 4 = 0 → exec (.registerWrite (unit d o) 4 v) s = .next s)

/-- R226, R425, R439 to R443, R352 to R355: a host write of memory stores its bytes, or is refused and reported where it meets a declared
spring; SUMREQ writes the summary record; a failover changes the active complex, takes the standby away with its image's digest, and changes
nothing else of the firmware (that no standby is left is log entry 31's reading); a device reset leaves every register as R440 gives, once
its image and configuration record are good, and keeps memory, BOOTIMG, BOOTCFG and the device time (log entry 32); the end of a save leaves
the context saved, its members out of masked regions, and its packets complete. A host write or a summary record that a port or a vault
holds is made later, in order (log entry 15), and a host read of memory has no effect (log entry 45).
R435: DIE.OFFLINE of a die that is present, in service and not the last completes: its bit of DIEOFF is set, its reaches and vaults
leave every partition and vault share, its millrace reservations and cached translations and marks go, and no team that was resident
on it remains in service there. -/
def Obligations.HostAccessesFirmwareSavesAndLostDies : Prop :=
  (
    (∀ pa bs s, bs ≠ [] → hostSpan s pa bs.length = true →
      (meetsSpring s (pa, bs.length) = false → linkHeld s pa bs.length = false → s.heldWrites = [] →
        ∃ t, exec (.hostMemoryAccess pa (some bs)) s = .next t ∧ { t with mem := s.mem, late := s.late } = s ∧
        (∀ i b, bs[i]? = some b → Mem.read t.mem (pa + i) = b) ∧ ∀ a, a < pa ∨ pa + bs.length ≤ a → Mem.read t.mem a = Mem.read s.mem a) ∧
      -- a port that retrains, or a halted vault, holds it (R319, R445)
      (meetsSpring s (pa, bs.length) = false → linkHeld s pa bs.length = true →
        exec (.hostMemoryAccess pa (some bs)) s = .next { s with heldWrites := s.heldWrites ++ [(pa, some bs)] }) ∧
      (meetsSpring s (pa, bs.length) = true →
        exec (.hostMemoryAccess pa (some bs)) s = .next (postEvent s 64 10 (eventBody [(0, pa), (8, 0)])))) ∧
    (∀ pa s, exec (.hostMemoryAccess pa none) s = .next s) ∧
    (∀ (pa : DWord) s, hostSpan s pa.toNat 12416 = true → linkHeld s pa.toNat 12416 = false → s.heldWrites = [] → ∃ bs t, bs.length = 12416 ∧ exec (.sumreq pa) s = .next t ∧
      t = { s.poke pa.toNat bs with host := { s.host with sumseq := s.host.sumseq + 1 } } ∧
      bs.take 64 = summaryHead s ∧ (∀ q, q < 256 → (bs.drop (64 + 32 * q)).take 32 = queueEntry (s.queue q)) ∧
      ∀ n, n ≤ 64 → (bs.drop (8256 + 64 * n)).take 64 = evRingEntry s n) ∧
    -- a record whose write is held is made, and SUMSEQ counts it, when it is written
    (∀ (pa : DWord) s, hostSpan s pa.toNat 12416 = true → linkHeld s pa.toNat 12416 = true →
      exec (.sumreq pa) s = .next { s with heldWrites := s.heldWrites ++ [(pa.toNat, none)] }) ∧
    (∀ (pa : DWord) s, hostSpan s pa.toNat 12416 = false → exec (.sumreq pa) s = .next (postEvent s 64 3 (eventBody [(0, 0x18)]))) ∧
    (∀ s, s.host.fwstat.toNat / 2 ^ 28 % 4 = 2 → s.host.fwstat.getLsbD 30 = true →
      let f : Word := (s.host.fwstat ^^^ 0x80000000#32) &&& 0xBFFFFFFF#32
      let s1 : State := { s with host := { s.host with fwstat := f, digests := (s.host.digests.2.1, 0, s.host.digests.2.2) } }
      exec .firmwareFailover s = .next (postEvent s1 64 12 (eventBody [(0, 3), (4, s.host.fwver.toNat)]))) ∧
    (∀ s svn caps halfw dis,
      let size := s.peek (s.host.bootimg.toNat + 16) 8
      let img := Mem.readN s.mem s.host.bootimg.toNat size
      let cfg := Mem.readN s.mem s.host.bootcfg.toNat Config.configBytes
      Config.dramUp s.free = true → 256 ≤ size → s.host.bootimg.toNat + size ≤ 2 ^ 38 →
      s.host.bootcfg.toNat + Config.configBytes ≤ 2 ^ 38 →
      Config.ecdsaVerifies Config.waimusKey (Config.sha384 (img.take 160 ++ List.replicate 96 0 ++ img.drop 256))
        ((img.drop 160).take 48) ((img.drop 208).take 48) = true → Config.configRecord cfg = some (svn, caps, halfw, dis) →
      svn ≤ imgSvn img →
      ∃ h, exec .deviceReset s = .next { State.reset with
          mem := s.mem, now := s.now, turn := s.turn, free := s.free + 1, agenda := s.agenda, host := h
          device := { caps := capWords caps, halfw := halfw, disabled := dis } } ∧
        h.bootimg = s.host.bootimg ∧ h.bootcfg = s.host.bootcfg ∧ h.fwstat.toNat / 2 ^ 28 = 4 + 2 ∧ h.fwver.toNat = imgVersion img ∧
        h.sumseq = 0 ∧ h.dieoff = 0 ∧ h.interrupts = []) ∧
    (∀ n c since s, look s.ctxs n = some c → c.st = .preempting since → saveReady s n since = true →
      (∀ x, look s.parts c.part = some x → x.resize = none) →
      ∃ t, exec (.preemptSaveComplete n) s = .next t ∧ look t.ctxs n = some { c with st := .saved, preempters := [] } ∧
        (∀ e ∈ t.teams, e.2.ctx = n → e.2.saved = true ∧ ∀ m ∈ e.2.members, m.trap.ppend = false) ∧
        (∀ k x, look s.teams k = some x → x.ctx ≠ n → (look t.teams k).map (fun y => { y with objs := x.objs }) = some x) ∧
        ∀ q f, f ∈ (t.queue q).flights → (q, f.num) ∈ c.preempters → f.done = true)) ∧
  (
    ∀ p s d, Admits 0x09 p s → (p.body[0]?.getD 0).toNat = d → s.dieUp d = true → (∃ x, x < 4 ∧ x ≠ d ∧ s.dieUp x = true) →
      ∃ t, exec (.dieOffline p) s = .next t ∧ t.host.dieoff = s.host.dieoff ||| (1#4 <<< d) ∧ t.dieUp d = false ∧
        (∀ x, x ≠ d → t.dieUp x = s.dieUp x) ∧
        (∀ e ∈ t.parts, ∀ n, n / 32 = d → e.2.reaches.getLsbD n = false ∧ e.2.vaults.getLsbD n = false) ∧
        (∀ n, n / 32 = d → n < 128 → (t.vault n).mr = 0) ∧ (∀ n, n / 32 ≠ d → (t.vault n).mr = (s.vault n).mr) ∧
        (∀ e ∈ t.tlb, e.die ≠ d) ∧ (∀ k ∈ t.marks, k.die ≠ d) ∧
        (∀ k ∈ t.kept, ∀ c, keptCore s k = some c → dieOf c ≠ d) ∧ (∀ x ∈ t.screens, x.die ≠ d) ∧ (∀ e ∈ t.snoop, e.home ≠ d) ∧
        (∀ e ∈ t.teams, dieOf e.2.seat.core = d → e.2.saved = true))

/-! ### The queues of a line core, and presentation streams -/

/-- R397, R399, R396, R415: the head of a copy queue starts with its unit of the wait semaphore, a load reading its window
then; its completion writes the bytes, a store's as the line store gives them then, clears or sets the tiles' full bits, and signals; a
window that meets an address that is not there halts the line core. A matrix command reads A, B and C at its start, and at its completion
writes each element of C, rounded once. Where an unordered write meets what a command reads, each aligned word is one that the read may
return (R400). That a store's read stands at its completion, where every write since its start is unordered with it, is the model's
reading (log entry 99). -/
def Obligations.LineCoreCommandsStartAndComplete : Prop :=
  let party (store : Bool) : Nat := if store then 3 else 2
  -- the wait unit: none is asked for, it has been consumed, or it is there
  let unit (c : LineCore) (p : Nat) (k : LCmd) : Prop := k.consumed = true ∨ ∀ sm, k.ws = some sm → c.canTake p sm.toNat 1 = true
  let took (c d : LineCore) (k : LCmd) : Prop := ∀ sm x, k.ws = some sm → k.consumed = false → look c.sems sm.toNat = some x →
    look d.sems sm.toNat = some { x with count := x.count - 1 }
  -- the signal unit: none is asked for, or the ceiling allows it
  let signalled (c d : LineCore) (k : LCmd) : Prop := c.stopped = false → ∀ sm x, k.ss = some sm → look c.sems sm.toNat = some x →
    look d.sems sm.toNat = some { x with count := x.count + 1 }
  let room (c : LineCore) (k : LCmd) : Prop := c.stopped = true ∨ ∀ sm, k.ss = some sm → ∃ x, look c.sems sm.toNat = some x ∧ x.count < x.ceiling
  (∀ n store k r s, let c := s.lc n
    c.halt = false → c.stopped = false → c.queueOf (party store) = k :: r → k.started = false → unit c (party store) k →
    (store = true → k.f0 = true → c.allFull (tilesOf [(copyAddr k.blk, copyCount k.blk)]) = true) → copyHeld s k = false →
    let bytes := if store then [] else Mem.readN s.mem k.pa (copyCount k.blk)
    let k' : LCmd := { k with consumed := true, started := true, data := bytes }
    (copyBad s k = false → ∃ t, exec (.copyCommandStart n store) s = .next t ∧ (t.lc n).queueOf (party store) = k' :: r ∧
      took c (t.lc n) k ∧ (t.lc n).ls = c.ls ∧ (t.lc n).full = c.full ∧ (∀ m, m ≠ n → t.lc m = s.lc m) ∧
      { t with lcs := s.lcs, snoop := s.snoop } = s) ∧
    (copyBad s k = true → ∃ t, exec (.copyCommandStart n store) s = .next t ∧ (t.lc n).halt = true ∧
      (t.lc n).err0 = lcErr0 0x02 (party store) 6 0)) ∧
  (∀ n k r s, let c := s.lc n
    c.ldq = k :: r → k.started = true → room c k → ∃ t, exec (.copyCommandCompletion n false) s = .next t ∧ { t with lcs := s.lcs } = s ∧
      (t.lc n).ldq = r ∧ (t.lc n).ls = Mem.write c.ls (copyAddr k.blk) k.data ∧ signalled c (t.lc n) k ∧
      (∀ x, x ∈ (t.lc n).full ↔ x ∈ c.full ∨ k.f0 = true ∧ x ∈ tilesOf [(copyAddr k.blk, copyCount k.blk)])) ∧
  (∀ n k r s, let c := s.lc n
    c.stq = k :: r → k.started = true → room c k → copyBad s k = false → copyHeld s k = false →
    ∃ t data, exec (.copyCommandCompletion n true) s = .next t ∧ t.mem = Mem.write s.mem k.pa data ∧ t.teams = s.teams ∧
      (copyCount k.blk % 4 = 0 → data.length = copyCount k.blk) ∧
      (c.raced 3 (copyAddr k.blk, copyCount k.blk) = false → data = Mem.readN c.ls (copyAddr k.blk) (copyCount k.blk)) ∧
      (∀ j, 4 * j + 4 ≤ copyCount k.blk → BitVec.ofNat 32 (leVal ((data.drop (4 * j)).take 4)) ∈ c.mayRead 3 (copyAddr k.blk + 4 * j)) ∧
      (t.lc n).stq = r ∧ (t.lc n).ls = c.ls ∧ signalled c (t.lc n) k ∧
      (∀ x, x ∈ (t.lc n).full ↔ x ∈ c.full ∧ ¬ (k.f1 = true ∧ x ∈ tilesOf [(copyAddr k.blk, copyCount k.blk)]))) ∧
  (∀ n k r s, let c := s.lc n
    c.halt = false → c.stopped = false → c.mq = k :: r → k.started = false → unit c 4 k →
    let runs := [(blkWord k.blk 0, 2048), (blkWord k.blk 1, 2048)] ++
      (if (blkWord k.blk 3).testBit 0 then [(blkWord k.blk 2, mmcCBytes k.blk)] else [])
    -- the line core once its matrix queue has its unit
    let c1 := match k.ws with
      | some sm => if k.consumed then c else c.consumed 4 sm.toNat
      | none => c
    ∃ t bytes, exec (.mmcCompletion n) s = .next t ∧ { t with lcs := s.lcs, free := s.free } = s ∧ took c (t.lc n) k ∧ (t.lc n).ls = c.ls ∧
      (t.lc n).mq = { k with consumed := true, started := true, data := bytes } :: r ∧
      ((∀ x ∈ runs, c1.raced 4 x = false) → bytes = runs.flatMap (fun x => Mem.readN c.ls x.1 x.2) ∧ t.free = s.free) ∧
      ∀ i j x, runs[i]? = some x → 4 * j + 4 ≤ x.2 →
        BitVec.ofNat 32 (leVal ((bytes.drop (2048 * i + 4 * j)).take 4)) ∈ c1.mayRead 4 (x.1 + 4 * j)) ∧
  (∀ n k r s, let c := s.lc n
    let w := blkWord k.blk 3
    let ity := if w / 2 % 4 = 0 then bf16 else f16
    let oty := if w / 8 % 4 = 0 then f32 else bf16
    let by' := if w / 8 % 4 = 0 then 4 else 2
    let rm := w / 32 % 8
    let ftz := w.testBit 8
    let elem (from_ size i : Nat) : Nat := leVal ((List.range size).map (fun j => (k.data[from_ + size * i + j]?).getD 0))
    c.mq = k :: r → k.started = true → k.data.length = (if w.testBit 0 then 4096 + 1024 * by' else 4096) → room c k →
    ∃ t, exec (.mmcCompletion n) s = .next t ∧ { t with lcs := s.lcs } = s ∧ (t.lc n).mq = r ∧ signalled c (t.lc n) k ∧
      (∀ i j, i < 32 → j < 32 → Mem.readN (t.lc n).ls (blkWord k.blk 2 + by' * (32 * i + j)) by' =
        toBytes by' (encodeQuiet oty (Ex.add rm (if w.testBit 0 then decodeZ ftz oty (elem 4096 by' (32 * i + j)) else Ex.zero false)
          (dotBlock ((List.range 32).map (fun x =>
            Ex.mul? (decodeZ ftz ity (elem 0 2 (32 * i + x))) (decodeZ ftz ity (elem 2048 2 (32 * x + j)))))).1) rm ftz)) ∧
      ∀ a, a < blkWord k.blk 2 ∨ blkWord k.blk 2 + 1024 * by' ≤ a → Mem.read (t.lc n).ls a = Mem.read c.ls a)

/-- R407 to R418: a frame starts; the latch of a slice takes its index and its pose, computes its backwater slice and lists it; a free
line core starts the listed slice of earliest deadline with its windows and its SRD values; a slice completes, or is stopped at its
deadline and missed, and its backwater slice is copied into its rows. That the backwater slice of a latch whose reads a link or a port holds
is computed later from that latch's pose and last frame is the model's reading of R21 and R417 (log entry 27). -/
def Obligations.SlicesAreLatchedLaunchedAndEnded : Prop :=
  (∀ n p s f, look s.streams n = some p → p.closing = none → f = (match p.frame with | some f => f + 1 | none => 0) →
    p.tfOf f ≤ pCycles s.now →
    exec (.frameStart n) s = .next (s.updPs n (fun p => { p with tf := p.tf + (f - p.frame.getD 0) * (p.fld 343 331 * p.fld 611 580), frame := some f }))) ∧
  (∀ n p s f k, look s.streams n = some p → p.closing = none → p.latch = (f, k) → p.latchAt f k ≤ pCycles s.now →
    let fidx := s.peek (poolBase + p.fld 521 496) 4
    let seq := s.peek (poolBase + p.fld 547 522) 4
    let word (o m : Nat) : Nat := s.peek (poolBase + p.fld 547 522 + o) m
    let ql : Pose := if seq % 2 = 1 then p.pose else
      { time := BitVec.ofNat 64 (word 8 8), q := (List.range 7).map (fun i => BitVec.ofNat 32 (word (16 + 4 * i) 4)) }
    let img := backSlice s p k ql
    let held := backHeld s p p.last
    ∃ t p', exec (.sliceLatch n f k) s = .next t ∧ look t.streams n = some p' ∧ p'.pose = ql ∧
      p'.latch = (if k + 1 < (p.fld 330 318 + 32) / 32 then (f, k + 1) else (f + 1, 0)) ∧
      p'.listed = p.listed ++ [{ frame := f, slice := k, deadline := p.deadline f k, pose := ql }] ∧
      (p'.sevcnt.toNat / 2 ^ 16 = if seq % 2 = 1 then min (p.sevcnt.toNat / 2 ^ 16 + 1) 65535 else p.sevcnt.toNat / 2 ^ 16) ∧
      (k = 0 → p'.index = (if fidx % 4 ≤ p.fld 292 291 then BitVec.ofNat 32 fidx else p.index) ∧
        p'.sbadidx = (if fidx % 4 ≤ p.fld 292 291 then p.sbadidx else satAdd p.sbadidx 1)) ∧
      (k ≠ 0 → p'.index = p.index ∧ p'.sbadidx = p.sbadidx) ∧
      -- a backwater slice whose reads a link, a port or a vault holds is owed (R21)
      (∀ x, p'.frameAt f = some x → if held then look x.owed k = some (ql, p.last) else look x.bw k = some img) ∧
      t.mem = Mem.write (if held then s.mem else Mem.write s.mem (p.backwater k) img) (poolBase + p.fld 287 262) (toBytes 4 p'.fstat)) ∧
  (∀ n st p l s, s.edie = true → n < s.lcores → (s.lc n).runs = false →
    leastBy (fun e => e.2.2.deadline * 2 ^ 16 + e.1 * 2 ^ 8 + e.2.2.slice) (listedFor s n) = some (st, p, l) →
    (∀ m, m < n → p.lcmask.getLsbD m = true → (s.lc m).runs = true) →
    let idx := ((p.frameAt l.frame).map (·.index)).getD 0
    let ns := l.deadline * 5 / 6
    let vals : List Word := [BitVec.ofNat 32 st, BitVec.ofNat 32 l.frame, BitVec.ofNat 32 l.slice, BitVec.ofNat 32 (min 32 (p.height - 32 * l.slice)), idx] ++
      l.pose.q ++ [l.pose.time.truncate 32, (l.pose.time >>> 32).truncate 32, BitVec.ofNat 32 ns, BitVec.ofNat 32 (ns / 2 ^ 32)]
    let present (f : Nat) : Nat := p.fld 863 812 + f % 3 * (p.width * p.height * 4)
    ∃ t, exec (.sliceLaunch n) s = .next t ∧ { t with lcs := s.lcs, streams := s.streams } = s ∧ (t.lc n).run = .slice st l.frame l.slice vals ∧
      (t.lc n).cs = LStream.start (Mem.readN s.mem (poolBase + p.fld 469 444) (p.fld 417 400)) ∧
      (t.lc n).vs = LStream.start (Mem.readN s.mem (poolBase + p.fld 443 418) (p.fld 399 382)) ∧
      (t.lc n).halt = false ∧ (t.lc n).stopped = false ∧ (t.lc n).sems = [] ∧ (t.lc n).full = [] ∧
      get 0 (t.lc n).lwbase 0 = BitVec.ofNat 64 (p.fld 811 760 + idx.toNat % 4 * p.fld 707 676) ∧
      get 0 (t.lc n).lwext 0 = BitVec.ofNat 64 (p.fld 707 676 + 2 ^ 63) ∧
      get 0 (t.lc n).lwbase 1 = BitVec.ofNat 64 (present l.frame + 32 * l.slice * p.width * 4) ∧
      get 0 (t.lc n).lwext 1 = BitVec.ofNat 64 (p.width * 4 * min 32 (p.height - 32 * l.slice) + 2 ^ 62) ∧
      (∀ f q, p.last = some (f, q) → get 0 (t.lc n).lwbase 2 = BitVec.ofNat 64 (present f) ∧
        get 0 (t.lc n).lwext 2 = BitVec.ofNat 64 (p.width * p.height * 4 + 2 ^ 63)) ∧
      (p.last = none → get 0 (t.lc n).lwext 2 % 2 ^ 48 = 0) ∧ (∀ w, 3 ≤ w → get 0 (t.lc n).lwext w = 0)) ∧
  -- the least: an earlier deadline goes first
  (∀ n s e x, leastBy (fun e => e.2.2.deadline * 2 ^ 16 + e.1 * 2 ^ 8 + e.2.2.slice) (listedFor s n) = some e → x ∈ listedFor s n →
    e.2.2.deadline * 2 ^ 16 + e.1 * 2 ^ 8 + e.2.2.slice ≤ x.2.2.deadline * 2 ^ 16 + x.1 * 2 ^ 8 + x.2.2.slice) ∧
  (∀ n st p f k v s, (s.lc n).run = .slice st f k v → (s.lc n).sliceDone = true → look s.streams st = some p →
    ∃ t p', exec (.sliceCompletion n) s = .next t ∧ (t.lc n).run = .none ∧ look t.streams st = some p' ∧ p'.sbwcnt = p.sbwcnt ∧
      (∀ x, p'.frameAt f = some x → look x.ends k = some .complete) ∧
      t.mem = Mem.write s.mem (poolBase + p.fld 287 262) (toBytes 4 p'.fstat)) ∧
  -- a deadline: a slice that has not ended is missed; the line core that runs it is stopped
  (∀ st p x f k s, look s.streams st = some p → p.frameAt f = some x → k ∉ x.passed → look x.bw k ≠ none ∨ look x.owed k ≠ none →
    look x.ends k = none →
    p.deadline f k ≤ pCycles s.now →
    (∀ n, coreOf s st f k = some n → (s.lc n).sliceDone = false) →
    ∃ t p', exec (.sliceDeadline st f k) s = .next t ∧ look t.streams st = some p' ∧ p'.sbwcnt = satAdd p.sbwcnt 1 ∧
      p'.slastbw = BitVec.ofNat 32 (f % 2 ^ 24 * 2 ^ 8 + k % 2 ^ 8) ∧
      (∀ l ∈ p'.listed, ¬ (l.frame = f ∧ l.slice = k)) ∧
      (∀ n, coreOf s st f k = some n → (t.lc n).stopped = true ∧ (t.lc n).cs.on = false ∧ (t.lc n).vs.on = false ∧
        ∀ q ∈ (t.lc n).ldq ++ (t.lc n).stq ++ (t.lc n).mq, q.started = true)) ∧
  (∀ st p x f k img s, look s.streams st = some p → p.frameAt f = some x → look x.ends k = some .missed →
    look x.owed k = none → look x.bw k = some img →
    edieHeld s (p.sliceRows f k) (p.sliceBytes k) = false → (∀ n, coreOf s st f k = some n → (s.lc n).queuesEmpty = true) →
    ∃ t p', exec (.backwaterCopy st f k) s = .next t ∧ look t.streams st = some p' ∧
      (∀ n, coreOf s st f k = some n → (t.lc n).run = .none) ∧
      t.mem = Mem.write (Mem.write s.mem (p.fld 863 812 + f % 3 * (p.width * p.height * 4) + 32 * k * p.width * 4) img)
        (poolBase + p.fld 287 262) (toBytes 4 p'.fstat)) ∧
  -- a slice that its latch still owes is computed once the reads are free, into its buffer unless a later latch has taken that
  (∀ st p x f k ql last s, look s.streams st = some p → p.frameAt f = some x → look x.owed k = some (ql, last) → backHeld s p last = false →
    let img := backFrom s p last k ql
    ∃ t p', exec (.backwaterCopy st f k) s = .next t ∧ look t.streams st = some p' ∧
      (∀ x', p'.frameAt f = some x' → look x'.owed k = none ∧ (look x.ends k = none ∨ look x.ends k = some .missed → look x'.bw k = some img)) ∧
      t.mem = if p.ownsBuffer f k then Mem.write s.mem (p.backwater k) img else s.mem) ∧
  -- a close: at the next frame start nothing is listed any more, and no line core goes on with a slice of the stream
  (∀ n p pk s f, look s.streams n = some p → p.closing = some (pk, false) → f = (match p.frame with | some f => f + 1 | none => 0) →
    p.tfOf f ≤ pCycles s.now →
    ∃ t, exec (.frameStart n) s = .next t ∧ (∀ p', look t.streams n = some p' → p'.listed = [] ∧ p'.closing = some (pk, true)) ∧
      ∀ m, m < 32 → ∀ a b v, (t.lc m).run = .slice n a b v → (t.lc m).halt = true ∨ (t.lc m).stopped = true)

/-- R418 to R421: a tile row whose slices have passed their deadlines is written to the ring as a chunk behind its header, and SBSPUT
moves past it; a chunk that does not fit drops the rest of its frame and is counted; the output's line start moves TF. That a chunk never
fills the ring wholly is log entry 29. -/
def Obligations.EncodersAndOutputsFollowTheRaster : Prop :=
  (∀ n p x f r s, look s.streams n = some p → p.frameAt f = some x → p.fld 295 293 ≠ 0 → (f, r) ∉ p.encoded → 2 * r < p.slices →
    (∀ k, k < p.slices → k = 2 * r ∨ k = 2 * r + 1 → k ∈ x.passed) → (∀ y ∈ p.frames, y.num < f → p.allEncoded y = true) →
    p.rowHeld s x r = false →
    -- the rows that it codes: of a missed slice the backwater slice, else the present buffer
    let rows (k : Nat) : List Byte := if look x.ends k = some .missed then (missedImage s p x k).getD []
      else Mem.readN s.mem (p.fld 863 812 + f % 3 * (p.width * p.height * 4) + 32 * k * p.width * 4) (p.width * 4 * min 32 (p.height - 32 * k))
    let pipe := (p.pipes[r % p.fld 295 293]?).getD 0
    let bs := Config.av1Bytes s.free p.key (p.fld 643 612) pipe (rows (2 * r) ++ (if 2 * r + 1 < p.slices then rows (2 * r + 1) else []))
    let from_ (k : Nat) : Nat := if look x.ends k = some .missed ∨ look x.ends k = some .copied then 1 else 0
    let chunk := toBytes 8 f ++ toBytes 4 r ++ toBytes 4 bs.length ++
      toBytes 4 ((if p.key then 1 else 0) + 2 * from_ (2 * r) + 4 * from_ (2 * r + 1)) ++ toBytes 12 0 ++ bs ++
      List.replicate ((32 - bs.length % 32) % 32) 0
    let base := p.fld 759 708
    let size := p.fld 675 644
    let put := p.sbsput.toNat % size
    (p.dropping = none → ringFits p chunk.length = true → ∃ t p', exec (.tileRowEncode n f r) s = .next t ∧ look t.streams n = some p' ∧
      p'.sbsput = BitVec.ofNat 32 ((p.sbsput.toNat + chunk.length) % size) ∧ p'.sbsdrop = p.sbsdrop ∧
      t.mem = Mem.write (Mem.write s.mem (base + put) (chunk.take (size - put))) base (chunk.drop (size - put))) ∧
    (p.dropping = none → ringFits p chunk.length = false → ∃ t p', exec (.tileRowEncode n f r) s = .next t ∧ look t.streams n = some p' ∧
      p'.sbsput = p.sbsput ∧ p'.sbsdrop = p.sbsdrop + 1 ∧ t.mem = s.mem) ∧
    (p.dropping ≠ none → ∃ t p', exec (.tileRowEncode n f r) s = .next t ∧ look t.streams n = some p' ∧
      p'.sbsput = p.sbsput ∧ p'.sbsdrop = p.sbsdrop ∧ t.mem = s.mem)) ∧
  (∀ n start p s, look s.streams n = some p → p.desc.getLsbD 290 = true →
    exec (.dpLineStart n start) s = .next (s.updPs n (fun p => { p with tf := start })))

/-! ### What happens on a core beside its words -/

/-- R81, R84, R156, R181, R184, R187, R188, R235, R338, R342: an eddy bin that may be drawn becomes a group in a free slot, a full one
first and then the oldest; a group ready for 2,048 fe-cycles ages; a core leaves a bank whose groups all wait; a cause raised at a
parked word, a failed spring block and an expired budget enter the handler or abandon; a replay tries the faulted lanes again, and an
abort gives cause 0x08; an arrival starts its group; a back-invalidate drops the tracked line. That of several full bins the one filed
first is drawn is the model's choice (log entry 74), and so are the 18 ns of a bank switch (log entry 8). FBABORT's core is read as the
virtual one, and every parked member of the slot takes the cause (log entry 87). -/
def Obligations.GroupsAreDrawnSwitchedAndResumed : Prop :=
  let fe (ns : Nat) : Nat := ns * 940 / 1000
  (∀ tk n s t b g b', look s.teams tk = some t → t.bins.find? (fun b => b.num = n) = some b → t.freeSlot b.role = some g →
    nextBin t s.now b.role = some b' → b'.num = n → t.saved = false → t.doom = none →
    ∃ s' t' m, exec (.eddyBinDraw tk n) s = .next s' ∧ { s' with teams := s.teams } = s ∧ look s'.teams tk = some t' ∧
      { t' with bins := t.bins, members := t.members, fresh := t.fresh } = t ∧ t'.bins = t.bins.filter (fun x => x.num ≠ n) ∧
      t'.members = t.members ++ [m] ∧ t'.fresh = t.fresh + 1 ∧ m.id = t.fresh ∧ m.slot = g ∧ m.role = b.role ∧ m.pc = b.pc ∧ m.cb = b.cb ∧
      m.lanes = b.lanes.zipIdx.map (fun e => (e.2, e.1)) ∧ m.tags = 0 ∧ m.arrival = none) ∧
  (∀ t now role b, nextBin t now role = some b → b ∈ t.bins ∧ b.role = role ∧
    (b.lanes.length = 32 ∨ 256 ≤ fe now - fe b.since ∨ ∀ m ∈ t.members, m.role = role → m.lanes = []) ∧
    (∀ x ∈ t.bins, x.role = role → x.lanes.length = 32 → b.lanes.length = 32 ∧ b.since ≤ x.since)) ∧
  (∀ tk id s t m, look s.teams tk = some t → t.member id = some m → held s t m = false →
    2048 ≤ fe s.now - fe (max m.ready m.issued) → exec (.issueAgeing tk id) s = .next (s.updMember tk id (fun m => { m with aged := true }))) ∧
  (∀ core s, let x := s.core core
    let waits (m : Member) : Prop := ∃ p, m.park = some p ∧ (p.retry = 0 ∨ p.unrecorded = true)
    ((∀ e ∈ bankGroups s core x.bank, waits e.2) ∧ (∃ e ∈ bankGroups s core (1 - x.bank), ¬ waits e.2)) ∨
      (∃ e ∈ bankGroups s core (1 - x.bank), held s e.1 e.2 = false ∧ 2048 ≤ fe s.now - fe (max e.2.ready e.2.issued)) →
    exec (.bankSwitch core) s = .next (s.setCore core { x with bank := 1 - x.bank, switched := s.now + 18 })) ∧
  -- trap entries
  (∀ tk id s t m, look s.teams tk = some t → t.member id = some m → t.doom = none → t.saved = false →
    (stopped s t m = true → exec (.trapEntry tk id) s = .next s) ∧
    (∀ c arg, stopped s t m = false → m.due = some (c, arg) → exec (.trapEntry tk id) s = .next (takeCause s tk id c arg)) ∧
    (∀ p f, stopped s t m = false → m.due = none → m.park = some p → p.faults = 0 → p.misses = [] → p.retry = 0 → p.failed = [f] → p.unrecorded = false →
      let y := postFaults s (dieOf t.seat.core) [failedRec s t m p f]
      y.2 = true → exec (.trapEntry tk id) s = .next (takeCause (y.1.updMember tk id (fun m =>
        { m with trap := { m.trap with springva := BitVec.ofNat 64 f.base, gentask := f.task, springdet := f.detail } })) tk id f.cause 0)) ∧
    (m.trap.inh = true ∨ m.trap.mask = true → m.trap.budget = 0 → exec (.budgetExpiry tk id) s = .next (takeCause s tk id 0x2C 0))) ∧
  -- retries: the faulted lanes, but for those on a block that failed, which are not performed
  (∀ p : Park, p.replay = { p with faults := 0, unrecorded := false, retry := p.replay.retry } ∧
    ∀ l, l < 32 → (p.replay.retry.getLsbD l = true ↔ p.failedLanes.getLsbD l = false ∧
      (p.retry.getLsbD l = true ∨ p.faults.getLsbD l = true ∨
        p.along.getLsbD l = true ∧ ∃ k, k < 32 ∧ p.faults.getLsbD k = true ∧ p.failedLanes.getLsbD k = false))) ∧
  (∀ tk id s t m p, look s.teams tk = some t → t.member id = some m → m.park = some p → p.unrecorded = true →
    ∃ t' m', exec (.faultHeldRetry tk id) s = .next t' ∧ t'.memberAt tk id = some m' ∧
      m' = { m with park := some p.replay }) ∧
  (∀ die (v : DWord) s, ∃ t, exec (.fbreplay die v) s = .next t ∧ { t with teams := s.teams, cmds := s.cmds } = s ∧
    (∀ tk x, look s.teams tk = some x →
      let on : Prop := x.ctx = v.toNat % 2 ^ 32 ∧ x.part = v.toNat / 2 ^ 32 % 2 ^ 6 ∧ dieOf x.seat.core = die ∧ x.saved = false
      (on → look t.teams tk = some { x with members := x.members.map (fun m => { m with park := m.park.map Park.replay }) } ∧
        ∀ k ∈ t.cmds, k.team = tk → k.stop ≠ .fault ∧ k.stop ≠ .unrecorded) ∧
      (¬ on → look t.teams tk = some x))) ∧
  (∀ die (v : DWord) s, ∃ t, exec (.fbabort die v) s = .next t ∧ { t with teams := s.teams } = s ∧
    ∀ tk x, look s.teams tk = some x →
      let on : Prop := x.ctx = v.toNat / 2 ^ 32 ∧ x.seat.vcore = v.toNat % 2 ^ 11 ∧ x.seat.bank = v.toNat / 2 ^ 11 % 2 ∧
        dieOf x.seat.core = die ∧ x.saved = false
      let hit (m : Member) : Member := if m.slot = v.toNat / 2 ^ 16 % 2 ^ 5 ∧ m.park ≠ none then { m with due := some (0x08, 0) } else m
      (on → look t.teams tk = some { x with members := x.members.map hit }) ∧ (¬ on → look t.teams tk = some x)) ∧
  (∀ pa s, exec (.backInvalidate pa) s = .next { s with snoop := s.snoop.filter (fun e => e.pa ≠ pa / 64 * 64) }) ∧
  (∀ tk slot s t pc role obj n sender rest g, look s.teams tk = some t →
    let a := get ArrSlot.zero t.arrivals slot
    a.armed = some (pc, role) → a.starts = (obj, n, sender) :: rest → a.running = none → t.freeSlot role = some g → t.saved = false →
    t.doom = none → look t.arrivals slot = some a →
    ∃ s' t' m, exec (.arrivalGroupStart tk slot) s = .next s' ∧ look s'.teams tk = some t' ∧ t'.members = t.members ++ [m] ∧
      m.slot = g ∧ m.role = role ∧ m.pc = pc ∧ m.arrival = some slot ∧ get 0 m.s 4 = BitVec.ofNat 32 obj ∧ get 0 m.s 5 = BitVec.ofNat 32 n ∧
      get 0 m.s 6 = BitVec.ofNat 32 sender ∧ m.lanes.map (·.1) = List.range 32 ∧
      look t'.arrivals slot = some { a with starts := rest, running := some m.id })

/-! ### Order, springs, placement -/

/-- R230, R234, R236 to R238: a miss on a FILLED block goes on, one on a FAILED block takes its CAUSE, one on a FILLING block waits, and
one on an UNFILLED block makes it FILLING with a frame of the pool and enqueues its generator, which is placed with the values
of R237; a block without a frame gets one that has become free; a failure makes the block FAILED; an eviction's end makes it
UNFILLED. Which frame a block gets, and what the frame holds, are free values (log entry 3). -/
def Obligations.SpringBlocksChangeStateAsTheirTableSays : Prop :=
  let entry (task : DWord) (detail depth cause frame st : Nat) : Nat :=
    (st + frame + cause * 2 ^ 52 + depth * 2 ^ 64 + detail * 2 ^ 128 + task.toNat * 2 ^ 192) % 2 ^ 256
  (∀ i s x p tk id t m w, s.misses[i]? = some x → missHeld s i x = false →
    look s.springs (springKey x.ctx x.spring) = some p → p.key = springKey x.ctx x.spring → p.num = x.spring → x.who = .member tk id →
    look s.teams tk = some t → t.member id = some m → m.park = some w →
    let e := s.fillEntry p x.block
    let mine (y : Missing) : Bool := y.spring = x.spring && y.block = x.block
    (e % 4 = 2 → e.testBit 3 = false → ∃ s' m' w', exec (.springMiss i) s = .next s' ∧ s'.memberAt tk id = some m' ∧ m'.park = some w' ∧
      w'.misses = w.misses.filter (fun y => !mine y) ∧ w'.faults = w.faults ∧ w'.failed = w.failed ∧ s'.misses = s.misses.eraseIdx i) ∧
    (e % 4 = 3 → (∃ y ∈ w.misses, mine y = true) → ∃ s' m' w' f, exec (.springMiss i) s = .next s' ∧ s'.memberAt tk id = some m' ∧
      m'.park = some w' ∧ w'.misses = w.misses.filter (fun y => !mine y) ∧ f ∈ w'.failed ∧ f.cause = e / 2 ^ 52 % 2 ^ 8 ∧
      f.base = p.base + x.block * 2 ^ p.blk ∧ ((∀ y ∈ w.failed, y.base ≠ f.base) → w'.failed = w.failed ++ [f]) ∧
      -- a block that the word meets twice stands once (R235)
      ((∃ y ∈ w.failed, y.base = f.base) → w'.failed.length = w.failed.length)) ∧
    (t.gen = none → e % 4 = 1 ∨ e % 4 = 2 ∧ e.testBit 3 = true → ∃ s' p', exec (.springMiss i) s = .next s' ∧
      look s'.springs p.key = some p' ∧ p'.waiters = p.waiters ++ [(x.block, x.who)] ∧ s'.fillEntry p x.block = e) ∧
    (t.gen = none → e % 4 = 0 → freeFrames { s with misses := s.misses.eraseIdx i } p ≠ [] → ∃ s' p' f g, exec (.springMiss i) s = .next s' ∧
      f ∈ freeFrames { s with misses := s.misses.eraseIdx i } p ∧ s'.fillEntry p x.block = entry (p.task x.block) 0 0 0 f 1 ∧
      look s'.springs p.key = some p' ∧ p'.waiters = p.waiters ++ [(x.block, x.who)] ∧ g ∈ p'.queue ∧ g.block = x.block ∧ g.depth = 0 ∧
      g.prio = min 7 (t.prio + 1) ∧ g.origin = t.seat.core)) ∧
  (∀ c n s p b depth prio origin r, look s.springs (springKey c n) = some p → p.key = springKey c n →
    p.noFrame = (b, depth, prio, origin) :: r → freeFrames s p ≠ [] → linkHeld s (p.entryPa b) 32 = false →
    ∃ s' p' f, exec (.frameAllocation c n) s = .next s' ∧ f ∈ freeFrames s p ∧ s'.fillEntry p b = entry (p.task b) 0 depth 0 f 1 ∧
      look s'.springs p.key = some p' ∧ p'.noFrame = r ∧
      p'.queue = p.queue ++ [{ block := b, depth := depth, prio := prio, order := s.order, origin := origin }]) ∧
  (∀ c n b s p tk t d, look s.springs (springKey c n) = some p → p.key = springKey c n → runningGen s c n b = some (tk, t) → t.doom = some d →
    linkHeld s (p.entryPa b) 32 = false →
    ∃ s' p', exec (.generatorFailure c n b) s = .next s' ∧ look s'.teams tk = none ∧
      s'.fillEntry p b = entry (p.task b) d.detail.toNat (s.fillEntry p b / 2 ^ 64 % 4) d.genCause 0 3 ∧
      look s'.springs p.key = some p' ∧ ∀ w ∈ p'.waiters, w.1 ≠ b) ∧
  (∀ c n b s p, look s.springs (springKey c n) = some p → p.key = springKey c n → (∃ e ∈ p.evicting, e.1 = b) → (∀ w ∈ p.waiters, w.1 ≠ b) →
    homeHeld s p b = false →
    ∃ s' p', exec (.evictionEnd c n b) s = .next s' ∧ s'.fillEntry p b = 0 ∧ look s'.springs p.key = some p' ∧ b ∉ p'.fills ∧
      (∀ x, x ≠ b → (x ∈ p'.fills ↔ x ∈ p.fills)) ∧ ∀ e ∈ p'.evicting, e.1 ≠ b) ∧
  (∀ i core bank s p g k, (∀ e ∈ (genQueue s).take i, genPlace s e.1 e.2 true core bank = none) → (genQueue s)[i]? = some (p, g) →
    genPlace s p g true core bank = some k →
    ∃ s' x, exec (.generatorPlacement i core bank) s = .next s' ∧ look s'.teams s.freshTeam = some x ∧ s'.freshTeam = s.freshTeam + 1 ∧
      x.ctx = p.ctx ∧ x.launch = none ∧ x.task = p.task g.block ∧ x.prio = g.prio ∧ x.seat.core = core ∧ x.seat.bank = bank ∧
      x.gen = some { spring := p.num, block := g.block, depth := g.depth, filled := false, place := k } ∧
      ∀ m ∈ x.members, (m.role = 0 → m.pc = p.entry) ∧ get 0 m.s 0 = BitVec.ofNat 32 g.block ∧
        get 0 m.s 1 = BitVec.ofNat 32 (g.block / 2 ^ 32 % 2 ^ 16) ∧ get 0 m.s 2 = BitVec.ofNat 32 g.depth ∧ get 0 m.s 3 = BitVec.ofNat 32 p.num)

/-- R309, R310, R314, R315, R317, R350, R351: a dispatcher places the next team of the launch that it serves first on an acceptable core
that passes every check, one whose vault keeps the greatest budget; a launch rises and holds its partition as its waiting grows; a
retired team leaves with its version committed and its holding kept when KEEP says so; an abandoned one leaves its record; a launch with
nothing left completes its packet. -/
def Obligations.TeamsArePlacedRetiredAndAbandoned : Prop :=
  (∀ die s k l r, s.dieUp die = true → (look s.dispatch die).getD 0 ≤ s.now → servedBy s die = (k, l) :: r → l.spec.cw = 1 → l.spec.ch = 1 → l.again = [] →
    l.cursor < l.spec.iterations → (∀ e ∈ s.teams, e.1 < s.freshTeam) → look s.launches k = some l →
    let a := l.ask s l.cursor
    let passes (c b : Nat) : Prop := c / 512 = die ∧ acceptable s l.part l.ctx c = true ∧ checkCore s a c = .ok b
    let keeps (c : Nat) : Int := (s.vault (reachOf c)).budget - refreshCharge s (reachOf c) l.spec.pclass
    (∃ c b, passes c b) →
    ∀ i ∈ [Instr.teamPlacement die] ++ (if (look l.blocked die).isSome then [.placementRecheck die] else []),
      ∃ t x l', exec i s = .next t ∧ look t.teams s.freshTeam = some x ∧ t.freshTeam = s.freshTeam + 1 ∧
        passes x.seat.core x.seat.bank ∧ (∀ c b, passes c b → keeps c ≤ keeps x.seat.core ∧
          (keeps c = keeps x.seat.core → x.seat.core ≤ c)) ∧
        x.launch = some k ∧ x.ctx = l.ctx ∧ x.part = l.part ∧ x.task = BitVec.ofNat 64 (l.lid.toNat * 2 ^ 48 + l.cursor) ∧ x.retry = 0 ∧
        x.seat.charge = refreshCharge s (reachOf x.seat.core) l.spec.pclass ∧ x.seat.placed = s.now ∧
        look t.launches k = some l' ∧ l'.cursor = l.cursor + 1 ∧ l'.rises = 0 ∧ l'.since = s.now ∧
        look t.dispatch die = some (s.now + 16)) ∧
  (∀ k s l, look s.launches k = some l → l.since + 1000000 * (l.rises + 1) ≤ s.now → min 7 (l.spec.prio + l.rises) < 7 →
    exec (.effectivePriorityRise k) s = .next (s.updLaunch k (fun l => { l with rises := l.rises + 1 }))) ∧
  (∀ k die s l t, look s.launches k = some l → look l.blocked die = some t → t + 1000000 < s.now →
    (l.again ≠ [] ∨ l.cursor < l.spec.iterations) →
    ∃ s' l', exec (.launchHold k die) s = .next s' ∧ look s'.launches k = some l' ∧ ∀ d, d ∈ l'.holds ↔ d = die ∨ d ∈ l.holds) ∧
  (∀ tk s t, look s.teams tk = some t → retireReady s tk t = true → t.gen = none → commitFits s tk t = true →
    ∃ s', exec (.retirement tk) s = .next s' ∧ look s'.teams tk = none ∧ (∀ k ∈ s'.cmds, k.team ≠ tk) ∧
      s'.mem = (commitVersion s tk t).mem ∧
      (t.spec.keep = true → ∃ h ∈ s'.kept, h.ctx = t.ctx ∧ h.passKey = t.spec.passKey ∧ h.index = t.task.toNat % 2 ^ 48 ∧
        h.core = t.seat.core ∧ h.hold = t.hold ∧ h.data = t.tdata ∧ h.tilecfg = t.tilecfg) ∧
      (t.spec.keep = false → s'.kept = s.kept)) ∧
  (∀ tk s t, look s.teams tk = some t → retireReady s tk t = true → t.gen = none → commitFits s tk t = false →
    exec (.retirement tk) s = .next (s.updTeam tk (fun t => { t with ver := { t.ver with waiting := true } }))) ∧
  (∀ tk s t d, look s.teams tk = some t → t.doom = some d → t.gen = none → s.now < 2 ^ 64 → d.reason < 16 → d.cause < 256 → d.slot < 32 →
    t.part < 64 → t.seat.bank < 2 → t.seat.vcore < 2048 → t.ctx < 2 ^ 32 →
    let redisp : Prop := (d.reason = 3 ∨ d.reason = 4 ∨ d.reason = 5) ∧ t.ver.dirw = false ∧ t.retry < 3
    let rec_ (again : Nat) : Nat := s.now + again * 2 ^ 66 + (if t.ver.dirw then 1 else 0) * 2 ^ 67 + d.reason * 2 ^ 68 +
      (if d.reason = 0 ∨ d.reason = 4 then 0 else d.cause) * 2 ^ 72 + min t.retry 3 * 2 ^ 80 + t.part * 2 ^ 82 + t.seat.bank * 2 ^ 90 +
      d.slot * 2 ^ 91 + t.seat.vcore * 2 ^ 96 + t.ctx * 2 ^ 128 + (if d.reason = 4 then 0 else d.pc.toNat) * 2 ^ 160 + t.task.toNat * 2 ^ 192
    ∃ s' again, exec (.abandonment tk) s = .next s' ∧ (again = 1 ∧ redisp ∨ again = 0 ∧ ¬ redisp) ∧
      look s'.teams tk = none ∧ (∀ k ∈ s'.cmds, k.team ≠ tk) ∧
      s'.mem = (postEvent s t.part 1 (toBytes 32 (rec_ again))).mem ∧ s'.rings = (postEvent s t.part 1 (toBytes 32 (rec_ again))).rings ∧
      (∀ l, t.launch = some l → ∃ x ∈ s'.abands, x.ctx = t.ctx ∧ x.launch = l ∧ x.task = t.task ∧ x.retry = t.retry ∧
        (again = 1 → x.st = .auto) ∧ (again = 0 → x.st = .waiting)) ∧
      ∀ l x, t.launch = some l → look s.launches l = some x → again = 1 →
        ∃ y, look s'.launches l = some y ∧ (t.task.toNat % 2 ^ 48, t.retry + 1) ∈ y.again) ∧
  (∀ tks s k t, look s.teams k = some t → ∃ s', exec (.uncorrectableError tks) s = .next s' ∧ s'.mem = s.mem ∧
    (k ∉ tks → look s'.teams k = some t) ∧
    (k ∈ tks → t.doom = none → ∃ t' d, look s'.teams k = some t' ∧ t'.doom = some d ∧ d.reason = 4 ∧ d.cause = 0 ∧ t'.members = t.members)) ∧
  (∀ k s l, look s.launches k = some l → l.spec.iterations ≤ l.cursor → l.again = [] → (∀ e ∈ s.teams, e.2.launch ≠ some k) →
    (∀ a ∈ s.abands, ¬ (a.ctx = l.ctx ∧ a.launch = k)) →
    let s1 : State := { s with launches := del s.launches k }
    let done (f : Flight) : Flight := if f.num = l.packet.2 then { f with done := true } else f
    let x : Queue := { s.queue l.packet.1 with flights := (s.queue l.packet.1).flights.map done }
    exec (.launchCompletion k) s = .next (s1.setQueue l.packet.1 x))

/-! ### Engines, matrices, rays and tiles -/

/-- R155, R247, R248, R255, R256, R259 to R262: a command whose tokens stand starts; a copy, a zeroing or a gather reads all its source and
then writes its destination, and its token becomes COMPLETE; a cause leaves the token in ERROR with the address; a landing writes its
target's buffer and starts its arrival; a collective with all its participants gives each the result. That a command which ends in ERROR
writes no byte at all is the model's reading of R261, which may leave part of a copy written (log entry 62). -/
def Obligations.EngineCommandsStartRunAndComplete : Prop :=
  let noBeam (k : Command) : Prop := ∀ r b d, k.job ≠ .beam r b d
  let started (k : Command) : Prop := k.matrix = false ∧ k.phase = .started
  -- a command without a completion record leaves its journal, and its token stands
  let gone (s t : State) (k : Command) (x : Token) : Prop :=
    (∀ y ∈ t.cmds, y.id ≠ k.id) ∧ (∀ y ∈ s.cmds, y.id ≠ k.id → y ∈ t.cmds) ∧
      ∀ n, k.token = some n → ∃ m, look t.teams k.team = some m ∧ m.token n = x
  (∀ s k id, s.cmd id = some k → k.matrix = false → noBeam k → startable s k = true →
    (usedError s k = none → exec (.engineCommandStart id) s = .next (s.updCmd id (fun k => { k with phase := .started, startAt := s.now }))) ∧
    (∀ c va, usedError s k = some (c, va) → k.ring = none → ∃ t, exec (.engineCommandStart id) s = .next t ∧ gone s t k (.error c va))) ∧
  -- between objects of the team: every byte is read before any is written
  (∀ s k id t a b i j n o o', s.cmd id = some k → started k → runnable s k = true → k.ring = none → look s.teams k.team = some t →
    k.job = .copy (.obj a i) (.obj b j) none n → t.obj a = some o → t.obj b = some o' →
    ∃ s' t' o2, exec (.engineCommandCompletion id) s = .next s' ∧ gone s s' k .complete ∧ s'.mem = s.mem ∧
      look s'.teams k.team = some t' ∧ t'.obj b = some o2 ∧ o2.bytes = o'.bytes ∧
      (∀ x, x < n → Mem.read o2.data (j + x) = Mem.read o.data (i + x)) ∧
      (∀ x, x < j ∨ j + n ≤ x → Mem.read o2.data x = Mem.read o'.data x)) ∧
  (∀ s k id t b j n o', s.cmd id = some k → started k → runnable s k = true → k.ring = none → look s.teams k.team = some t →
    k.job = .zero (.obj b j) n → t.obj b = some o' →
    ∃ s' t' o2, exec (.engineCommandCompletion id) s = .next s' ∧ gone s s' k .complete ∧ look s'.teams k.team = some t' ∧ t'.obj b = some o2 ∧
      (∀ x, x < n → Mem.read o2.data (j + x) = 0) ∧ ∀ x, x < j ∨ j + n ≤ x → Mem.read o2.data x = Mem.read o'.data x) ∧
  -- any endpoints: the source's bytes go to the destination's places; what stops or ends an access stops or ends the command
  (∀ s k id src dst sh n, s.cmd id = some k → started k → runnable s k = true → k.ring = none → k.job = .copy src dst sh n →
    let s1 := s.updCmd id (fun k => { k with stop := .none })
    let ps := pairsOf sh n
    (∀ s2 bs s3 x, readEnd s1 k src false (ps.map (fun p => (0, p.1))) = .ok s2 bs → writeEnd s2 k dst ((ps.map (·.2)).zip bs) = .ok s3 x →
      exec (.engineCommandCompletion id) s = .next (leaveCmd (uncount s3 k) k .complete)) ∧
    (∀ s2 st, readEnd s1 k src false (ps.map (fun p => (0, p.1))) = .halt s2 st →
      exec (.engineCommandCompletion id) s = .next (s2.updCmd id (fun k => { k with stop := st }))) ∧
    (∀ s2 c va, readEnd s1 k src false (ps.map (fun p => (0, p.1))) = .err s2 c va →
      exec (.engineCommandCompletion id) s = .next (leaveCmd (uncount s2 k) k (.error c va)))) ∧
  (∀ s k id src dst size lanes s2 bs s3 x, s.cmd id = some k → started k → runnable s k = true → k.ring = none →
    k.job = .gath src dst size lanes →
    let pieces (f : Nat × Nat → Nat → Nat × Nat) : List (Nat × Nat) := lanes.flatMap (fun e => (List.range size).map (f e))
    readEnd (s.updCmd id (fun k => { k with stop := .none })) k src true (pieces (fun e j => (e.1, e.2 + j))) = .ok s2 bs →
    writeEnd s2 k dst (((pieces (fun e j => (e.1 * size + j, 0))).map (·.1)).zip bs) = .ok s3 x →
    exec (.engineCommandCompletion id) s = .next (leaveCmd (uncount s3 k) k .complete)) ∧
  -- landings: the first byte is checked and counted in PENDW; the last one writes the buffer and starts the arrival
  (∀ s k id src sh n index vcore ob off pc bs sent snd tk t o, s.cmd id = some k → k.phase = .landing bs sent →
    k.job = .send src sh n index vcore ob off pc → look s.teams k.team = some snd → snd.saved = false → physCore s snd.ctx vcore ≠ none →
    landBehind s snd vcore sent = false →
    s.teams.find? (fun e => e.2.launchKey = snd.launchKey && e.2.index = index && e.2.seat.vcore = vcore) = some (tk, t) →
    look s.teams tk = some t → t.saved = false → t.doom = none →
    dieOf t.seat.core = dieOf snd.seat.core ∨ (s.link (dieOf t.seat.core) (dieOf snd.seat.core)).retraining = false →
    t.obj ob = some o → o.kind = .buffer → o.land = true → o.st = .filling → (∀ p ∈ pairsOf sh n, off + p.2 < o.bytes) →
    ∃ s' t' o2 k', exec (.xsendLanding id) s = .next s' ∧ look s'.teams tk = some t' ∧ t'.obj ob = some o2 ∧
      o2 = { o with pendw := o.pendw + 1 } ∧ s'.cmd id = some k' ∧ k' = { k with phase := .arriving tk ob bs } ∧ s'.mem = s.mem) ∧
  (∀ s k id src sh n index vcore ob off pc bs snd tk t o, s.cmd id = some k → k.phase = .arriving tk ob bs →
    k.job = .send src sh n index vcore ob off pc → look s.teams k.team = some snd → snd.saved = false → k.ring = none →
    look s.teams tk = some t → t.saved = false →
    dieOf t.seat.core = dieOf snd.seat.core ∨ (s.link (dieOf t.seat.core) (dieOf snd.seat.core)).retraining = false → t.obj ob = some o →
    ∃ s' t' o2, exec (.xsendLanding id) s = .next s' ∧ gone s s' k .complete ∧ look s'.teams tk = some t' ∧ t'.obj ob = some o2 ∧
      o2.pendw = o.pendw - 1 ∧ (pairsOf sh n ≠ [] → ∃ m, look s'.teams k.team = some m ∧ m.ver.dirw = true) ∧
      (∀ x, Mem.read o2.data x = (((((pairsOf sh n).map (·.2)).zip bs).reverse.find? (fun e => off + e.1 = x)).map (·.2)).getD (Mem.read o.data x)) ∧
      (pc = 0xFFFFFFFF → t'.arrivals = t.arrivals ∧ t'.arrmiss = t.arrmiss) ∧
      (∀ a role, pc ≠ 0xFFFFFFFF → look t.arrivals 0 = some a → a.armed = some (pc, role) → a.starts.length < 255 →
        look t'.arrivals 0 = some { a with starts := a.starts ++ [(ob, (pairsOf sh n).length, snd.seat.vcore)] }) ∧
      (pc ≠ 0xFFFFFFFF → (∀ q, q < 4 → ∀ role, (get ArrSlot.zero t.arrivals q).armed ≠ some (pc, role)) → t'.arrmiss = min (t.arrmiss + 1) 65535)) ∧
  -- collectives: a gather's result is the sources in order of position
  (∀ s i x, look s.colls i = some x → x.shape.2.2.2 ≤ x.parts.length → x.shape.1 ≠ 2 → x.parted s = false →
    let srcs := x.byIndex.map (fun p => p.2.2.getD [])
    ∃ t r, exec (.collectiveCompletion i) s = .next t ∧ { t with cmds := s.cmds, colls := s.colls } = s ∧ look t.colls i = none ∧
      (x.shape.1 = 3 → r = srcs.flatten) ∧ (x.shape.1 = 0 ∨ x.shape.1 = 1 → r = collResult x.shape.1 x.shape.2.1 x.shape.2.2.1 srcs) ∧
      ∀ k ∈ t.cmds, k.id ∈ x.parts.map (fun p => p.2.1) → k.phase = .result r)

/-- R273, R280, R283 to R286, R289: an entry of the matrix queue starts in its turn; an MMA puts into each element of its tile the sum
of R283, one addition for each block of 32 products, and an invalid nibble of metadata gives ERROR with cause 0x19; an entry that
completes leaves its token COMPLETE, a zeroed tile, its rounded elements or its metadata bytes; a hung engine is reset, and the teams
that it affects are abandoned with cause 0x1A. -/
def Obligations.MatrixEntriesSumReturnAndReset : Prop :=
  let gone (s t : State) (k : Command) (x : Token) : Prop :=
    (∀ y ∈ t.cmds, y.id ≠ k.id) ∧ (∀ y ∈ s.cmds, y.id ≠ k.id → y ∈ t.cmds) ∧
      ∀ n, k.token = some n → ∃ m, look t.teams k.team = some m ∧ m.token n = x
  let ready (s : State) (k : Command) (mma : Bool) : Prop :=
    k.matrix = true ∧ startable s k = true ∧ (s.core k.core).mreset = false ∧ usedError s k = none ∧
      ∀ y ∈ liveCmds s, y.matrix = true → y.core = k.core → y.id < k.id →
        (y.team = k.team → y.job.touches k.job = false) ∧ (mma = true → y.phase = .started → ∀ a b c d e f g h i r q z,
          y.job ≠ .mma a b c d e f g h i r q z)
  let one : Ex := .num false 1 1
  (∀ s k id t tile aty bty ftz scl bobj boff soff unit rows scales cb o, s.cmd id = some k → ready s k true →
    k.job = .mma tile aty bty ftz scl bobj boff soff unit rows scales cb → look s.teams k.team = some t → t.obj bobj = some o →
    let c (i : Nat) : Nat := (get 0 cb i).toNat
    let cls := widthClass aty
    let sa (m j : Nat) : Ex := if scl then blockScale ((get 0 scales m).toNat / 2 ^ (8 * j) % 2 ^ 8) else one
    let sb (n j : Nat) : Ex := if scl then blockScale (Mem.read o.data (soff + 4 * n + j)).toNat else one
    (unit = none ∨ (∃ u, unit = some u ∧ metaInvalid t.units u cls = false) → ∃ s' t', exec (.matrixEntryStart id) s = .next s' ∧
      look s'.teams k.team = some t' ∧ (∃ k', s'.cmd id = some k' ∧ k'.phase = .started ∧ k'.startAt = s.now) ∧
      ∀ m n, m < 32 → n < 32 → (t'.tileAt tile).elem m n =
        (BitVec.ofNat 32 ((List.range (depthK cls / 32)).foldl (fun acc j =>
          (dotFloat ftz acc ((List.range 32).map (fun i =>
            dotProduct ((valueA rows c aty ftz t.units unit m (32 * j + i)).mul (sa m j))
              ((valueB o.data boff c bty ftz (32 * j + i) n).mul (sb n j))))).1) ((t.tileAt tile).elem m n))).toNat) ∧
    (∀ u, unit = some u → metaInvalid t.units u cls = true → k.ring = none →
      ∃ s', exec (.matrixEntryStart id) s = .next s' ∧ gone s s' k (.error 0x19 0))) ∧
  (∀ s k id, s.cmd id = some k → ready s k false → (∀ a b c d e f g h i r q z, k.job ≠ .mma a b c d e f g h i r q z) →
    exec (.matrixEntryStart id) s = .next (s.updCmd id (fun k => { k with phase := .started, startAt := s.now }))) ∧
  (∀ s k id t, s.cmd id = some k → k.matrix = true → k.phase = .started → runnable s k = true → k.ring = none → look s.teams k.team = some t →
    (∀ a b c d e f g h i r q z, k.job = .mma a b c d e f g h i r q z →
      ∃ s' t', exec (.matrixEntryCompletion id) s = .next s' ∧ gone s s' k .complete ∧ look s'.teams k.team = some t' ∧ t'.tiles = t.tiles) ∧
    (∀ n, k.job = .accZero n → ∃ s' t', exec (.matrixEntryCompletion id) s = .next s' ∧ gone s s' k .complete ∧ look s'.teams k.team = some t' ∧
      ∀ i j, (t'.tileAt n).elem i j = 0) ∧
    (∀ n ob off f o, k.job = .accRet n (.obj ob off) f → t.obj ob = some o →
      let z := if f.toNat % 4 = 0 then 4 else 2
      let pitch := if f.toNat / 2 ^ 16 = 0 then 32 * z else f.toNat / 2 ^ 16
      let fm := if f.toNat % 4 = 0 then f32 else if f.toNat % 4 = 1 then bf16 else f16
      32 * z ≤ pitch → ∃ s' t' o2, exec (.matrixEntryCompletion id) s = .next s' ∧ gone s s' k .complete ∧ look s'.teams k.team = some t' ∧
        t'.obj ob = some o2 ∧ ∀ i j, i < 32 → j < 32 → Mem.readN o2.data (off + i * pitch + j * z) z =
          toBytes z (encodeQuiet fm (decode f32 ((t.tileAt n).elem i j)) (f.toNat / 4 % 8) (f.getLsbD 5))) ∧
    (∀ u ob off n o, k.job = .metaLd u (.obj ob off) n → t.obj ob = some o →
      ∃ s' t', exec (.matrixEntryCompletion id) s = .next s' ∧ gone s s' k .complete ∧ look s'.teams k.team = some t' ∧
        (∀ i, i < n → Mem.read t'.units (128 * u + i) = Mem.read o.data (off + i)) ∧
        ∀ i, i < 128 * u ∨ 128 * u + n ≤ i → Mem.read t'.units i = Mem.read t.units i)) ∧
  (∀ s core k a b c d e f g h i r q z, k ∈ liveCmds s → k.core = core → k.phase = .started → k.job = .mma a b c d e f g h i r q z →
    k.startAt + 80000 ≤ s.now → ∃ s', exec (.matrixReset core) s = .next s' ∧ (s'.core core).mreset = true ∧
      (∀ tk t, look s.teams tk = some t → (∀ e ∈ s.teams, e.1 = tk → e.2 = t) →
        (matrixAffected s core tk t = true → t.doom = none → ∃ t' d, look s'.teams tk = some t' ∧ t'.tiles = [] ∧ t'.units = [] ∧
          t'.doom = some d ∧ d.reason = 3 ∧ d.cause = 0x1A) ∧
        (matrixAffected s core tk t = true → ∀ y ∈ s'.cmds, y.team = tk → y.matrix = false) ∧
        -- a matrix entry makes no landing
        (matrixAffected s core tk t = false → (∀ y ∈ s.cmds, y.matrix = true → ∀ a b c, y.phase ≠ .arriving a b c) →
          look s'.teams tk = some t))) ∧
  (∀ s core, (s.core core).mreset = true → (s.core core).mend ≤ s.now →
    exec (.matrixResetEnd core) s = .next (s.setCore core { s.core core with mreset := false }))

/-! ### Vaults, weirs, clocks and links -/

/-- R318 to R324: a reading gives the refresh interval of its row at once when it rises, and one step down after 10 ms in which
it stayed 3 °C below; activations halt above 105 °C and go on at 100 °C; a team's rise leaves TPRED after 20 ms; a partition's counter adds the charges
of its teams; a reservation beyond the budget is refused. -/
def Obligations.VaultsFollowTheirReadings : Prop :=
  -- the row of a reading in quarters of a degree: up to 70, 85 and 95 °C
  let row (q : Nat) : Nat := if q ≤ 280 then 0 else if q ≤ 340 then 1 else if q ≤ 380 then 2 else 3
  let lower (r : Nat) : Nat := if r = 1 then 280 else if r = 2 then 340 else 380
  (∀ n q s, s.dieUp (n / 32) = true → q ≤ 4095 →
    let x := s.vault n
    let calm (r : Nat) : Prop := 0 < r ∧ q + 12 ≤ lower r
    ∃ t, exec (.sensorReading n q) s = .next t ∧ t.teams = s.teams ∧ (t.vault n).tmeas = q ∧ (t.vault n).pin = x.pin ∧ (t.vault n).floor = x.floor ∧
      (t.vault n).mr = x.mr ∧ (∀ m, m ≠ n → t.vault m = s.vault m) ∧
      (420 < q → (t.vault n).halt = true) ∧ (q ≤ 400 → (t.vault n).halt = false) ∧ (400 < q → q ≤ 420 → (t.vault n).halt = x.halt) ∧
      (x.ivl < row q → (t.vault n).ivl = row q) ∧ (row q ≤ x.ivl → ¬ calm x.ivl → (t.vault n).ivl = x.ivl ∧ (t.vault n).cool = none) ∧
      (row q ≤ x.ivl → calm x.ivl → x.cool = none → (t.vault n).ivl = x.ivl ∧ (t.vault n).cool = some s.now) ∧
      (∀ c, row q ≤ x.ivl → calm x.ivl → x.cool = some c → s.now < c + 10000000 → (t.vault n).ivl = x.ivl ∧ (t.vault n).cool = some c) ∧
      (∀ c, row q ≤ x.ivl → calm x.ivl → x.cool = some c → c + 10000000 ≤ s.now → (t.vault n).ivl = x.ivl - 1)) ∧
  (∀ tk s t, look s.teams tk = some t → t.seat.rising = true → t.seat.placed + 20000000 ≤ s.now →
    ∃ s' t', exec (.riseExpiry tk) s = .next s' ∧ { s' with teams := s.teams } = s ∧ look s'.teams tk = some t' ∧
      { t' with seat := t.seat } = t ∧ { t'.seat with rising := true } = t.seat ∧ t'.seat.rising = false) ∧
  (∀ s d p, p < 64 → (∀ e ∈ s.teams, e.2.part < 64) → ∃ t, exec .chargeCounterTick s = .next t ∧ { t with pchg := s.pchg } = s ∧
    get 0 t.pchg (64 * d + p) = get 0 s.pchg (64 * d + p) + BitVec.ofNat 64 ((s.teams.filter (fun e =>
      !e.2.saved && dieOf e.2.seat.core = d && e.2.part = p)).map (fun e => e.2.seat.charge)).sum) ∧
  (∀ n (v : Word) s, s.dieUp (n / 32) = true →
    let pin := v.toNat / 2 ^ 16 % 2 ^ 11
    let floor := v.toNat % 2 ^ 11
    (floor + pin + (s.vault n).mr + 21 ≤ 1024 → exec (.vres n v) s = .next (s.setVault n { s.vault n with pin := pin, floor := floor })) ∧
    (1024 < floor + pin + (s.vault n).mr + 21 → exec (.vres n v) s =
      .next (postEvent s 64 3 (eventBody [(0, 0x1010000 + 0x100000 * (n / 32) + 0x10 * (n % 32) + 8)]))))

/-- R21, R17, R237, R326 to R337, R445: a millpond gains its refill up to its capacity, and the refill moves by SLOPE; a weir opens for the group
that has waited longest among those whose conditions hold (R332 grants the longest waiter first; that one whose own conditions fail holds up
no other is log entry 61's reading); clocks hop, wait for a stretch, or abort, an aborted hop applying the last CLKCFG and entering HOPMAX
(log entry 51); the reach's and the die's own registers take what their rules allow; a link or a port retrains, fails after three attempts
(counted as log entry 51 says), and is trained again. -/
def Obligations.PondsWeirsClocksAndLinks : Prop :=
  let refused (s : State) (off : Nat) : State := postEvent s 64 3 (eventBody [(0, off)])
  let reg (n o : Nat) : Nat := 0x1020000 + 0x100000 * (n / 32) + 0x40 * (n % 32) + o
  let up (n : Nat) (s : State) : Prop := s.dieUp (n / 32) = true
  -- once in a microsecond the gain, and a move of at most SLOPE; a rise by more than SLOPE moves at the start of slot PHOFF alone
  (∀ n s, let r := s.reach n
    let slope := r.mpcfg.toNat / 2 ^ 16
    let us := s.now / 1000
    let free : Prop := ∀ t, r.moved = some t → t + 1000 ≤ s.now
    let rise : Prop := r.refill < r.target ∧ (r.phased = true ∨ r.refill + slope < r.target)
    ∃ t, exec (.millpondRefill n) s = .next t ∧ { t with reaches := s.reaches } = s ∧
      { t.reach n with level := r.level, refill := r.refill, filled := r.filled, moved := r.moved, phased := r.phased } = r ∧
      (t.reach n).filled = max us r.filled ∧
      (r.filled < us → (t.reach n).level = min (r.mpcfg.toNat % 2 ^ 16) (r.level + r.refill)) ∧ (us ≤ r.filled → (t.reach n).level = r.level) ∧
      (¬ free → (t.reach n).refill = r.refill) ∧
      (free → rise → s.now % 4000 ≠ 250 * s.phcfg.2 → (t.reach n).refill = r.refill) ∧
      (free → rise → s.now % 4000 = 250 * s.phcfg.2 → (t.reach n).refill = min r.target (r.refill + slope) ∧
        ((t.reach n).refill < r.target → 0 < slope → (t.reach n).phased = true ∧ (t.reach n).moved = some s.now)) ∧
      (free → ¬ rise → r.filled < us → r.refill < r.target → (t.reach n).refill = r.target) ∧
      (free → r.filled < us → r.target ≤ r.refill → (t.reach n).refill = max r.target (r.refill - slope)) ∧
      (¬ rise → us ≤ r.filled → (t.reach n).refill = r.refill) ∧
      ((t.reach n).refill ≠ r.refill → (t.reach n).moved = some s.now)) ∧
  (∀ n s e, (grantQueue s n).find? (fun x => grantable s n x.2.2.2) = some e → (∃ since, e.2.2.1.wait = .weir e.2.2.2 since) →
    look s.teams e.1 = some e.2.1 → e.2.1.member e.2.2.1.id = some e.2.2.1 →
    ∃ t m w, exec (.weirGrant n) s = .next t ∧ t.memberAt e.1 e.2.2.1.id = some m ∧ m.wait = .none ∧ m.weir = some w ∧ w.level = e.2.2.2 ∧
      w.limit = (s.reach n).wlim.toNat / 2 ^ (16 * e.2.2.2) % 2 ^ 16 ∧ w.window = [] ∧
      w.weights = (List.range 8).map (fun c => (s.reach n).weights.toNat / 2 ^ (8 * c) % 2 ^ 8)) ∧
  (∀ n s l, grantable s n l = true ↔ l ≤ (s.reach n).gmax ∧ openLevels s n + l ≤ (s.reach n).gpool ∧ (l < 5 ∨ s.now % 4000 = 250 * s.phcfg.2)) ∧
  -- clocks
  (∀ n s, up n s → exec (.droop n) s = .next (s.setReach n { s.reach n with stretch := true, drpcnt := satAdd (s.reach n).drpcnt 1 })) ∧
  (∀ n (v : Word) s, up n s →
    let r := s.reach n
    let rate := v.toNat / 2 ^ 8 % 4
    let vid := v.toNat / 2 ^ 16 % 2 ^ 8
    let hop : Hop := { new := rate, old := r.lrate, since := s.now, locked := none }
    (s.offersRate rate = false → exec (.clkcfg n v) s = .next (refused s (reg n 0))) ∧
    (s.offersRate rate = true → r.hop ≠ none → exec (.clkcfg n v) s = .next (s.setReach n { r with nextCfg := some (rate, vid) })) ∧
    (s.offersRate rate = true → r.hop = none → rate = r.lrate → exec (.clkcfg n v) s = .next (s.setReach n { r with vid := vid })) ∧
    (s.offersRate rate = true → r.hop = none → r.lrate < rate → exec (.clkcfg n v) s = .next (s.setReach n { r with vid := vid, hop := some hop })) ∧
    (s.offersRate rate = true → r.hop = none → rate < r.lrate →
      exec (.clkcfg n v) s = .next (s.setReach n { r with lrate := rate, nextVid := some vid, hop := some hop }))) ∧
  (∀ n s h, (s.reach n).hop = some h → h.locked = none →
    ((s.reach n).stretch = true → exec (.hopLock n) s = .next (s.setReach n { s.reach n with hop := some { h with locked := some s.now } })) ∧
    ((s.reach n).stretch = false → (s.reach n).nextCfg = none → ∃ t, exec (.hopLock n) s = .next t ∧ { t with reaches := s.reaches } = s ∧
      (t.reach n).lrate = h.new ∧ (t.reach n).hop = none ∧ (t.reach n).vid = (s.reach n).nextVid.getD (s.reach n).vid ∧
      (t.reach n).hopcnt.toNat = min ((s.reach n).hopcnt.toNat % 2 ^ 16 + 1) 65535 + (s.reach n).hopcnt.toNat / 2 ^ 16 * 2 ^ 16)) ∧
  (∀ n s, (∀ h, (s.reach n).hop = some h → h.locked = none) →
    exec (.stretchEnd n) s = .next (s.setReach n { s.reach n with stretch := false })) ∧
  (∀ n s h l, (s.reach n).hop = some h → h.locked = some l → s.now ≤ l + 16000 → (s.reach n).nextCfg = none →
    ∃ t, exec (.stretchEnd n) s = .next t ∧ (t.reach n).lrate = h.new ∧ (t.reach n).hop = none ∧ (t.reach n).stretch = false ∧
      (t.reach n).hopcnt.toNat = min ((s.reach n).hopcnt.toNat % 2 ^ 16 + 1) 65535 + min ((s.reach n).hopcnt.toNat / 2 ^ 16 + 1) 65535 * 2 ^ 16) ∧
  (∀ n s h l, (s.reach n).hop = some h → h.locked = some l → (s.reach n).stretch = true → l + 16000 ≤ s.now → (s.reach n).nextCfg = none →
    let r : Reach := { s.reach n with hop := none, vid := (s.reach n).nextVid.getD (s.reach n).vid, nextVid := none }
    -- a stretch that ends after its 16 µs comes too late as well
    (l + 16000 < s.now → exec (.stretchEnd n) s =
      .next (postEvent (s.setReach n { r with stretch := false }) 64 9 (eventBody [(0, n / 32), (1, n % 32)]))) ∧
    exec (.hopAbort n) s = .next (postEvent (s.setReach n r) 64 9 (eventBody [(0, n / 32), (1, n % 32)]))) ∧
  -- registers of a reach and of a die
  (∀ n (v : Word) s, up n s →
    let others := ((s.reaches.filter (fun e => e.1 ≠ n)).map (fun e => e.2.target)).sum
    (others + v.toNat % 2 ^ 16 ≤ s.pkgcap.toNat → exec (.mpfill n v) s = .next (s.setReach n { s.reach n with target := v.toNat % 2 ^ 16 })) ∧
    (s.pkgcap.toNat < others + v.toNat % 2 ^ 16 → exec (.mpfill n v) s = .next (refused s (reg n 8))) ∧
    (v.toNat % 32 ≤ 16 → exec (.spslot n v) s = .next (s.setReach n { s.reach n with spslot := v.toNat % 32 })) ∧
    (16 < v.toNat % 32 → exec (.spslot n v) s = .next (refused s (reg n 0x3C)))) ∧
  (∀ d (v : Word) s, s.dieUp d = true →
    let n := v.toNat % 8
    let ok : Prop := storeBusy s d = false ∧ n ≤ 4 ∧ n ≤ bits ((s.device.caps[2]?.getD 0).toNat) 18 16 ∧ shareSum s d ≤ 128 * n
    -- the pool lines in the ways that a growing carve takes are cached no more
    let rest : State := { s with snoop := s.snoop.filter (fun e => !(e.home = d && decide (16 - n ≤ e.way))) }
    (ok → exec (.vscarve d v) s = .next (rest.setUnit d { s.unit d with vscarve := n })) ∧
    (¬ ok → exec (.vscarve d v) s = .next (refused s (0x1000000 + 0x100000 * d + 0x5C)))) ∧
  -- links and ports: the state told is 1 retraining, 2 failed, 0 trained
  let idle (s : State) : Prop := s.heldWrites = [] ∧ (∀ e ∈ s.rings, e.2.out = []) ∧ ∀ e ∈ s.units, e.2.fbout = [] ∧ e.2.nqout = []
  (∀ a b s, a ≠ b → s.linkEnd a = true → s.linkEnd b = true → (s.link a b).failed = false →
    let x := s.link a b
    let told (x : Link) (n : Nat) : State := postEvent (s.setLink a b x) 64 13 (eventBody [(0, min a b), (1, max a b), (2, n)])
    (x.retraining = false → exec (.dieLinkRetrain a b) s = .next (told { retraining := true, tries := 1, failed := false } 1)) ∧
    (x.retraining = true → x.tries < 3 → exec (.dieLinkRetrain a b) s = .next (told { retraining := true, tries := x.tries + 1, failed := false } 1)) ∧
    (x.retraining = true → 3 ≤ x.tries → exec (.dieLinkRetrain a b) s = .next (told { x with failed := true } 2)) ∧
    (x.retraining = true → idle s → exec (.dieLinkTrained a b) s = .next (told { retraining := false, tries := 0, failed := false } 0))) ∧
  (∀ n s, s.portUp n = true → (s.port n).failed = false →
    let x := s.port n
    let told (x : Link) (k : Nat) : State := postEvent (s.setPort n x) 64 11 (eventBody [(0, n), (1, k)])
    (x.retraining = false → exec (.cxlPortRetrain n) s = .next (told { retraining := true, tries := 1, failed := false } 1)) ∧
    (x.retraining = true → x.tries < 3 → exec (.cxlPortRetrain n) s = .next (told { retraining := true, tries := x.tries + 1, failed := false } 1)) ∧
    (x.retraining = true → 3 ≤ x.tries → exec (.cxlPortRetrain n) s = .next (told { x with failed := true } 2)) ∧
    let trained : Link := { retraining := false, tries := 0, failed := false }
    (x.retraining = true → idle s → exec (.cxlPortTrained n) s = .next (told trained 0)) ∧
    -- a write that the port held is performed
    (∀ pa bs, x.retraining = true → s.heldWrites = [(pa, some bs)] → idle { s with heldWrites := [] } → hostSpan s pa bs.length = true →
      linkHeld (s.setPort n trained) pa bs.length = false →
      exec (.cxlPortTrained n) s = .next (postEvent ({ s.setPort n trained with heldWrites := [] }.poke pa bs) 64 11 (eventBody [(0, n), (1, 0)]))))

/-! ### Bundles -/

/-- R366, R370, R371, R377: what issuing a template copy does. Its header's reserved bits are 0, an invalid slot's bits are zero, and a
valid one's decode to a slot, or the word takes cause 0x01. Of the valid slots, in the order S0, V0, V1, LD, ST, Q, the first that fails a
form or shape check takes 0x01, then two that write one register, then the first failing semaphore check, then the first failing data
check; a slot whose guard bit is set and whose stage predicate is 0 meets neither of the last two, waits for nothing, and does nothing but
push zeros onto its ring. A word that waits has been checked and is checked no more. Then every slot acts from the state before the
bundle, once the unit of a Q slot's wait and the values it moves have ordered their accesses (R400), and each register that an acting slot
writes holds what the slot's instruction alone gives it, and every other keeps its value. -/
def Obligations.BundlesReadBeforeTheyWriteAndObeyTheirGuards : Prop :=
  let low (k : Nat) : Nat := [0, 208, 160, 112, 72, 32, 0][k]?.getD 0
  let width (k : Nat) : Nat := [0, 32, 48, 48, 40, 40, 32][k]?.getD 0
  let valid (t : BitVec 256) (k : Nat) : Bool := t.getLsbD (256 - k)
  let ins (t : BitVec 256) (k : Nat) : Option Instr := match k with
    | 1 => (decodeS0 (t.extractLsb' 208 32)).toOption
    | 2 => (decodeV false (t.extractLsb' 160 48)).toOption
    | 3 => (decodeV true (t.extractLsb' 112 48)).toOption
    | 4 => (decodeLd (t.extractLsb' 72 40)).toOption
    | 5 => (decodeSt (t.extractLsb' 32 40)).toOption
    | _ => (decodeQ (t.extractLsb' 0 32)).toOption
  let broken (t : BitVec 256) (k : Nat) : Prop :=
    if valid t k then ins t k = none else ∃ j, low k ≤ j ∧ j < low k + width k ∧ t.getLsbD j = true
  let slots (t : BitVec 256) : List Slot := ((List.range' 1 6).filter (valid t)).filterMap (fun k => (ins t k).bind slotOf)
  -- guard bits 3 and 2, and the numbers of their stage predicates
  let acts (t : BitVec 256) (b : BCtx) (k : Slot) : Bool :=
    if k.num = 1 then true
    else if k.num ≤ 3 then !t.getLsbD 243 || b.st.sg.getLsbD (t.toNat / 2 ^ 247 % 8)
    else !t.getLsbD 242 || b.st.sg.getLsbD (t.toNat / 2 ^ 244 % 8)
  let meets (ks : List Slot) : Prop := ∃ p k m k' q, ks = p ++ k :: (m ++ k' :: q) ∧ ∃ d, d ≠ .x 0 ∧ d ∈ k.dst ∧ d ∈ k'.dst
  let whole (t : BitVec 256) : Prop :=
    t.getLsbD 240 = false ∧ t.getLsbD 241 = false ∧ ∀ k, 1 ≤ k → k ≤ 6 → ¬ broken t k
  let passes (t : BitVec 256) (b : BCtx) : Prop := b.st.waiting = true ∨ (∀ k ∈ slots t, k.bad b = false) ∧ ¬ meets (slots t) ∧
    ∀ k ∈ slots t, acts t b k = true → k.sems b = none ∧ k.data b = none
  let onward (b : BCtx) (am : State) : State := am.slotNext b
  (∀ t am s b, b = bctx s b.n b.vec →
    let halts (cause slot arg err2 : Nat) : Prop := issueTpl b.n b.vec t am s = haltLc s b.n cause (partyOf b.vec) slot arg b.st.pc err2
    ((t.getLsbD 240 = true ∨ t.getLsbD 241 = true) → halts 0x01 0 0 0) ∧
    (t.getLsbD 240 = false → t.getLsbD 241 = false → ∀ k, 1 ≤ k → k ≤ 6 → broken t k → (∀ j, 1 ≤ j → j < k → ¬ broken t j) → halts 0x01 k 0 0) ∧
    (whole t → b.st.waiting = false →
      (∀ p k q, slots t = p ++ k :: q → (∀ j ∈ p, j.bad b = false) → k.bad b = true → halts 0x01 k.num 0 0) ∧
      ((∀ j ∈ slots t, j.bad b = false) →
        (meets (slots t) → halts 0x01 0 0 0) ∧
        (¬ meets (slots t) →
          (∀ p k q c x, slots t = p ++ k :: q → (∀ j ∈ p, acts t b j = true → j.sems b = none) → acts t b k = true →
            k.sems b = some (c, x) → halts c k.num x 0) ∧
          ((∀ j ∈ slots t, acts t b j = true → j.sems b = none) →
            ∀ p k q c x y, slots t = p ++ k :: q → (∀ j ∈ p, acts t b j = true → j.data b = none) → acts t b k = true →
              k.data b = some (c, x, y) → halts c k.num x y)))) ∧
    (whole t → passes t b →
      -- one slot alone can make the word wait, the Q slot
      (∀ k ∈ slots t, k.num ≠ 6 → k.ready b = .go) ∧
      (∀ k ∈ slots t, acts t b k = true →
        (k.ready b = .wait → issueTpl b.n b.vec t am s = s.setWaiting b.n b.vec true) ∧
        (∀ sm, k.ready b = .sem sm → issueTpl b.n b.vec t am s = (s.updLc b.n (fun c => c.awaits (partyOf b.vec) sm)).setWaiting b.n b.vec true) ∧
        (∀ c x, k.ready b = .cause c x → halts c 6 x 0)) ∧
      ((∀ k ∈ slots t, acts t b k = true → k.ready b = .go) →
        let z := issueTpl b.n b.vec t am s
        z = (slots t).foldl (fun s k => k.act b (acts t b k) s) (((slots t).filter (acts t b)).foldl (fun s k => k.before b s) (onward b am)) ∧
        -- the registers, where the word halts nothing
        ((am = s ∨ ∃ y, am = s.updStream b.n b.vec (fun st => { st with tpl := y })) → SlotIssues s b → (z.lc b.n).halt = false →
          -- and no write of the line store is unordered with another party
          b.c.races = [] → (∀ x, b.c.ldq.head? = some x → x.started = false) →
          (∀ j i k s1, 1 ≤ j → j ≤ 6 → valid t j = true → ins t j = some i → slotOf i = some k → acts t b k = true → exec i s = .next s1 →
            (∀ r, .x r ∈ k.dst → ((z.lc b.n).stream b.vec).xr r = ((s1.lc b.n).stream b.vec).xr r) ∧
            (∀ r, .w r ∈ k.dst → (z.lc b.n).wr (physW b.c.lb r) = (s1.lc b.n).wr (physW b.c.lb r))) ∧
          (∀ r, (∀ k ∈ slots t, acts t b k = true → .x r ∉ k.dst) → ((z.lc b.n).stream b.vec).xr r = b.st.xr r) ∧
          (∀ r, r < 64 → (∀ k ∈ slots t, acts t b k = true → .w r ∉ k.dst) → (z.lc b.n).wr (physW b.c.lb r) = b.c.wr (physW b.c.lb r)) ∧
          ((z.lc b.n).stream (!b.vec)) = b.c.stream (!b.vec))))) ∧
  -- a slot whose guard is 0 pushes zeros onto its ring and does nothing else
  (∀ i k b s, slotOf i = some k → k.num ≠ 1 → k.act b false s =
    if k.num = 2 then s.updLc b.n (fun c => { c with o0 := (0 :: c.o0).take 4 })
    else if k.num = 3 then s.updLc b.n (fun c => { c with o1 := (0 :: c.o1).take 4 }) else s) ∧
  -- a slot's checks, its wait and its act are those of its instruction alone
  (∀ i k s b, slotOf i = some k → SlotIssues s b →
    (b.st.waiting = false → k.bad b = true → SlotHalts i s b 0x01 k.num 0 0) ∧
    (b.st.waiting = false → k.bad b = false → ∀ c x, k.sems b = some (c, x) → SlotHalts i s b c k.num x 0) ∧
    (b.st.waiting = false → k.bad b = false → k.sems b = none → ∀ c x y, k.data b = some (c, x, y) → SlotHalts i s b c k.num x y) ∧
    ((b.st.waiting = false → k.bad b = false ∧ k.sems b = none ∧ k.data b = none) → k.ready b = .go →
      exec i s = .next (k.act b true (k.before b (s.slotNext b)))))
end

