-- ==== Sys2Proof/Laws/Calud.lean ====
section
/-! SUPPORT. What a Calud word can do, said once: an attempt either waits or issues, an issue settles the outcome of the
word's own entry, and an outcome without trap, charge or leftover lane completes. -/

namespace Sys2Proof.Machine

/-- A word whose member may issue goes through the checks of R65. -/
theorem calud_attempts {r : CRow} {w : CWord} {s : State} {c : Ctx} (h : Attempts r w s c) (entry : Ctx → Res) :
    calud r entry w s = .next (issue c r entry) := by
  have hc := h.ctx
  simp only [calud, h.who, ← hc, h.free, h.bank, h.tags, h.unit, Bool.or_self, Bool.false_eq_true, if_false]

/-- The word of a context is the word that issues. -/
theorem Attempts.word {r : CRow} {w : CWord} {s : State} {c : Ctx} (h : Attempts r w s c) : c.w = w := by
  rw [h.ctx]; rfl

/-- The opcode of a context is its row's. -/
theorem Attempts.opcode {r : CRow} {w : CWord} {s : State} {c : Ctx} (h : Attempts r w s c) : c.op = r.op := by
  rw [h.ctx]; rfl

/-- The state of a context is the state before the word, its free choices drawn. -/
theorem Attempts.state {r : CRow} {w : CWord} {s : State} {c : Ctx} (h : Attempts r w s c) :
    c.s = s.freed (32 * c.m.pendWrites.length) := by
  rw [h.ctx]; rfl

/-- A word that passes the checks meets its own entry. -/
theorem issue_entry {r : CRow} {w : CWord} {s : State} {c : Ctx} (h : Checks r w s c) (entry : Ctx → Res) :
    issue c r entry = settle c r (entry c) := by
  have hw := h.toAttempts.word
  simp only [issue, hw, h.legal, h.present, h.guarded, h.early, h.active, Bool.not_true, Bool.false_eq_true, if_false]

/-- What an outcome with no leftover lane comes to. -/
theorem settle_done {r : CRow} {w : CWord} {s : State} {c : Ctx} (h : Checks r w s c) {s1 : State} {o : Out} :
    settle c r (.done s1 o) = c.ends s1 o := by
  have hl : (!r.uniform c.w && c.others (maskOf c.act) != 0) = false := by
    have := h.whole
    rw [h.toAttempts.word]
    cases hu : r.uniform w <;> simp_all
  simp only [settle, Ctx.ends, hl, Bool.false_eq_true, if_false]

/-- A word whose entry is done completes, where no enabled flag and no limit stops it. -/
theorem calud_done {r : CRow} {w : CWord} {s : State} {c : Ctx} {entry : Ctx → Res} {s1 : State} {o : Out}
    (h : Issues r w s c) (e : entry c = .done s1 o) (hf : trapsFp c.t o.flags = false) :
    calud r entry w s = .next (complete c s1 o) := by
  rw [calud_attempts h.toAttempts, issue_entry h.toChecks, e, settle_done h.toChecks]
  simp only [Ctx.ends, hf, h.charge, Bool.false_eq_true, if_false]

/-- A word whose entry takes a cause enters the handler or abandons the task. -/
theorem calud_cause {r : CRow} {w : CWord} {s : State} {c : Ctx} {entry : Ctx → Res} {s1 : State} {k arg : Nat}
    (h : Issues r w s c) (e : entry c = .cause s1 k arg) :
    calud r entry w s = .next (c.draw (takeCause s1 c.tk c.m.id k arg)) := by
  rw [calud_attempts h.toAttempts, issue_entry h.toChecks, e]; rfl

/-- A cause and a reach do not meet: whether a word draws before or after its cause makes no difference. -/
theorem takeCause_setReach (s : State) (n : Nat) (r : Reach) (tk mid k arg : Nat) :
    takeCause (s.setReach n r) tk mid k arg = (takeCause s tk mid k arg).setReach n r := by
  unfold takeCause takeCauseAt State.settleQueues
  cases hl : look s.teams tk with
  | none => simp [State.setReach, hl]
  | some t => cases hm : t.member mid with
    | none => simp [State.setReach, hl, hm]
    | some m =>
      simp only [State.setReach, hl, hm, Option.bind_some, Option.map_some]
      split_ifs <;> rfl

/-- A word whose entry waits leaves the state of its wait. -/
theorem calud_wait {r : CRow} {w : CWord} {s : State} {c : Ctx} {entry : Ctx → Res} {s1 : State}
    (h : Issues r w s c) (e : entry c = .wait s1) : calud r entry w s = .next s1 := by
  rw [calud_attempts h.toAttempts, issue_entry h.toChecks, e]; rfl

/-- The form in which a family's completion is proved: the meaning is the row's, and its entry is done. -/
theorem completesIn_of {r : CRow} {i : CWord → Instr} {entry : Ctx → Res} {pre : Ctx → Prop} {st : Ctx → State} {out : Ctx → Out}
    (hx : ∀ w s, exec (i w) s = calud r entry w s)
    (he : ∀ w s c, Checks r w s c → pre c → entry c = .done (st c) (out c)) : CompletesIn r i pre st out :=
  fun w s c h hp => by rw [hx, calud_attempts h.toAttempts, issue_entry h, he w s c h hp, settle_done h]

/-- The form for a word that touches registers alone. -/
theorem completes_of {r : CRow} {i : CWord → Instr} {entry : Ctx → Res} {out : Ctx → Out}
    (hx : ∀ w s, exec (i w) s = calud r entry w s) (he : ∀ c, entry c = .done c.s (out c)) : Completes r i out :=
  completesIn_of hx (fun _ _ c _ _ => he c)

/-- The form for a word that traps. -/
theorem traps_of {r : CRow} {i : CWord → Instr} {entry : Ctx → Res} {pre : Ctx → Prop} {k : Ctx → Nat}
    (hx : ∀ w s, exec (i w) s = calud r entry w s)
    (he : ∀ w s c, Issues r w s c → pre c → entry c = .cause c.s (k c) 0) : Traps r i pre k :=
  fun w s c h hp => by rw [hx, calud_cause h (he w s c h hp)]

/-- The form for a word that fails check 2. -/
theorem trapsAtCheck2_of {r : CRow} {i : CWord → Instr} {entry : Ctx → Res} {pre : Ctx → Prop}
    (hx : ∀ w s, exec (i w) s = calud r entry w s) (h2 : ∀ w s c, Attempts r w s c → pre c → c.unitFails = true) :
    TrapsAtCheck2 r i pre := by
  intro w s c h hl hp
  have hw := h.word
  simp only [hx, calud_attempts h, issue, hw, hl, h2 w s c h hp, Bool.not_true, Bool.false_eq_true, if_false, if_true, settle]

/-- A memory word that performs in every lane is done. -/
theorem memWord_done {c : Ctx} {u : Bool} {a : MemAsk} {s1 : State} {tr : List (Nat × Trans)} (h : Performs c a s1 tr)
    (perform : State → List (Nat × Trans) → List LaneReq → State × Out) :
    memWord c u a perform = .done (perform s1 tr a.lanes).1 (perform s1 tr a.lanes).2 := by
  obtain ⟨s0, hv, hs⟩ := h.marks
  have hok : a.lanes.filter (laneOk tr) = a.lanes := List.filter_eq_self.mpr (by simpa using h.every)
  have hbad : a.lanes.filter (fun l => !laneOk tr l) = [] := by
    refine List.filter_eq_nil_iff.mpr (fun l hl => ?_)
    have := List.all_eq_true.mp h.every l hl
    simp [this]
  have h1 : (reachLines c.s c.t (wantOf c.t a) a.lanes).2.ok = a.lanes := by
    have : (reachLines c.s c.t (wantOf c.t a) a.lanes).2.ok = a.lanes.filter (laneOk (reachLines c.s c.t (wantOf c.t a) a.lanes).2.tr) := rfl
    rw [this, ← h.lines, hok]
  have h2 : (reachLines c.s c.t (wantOf c.t a) a.lanes).2.bad = [] := by
    have : (reachLines c.s c.t (wantOf c.t a) a.lanes).2.bad = a.lanes.filter (fun l => !laneOk (reachLines c.s c.t (wantOf c.t a) a.lanes).2.tr l) := rfl
    rw [this, ← h.lines, hbad]
  have h3 : (reachLines c.s c.t (wantOf c.t a) a.lanes).2.cause = none := by
    have : (reachLines c.s c.t (wantOf c.t a) a.lanes).2.cause = transCause (reachLines c.s c.t (wantOf c.t a) a.lanes).2.tr := rfl
    rw [this, ← h.lines, h.noCause]
  unfold memWord
  rw [if_neg (by have := h.open_; simp only [this]; simp)]
  simp only [← h.lines, h1, h2, h3, h.path, hv, hs, Bool.false_eq_true, if_false, if_true]

end Sys2Proof.Machine
end

