-- ==== Sys2Proof/Laws/State.lean ====
section
/-! SUPPORT. Reading a field of the state after an update of another field. -/

namespace Sys2Proof.Machine

variable (s : State)

@[simp] theorem poke_now (pa : Nat) (bs : List Byte) : (s.poke pa bs).now = s.now := rfl
@[simp] theorem poke_turn (pa : Nat) (bs : List Byte) : (s.poke pa bs).turn = s.turn := rfl
@[simp] theorem poke_free (pa : Nat) (bs : List Byte) : (s.poke pa bs).free = s.free := rfl
@[simp] theorem poke_agenda (pa : Nat) (bs : List Byte) : (s.poke pa bs).agenda = s.agenda := rfl
@[simp] theorem poke_cur (pa : Nat) (bs : List Byte) : (s.poke pa bs).cur = s.cur := rfl
@[simp] theorem poke_rivals (pa : Nat) (bs : List Byte) : (s.poke pa bs).rivals = s.rivals := rfl
@[simp] theorem poke_curLc (pa : Nat) (bs : List Byte) : (s.poke pa bs).curLc = s.curLc := rfl
@[simp] theorem poke_device (pa : Nat) (bs : List Byte) : (s.poke pa bs).device = s.device := rfl
@[simp] theorem poke_host (pa : Nat) (bs : List Byte) : (s.poke pa bs).host = s.host := rfl
@[simp] theorem poke_queues (pa : Nat) (bs : List Byte) : (s.poke pa bs).queues = s.queues := rfl
@[simp] theorem poke_rings (pa : Nat) (bs : List Byte) : (s.poke pa bs).rings = s.rings := rfl
@[simp] theorem poke_units (pa : Nat) (bs : List Byte) : (s.poke pa bs).units = s.units := rfl
@[simp] theorem poke_vaults (pa : Nat) (bs : List Byte) : (s.poke pa bs).vaults = s.vaults := rfl
@[simp] theorem poke_reaches (pa : Nat) (bs : List Byte) : (s.poke pa bs).reaches = s.reaches := rfl
@[simp] theorem poke_pchg (pa : Nat) (bs : List Byte) : (s.poke pa bs).pchg = s.pchg := rfl
@[simp] theorem poke_phcfg (pa : Nat) (bs : List Byte) : (s.poke pa bs).phcfg = s.phcfg := rfl
@[simp] theorem poke_pkgcap (pa : Nat) (bs : List Byte) : (s.poke pa bs).pkgcap = s.pkgcap := rfl
@[simp] theorem poke_links (pa : Nat) (bs : List Byte) : (s.poke pa bs).links = s.links := rfl
@[simp] theorem poke_ports (pa : Nat) (bs : List Byte) : (s.poke pa bs).ports = s.ports := rfl
@[simp] theorem poke_snoop (pa : Nat) (bs : List Byte) : (s.poke pa bs).snoop = s.snoop := rfl
@[simp] theorem poke_tlb (pa : Nat) (bs : List Byte) : (s.poke pa bs).tlb = s.tlb := rfl
@[simp] theorem poke_parts (pa : Nat) (bs : List Byte) : (s.poke pa bs).parts = s.parts := rfl
@[simp] theorem poke_ctxs (pa : Nat) (bs : List Byte) : (s.poke pa bs).ctxs = s.ctxs := rfl
@[simp] theorem poke_springs (pa : Nat) (bs : List Byte) : (s.poke pa bs).springs = s.springs := rfl
@[simp] theorem poke_misses (pa : Nat) (bs : List Byte) : (s.poke pa bs).misses = s.misses := rfl
@[simp] theorem poke_launches (pa : Nat) (bs : List Byte) : (s.poke pa bs).launches = s.launches := rfl
@[simp] theorem poke_freshLaunch (pa : Nat) (bs : List Byte) : (s.poke pa bs).freshLaunch = s.freshLaunch := rfl
@[simp] theorem poke_lids (pa : Nat) (bs : List Byte) : (s.poke pa bs).lids = s.lids := rfl
@[simp] theorem poke_served (pa : Nat) (bs : List Byte) : (s.poke pa bs).served = s.served := rfl
@[simp] theorem poke_dispatch (pa : Nat) (bs : List Byte) : (s.poke pa bs).dispatch = s.dispatch := rfl
@[simp] theorem poke_abands (pa : Nat) (bs : List Byte) : (s.poke pa bs).abands = s.abands := rfl
@[simp] theorem poke_teams (pa : Nat) (bs : List Byte) : (s.poke pa bs).teams = s.teams := rfl
@[simp] theorem poke_freshTeam (pa : Nat) (bs : List Byte) : (s.poke pa bs).freshTeam = s.freshTeam := rfl
@[simp] theorem poke_cores (pa : Nat) (bs : List Byte) : (s.poke pa bs).cores = s.cores := rfl
@[simp] theorem poke_cmds (pa : Nat) (bs : List Byte) : (s.poke pa bs).cmds = s.cmds := rfl
@[simp] theorem poke_freshCmd (pa : Nat) (bs : List Byte) : (s.poke pa bs).freshCmd = s.freshCmd := rfl
@[simp] theorem poke_colls (pa : Nat) (bs : List Byte) : (s.poke pa bs).colls = s.colls := rfl
@[simp] theorem poke_screens (pa : Nat) (bs : List Byte) : (s.poke pa bs).screens = s.screens := rfl
@[simp] theorem poke_kept (pa : Nat) (bs : List Byte) : (s.poke pa bs).kept = s.kept := rfl
@[simp] theorem poke_commits (pa : Nat) (bs : List Byte) : (s.poke pa bs).commits = s.commits := rfl
@[simp] theorem poke_marks (pa : Nat) (bs : List Byte) : (s.poke pa bs).marks = s.marks := rfl
@[simp] theorem poke_order (pa : Nat) (bs : List Byte) : (s.poke pa bs).order = s.order := rfl
@[simp] theorem poke_lcs (pa : Nat) (bs : List Byte) : (s.poke pa bs).lcs = s.lcs := rfl
@[simp] theorem poke_streams (pa : Nat) (bs : List Byte) : (s.poke pa bs).streams = s.streams := rfl
@[simp] theorem poke_sregs (pa : Nat) (bs : List Byte) : (s.poke pa bs).sregs = s.sregs := rfl
@[simp] theorem poke_heldWrites (pa : Nat) (bs : List Byte) : (s.poke pa bs).heldWrites = s.heldWrites := rfl

@[simp] theorem setQueue_now (q : Nat) (x : Queue) : (s.setQueue q x).now = s.now := rfl
@[simp] theorem setQueue_turn (q : Nat) (x : Queue) : (s.setQueue q x).turn = s.turn := rfl
@[simp] theorem setQueue_free (q : Nat) (x : Queue) : (s.setQueue q x).free = s.free := rfl
@[simp] theorem setQueue_agenda (q : Nat) (x : Queue) : (s.setQueue q x).agenda = s.agenda := rfl
@[simp] theorem setQueue_cur (q : Nat) (x : Queue) : (s.setQueue q x).cur = s.cur := rfl
@[simp] theorem setQueue_rivals (q : Nat) (x : Queue) : (s.setQueue q x).rivals = s.rivals := rfl
@[simp] theorem setQueue_curLc (q : Nat) (x : Queue) : (s.setQueue q x).curLc = s.curLc := rfl
@[simp] theorem setQueue_mem (q : Nat) (x : Queue) : (s.setQueue q x).mem = s.mem := rfl
@[simp] theorem setQueue_device (q : Nat) (x : Queue) : (s.setQueue q x).device = s.device := rfl
@[simp] theorem setQueue_host (q : Nat) (x : Queue) : (s.setQueue q x).host = s.host := rfl
@[simp] theorem setQueue_rings (q : Nat) (x : Queue) : (s.setQueue q x).rings = s.rings := rfl
@[simp] theorem setQueue_units (q : Nat) (x : Queue) : (s.setQueue q x).units = s.units := rfl
@[simp] theorem setQueue_vaults (q : Nat) (x : Queue) : (s.setQueue q x).vaults = s.vaults := rfl
@[simp] theorem setQueue_reaches (q : Nat) (x : Queue) : (s.setQueue q x).reaches = s.reaches := rfl
@[simp] theorem setQueue_pchg (q : Nat) (x : Queue) : (s.setQueue q x).pchg = s.pchg := rfl
@[simp] theorem setQueue_phcfg (q : Nat) (x : Queue) : (s.setQueue q x).phcfg = s.phcfg := rfl
@[simp] theorem setQueue_pkgcap (q : Nat) (x : Queue) : (s.setQueue q x).pkgcap = s.pkgcap := rfl
@[simp] theorem setQueue_links (q : Nat) (x : Queue) : (s.setQueue q x).links = s.links := rfl
@[simp] theorem setQueue_ports (q : Nat) (x : Queue) : (s.setQueue q x).ports = s.ports := rfl
@[simp] theorem setQueue_snoop (q : Nat) (x : Queue) : (s.setQueue q x).snoop = s.snoop := rfl
@[simp] theorem setQueue_late (q : Nat) (x : Queue) : (s.setQueue q x).late = s.late := rfl
@[simp] theorem setQueue_tlb (q : Nat) (x : Queue) : (s.setQueue q x).tlb = s.tlb := rfl
@[simp] theorem setQueue_parts (q : Nat) (x : Queue) : (s.setQueue q x).parts = s.parts := rfl
@[simp] theorem setQueue_ctxs (q : Nat) (x : Queue) : (s.setQueue q x).ctxs = s.ctxs := rfl
@[simp] theorem setQueue_springs (q : Nat) (x : Queue) : (s.setQueue q x).springs = s.springs := rfl
@[simp] theorem setQueue_misses (q : Nat) (x : Queue) : (s.setQueue q x).misses = s.misses := rfl
@[simp] theorem setQueue_launches (q : Nat) (x : Queue) : (s.setQueue q x).launches = s.launches := rfl
@[simp] theorem setQueue_freshLaunch (q : Nat) (x : Queue) : (s.setQueue q x).freshLaunch = s.freshLaunch := rfl
@[simp] theorem setQueue_lids (q : Nat) (x : Queue) : (s.setQueue q x).lids = s.lids := rfl
@[simp] theorem setQueue_served (q : Nat) (x : Queue) : (s.setQueue q x).served = s.served := rfl
@[simp] theorem setQueue_dispatch (q : Nat) (x : Queue) : (s.setQueue q x).dispatch = s.dispatch := rfl
@[simp] theorem setQueue_abands (q : Nat) (x : Queue) : (s.setQueue q x).abands = s.abands := rfl
@[simp] theorem setQueue_teams (q : Nat) (x : Queue) : (s.setQueue q x).teams = s.teams := rfl
@[simp] theorem setQueue_freshTeam (q : Nat) (x : Queue) : (s.setQueue q x).freshTeam = s.freshTeam := rfl
@[simp] theorem setQueue_cores (q : Nat) (x : Queue) : (s.setQueue q x).cores = s.cores := rfl
@[simp] theorem setQueue_cmds (q : Nat) (x : Queue) : (s.setQueue q x).cmds = s.cmds := rfl
@[simp] theorem setQueue_freshCmd (q : Nat) (x : Queue) : (s.setQueue q x).freshCmd = s.freshCmd := rfl
@[simp] theorem setQueue_colls (q : Nat) (x : Queue) : (s.setQueue q x).colls = s.colls := rfl
@[simp] theorem setQueue_screens (q : Nat) (x : Queue) : (s.setQueue q x).screens = s.screens := rfl
@[simp] theorem setQueue_kept (q : Nat) (x : Queue) : (s.setQueue q x).kept = s.kept := rfl
@[simp] theorem setQueue_commits (q : Nat) (x : Queue) : (s.setQueue q x).commits = s.commits := rfl
@[simp] theorem setQueue_marks (q : Nat) (x : Queue) : (s.setQueue q x).marks = s.marks := rfl
@[simp] theorem setQueue_order (q : Nat) (x : Queue) : (s.setQueue q x).order = s.order := rfl
@[simp] theorem setQueue_lcs (q : Nat) (x : Queue) : (s.setQueue q x).lcs = s.lcs := rfl
@[simp] theorem setQueue_streams (q : Nat) (x : Queue) : (s.setQueue q x).streams = s.streams := rfl
@[simp] theorem setQueue_sregs (q : Nat) (x : Queue) : (s.setQueue q x).sregs = s.sregs := rfl
@[simp] theorem setQueue_heldWrites (q : Nat) (x : Queue) : (s.setQueue q x).heldWrites = s.heldWrites := rfl

@[simp] theorem setRing_now (n : Nat) (x : Ring) : (s.setRing n x).now = s.now := rfl
@[simp] theorem setRing_turn (n : Nat) (x : Ring) : (s.setRing n x).turn = s.turn := rfl
@[simp] theorem setRing_free (n : Nat) (x : Ring) : (s.setRing n x).free = s.free := rfl
@[simp] theorem setRing_agenda (n : Nat) (x : Ring) : (s.setRing n x).agenda = s.agenda := rfl
@[simp] theorem setRing_cur (n : Nat) (x : Ring) : (s.setRing n x).cur = s.cur := rfl
@[simp] theorem setRing_rivals (n : Nat) (x : Ring) : (s.setRing n x).rivals = s.rivals := rfl
@[simp] theorem setRing_curLc (n : Nat) (x : Ring) : (s.setRing n x).curLc = s.curLc := rfl
@[simp] theorem setRing_mem (n : Nat) (x : Ring) : (s.setRing n x).mem = s.mem := rfl
@[simp] theorem setRing_device (n : Nat) (x : Ring) : (s.setRing n x).device = s.device := rfl
@[simp] theorem setRing_host (n : Nat) (x : Ring) : (s.setRing n x).host = s.host := rfl
@[simp] theorem setRing_queues (n : Nat) (x : Ring) : (s.setRing n x).queues = s.queues := rfl
@[simp] theorem setRing_units (n : Nat) (x : Ring) : (s.setRing n x).units = s.units := rfl
@[simp] theorem setRing_vaults (n : Nat) (x : Ring) : (s.setRing n x).vaults = s.vaults := rfl
@[simp] theorem setRing_reaches (n : Nat) (x : Ring) : (s.setRing n x).reaches = s.reaches := rfl
@[simp] theorem setRing_pchg (n : Nat) (x : Ring) : (s.setRing n x).pchg = s.pchg := rfl
@[simp] theorem setRing_phcfg (n : Nat) (x : Ring) : (s.setRing n x).phcfg = s.phcfg := rfl
@[simp] theorem setRing_pkgcap (n : Nat) (x : Ring) : (s.setRing n x).pkgcap = s.pkgcap := rfl
@[simp] theorem setRing_links (n : Nat) (x : Ring) : (s.setRing n x).links = s.links := rfl
@[simp] theorem setRing_ports (n : Nat) (x : Ring) : (s.setRing n x).ports = s.ports := rfl
@[simp] theorem setRing_snoop (n : Nat) (x : Ring) : (s.setRing n x).snoop = s.snoop := rfl
@[simp] theorem setRing_late (n : Nat) (x : Ring) : (s.setRing n x).late = s.late := rfl
@[simp] theorem setRing_tlb (n : Nat) (x : Ring) : (s.setRing n x).tlb = s.tlb := rfl
@[simp] theorem setRing_parts (n : Nat) (x : Ring) : (s.setRing n x).parts = s.parts := rfl
@[simp] theorem setRing_ctxs (n : Nat) (x : Ring) : (s.setRing n x).ctxs = s.ctxs := rfl
@[simp] theorem setRing_springs (n : Nat) (x : Ring) : (s.setRing n x).springs = s.springs := rfl
@[simp] theorem setRing_misses (n : Nat) (x : Ring) : (s.setRing n x).misses = s.misses := rfl
@[simp] theorem setRing_launches (n : Nat) (x : Ring) : (s.setRing n x).launches = s.launches := rfl
@[simp] theorem setRing_freshLaunch (n : Nat) (x : Ring) : (s.setRing n x).freshLaunch = s.freshLaunch := rfl
@[simp] theorem setRing_lids (n : Nat) (x : Ring) : (s.setRing n x).lids = s.lids := rfl
@[simp] theorem setRing_served (n : Nat) (x : Ring) : (s.setRing n x).served = s.served := rfl
@[simp] theorem setRing_dispatch (n : Nat) (x : Ring) : (s.setRing n x).dispatch = s.dispatch := rfl
@[simp] theorem setRing_abands (n : Nat) (x : Ring) : (s.setRing n x).abands = s.abands := rfl
@[simp] theorem setRing_teams (n : Nat) (x : Ring) : (s.setRing n x).teams = s.teams := rfl
@[simp] theorem setRing_freshTeam (n : Nat) (x : Ring) : (s.setRing n x).freshTeam = s.freshTeam := rfl
@[simp] theorem setRing_cores (n : Nat) (x : Ring) : (s.setRing n x).cores = s.cores := rfl
@[simp] theorem setRing_cmds (n : Nat) (x : Ring) : (s.setRing n x).cmds = s.cmds := rfl
@[simp] theorem setRing_freshCmd (n : Nat) (x : Ring) : (s.setRing n x).freshCmd = s.freshCmd := rfl
@[simp] theorem setRing_colls (n : Nat) (x : Ring) : (s.setRing n x).colls = s.colls := rfl
@[simp] theorem setRing_screens (n : Nat) (x : Ring) : (s.setRing n x).screens = s.screens := rfl
@[simp] theorem setRing_kept (n : Nat) (x : Ring) : (s.setRing n x).kept = s.kept := rfl
@[simp] theorem setRing_commits (n : Nat) (x : Ring) : (s.setRing n x).commits = s.commits := rfl
@[simp] theorem setRing_marks (n : Nat) (x : Ring) : (s.setRing n x).marks = s.marks := rfl
@[simp] theorem setRing_order (n : Nat) (x : Ring) : (s.setRing n x).order = s.order := rfl
@[simp] theorem setRing_lcs (n : Nat) (x : Ring) : (s.setRing n x).lcs = s.lcs := rfl
@[simp] theorem setRing_streams (n : Nat) (x : Ring) : (s.setRing n x).streams = s.streams := rfl
@[simp] theorem setRing_sregs (n : Nat) (x : Ring) : (s.setRing n x).sregs = s.sregs := rfl
@[simp] theorem setRing_heldWrites (n : Nat) (x : Ring) : (s.setRing n x).heldWrites = s.heldWrites := rfl

@[simp] theorem setUnit_now (d : Nat) (x : MemUnit) : (s.setUnit d x).now = s.now := rfl
@[simp] theorem setUnit_turn (d : Nat) (x : MemUnit) : (s.setUnit d x).turn = s.turn := rfl
@[simp] theorem setUnit_free (d : Nat) (x : MemUnit) : (s.setUnit d x).free = s.free := rfl
@[simp] theorem setUnit_agenda (d : Nat) (x : MemUnit) : (s.setUnit d x).agenda = s.agenda := rfl
@[simp] theorem setUnit_cur (d : Nat) (x : MemUnit) : (s.setUnit d x).cur = s.cur := rfl
@[simp] theorem setUnit_rivals (d : Nat) (x : MemUnit) : (s.setUnit d x).rivals = s.rivals := rfl
@[simp] theorem setUnit_curLc (d : Nat) (x : MemUnit) : (s.setUnit d x).curLc = s.curLc := rfl
@[simp] theorem setUnit_mem (d : Nat) (x : MemUnit) : (s.setUnit d x).mem = s.mem := rfl
@[simp] theorem setUnit_device (d : Nat) (x : MemUnit) : (s.setUnit d x).device = s.device := rfl
@[simp] theorem setUnit_host (d : Nat) (x : MemUnit) : (s.setUnit d x).host = s.host := rfl
@[simp] theorem setUnit_queues (d : Nat) (x : MemUnit) : (s.setUnit d x).queues = s.queues := rfl
@[simp] theorem setUnit_rings (d : Nat) (x : MemUnit) : (s.setUnit d x).rings = s.rings := rfl
@[simp] theorem setUnit_vaults (d : Nat) (x : MemUnit) : (s.setUnit d x).vaults = s.vaults := rfl
@[simp] theorem setUnit_reaches (d : Nat) (x : MemUnit) : (s.setUnit d x).reaches = s.reaches := rfl
@[simp] theorem setUnit_pchg (d : Nat) (x : MemUnit) : (s.setUnit d x).pchg = s.pchg := rfl
@[simp] theorem setUnit_phcfg (d : Nat) (x : MemUnit) : (s.setUnit d x).phcfg = s.phcfg := rfl
@[simp] theorem setUnit_pkgcap (d : Nat) (x : MemUnit) : (s.setUnit d x).pkgcap = s.pkgcap := rfl
@[simp] theorem setUnit_links (d : Nat) (x : MemUnit) : (s.setUnit d x).links = s.links := rfl
@[simp] theorem setUnit_ports (d : Nat) (x : MemUnit) : (s.setUnit d x).ports = s.ports := rfl
@[simp] theorem setUnit_snoop (d : Nat) (x : MemUnit) : (s.setUnit d x).snoop = s.snoop := rfl
@[simp] theorem setUnit_late (d : Nat) (x : MemUnit) : (s.setUnit d x).late = s.late := rfl
@[simp] theorem setUnit_tlb (d : Nat) (x : MemUnit) : (s.setUnit d x).tlb = s.tlb := rfl
@[simp] theorem setUnit_parts (d : Nat) (x : MemUnit) : (s.setUnit d x).parts = s.parts := rfl
@[simp] theorem setUnit_ctxs (d : Nat) (x : MemUnit) : (s.setUnit d x).ctxs = s.ctxs := rfl
@[simp] theorem setUnit_springs (d : Nat) (x : MemUnit) : (s.setUnit d x).springs = s.springs := rfl
@[simp] theorem setUnit_misses (d : Nat) (x : MemUnit) : (s.setUnit d x).misses = s.misses := rfl
@[simp] theorem setUnit_launches (d : Nat) (x : MemUnit) : (s.setUnit d x).launches = s.launches := rfl
@[simp] theorem setUnit_freshLaunch (d : Nat) (x : MemUnit) : (s.setUnit d x).freshLaunch = s.freshLaunch := rfl
@[simp] theorem setUnit_lids (d : Nat) (x : MemUnit) : (s.setUnit d x).lids = s.lids := rfl
@[simp] theorem setUnit_served (d : Nat) (x : MemUnit) : (s.setUnit d x).served = s.served := rfl
@[simp] theorem setUnit_dispatch (d : Nat) (x : MemUnit) : (s.setUnit d x).dispatch = s.dispatch := rfl
@[simp] theorem setUnit_abands (d : Nat) (x : MemUnit) : (s.setUnit d x).abands = s.abands := rfl
@[simp] theorem setUnit_teams (d : Nat) (x : MemUnit) : (s.setUnit d x).teams = s.teams := rfl
@[simp] theorem setUnit_freshTeam (d : Nat) (x : MemUnit) : (s.setUnit d x).freshTeam = s.freshTeam := rfl
@[simp] theorem setUnit_cores (d : Nat) (x : MemUnit) : (s.setUnit d x).cores = s.cores := rfl
@[simp] theorem setUnit_cmds (d : Nat) (x : MemUnit) : (s.setUnit d x).cmds = s.cmds := rfl
@[simp] theorem setUnit_freshCmd (d : Nat) (x : MemUnit) : (s.setUnit d x).freshCmd = s.freshCmd := rfl
@[simp] theorem setUnit_colls (d : Nat) (x : MemUnit) : (s.setUnit d x).colls = s.colls := rfl
@[simp] theorem setUnit_screens (d : Nat) (x : MemUnit) : (s.setUnit d x).screens = s.screens := rfl
@[simp] theorem setUnit_kept (d : Nat) (x : MemUnit) : (s.setUnit d x).kept = s.kept := rfl
@[simp] theorem setUnit_commits (d : Nat) (x : MemUnit) : (s.setUnit d x).commits = s.commits := rfl
@[simp] theorem setUnit_marks (d : Nat) (x : MemUnit) : (s.setUnit d x).marks = s.marks := rfl
@[simp] theorem setUnit_order (d : Nat) (x : MemUnit) : (s.setUnit d x).order = s.order := rfl
@[simp] theorem setUnit_lcs (d : Nat) (x : MemUnit) : (s.setUnit d x).lcs = s.lcs := rfl
@[simp] theorem setUnit_streams (d : Nat) (x : MemUnit) : (s.setUnit d x).streams = s.streams := rfl
@[simp] theorem setUnit_sregs (d : Nat) (x : MemUnit) : (s.setUnit d x).sregs = s.sregs := rfl
@[simp] theorem setUnit_heldWrites (d : Nat) (x : MemUnit) : (s.setUnit d x).heldWrites = s.heldWrites := rfl

@[simp] theorem setVault_now (n : Nat) (x : Vault) : (s.setVault n x).now = s.now := rfl
@[simp] theorem setVault_turn (n : Nat) (x : Vault) : (s.setVault n x).turn = s.turn := rfl
@[simp] theorem setVault_free (n : Nat) (x : Vault) : (s.setVault n x).free = s.free := rfl
@[simp] theorem setVault_agenda (n : Nat) (x : Vault) : (s.setVault n x).agenda = s.agenda := rfl
@[simp] theorem setVault_cur (n : Nat) (x : Vault) : (s.setVault n x).cur = s.cur := rfl
@[simp] theorem setVault_rivals (n : Nat) (x : Vault) : (s.setVault n x).rivals = s.rivals := rfl
@[simp] theorem setVault_curLc (n : Nat) (x : Vault) : (s.setVault n x).curLc = s.curLc := rfl
@[simp] theorem setVault_mem (n : Nat) (x : Vault) : (s.setVault n x).mem = s.mem := rfl
@[simp] theorem setVault_device (n : Nat) (x : Vault) : (s.setVault n x).device = s.device := rfl
@[simp] theorem setVault_host (n : Nat) (x : Vault) : (s.setVault n x).host = s.host := rfl
@[simp] theorem setVault_queues (n : Nat) (x : Vault) : (s.setVault n x).queues = s.queues := rfl
@[simp] theorem setVault_rings (n : Nat) (x : Vault) : (s.setVault n x).rings = s.rings := rfl
@[simp] theorem setVault_units (n : Nat) (x : Vault) : (s.setVault n x).units = s.units := rfl
@[simp] theorem setVault_reaches (n : Nat) (x : Vault) : (s.setVault n x).reaches = s.reaches := rfl
@[simp] theorem setVault_pchg (n : Nat) (x : Vault) : (s.setVault n x).pchg = s.pchg := rfl
@[simp] theorem setVault_phcfg (n : Nat) (x : Vault) : (s.setVault n x).phcfg = s.phcfg := rfl
@[simp] theorem setVault_pkgcap (n : Nat) (x : Vault) : (s.setVault n x).pkgcap = s.pkgcap := rfl
@[simp] theorem setVault_links (n : Nat) (x : Vault) : (s.setVault n x).links = s.links := rfl
@[simp] theorem setVault_ports (n : Nat) (x : Vault) : (s.setVault n x).ports = s.ports := rfl
@[simp] theorem setVault_snoop (n : Nat) (x : Vault) : (s.setVault n x).snoop = s.snoop := rfl
@[simp] theorem setVault_late (n : Nat) (x : Vault) : (s.setVault n x).late = s.late := rfl
@[simp] theorem setVault_tlb (n : Nat) (x : Vault) : (s.setVault n x).tlb = s.tlb := rfl
@[simp] theorem setVault_parts (n : Nat) (x : Vault) : (s.setVault n x).parts = s.parts := rfl
@[simp] theorem setVault_ctxs (n : Nat) (x : Vault) : (s.setVault n x).ctxs = s.ctxs := rfl
@[simp] theorem setVault_springs (n : Nat) (x : Vault) : (s.setVault n x).springs = s.springs := rfl
@[simp] theorem setVault_misses (n : Nat) (x : Vault) : (s.setVault n x).misses = s.misses := rfl
@[simp] theorem setVault_launches (n : Nat) (x : Vault) : (s.setVault n x).launches = s.launches := rfl
@[simp] theorem setVault_freshLaunch (n : Nat) (x : Vault) : (s.setVault n x).freshLaunch = s.freshLaunch := rfl
@[simp] theorem setVault_lids (n : Nat) (x : Vault) : (s.setVault n x).lids = s.lids := rfl
@[simp] theorem setVault_served (n : Nat) (x : Vault) : (s.setVault n x).served = s.served := rfl
@[simp] theorem setVault_dispatch (n : Nat) (x : Vault) : (s.setVault n x).dispatch = s.dispatch := rfl
@[simp] theorem setVault_abands (n : Nat) (x : Vault) : (s.setVault n x).abands = s.abands := rfl
@[simp] theorem setVault_teams (n : Nat) (x : Vault) : (s.setVault n x).teams = s.teams := rfl
@[simp] theorem setVault_freshTeam (n : Nat) (x : Vault) : (s.setVault n x).freshTeam = s.freshTeam := rfl
@[simp] theorem setVault_cores (n : Nat) (x : Vault) : (s.setVault n x).cores = s.cores := rfl
@[simp] theorem setVault_cmds (n : Nat) (x : Vault) : (s.setVault n x).cmds = s.cmds := rfl
@[simp] theorem setVault_freshCmd (n : Nat) (x : Vault) : (s.setVault n x).freshCmd = s.freshCmd := rfl
@[simp] theorem setVault_colls (n : Nat) (x : Vault) : (s.setVault n x).colls = s.colls := rfl
@[simp] theorem setVault_screens (n : Nat) (x : Vault) : (s.setVault n x).screens = s.screens := rfl
@[simp] theorem setVault_kept (n : Nat) (x : Vault) : (s.setVault n x).kept = s.kept := rfl
@[simp] theorem setVault_commits (n : Nat) (x : Vault) : (s.setVault n x).commits = s.commits := rfl
@[simp] theorem setVault_marks (n : Nat) (x : Vault) : (s.setVault n x).marks = s.marks := rfl
@[simp] theorem setVault_order (n : Nat) (x : Vault) : (s.setVault n x).order = s.order := rfl
@[simp] theorem setVault_lcs (n : Nat) (x : Vault) : (s.setVault n x).lcs = s.lcs := rfl
@[simp] theorem setVault_streams (n : Nat) (x : Vault) : (s.setVault n x).streams = s.streams := rfl
@[simp] theorem setVault_sregs (n : Nat) (x : Vault) : (s.setVault n x).sregs = s.sregs := rfl
@[simp] theorem setVault_heldWrites (n : Nat) (x : Vault) : (s.setVault n x).heldWrites = s.heldWrites := rfl

@[simp] theorem setReach_now (n : Nat) (x : Reach) : (s.setReach n x).now = s.now := rfl
@[simp] theorem setReach_turn (n : Nat) (x : Reach) : (s.setReach n x).turn = s.turn := rfl
@[simp] theorem setReach_free (n : Nat) (x : Reach) : (s.setReach n x).free = s.free := rfl
@[simp] theorem setReach_agenda (n : Nat) (x : Reach) : (s.setReach n x).agenda = s.agenda := rfl
@[simp] theorem setReach_cur (n : Nat) (x : Reach) : (s.setReach n x).cur = s.cur := rfl
@[simp] theorem setReach_rivals (n : Nat) (x : Reach) : (s.setReach n x).rivals = s.rivals := rfl
@[simp] theorem setReach_curLc (n : Nat) (x : Reach) : (s.setReach n x).curLc = s.curLc := rfl
@[simp] theorem setReach_mem (n : Nat) (x : Reach) : (s.setReach n x).mem = s.mem := rfl
@[simp] theorem setReach_device (n : Nat) (x : Reach) : (s.setReach n x).device = s.device := rfl
@[simp] theorem setReach_host (n : Nat) (x : Reach) : (s.setReach n x).host = s.host := rfl
@[simp] theorem setReach_queues (n : Nat) (x : Reach) : (s.setReach n x).queues = s.queues := rfl
@[simp] theorem setReach_rings (n : Nat) (x : Reach) : (s.setReach n x).rings = s.rings := rfl
@[simp] theorem setReach_units (n : Nat) (x : Reach) : (s.setReach n x).units = s.units := rfl
@[simp] theorem setReach_vaults (n : Nat) (x : Reach) : (s.setReach n x).vaults = s.vaults := rfl
@[simp] theorem setReach_pchg (n : Nat) (x : Reach) : (s.setReach n x).pchg = s.pchg := rfl
@[simp] theorem setReach_phcfg (n : Nat) (x : Reach) : (s.setReach n x).phcfg = s.phcfg := rfl
@[simp] theorem setReach_pkgcap (n : Nat) (x : Reach) : (s.setReach n x).pkgcap = s.pkgcap := rfl
@[simp] theorem setReach_links (n : Nat) (x : Reach) : (s.setReach n x).links = s.links := rfl
@[simp] theorem setReach_ports (n : Nat) (x : Reach) : (s.setReach n x).ports = s.ports := rfl
@[simp] theorem setReach_snoop (n : Nat) (x : Reach) : (s.setReach n x).snoop = s.snoop := rfl
@[simp] theorem setReach_late (n : Nat) (x : Reach) : (s.setReach n x).late = s.late := rfl
@[simp] theorem setReach_tlb (n : Nat) (x : Reach) : (s.setReach n x).tlb = s.tlb := rfl
@[simp] theorem setReach_parts (n : Nat) (x : Reach) : (s.setReach n x).parts = s.parts := rfl
@[simp] theorem setReach_ctxs (n : Nat) (x : Reach) : (s.setReach n x).ctxs = s.ctxs := rfl
@[simp] theorem setReach_springs (n : Nat) (x : Reach) : (s.setReach n x).springs = s.springs := rfl
@[simp] theorem setReach_misses (n : Nat) (x : Reach) : (s.setReach n x).misses = s.misses := rfl
@[simp] theorem setReach_launches (n : Nat) (x : Reach) : (s.setReach n x).launches = s.launches := rfl
@[simp] theorem setReach_freshLaunch (n : Nat) (x : Reach) : (s.setReach n x).freshLaunch = s.freshLaunch := rfl
@[simp] theorem setReach_lids (n : Nat) (x : Reach) : (s.setReach n x).lids = s.lids := rfl
@[simp] theorem setReach_served (n : Nat) (x : Reach) : (s.setReach n x).served = s.served := rfl
@[simp] theorem setReach_dispatch (n : Nat) (x : Reach) : (s.setReach n x).dispatch = s.dispatch := rfl
@[simp] theorem setReach_abands (n : Nat) (x : Reach) : (s.setReach n x).abands = s.abands := rfl
@[simp] theorem setReach_teams (n : Nat) (x : Reach) : (s.setReach n x).teams = s.teams := rfl
@[simp] theorem setReach_freshTeam (n : Nat) (x : Reach) : (s.setReach n x).freshTeam = s.freshTeam := rfl
@[simp] theorem setReach_cores (n : Nat) (x : Reach) : (s.setReach n x).cores = s.cores := rfl
@[simp] theorem setReach_cmds (n : Nat) (x : Reach) : (s.setReach n x).cmds = s.cmds := rfl
@[simp] theorem setReach_freshCmd (n : Nat) (x : Reach) : (s.setReach n x).freshCmd = s.freshCmd := rfl
@[simp] theorem setReach_colls (n : Nat) (x : Reach) : (s.setReach n x).colls = s.colls := rfl
@[simp] theorem setReach_screens (n : Nat) (x : Reach) : (s.setReach n x).screens = s.screens := rfl
@[simp] theorem setReach_kept (n : Nat) (x : Reach) : (s.setReach n x).kept = s.kept := rfl
@[simp] theorem setReach_commits (n : Nat) (x : Reach) : (s.setReach n x).commits = s.commits := rfl
@[simp] theorem setReach_marks (n : Nat) (x : Reach) : (s.setReach n x).marks = s.marks := rfl
@[simp] theorem setReach_order (n : Nat) (x : Reach) : (s.setReach n x).order = s.order := rfl
@[simp] theorem setReach_lcs (n : Nat) (x : Reach) : (s.setReach n x).lcs = s.lcs := rfl
@[simp] theorem setReach_streams (n : Nat) (x : Reach) : (s.setReach n x).streams = s.streams := rfl
@[simp] theorem setReach_sregs (n : Nat) (x : Reach) : (s.setReach n x).sregs = s.sregs := rfl
@[simp] theorem setReach_heldWrites (n : Nat) (x : Reach) : (s.setReach n x).heldWrites = s.heldWrites := rfl

@[simp] theorem setCore_now (n : Nat) (x : CoreState) : (s.setCore n x).now = s.now := rfl
@[simp] theorem setCore_turn (n : Nat) (x : CoreState) : (s.setCore n x).turn = s.turn := rfl
@[simp] theorem setCore_free (n : Nat) (x : CoreState) : (s.setCore n x).free = s.free := rfl
@[simp] theorem setCore_agenda (n : Nat) (x : CoreState) : (s.setCore n x).agenda = s.agenda := rfl
@[simp] theorem setCore_cur (n : Nat) (x : CoreState) : (s.setCore n x).cur = s.cur := rfl
@[simp] theorem setCore_rivals (n : Nat) (x : CoreState) : (s.setCore n x).rivals = s.rivals := rfl
@[simp] theorem setCore_curLc (n : Nat) (x : CoreState) : (s.setCore n x).curLc = s.curLc := rfl
@[simp] theorem setCore_mem (n : Nat) (x : CoreState) : (s.setCore n x).mem = s.mem := rfl
@[simp] theorem setCore_device (n : Nat) (x : CoreState) : (s.setCore n x).device = s.device := rfl
@[simp] theorem setCore_host (n : Nat) (x : CoreState) : (s.setCore n x).host = s.host := rfl
@[simp] theorem setCore_queues (n : Nat) (x : CoreState) : (s.setCore n x).queues = s.queues := rfl
@[simp] theorem setCore_rings (n : Nat) (x : CoreState) : (s.setCore n x).rings = s.rings := rfl
@[simp] theorem setCore_units (n : Nat) (x : CoreState) : (s.setCore n x).units = s.units := rfl
@[simp] theorem setCore_vaults (n : Nat) (x : CoreState) : (s.setCore n x).vaults = s.vaults := rfl
@[simp] theorem setCore_reaches (n : Nat) (x : CoreState) : (s.setCore n x).reaches = s.reaches := rfl
@[simp] theorem setCore_pchg (n : Nat) (x : CoreState) : (s.setCore n x).pchg = s.pchg := rfl
@[simp] theorem setCore_phcfg (n : Nat) (x : CoreState) : (s.setCore n x).phcfg = s.phcfg := rfl
@[simp] theorem setCore_pkgcap (n : Nat) (x : CoreState) : (s.setCore n x).pkgcap = s.pkgcap := rfl
@[simp] theorem setCore_links (n : Nat) (x : CoreState) : (s.setCore n x).links = s.links := rfl
@[simp] theorem setCore_ports (n : Nat) (x : CoreState) : (s.setCore n x).ports = s.ports := rfl
@[simp] theorem setCore_snoop (n : Nat) (x : CoreState) : (s.setCore n x).snoop = s.snoop := rfl
@[simp] theorem setCore_late (n : Nat) (x : CoreState) : (s.setCore n x).late = s.late := rfl
@[simp] theorem setCore_tlb (n : Nat) (x : CoreState) : (s.setCore n x).tlb = s.tlb := rfl
@[simp] theorem setCore_parts (n : Nat) (x : CoreState) : (s.setCore n x).parts = s.parts := rfl
@[simp] theorem setCore_ctxs (n : Nat) (x : CoreState) : (s.setCore n x).ctxs = s.ctxs := rfl
@[simp] theorem setCore_springs (n : Nat) (x : CoreState) : (s.setCore n x).springs = s.springs := rfl
@[simp] theorem setCore_misses (n : Nat) (x : CoreState) : (s.setCore n x).misses = s.misses := rfl
@[simp] theorem setCore_launches (n : Nat) (x : CoreState) : (s.setCore n x).launches = s.launches := rfl
@[simp] theorem setCore_freshLaunch (n : Nat) (x : CoreState) : (s.setCore n x).freshLaunch = s.freshLaunch := rfl
@[simp] theorem setCore_lids (n : Nat) (x : CoreState) : (s.setCore n x).lids = s.lids := rfl
@[simp] theorem setCore_served (n : Nat) (x : CoreState) : (s.setCore n x).served = s.served := rfl
@[simp] theorem setCore_dispatch (n : Nat) (x : CoreState) : (s.setCore n x).dispatch = s.dispatch := rfl
@[simp] theorem setCore_abands (n : Nat) (x : CoreState) : (s.setCore n x).abands = s.abands := rfl
@[simp] theorem setCore_teams (n : Nat) (x : CoreState) : (s.setCore n x).teams = s.teams := rfl
@[simp] theorem setCore_freshTeam (n : Nat) (x : CoreState) : (s.setCore n x).freshTeam = s.freshTeam := rfl
@[simp] theorem setCore_cmds (n : Nat) (x : CoreState) : (s.setCore n x).cmds = s.cmds := rfl
@[simp] theorem setCore_freshCmd (n : Nat) (x : CoreState) : (s.setCore n x).freshCmd = s.freshCmd := rfl
@[simp] theorem setCore_colls (n : Nat) (x : CoreState) : (s.setCore n x).colls = s.colls := rfl
@[simp] theorem setCore_screens (n : Nat) (x : CoreState) : (s.setCore n x).screens = s.screens := rfl
@[simp] theorem setCore_kept (n : Nat) (x : CoreState) : (s.setCore n x).kept = s.kept := rfl
@[simp] theorem setCore_commits (n : Nat) (x : CoreState) : (s.setCore n x).commits = s.commits := rfl
@[simp] theorem setCore_marks (n : Nat) (x : CoreState) : (s.setCore n x).marks = s.marks := rfl
@[simp] theorem setCore_order (n : Nat) (x : CoreState) : (s.setCore n x).order = s.order := rfl
@[simp] theorem setCore_lcs (n : Nat) (x : CoreState) : (s.setCore n x).lcs = s.lcs := rfl
@[simp] theorem setCore_streams (n : Nat) (x : CoreState) : (s.setCore n x).streams = s.streams := rfl
@[simp] theorem setCore_sregs (n : Nat) (x : CoreState) : (s.setCore n x).sregs = s.sregs := rfl
@[simp] theorem setCore_heldWrites (n : Nat) (x : CoreState) : (s.setCore n x).heldWrites = s.heldWrites := rfl

@[simp] theorem setLc_now (n : Nat) (x : LineCore) : (s.setLc n x).now = s.now := rfl
@[simp] theorem setLc_turn (n : Nat) (x : LineCore) : (s.setLc n x).turn = s.turn := rfl
@[simp] theorem setLc_free (n : Nat) (x : LineCore) : (s.setLc n x).free = s.free := rfl
@[simp] theorem setLc_agenda (n : Nat) (x : LineCore) : (s.setLc n x).agenda = s.agenda := rfl
@[simp] theorem setLc_cur (n : Nat) (x : LineCore) : (s.setLc n x).cur = s.cur := rfl
@[simp] theorem setLc_rivals (n : Nat) (x : LineCore) : (s.setLc n x).rivals = s.rivals := rfl
@[simp] theorem setLc_curLc (n : Nat) (x : LineCore) : (s.setLc n x).curLc = s.curLc := rfl
@[simp] theorem setLc_mem (n : Nat) (x : LineCore) : (s.setLc n x).mem = s.mem := rfl
@[simp] theorem setLc_device (n : Nat) (x : LineCore) : (s.setLc n x).device = s.device := rfl
@[simp] theorem setLc_host (n : Nat) (x : LineCore) : (s.setLc n x).host = s.host := rfl
@[simp] theorem setLc_queues (n : Nat) (x : LineCore) : (s.setLc n x).queues = s.queues := rfl
@[simp] theorem setLc_rings (n : Nat) (x : LineCore) : (s.setLc n x).rings = s.rings := rfl
@[simp] theorem setLc_units (n : Nat) (x : LineCore) : (s.setLc n x).units = s.units := rfl
@[simp] theorem setLc_vaults (n : Nat) (x : LineCore) : (s.setLc n x).vaults = s.vaults := rfl
@[simp] theorem setLc_reaches (n : Nat) (x : LineCore) : (s.setLc n x).reaches = s.reaches := rfl
@[simp] theorem setLc_pchg (n : Nat) (x : LineCore) : (s.setLc n x).pchg = s.pchg := rfl
@[simp] theorem setLc_phcfg (n : Nat) (x : LineCore) : (s.setLc n x).phcfg = s.phcfg := rfl
@[simp] theorem setLc_pkgcap (n : Nat) (x : LineCore) : (s.setLc n x).pkgcap = s.pkgcap := rfl
@[simp] theorem setLc_links (n : Nat) (x : LineCore) : (s.setLc n x).links = s.links := rfl
@[simp] theorem setLc_ports (n : Nat) (x : LineCore) : (s.setLc n x).ports = s.ports := rfl
@[simp] theorem setLc_snoop (n : Nat) (x : LineCore) : (s.setLc n x).snoop = s.snoop := rfl
@[simp] theorem setLc_late (n : Nat) (x : LineCore) : (s.setLc n x).late = s.late := rfl
@[simp] theorem setLc_tlb (n : Nat) (x : LineCore) : (s.setLc n x).tlb = s.tlb := rfl
@[simp] theorem setLc_parts (n : Nat) (x : LineCore) : (s.setLc n x).parts = s.parts := rfl
@[simp] theorem setLc_ctxs (n : Nat) (x : LineCore) : (s.setLc n x).ctxs = s.ctxs := rfl
@[simp] theorem setLc_springs (n : Nat) (x : LineCore) : (s.setLc n x).springs = s.springs := rfl
@[simp] theorem setLc_misses (n : Nat) (x : LineCore) : (s.setLc n x).misses = s.misses := rfl
@[simp] theorem setLc_launches (n : Nat) (x : LineCore) : (s.setLc n x).launches = s.launches := rfl
@[simp] theorem setLc_freshLaunch (n : Nat) (x : LineCore) : (s.setLc n x).freshLaunch = s.freshLaunch := rfl
@[simp] theorem setLc_lids (n : Nat) (x : LineCore) : (s.setLc n x).lids = s.lids := rfl
@[simp] theorem setLc_served (n : Nat) (x : LineCore) : (s.setLc n x).served = s.served := rfl
@[simp] theorem setLc_dispatch (n : Nat) (x : LineCore) : (s.setLc n x).dispatch = s.dispatch := rfl
@[simp] theorem setLc_abands (n : Nat) (x : LineCore) : (s.setLc n x).abands = s.abands := rfl
@[simp] theorem setLc_teams (n : Nat) (x : LineCore) : (s.setLc n x).teams = s.teams := rfl
@[simp] theorem setLc_freshTeam (n : Nat) (x : LineCore) : (s.setLc n x).freshTeam = s.freshTeam := rfl
@[simp] theorem setLc_cores (n : Nat) (x : LineCore) : (s.setLc n x).cores = s.cores := rfl
@[simp] theorem setLc_cmds (n : Nat) (x : LineCore) : (s.setLc n x).cmds = s.cmds := rfl
@[simp] theorem setLc_freshCmd (n : Nat) (x : LineCore) : (s.setLc n x).freshCmd = s.freshCmd := rfl
@[simp] theorem setLc_colls (n : Nat) (x : LineCore) : (s.setLc n x).colls = s.colls := rfl
@[simp] theorem setLc_screens (n : Nat) (x : LineCore) : (s.setLc n x).screens = s.screens := rfl
@[simp] theorem setLc_kept (n : Nat) (x : LineCore) : (s.setLc n x).kept = s.kept := rfl
@[simp] theorem setLc_commits (n : Nat) (x : LineCore) : (s.setLc n x).commits = s.commits := rfl
@[simp] theorem setLc_marks (n : Nat) (x : LineCore) : (s.setLc n x).marks = s.marks := rfl
@[simp] theorem setLc_order (n : Nat) (x : LineCore) : (s.setLc n x).order = s.order := rfl
@[simp] theorem setLc_streams (n : Nat) (x : LineCore) : (s.setLc n x).streams = s.streams := rfl
@[simp] theorem setLc_sregs (n : Nat) (x : LineCore) : (s.setLc n x).sregs = s.sregs := rfl
@[simp] theorem setLc_heldWrites (n : Nat) (x : LineCore) : (s.setLc n x).heldWrites = s.heldWrites := rfl

@[simp] theorem setLink_now (a b : Nat) (x : Link) : (s.setLink a b x).now = s.now := rfl
@[simp] theorem setLink_turn (a b : Nat) (x : Link) : (s.setLink a b x).turn = s.turn := rfl
@[simp] theorem setLink_free (a b : Nat) (x : Link) : (s.setLink a b x).free = s.free := rfl
@[simp] theorem setLink_agenda (a b : Nat) (x : Link) : (s.setLink a b x).agenda = s.agenda := rfl
@[simp] theorem setLink_cur (a b : Nat) (x : Link) : (s.setLink a b x).cur = s.cur := rfl
@[simp] theorem setLink_rivals (a b : Nat) (x : Link) : (s.setLink a b x).rivals = s.rivals := rfl
@[simp] theorem setLink_curLc (a b : Nat) (x : Link) : (s.setLink a b x).curLc = s.curLc := rfl
@[simp] theorem setLink_mem (a b : Nat) (x : Link) : (s.setLink a b x).mem = s.mem := rfl
@[simp] theorem setLink_device (a b : Nat) (x : Link) : (s.setLink a b x).device = s.device := rfl
@[simp] theorem setLink_host (a b : Nat) (x : Link) : (s.setLink a b x).host = s.host := rfl
@[simp] theorem setLink_queues (a b : Nat) (x : Link) : (s.setLink a b x).queues = s.queues := rfl
@[simp] theorem setLink_rings (a b : Nat) (x : Link) : (s.setLink a b x).rings = s.rings := rfl
@[simp] theorem setLink_units (a b : Nat) (x : Link) : (s.setLink a b x).units = s.units := rfl
@[simp] theorem setLink_vaults (a b : Nat) (x : Link) : (s.setLink a b x).vaults = s.vaults := rfl
@[simp] theorem setLink_reaches (a b : Nat) (x : Link) : (s.setLink a b x).reaches = s.reaches := rfl
@[simp] theorem setLink_pchg (a b : Nat) (x : Link) : (s.setLink a b x).pchg = s.pchg := rfl
@[simp] theorem setLink_phcfg (a b : Nat) (x : Link) : (s.setLink a b x).phcfg = s.phcfg := rfl
@[simp] theorem setLink_pkgcap (a b : Nat) (x : Link) : (s.setLink a b x).pkgcap = s.pkgcap := rfl
@[simp] theorem setLink_ports (a b : Nat) (x : Link) : (s.setLink a b x).ports = s.ports := rfl
@[simp] theorem setLink_snoop (a b : Nat) (x : Link) : (s.setLink a b x).snoop = s.snoop := rfl
@[simp] theorem setLink_late (a b : Nat) (x : Link) : (s.setLink a b x).late = s.late := rfl
@[simp] theorem setLink_tlb (a b : Nat) (x : Link) : (s.setLink a b x).tlb = s.tlb := rfl
@[simp] theorem setLink_parts (a b : Nat) (x : Link) : (s.setLink a b x).parts = s.parts := rfl
@[simp] theorem setLink_ctxs (a b : Nat) (x : Link) : (s.setLink a b x).ctxs = s.ctxs := rfl
@[simp] theorem setLink_springs (a b : Nat) (x : Link) : (s.setLink a b x).springs = s.springs := rfl
@[simp] theorem setLink_misses (a b : Nat) (x : Link) : (s.setLink a b x).misses = s.misses := rfl
@[simp] theorem setLink_launches (a b : Nat) (x : Link) : (s.setLink a b x).launches = s.launches := rfl
@[simp] theorem setLink_freshLaunch (a b : Nat) (x : Link) : (s.setLink a b x).freshLaunch = s.freshLaunch := rfl
@[simp] theorem setLink_lids (a b : Nat) (x : Link) : (s.setLink a b x).lids = s.lids := rfl
@[simp] theorem setLink_served (a b : Nat) (x : Link) : (s.setLink a b x).served = s.served := rfl
@[simp] theorem setLink_dispatch (a b : Nat) (x : Link) : (s.setLink a b x).dispatch = s.dispatch := rfl
@[simp] theorem setLink_abands (a b : Nat) (x : Link) : (s.setLink a b x).abands = s.abands := rfl
@[simp] theorem setLink_teams (a b : Nat) (x : Link) : (s.setLink a b x).teams = s.teams := rfl
@[simp] theorem setLink_freshTeam (a b : Nat) (x : Link) : (s.setLink a b x).freshTeam = s.freshTeam := rfl
@[simp] theorem setLink_cores (a b : Nat) (x : Link) : (s.setLink a b x).cores = s.cores := rfl
@[simp] theorem setLink_cmds (a b : Nat) (x : Link) : (s.setLink a b x).cmds = s.cmds := rfl
@[simp] theorem setLink_freshCmd (a b : Nat) (x : Link) : (s.setLink a b x).freshCmd = s.freshCmd := rfl
@[simp] theorem setLink_colls (a b : Nat) (x : Link) : (s.setLink a b x).colls = s.colls := rfl
@[simp] theorem setLink_screens (a b : Nat) (x : Link) : (s.setLink a b x).screens = s.screens := rfl
@[simp] theorem setLink_kept (a b : Nat) (x : Link) : (s.setLink a b x).kept = s.kept := rfl
@[simp] theorem setLink_commits (a b : Nat) (x : Link) : (s.setLink a b x).commits = s.commits := rfl
@[simp] theorem setLink_marks (a b : Nat) (x : Link) : (s.setLink a b x).marks = s.marks := rfl
@[simp] theorem setLink_order (a b : Nat) (x : Link) : (s.setLink a b x).order = s.order := rfl
@[simp] theorem setLink_lcs (a b : Nat) (x : Link) : (s.setLink a b x).lcs = s.lcs := rfl
@[simp] theorem setLink_streams (a b : Nat) (x : Link) : (s.setLink a b x).streams = s.streams := rfl
@[simp] theorem setLink_sregs (a b : Nat) (x : Link) : (s.setLink a b x).sregs = s.sregs := rfl
@[simp] theorem setLink_heldWrites (a b : Nat) (x : Link) : (s.setLink a b x).heldWrites = s.heldWrites := rfl

@[simp] theorem setPort_now (n : Nat) (x : Link) : (s.setPort n x).now = s.now := rfl
@[simp] theorem setPort_turn (n : Nat) (x : Link) : (s.setPort n x).turn = s.turn := rfl
@[simp] theorem setPort_free (n : Nat) (x : Link) : (s.setPort n x).free = s.free := rfl
@[simp] theorem setPort_agenda (n : Nat) (x : Link) : (s.setPort n x).agenda = s.agenda := rfl
@[simp] theorem setPort_cur (n : Nat) (x : Link) : (s.setPort n x).cur = s.cur := rfl
@[simp] theorem setPort_rivals (n : Nat) (x : Link) : (s.setPort n x).rivals = s.rivals := rfl
@[simp] theorem setPort_curLc (n : Nat) (x : Link) : (s.setPort n x).curLc = s.curLc := rfl
@[simp] theorem setPort_mem (n : Nat) (x : Link) : (s.setPort n x).mem = s.mem := rfl
@[simp] theorem setPort_device (n : Nat) (x : Link) : (s.setPort n x).device = s.device := rfl
@[simp] theorem setPort_host (n : Nat) (x : Link) : (s.setPort n x).host = s.host := rfl
@[simp] theorem setPort_queues (n : Nat) (x : Link) : (s.setPort n x).queues = s.queues := rfl
@[simp] theorem setPort_rings (n : Nat) (x : Link) : (s.setPort n x).rings = s.rings := rfl
@[simp] theorem setPort_units (n : Nat) (x : Link) : (s.setPort n x).units = s.units := rfl
@[simp] theorem setPort_vaults (n : Nat) (x : Link) : (s.setPort n x).vaults = s.vaults := rfl
@[simp] theorem setPort_reaches (n : Nat) (x : Link) : (s.setPort n x).reaches = s.reaches := rfl
@[simp] theorem setPort_pchg (n : Nat) (x : Link) : (s.setPort n x).pchg = s.pchg := rfl
@[simp] theorem setPort_phcfg (n : Nat) (x : Link) : (s.setPort n x).phcfg = s.phcfg := rfl
@[simp] theorem setPort_pkgcap (n : Nat) (x : Link) : (s.setPort n x).pkgcap = s.pkgcap := rfl
@[simp] theorem setPort_links (n : Nat) (x : Link) : (s.setPort n x).links = s.links := rfl
@[simp] theorem setPort_snoop (n : Nat) (x : Link) : (s.setPort n x).snoop = s.snoop := rfl
@[simp] theorem setPort_late (n : Nat) (x : Link) : (s.setPort n x).late = s.late := rfl
@[simp] theorem setPort_tlb (n : Nat) (x : Link) : (s.setPort n x).tlb = s.tlb := rfl
@[simp] theorem setPort_parts (n : Nat) (x : Link) : (s.setPort n x).parts = s.parts := rfl
@[simp] theorem setPort_ctxs (n : Nat) (x : Link) : (s.setPort n x).ctxs = s.ctxs := rfl
@[simp] theorem setPort_springs (n : Nat) (x : Link) : (s.setPort n x).springs = s.springs := rfl
@[simp] theorem setPort_misses (n : Nat) (x : Link) : (s.setPort n x).misses = s.misses := rfl
@[simp] theorem setPort_launches (n : Nat) (x : Link) : (s.setPort n x).launches = s.launches := rfl
@[simp] theorem setPort_freshLaunch (n : Nat) (x : Link) : (s.setPort n x).freshLaunch = s.freshLaunch := rfl
@[simp] theorem setPort_lids (n : Nat) (x : Link) : (s.setPort n x).lids = s.lids := rfl
@[simp] theorem setPort_served (n : Nat) (x : Link) : (s.setPort n x).served = s.served := rfl
@[simp] theorem setPort_dispatch (n : Nat) (x : Link) : (s.setPort n x).dispatch = s.dispatch := rfl
@[simp] theorem setPort_abands (n : Nat) (x : Link) : (s.setPort n x).abands = s.abands := rfl
@[simp] theorem setPort_teams (n : Nat) (x : Link) : (s.setPort n x).teams = s.teams := rfl
@[simp] theorem setPort_freshTeam (n : Nat) (x : Link) : (s.setPort n x).freshTeam = s.freshTeam := rfl
@[simp] theorem setPort_cores (n : Nat) (x : Link) : (s.setPort n x).cores = s.cores := rfl
@[simp] theorem setPort_cmds (n : Nat) (x : Link) : (s.setPort n x).cmds = s.cmds := rfl
@[simp] theorem setPort_freshCmd (n : Nat) (x : Link) : (s.setPort n x).freshCmd = s.freshCmd := rfl
@[simp] theorem setPort_colls (n : Nat) (x : Link) : (s.setPort n x).colls = s.colls := rfl
@[simp] theorem setPort_screens (n : Nat) (x : Link) : (s.setPort n x).screens = s.screens := rfl
@[simp] theorem setPort_kept (n : Nat) (x : Link) : (s.setPort n x).kept = s.kept := rfl
@[simp] theorem setPort_commits (n : Nat) (x : Link) : (s.setPort n x).commits = s.commits := rfl
@[simp] theorem setPort_marks (n : Nat) (x : Link) : (s.setPort n x).marks = s.marks := rfl
@[simp] theorem setPort_order (n : Nat) (x : Link) : (s.setPort n x).order = s.order := rfl
@[simp] theorem setPort_lcs (n : Nat) (x : Link) : (s.setPort n x).lcs = s.lcs := rfl
@[simp] theorem setPort_streams (n : Nat) (x : Link) : (s.setPort n x).streams = s.streams := rfl
@[simp] theorem setPort_sregs (n : Nat) (x : Link) : (s.setPort n x).sregs = s.sregs := rfl
@[simp] theorem setPort_heldWrites (n : Nat) (x : Link) : (s.setPort n x).heldWrites = s.heldWrites := rfl

@[simp] theorem updTeam_now (k : Nat) (f : Team → Team) : (s.updTeam k f).now = s.now := rfl
@[simp] theorem updTeam_turn (k : Nat) (f : Team → Team) : (s.updTeam k f).turn = s.turn := rfl
@[simp] theorem updTeam_free (k : Nat) (f : Team → Team) : (s.updTeam k f).free = s.free := rfl
@[simp] theorem updTeam_agenda (k : Nat) (f : Team → Team) : (s.updTeam k f).agenda = s.agenda := rfl
@[simp] theorem updTeam_cur (k : Nat) (f : Team → Team) : (s.updTeam k f).cur = s.cur := rfl
@[simp] theorem updTeam_rivals (k : Nat) (f : Team → Team) : (s.updTeam k f).rivals = s.rivals := rfl
@[simp] theorem updTeam_curLc (k : Nat) (f : Team → Team) : (s.updTeam k f).curLc = s.curLc := rfl
@[simp] theorem updTeam_mem (k : Nat) (f : Team → Team) : (s.updTeam k f).mem = s.mem := rfl
@[simp] theorem updTeam_device (k : Nat) (f : Team → Team) : (s.updTeam k f).device = s.device := rfl
@[simp] theorem updTeam_host (k : Nat) (f : Team → Team) : (s.updTeam k f).host = s.host := rfl
@[simp] theorem updTeam_queues (k : Nat) (f : Team → Team) : (s.updTeam k f).queues = s.queues := rfl
@[simp] theorem updTeam_rings (k : Nat) (f : Team → Team) : (s.updTeam k f).rings = s.rings := rfl
@[simp] theorem updTeam_units (k : Nat) (f : Team → Team) : (s.updTeam k f).units = s.units := rfl
@[simp] theorem updTeam_vaults (k : Nat) (f : Team → Team) : (s.updTeam k f).vaults = s.vaults := rfl
@[simp] theorem updTeam_reaches (k : Nat) (f : Team → Team) : (s.updTeam k f).reaches = s.reaches := rfl
@[simp] theorem updTeam_pchg (k : Nat) (f : Team → Team) : (s.updTeam k f).pchg = s.pchg := rfl
@[simp] theorem updTeam_phcfg (k : Nat) (f : Team → Team) : (s.updTeam k f).phcfg = s.phcfg := rfl
@[simp] theorem updTeam_pkgcap (k : Nat) (f : Team → Team) : (s.updTeam k f).pkgcap = s.pkgcap := rfl
@[simp] theorem updTeam_links (k : Nat) (f : Team → Team) : (s.updTeam k f).links = s.links := rfl
@[simp] theorem updTeam_ports (k : Nat) (f : Team → Team) : (s.updTeam k f).ports = s.ports := rfl
@[simp] theorem updTeam_snoop (k : Nat) (f : Team → Team) : (s.updTeam k f).snoop = s.snoop := rfl
@[simp] theorem updTeam_late (k : Nat) (f : Team → Team) : (s.updTeam k f).late = s.late := rfl
@[simp] theorem updTeam_tlb (k : Nat) (f : Team → Team) : (s.updTeam k f).tlb = s.tlb := rfl
@[simp] theorem updTeam_parts (k : Nat) (f : Team → Team) : (s.updTeam k f).parts = s.parts := rfl
@[simp] theorem updTeam_ctxs (k : Nat) (f : Team → Team) : (s.updTeam k f).ctxs = s.ctxs := rfl
@[simp] theorem updTeam_springs (k : Nat) (f : Team → Team) : (s.updTeam k f).springs = s.springs := rfl
@[simp] theorem updTeam_misses (k : Nat) (f : Team → Team) : (s.updTeam k f).misses = s.misses := rfl
@[simp] theorem updTeam_launches (k : Nat) (f : Team → Team) : (s.updTeam k f).launches = s.launches := rfl
@[simp] theorem updTeam_freshLaunch (k : Nat) (f : Team → Team) : (s.updTeam k f).freshLaunch = s.freshLaunch := rfl
@[simp] theorem updTeam_lids (k : Nat) (f : Team → Team) : (s.updTeam k f).lids = s.lids := rfl
@[simp] theorem updTeam_served (k : Nat) (f : Team → Team) : (s.updTeam k f).served = s.served := rfl
@[simp] theorem updTeam_dispatch (k : Nat) (f : Team → Team) : (s.updTeam k f).dispatch = s.dispatch := rfl
@[simp] theorem updTeam_abands (k : Nat) (f : Team → Team) : (s.updTeam k f).abands = s.abands := rfl
@[simp] theorem updTeam_freshTeam (k : Nat) (f : Team → Team) : (s.updTeam k f).freshTeam = s.freshTeam := rfl
@[simp] theorem updTeam_cores (k : Nat) (f : Team → Team) : (s.updTeam k f).cores = s.cores := rfl
@[simp] theorem updTeam_cmds (k : Nat) (f : Team → Team) : (s.updTeam k f).cmds = s.cmds := rfl
@[simp] theorem updTeam_freshCmd (k : Nat) (f : Team → Team) : (s.updTeam k f).freshCmd = s.freshCmd := rfl
@[simp] theorem updTeam_colls (k : Nat) (f : Team → Team) : (s.updTeam k f).colls = s.colls := rfl
@[simp] theorem updTeam_screens (k : Nat) (f : Team → Team) : (s.updTeam k f).screens = s.screens := rfl
@[simp] theorem updTeam_kept (k : Nat) (f : Team → Team) : (s.updTeam k f).kept = s.kept := rfl
@[simp] theorem updTeam_commits (k : Nat) (f : Team → Team) : (s.updTeam k f).commits = s.commits := rfl
@[simp] theorem updTeam_marks (k : Nat) (f : Team → Team) : (s.updTeam k f).marks = s.marks := rfl
@[simp] theorem updTeam_order (k : Nat) (f : Team → Team) : (s.updTeam k f).order = s.order := rfl
@[simp] theorem updTeam_lcs (k : Nat) (f : Team → Team) : (s.updTeam k f).lcs = s.lcs := rfl
@[simp] theorem updTeam_streams (k : Nat) (f : Team → Team) : (s.updTeam k f).streams = s.streams := rfl
@[simp] theorem updTeam_sregs (k : Nat) (f : Team → Team) : (s.updTeam k f).sregs = s.sregs := rfl
@[simp] theorem updTeam_heldWrites (k : Nat) (f : Team → Team) : (s.updTeam k f).heldWrites = s.heldWrites := rfl

@[simp] theorem updMember_now (k id : Nat) (f : Member → Member) : (s.updMember k id f).now = s.now := rfl
@[simp] theorem updMember_turn (k id : Nat) (f : Member → Member) : (s.updMember k id f).turn = s.turn := rfl
@[simp] theorem updMember_free (k id : Nat) (f : Member → Member) : (s.updMember k id f).free = s.free := rfl
@[simp] theorem updMember_agenda (k id : Nat) (f : Member → Member) : (s.updMember k id f).agenda = s.agenda := rfl
@[simp] theorem updMember_cur (k id : Nat) (f : Member → Member) : (s.updMember k id f).cur = s.cur := rfl
@[simp] theorem updMember_rivals (k id : Nat) (f : Member → Member) : (s.updMember k id f).rivals = s.rivals := rfl
@[simp] theorem updMember_curLc (k id : Nat) (f : Member → Member) : (s.updMember k id f).curLc = s.curLc := rfl
@[simp] theorem updMember_mem (k id : Nat) (f : Member → Member) : (s.updMember k id f).mem = s.mem := rfl
@[simp] theorem updMember_device (k id : Nat) (f : Member → Member) : (s.updMember k id f).device = s.device := rfl
@[simp] theorem updMember_host (k id : Nat) (f : Member → Member) : (s.updMember k id f).host = s.host := rfl
@[simp] theorem updMember_queues (k id : Nat) (f : Member → Member) : (s.updMember k id f).queues = s.queues := rfl
@[simp] theorem updMember_rings (k id : Nat) (f : Member → Member) : (s.updMember k id f).rings = s.rings := rfl
@[simp] theorem updMember_units (k id : Nat) (f : Member → Member) : (s.updMember k id f).units = s.units := rfl
@[simp] theorem updMember_vaults (k id : Nat) (f : Member → Member) : (s.updMember k id f).vaults = s.vaults := rfl
@[simp] theorem updMember_reaches (k id : Nat) (f : Member → Member) : (s.updMember k id f).reaches = s.reaches := rfl
@[simp] theorem updMember_pchg (k id : Nat) (f : Member → Member) : (s.updMember k id f).pchg = s.pchg := rfl
@[simp] theorem updMember_phcfg (k id : Nat) (f : Member → Member) : (s.updMember k id f).phcfg = s.phcfg := rfl
@[simp] theorem updMember_pkgcap (k id : Nat) (f : Member → Member) : (s.updMember k id f).pkgcap = s.pkgcap := rfl
@[simp] theorem updMember_links (k id : Nat) (f : Member → Member) : (s.updMember k id f).links = s.links := rfl
@[simp] theorem updMember_ports (k id : Nat) (f : Member → Member) : (s.updMember k id f).ports = s.ports := rfl
@[simp] theorem updMember_snoop (k id : Nat) (f : Member → Member) : (s.updMember k id f).snoop = s.snoop := rfl
@[simp] theorem updMember_late (k id : Nat) (f : Member → Member) : (s.updMember k id f).late = s.late := rfl
@[simp] theorem updMember_tlb (k id : Nat) (f : Member → Member) : (s.updMember k id f).tlb = s.tlb := rfl
@[simp] theorem updMember_parts (k id : Nat) (f : Member → Member) : (s.updMember k id f).parts = s.parts := rfl
@[simp] theorem updMember_ctxs (k id : Nat) (f : Member → Member) : (s.updMember k id f).ctxs = s.ctxs := rfl
@[simp] theorem updMember_springs (k id : Nat) (f : Member → Member) : (s.updMember k id f).springs = s.springs := rfl
@[simp] theorem updMember_misses (k id : Nat) (f : Member → Member) : (s.updMember k id f).misses = s.misses := rfl
@[simp] theorem updMember_launches (k id : Nat) (f : Member → Member) : (s.updMember k id f).launches = s.launches := rfl
@[simp] theorem updMember_freshLaunch (k id : Nat) (f : Member → Member) : (s.updMember k id f).freshLaunch = s.freshLaunch := rfl
@[simp] theorem updMember_lids (k id : Nat) (f : Member → Member) : (s.updMember k id f).lids = s.lids := rfl
@[simp] theorem updMember_served (k id : Nat) (f : Member → Member) : (s.updMember k id f).served = s.served := rfl
@[simp] theorem updMember_dispatch (k id : Nat) (f : Member → Member) : (s.updMember k id f).dispatch = s.dispatch := rfl
@[simp] theorem updMember_abands (k id : Nat) (f : Member → Member) : (s.updMember k id f).abands = s.abands := rfl
@[simp] theorem updMember_freshTeam (k id : Nat) (f : Member → Member) : (s.updMember k id f).freshTeam = s.freshTeam := rfl
@[simp] theorem updMember_cores (k id : Nat) (f : Member → Member) : (s.updMember k id f).cores = s.cores := rfl
@[simp] theorem updMember_cmds (k id : Nat) (f : Member → Member) : (s.updMember k id f).cmds = s.cmds := rfl
@[simp] theorem updMember_freshCmd (k id : Nat) (f : Member → Member) : (s.updMember k id f).freshCmd = s.freshCmd := rfl
@[simp] theorem updMember_colls (k id : Nat) (f : Member → Member) : (s.updMember k id f).colls = s.colls := rfl
@[simp] theorem updMember_screens (k id : Nat) (f : Member → Member) : (s.updMember k id f).screens = s.screens := rfl
@[simp] theorem updMember_kept (k id : Nat) (f : Member → Member) : (s.updMember k id f).kept = s.kept := rfl
@[simp] theorem updMember_commits (k id : Nat) (f : Member → Member) : (s.updMember k id f).commits = s.commits := rfl
@[simp] theorem updMember_marks (k id : Nat) (f : Member → Member) : (s.updMember k id f).marks = s.marks := rfl
@[simp] theorem updMember_order (k id : Nat) (f : Member → Member) : (s.updMember k id f).order = s.order := rfl
@[simp] theorem updMember_lcs (k id : Nat) (f : Member → Member) : (s.updMember k id f).lcs = s.lcs := rfl
@[simp] theorem updMember_streams (k id : Nat) (f : Member → Member) : (s.updMember k id f).streams = s.streams := rfl
@[simp] theorem updMember_sregs (k id : Nat) (f : Member → Member) : (s.updMember k id f).sregs = s.sregs := rfl
@[simp] theorem updMember_heldWrites (k id : Nat) (f : Member → Member) : (s.updMember k id f).heldWrites = s.heldWrites := rfl

@[simp] theorem updObj_now (k n : Nat) (f : Obj → Obj) : (s.updObj k n f).now = s.now := rfl
@[simp] theorem updObj_turn (k n : Nat) (f : Obj → Obj) : (s.updObj k n f).turn = s.turn := rfl
@[simp] theorem updObj_free (k n : Nat) (f : Obj → Obj) : (s.updObj k n f).free = s.free := rfl
@[simp] theorem updObj_agenda (k n : Nat) (f : Obj → Obj) : (s.updObj k n f).agenda = s.agenda := rfl
@[simp] theorem updObj_cur (k n : Nat) (f : Obj → Obj) : (s.updObj k n f).cur = s.cur := rfl
@[simp] theorem updObj_rivals (k n : Nat) (f : Obj → Obj) : (s.updObj k n f).rivals = s.rivals := rfl
@[simp] theorem updObj_curLc (k n : Nat) (f : Obj → Obj) : (s.updObj k n f).curLc = s.curLc := rfl
@[simp] theorem updObj_mem (k n : Nat) (f : Obj → Obj) : (s.updObj k n f).mem = s.mem := rfl
@[simp] theorem updObj_device (k n : Nat) (f : Obj → Obj) : (s.updObj k n f).device = s.device := rfl
@[simp] theorem updObj_host (k n : Nat) (f : Obj → Obj) : (s.updObj k n f).host = s.host := rfl
@[simp] theorem updObj_queues (k n : Nat) (f : Obj → Obj) : (s.updObj k n f).queues = s.queues := rfl
@[simp] theorem updObj_rings (k n : Nat) (f : Obj → Obj) : (s.updObj k n f).rings = s.rings := rfl
@[simp] theorem updObj_units (k n : Nat) (f : Obj → Obj) : (s.updObj k n f).units = s.units := rfl
@[simp] theorem updObj_vaults (k n : Nat) (f : Obj → Obj) : (s.updObj k n f).vaults = s.vaults := rfl
@[simp] theorem updObj_reaches (k n : Nat) (f : Obj → Obj) : (s.updObj k n f).reaches = s.reaches := rfl
@[simp] theorem updObj_pchg (k n : Nat) (f : Obj → Obj) : (s.updObj k n f).pchg = s.pchg := rfl
@[simp] theorem updObj_phcfg (k n : Nat) (f : Obj → Obj) : (s.updObj k n f).phcfg = s.phcfg := rfl
@[simp] theorem updObj_pkgcap (k n : Nat) (f : Obj → Obj) : (s.updObj k n f).pkgcap = s.pkgcap := rfl
@[simp] theorem updObj_links (k n : Nat) (f : Obj → Obj) : (s.updObj k n f).links = s.links := rfl
@[simp] theorem updObj_ports (k n : Nat) (f : Obj → Obj) : (s.updObj k n f).ports = s.ports := rfl
@[simp] theorem updObj_snoop (k n : Nat) (f : Obj → Obj) : (s.updObj k n f).snoop = s.snoop := rfl
@[simp] theorem updObj_late (k n : Nat) (f : Obj → Obj) : (s.updObj k n f).late = s.late := rfl
@[simp] theorem updObj_tlb (k n : Nat) (f : Obj → Obj) : (s.updObj k n f).tlb = s.tlb := rfl
@[simp] theorem updObj_parts (k n : Nat) (f : Obj → Obj) : (s.updObj k n f).parts = s.parts := rfl
@[simp] theorem updObj_ctxs (k n : Nat) (f : Obj → Obj) : (s.updObj k n f).ctxs = s.ctxs := rfl
@[simp] theorem updObj_springs (k n : Nat) (f : Obj → Obj) : (s.updObj k n f).springs = s.springs := rfl
@[simp] theorem updObj_misses (k n : Nat) (f : Obj → Obj) : (s.updObj k n f).misses = s.misses := rfl
@[simp] theorem updObj_launches (k n : Nat) (f : Obj → Obj) : (s.updObj k n f).launches = s.launches := rfl
@[simp] theorem updObj_freshLaunch (k n : Nat) (f : Obj → Obj) : (s.updObj k n f).freshLaunch = s.freshLaunch := rfl
@[simp] theorem updObj_lids (k n : Nat) (f : Obj → Obj) : (s.updObj k n f).lids = s.lids := rfl
@[simp] theorem updObj_served (k n : Nat) (f : Obj → Obj) : (s.updObj k n f).served = s.served := rfl
@[simp] theorem updObj_dispatch (k n : Nat) (f : Obj → Obj) : (s.updObj k n f).dispatch = s.dispatch := rfl
@[simp] theorem updObj_abands (k n : Nat) (f : Obj → Obj) : (s.updObj k n f).abands = s.abands := rfl
@[simp] theorem updObj_freshTeam (k n : Nat) (f : Obj → Obj) : (s.updObj k n f).freshTeam = s.freshTeam := rfl
@[simp] theorem updObj_cores (k n : Nat) (f : Obj → Obj) : (s.updObj k n f).cores = s.cores := rfl
@[simp] theorem updObj_cmds (k n : Nat) (f : Obj → Obj) : (s.updObj k n f).cmds = s.cmds := rfl
@[simp] theorem updObj_freshCmd (k n : Nat) (f : Obj → Obj) : (s.updObj k n f).freshCmd = s.freshCmd := rfl
@[simp] theorem updObj_colls (k n : Nat) (f : Obj → Obj) : (s.updObj k n f).colls = s.colls := rfl
@[simp] theorem updObj_screens (k n : Nat) (f : Obj → Obj) : (s.updObj k n f).screens = s.screens := rfl
@[simp] theorem updObj_kept (k n : Nat) (f : Obj → Obj) : (s.updObj k n f).kept = s.kept := rfl
@[simp] theorem updObj_commits (k n : Nat) (f : Obj → Obj) : (s.updObj k n f).commits = s.commits := rfl
@[simp] theorem updObj_marks (k n : Nat) (f : Obj → Obj) : (s.updObj k n f).marks = s.marks := rfl
@[simp] theorem updObj_order (k n : Nat) (f : Obj → Obj) : (s.updObj k n f).order = s.order := rfl
@[simp] theorem updObj_lcs (k n : Nat) (f : Obj → Obj) : (s.updObj k n f).lcs = s.lcs := rfl
@[simp] theorem updObj_streams (k n : Nat) (f : Obj → Obj) : (s.updObj k n f).streams = s.streams := rfl
@[simp] theorem updObj_sregs (k n : Nat) (f : Obj → Obj) : (s.updObj k n f).sregs = s.sregs := rfl
@[simp] theorem updObj_heldWrites (k n : Nat) (f : Obj → Obj) : (s.updObj k n f).heldWrites = s.heldWrites := rfl

@[simp] theorem updTile_now (k n : Nat) (f : Tile → Tile) : (s.updTile k n f).now = s.now := rfl
@[simp] theorem updTile_turn (k n : Nat) (f : Tile → Tile) : (s.updTile k n f).turn = s.turn := rfl
@[simp] theorem updTile_free (k n : Nat) (f : Tile → Tile) : (s.updTile k n f).free = s.free := rfl
@[simp] theorem updTile_agenda (k n : Nat) (f : Tile → Tile) : (s.updTile k n f).agenda = s.agenda := rfl
@[simp] theorem updTile_cur (k n : Nat) (f : Tile → Tile) : (s.updTile k n f).cur = s.cur := rfl
@[simp] theorem updTile_rivals (k n : Nat) (f : Tile → Tile) : (s.updTile k n f).rivals = s.rivals := rfl
@[simp] theorem updTile_curLc (k n : Nat) (f : Tile → Tile) : (s.updTile k n f).curLc = s.curLc := rfl
@[simp] theorem updTile_mem (k n : Nat) (f : Tile → Tile) : (s.updTile k n f).mem = s.mem := rfl
@[simp] theorem updTile_device (k n : Nat) (f : Tile → Tile) : (s.updTile k n f).device = s.device := rfl
@[simp] theorem updTile_host (k n : Nat) (f : Tile → Tile) : (s.updTile k n f).host = s.host := rfl
@[simp] theorem updTile_queues (k n : Nat) (f : Tile → Tile) : (s.updTile k n f).queues = s.queues := rfl
@[simp] theorem updTile_rings (k n : Nat) (f : Tile → Tile) : (s.updTile k n f).rings = s.rings := rfl
@[simp] theorem updTile_units (k n : Nat) (f : Tile → Tile) : (s.updTile k n f).units = s.units := rfl
@[simp] theorem updTile_vaults (k n : Nat) (f : Tile → Tile) : (s.updTile k n f).vaults = s.vaults := rfl
@[simp] theorem updTile_reaches (k n : Nat) (f : Tile → Tile) : (s.updTile k n f).reaches = s.reaches := rfl
@[simp] theorem updTile_pchg (k n : Nat) (f : Tile → Tile) : (s.updTile k n f).pchg = s.pchg := rfl
@[simp] theorem updTile_phcfg (k n : Nat) (f : Tile → Tile) : (s.updTile k n f).phcfg = s.phcfg := rfl
@[simp] theorem updTile_pkgcap (k n : Nat) (f : Tile → Tile) : (s.updTile k n f).pkgcap = s.pkgcap := rfl
@[simp] theorem updTile_links (k n : Nat) (f : Tile → Tile) : (s.updTile k n f).links = s.links := rfl
@[simp] theorem updTile_ports (k n : Nat) (f : Tile → Tile) : (s.updTile k n f).ports = s.ports := rfl
@[simp] theorem updTile_snoop (k n : Nat) (f : Tile → Tile) : (s.updTile k n f).snoop = s.snoop := rfl
@[simp] theorem updTile_late (k n : Nat) (f : Tile → Tile) : (s.updTile k n f).late = s.late := rfl
@[simp] theorem updTile_tlb (k n : Nat) (f : Tile → Tile) : (s.updTile k n f).tlb = s.tlb := rfl
@[simp] theorem updTile_parts (k n : Nat) (f : Tile → Tile) : (s.updTile k n f).parts = s.parts := rfl
@[simp] theorem updTile_ctxs (k n : Nat) (f : Tile → Tile) : (s.updTile k n f).ctxs = s.ctxs := rfl
@[simp] theorem updTile_springs (k n : Nat) (f : Tile → Tile) : (s.updTile k n f).springs = s.springs := rfl
@[simp] theorem updTile_misses (k n : Nat) (f : Tile → Tile) : (s.updTile k n f).misses = s.misses := rfl
@[simp] theorem updTile_launches (k n : Nat) (f : Tile → Tile) : (s.updTile k n f).launches = s.launches := rfl
@[simp] theorem updTile_freshLaunch (k n : Nat) (f : Tile → Tile) : (s.updTile k n f).freshLaunch = s.freshLaunch := rfl
@[simp] theorem updTile_lids (k n : Nat) (f : Tile → Tile) : (s.updTile k n f).lids = s.lids := rfl
@[simp] theorem updTile_served (k n : Nat) (f : Tile → Tile) : (s.updTile k n f).served = s.served := rfl
@[simp] theorem updTile_dispatch (k n : Nat) (f : Tile → Tile) : (s.updTile k n f).dispatch = s.dispatch := rfl
@[simp] theorem updTile_abands (k n : Nat) (f : Tile → Tile) : (s.updTile k n f).abands = s.abands := rfl
@[simp] theorem updTile_freshTeam (k n : Nat) (f : Tile → Tile) : (s.updTile k n f).freshTeam = s.freshTeam := rfl
@[simp] theorem updTile_cores (k n : Nat) (f : Tile → Tile) : (s.updTile k n f).cores = s.cores := rfl
@[simp] theorem updTile_cmds (k n : Nat) (f : Tile → Tile) : (s.updTile k n f).cmds = s.cmds := rfl
@[simp] theorem updTile_freshCmd (k n : Nat) (f : Tile → Tile) : (s.updTile k n f).freshCmd = s.freshCmd := rfl
@[simp] theorem updTile_colls (k n : Nat) (f : Tile → Tile) : (s.updTile k n f).colls = s.colls := rfl
@[simp] theorem updTile_screens (k n : Nat) (f : Tile → Tile) : (s.updTile k n f).screens = s.screens := rfl
@[simp] theorem updTile_kept (k n : Nat) (f : Tile → Tile) : (s.updTile k n f).kept = s.kept := rfl
@[simp] theorem updTile_commits (k n : Nat) (f : Tile → Tile) : (s.updTile k n f).commits = s.commits := rfl
@[simp] theorem updTile_marks (k n : Nat) (f : Tile → Tile) : (s.updTile k n f).marks = s.marks := rfl
@[simp] theorem updTile_order (k n : Nat) (f : Tile → Tile) : (s.updTile k n f).order = s.order := rfl
@[simp] theorem updTile_lcs (k n : Nat) (f : Tile → Tile) : (s.updTile k n f).lcs = s.lcs := rfl
@[simp] theorem updTile_streams (k n : Nat) (f : Tile → Tile) : (s.updTile k n f).streams = s.streams := rfl
@[simp] theorem updTile_sregs (k n : Nat) (f : Tile → Tile) : (s.updTile k n f).sregs = s.sregs := rfl
@[simp] theorem updTile_heldWrites (k n : Nat) (f : Tile → Tile) : (s.updTile k n f).heldWrites = s.heldWrites := rfl

@[simp] theorem updCtx_now (n : Nat) (f : Context → Context) : (s.updCtx n f).now = s.now := rfl
@[simp] theorem updCtx_turn (n : Nat) (f : Context → Context) : (s.updCtx n f).turn = s.turn := rfl
@[simp] theorem updCtx_free (n : Nat) (f : Context → Context) : (s.updCtx n f).free = s.free := rfl
@[simp] theorem updCtx_agenda (n : Nat) (f : Context → Context) : (s.updCtx n f).agenda = s.agenda := rfl
@[simp] theorem updCtx_cur (n : Nat) (f : Context → Context) : (s.updCtx n f).cur = s.cur := rfl
@[simp] theorem updCtx_rivals (n : Nat) (f : Context → Context) : (s.updCtx n f).rivals = s.rivals := rfl
@[simp] theorem updCtx_curLc (n : Nat) (f : Context → Context) : (s.updCtx n f).curLc = s.curLc := rfl
@[simp] theorem updCtx_mem (n : Nat) (f : Context → Context) : (s.updCtx n f).mem = s.mem := rfl
@[simp] theorem updCtx_device (n : Nat) (f : Context → Context) : (s.updCtx n f).device = s.device := rfl
@[simp] theorem updCtx_host (n : Nat) (f : Context → Context) : (s.updCtx n f).host = s.host := rfl
@[simp] theorem updCtx_queues (n : Nat) (f : Context → Context) : (s.updCtx n f).queues = s.queues := rfl
@[simp] theorem updCtx_rings (n : Nat) (f : Context → Context) : (s.updCtx n f).rings = s.rings := rfl
@[simp] theorem updCtx_units (n : Nat) (f : Context → Context) : (s.updCtx n f).units = s.units := rfl
@[simp] theorem updCtx_vaults (n : Nat) (f : Context → Context) : (s.updCtx n f).vaults = s.vaults := rfl
@[simp] theorem updCtx_reaches (n : Nat) (f : Context → Context) : (s.updCtx n f).reaches = s.reaches := rfl
@[simp] theorem updCtx_pchg (n : Nat) (f : Context → Context) : (s.updCtx n f).pchg = s.pchg := rfl
@[simp] theorem updCtx_phcfg (n : Nat) (f : Context → Context) : (s.updCtx n f).phcfg = s.phcfg := rfl
@[simp] theorem updCtx_pkgcap (n : Nat) (f : Context → Context) : (s.updCtx n f).pkgcap = s.pkgcap := rfl
@[simp] theorem updCtx_links (n : Nat) (f : Context → Context) : (s.updCtx n f).links = s.links := rfl
@[simp] theorem updCtx_ports (n : Nat) (f : Context → Context) : (s.updCtx n f).ports = s.ports := rfl
@[simp] theorem updCtx_snoop (n : Nat) (f : Context → Context) : (s.updCtx n f).snoop = s.snoop := rfl
@[simp] theorem updCtx_late (n : Nat) (f : Context → Context) : (s.updCtx n f).late = s.late := rfl
@[simp] theorem updCtx_tlb (n : Nat) (f : Context → Context) : (s.updCtx n f).tlb = s.tlb := rfl
@[simp] theorem updCtx_parts (n : Nat) (f : Context → Context) : (s.updCtx n f).parts = s.parts := rfl
@[simp] theorem updCtx_springs (n : Nat) (f : Context → Context) : (s.updCtx n f).springs = s.springs := rfl
@[simp] theorem updCtx_misses (n : Nat) (f : Context → Context) : (s.updCtx n f).misses = s.misses := rfl
@[simp] theorem updCtx_launches (n : Nat) (f : Context → Context) : (s.updCtx n f).launches = s.launches := rfl
@[simp] theorem updCtx_freshLaunch (n : Nat) (f : Context → Context) : (s.updCtx n f).freshLaunch = s.freshLaunch := rfl
@[simp] theorem updCtx_lids (n : Nat) (f : Context → Context) : (s.updCtx n f).lids = s.lids := rfl
@[simp] theorem updCtx_served (n : Nat) (f : Context → Context) : (s.updCtx n f).served = s.served := rfl
@[simp] theorem updCtx_dispatch (n : Nat) (f : Context → Context) : (s.updCtx n f).dispatch = s.dispatch := rfl
@[simp] theorem updCtx_abands (n : Nat) (f : Context → Context) : (s.updCtx n f).abands = s.abands := rfl
@[simp] theorem updCtx_teams (n : Nat) (f : Context → Context) : (s.updCtx n f).teams = s.teams := rfl
@[simp] theorem updCtx_freshTeam (n : Nat) (f : Context → Context) : (s.updCtx n f).freshTeam = s.freshTeam := rfl
@[simp] theorem updCtx_cores (n : Nat) (f : Context → Context) : (s.updCtx n f).cores = s.cores := rfl
@[simp] theorem updCtx_cmds (n : Nat) (f : Context → Context) : (s.updCtx n f).cmds = s.cmds := rfl
@[simp] theorem updCtx_freshCmd (n : Nat) (f : Context → Context) : (s.updCtx n f).freshCmd = s.freshCmd := rfl
@[simp] theorem updCtx_colls (n : Nat) (f : Context → Context) : (s.updCtx n f).colls = s.colls := rfl
@[simp] theorem updCtx_screens (n : Nat) (f : Context → Context) : (s.updCtx n f).screens = s.screens := rfl
@[simp] theorem updCtx_kept (n : Nat) (f : Context → Context) : (s.updCtx n f).kept = s.kept := rfl
@[simp] theorem updCtx_commits (n : Nat) (f : Context → Context) : (s.updCtx n f).commits = s.commits := rfl
@[simp] theorem updCtx_marks (n : Nat) (f : Context → Context) : (s.updCtx n f).marks = s.marks := rfl
@[simp] theorem updCtx_order (n : Nat) (f : Context → Context) : (s.updCtx n f).order = s.order := rfl
@[simp] theorem updCtx_lcs (n : Nat) (f : Context → Context) : (s.updCtx n f).lcs = s.lcs := rfl
@[simp] theorem updCtx_streams (n : Nat) (f : Context → Context) : (s.updCtx n f).streams = s.streams := rfl
@[simp] theorem updCtx_sregs (n : Nat) (f : Context → Context) : (s.updCtx n f).sregs = s.sregs := rfl
@[simp] theorem updCtx_heldWrites (n : Nat) (f : Context → Context) : (s.updCtx n f).heldWrites = s.heldWrites := rfl

@[simp] theorem updCmd_now (id : Nat) (f : Command → Command) : (s.updCmd id f).now = s.now := rfl
@[simp] theorem updCmd_turn (id : Nat) (f : Command → Command) : (s.updCmd id f).turn = s.turn := rfl
@[simp] theorem updCmd_free (id : Nat) (f : Command → Command) : (s.updCmd id f).free = s.free := rfl
@[simp] theorem updCmd_agenda (id : Nat) (f : Command → Command) : (s.updCmd id f).agenda = s.agenda := rfl
@[simp] theorem updCmd_cur (id : Nat) (f : Command → Command) : (s.updCmd id f).cur = s.cur := rfl
@[simp] theorem updCmd_rivals (id : Nat) (f : Command → Command) : (s.updCmd id f).rivals = s.rivals := rfl
@[simp] theorem updCmd_curLc (id : Nat) (f : Command → Command) : (s.updCmd id f).curLc = s.curLc := rfl
@[simp] theorem updCmd_mem (id : Nat) (f : Command → Command) : (s.updCmd id f).mem = s.mem := rfl
@[simp] theorem updCmd_device (id : Nat) (f : Command → Command) : (s.updCmd id f).device = s.device := rfl
@[simp] theorem updCmd_host (id : Nat) (f : Command → Command) : (s.updCmd id f).host = s.host := rfl
@[simp] theorem updCmd_queues (id : Nat) (f : Command → Command) : (s.updCmd id f).queues = s.queues := rfl
@[simp] theorem updCmd_rings (id : Nat) (f : Command → Command) : (s.updCmd id f).rings = s.rings := rfl
@[simp] theorem updCmd_units (id : Nat) (f : Command → Command) : (s.updCmd id f).units = s.units := rfl
@[simp] theorem updCmd_vaults (id : Nat) (f : Command → Command) : (s.updCmd id f).vaults = s.vaults := rfl
@[simp] theorem updCmd_reaches (id : Nat) (f : Command → Command) : (s.updCmd id f).reaches = s.reaches := rfl
@[simp] theorem updCmd_pchg (id : Nat) (f : Command → Command) : (s.updCmd id f).pchg = s.pchg := rfl
@[simp] theorem updCmd_phcfg (id : Nat) (f : Command → Command) : (s.updCmd id f).phcfg = s.phcfg := rfl
@[simp] theorem updCmd_pkgcap (id : Nat) (f : Command → Command) : (s.updCmd id f).pkgcap = s.pkgcap := rfl
@[simp] theorem updCmd_links (id : Nat) (f : Command → Command) : (s.updCmd id f).links = s.links := rfl
@[simp] theorem updCmd_ports (id : Nat) (f : Command → Command) : (s.updCmd id f).ports = s.ports := rfl
@[simp] theorem updCmd_snoop (id : Nat) (f : Command → Command) : (s.updCmd id f).snoop = s.snoop := rfl
@[simp] theorem updCmd_late (id : Nat) (f : Command → Command) : (s.updCmd id f).late = s.late := rfl
@[simp] theorem updCmd_tlb (id : Nat) (f : Command → Command) : (s.updCmd id f).tlb = s.tlb := rfl
@[simp] theorem updCmd_parts (id : Nat) (f : Command → Command) : (s.updCmd id f).parts = s.parts := rfl
@[simp] theorem updCmd_ctxs (id : Nat) (f : Command → Command) : (s.updCmd id f).ctxs = s.ctxs := rfl
@[simp] theorem updCmd_springs (id : Nat) (f : Command → Command) : (s.updCmd id f).springs = s.springs := rfl
@[simp] theorem updCmd_misses (id : Nat) (f : Command → Command) : (s.updCmd id f).misses = s.misses := rfl
@[simp] theorem updCmd_launches (id : Nat) (f : Command → Command) : (s.updCmd id f).launches = s.launches := rfl
@[simp] theorem updCmd_freshLaunch (id : Nat) (f : Command → Command) : (s.updCmd id f).freshLaunch = s.freshLaunch := rfl
@[simp] theorem updCmd_lids (id : Nat) (f : Command → Command) : (s.updCmd id f).lids = s.lids := rfl
@[simp] theorem updCmd_served (id : Nat) (f : Command → Command) : (s.updCmd id f).served = s.served := rfl
@[simp] theorem updCmd_dispatch (id : Nat) (f : Command → Command) : (s.updCmd id f).dispatch = s.dispatch := rfl
@[simp] theorem updCmd_abands (id : Nat) (f : Command → Command) : (s.updCmd id f).abands = s.abands := rfl
@[simp] theorem updCmd_teams (id : Nat) (f : Command → Command) : (s.updCmd id f).teams = s.teams := rfl
@[simp] theorem updCmd_freshTeam (id : Nat) (f : Command → Command) : (s.updCmd id f).freshTeam = s.freshTeam := rfl
@[simp] theorem updCmd_cores (id : Nat) (f : Command → Command) : (s.updCmd id f).cores = s.cores := rfl
@[simp] theorem updCmd_freshCmd (id : Nat) (f : Command → Command) : (s.updCmd id f).freshCmd = s.freshCmd := rfl
@[simp] theorem updCmd_colls (id : Nat) (f : Command → Command) : (s.updCmd id f).colls = s.colls := rfl
@[simp] theorem updCmd_screens (id : Nat) (f : Command → Command) : (s.updCmd id f).screens = s.screens := rfl
@[simp] theorem updCmd_kept (id : Nat) (f : Command → Command) : (s.updCmd id f).kept = s.kept := rfl
@[simp] theorem updCmd_commits (id : Nat) (f : Command → Command) : (s.updCmd id f).commits = s.commits := rfl
@[simp] theorem updCmd_marks (id : Nat) (f : Command → Command) : (s.updCmd id f).marks = s.marks := rfl
@[simp] theorem updCmd_order (id : Nat) (f : Command → Command) : (s.updCmd id f).order = s.order := rfl
@[simp] theorem updCmd_lcs (id : Nat) (f : Command → Command) : (s.updCmd id f).lcs = s.lcs := rfl
@[simp] theorem updCmd_streams (id : Nat) (f : Command → Command) : (s.updCmd id f).streams = s.streams := rfl
@[simp] theorem updCmd_sregs (id : Nat) (f : Command → Command) : (s.updCmd id f).sregs = s.sregs := rfl
@[simp] theorem updCmd_heldWrites (id : Nat) (f : Command → Command) : (s.updCmd id f).heldWrites = s.heldWrites := rfl

@[simp] theorem updLaunch_now (k : Nat) (f : Launch → Launch) : (s.updLaunch k f).now = s.now := rfl
@[simp] theorem updLaunch_turn (k : Nat) (f : Launch → Launch) : (s.updLaunch k f).turn = s.turn := rfl
@[simp] theorem updLaunch_free (k : Nat) (f : Launch → Launch) : (s.updLaunch k f).free = s.free := rfl
@[simp] theorem updLaunch_agenda (k : Nat) (f : Launch → Launch) : (s.updLaunch k f).agenda = s.agenda := rfl
@[simp] theorem updLaunch_cur (k : Nat) (f : Launch → Launch) : (s.updLaunch k f).cur = s.cur := rfl
@[simp] theorem updLaunch_rivals (k : Nat) (f : Launch → Launch) : (s.updLaunch k f).rivals = s.rivals := rfl
@[simp] theorem updLaunch_curLc (k : Nat) (f : Launch → Launch) : (s.updLaunch k f).curLc = s.curLc := rfl
@[simp] theorem updLaunch_mem (k : Nat) (f : Launch → Launch) : (s.updLaunch k f).mem = s.mem := rfl
@[simp] theorem updLaunch_device (k : Nat) (f : Launch → Launch) : (s.updLaunch k f).device = s.device := rfl
@[simp] theorem updLaunch_host (k : Nat) (f : Launch → Launch) : (s.updLaunch k f).host = s.host := rfl
@[simp] theorem updLaunch_queues (k : Nat) (f : Launch → Launch) : (s.updLaunch k f).queues = s.queues := rfl
@[simp] theorem updLaunch_rings (k : Nat) (f : Launch → Launch) : (s.updLaunch k f).rings = s.rings := rfl
@[simp] theorem updLaunch_units (k : Nat) (f : Launch → Launch) : (s.updLaunch k f).units = s.units := rfl
@[simp] theorem updLaunch_vaults (k : Nat) (f : Launch → Launch) : (s.updLaunch k f).vaults = s.vaults := rfl
@[simp] theorem updLaunch_reaches (k : Nat) (f : Launch → Launch) : (s.updLaunch k f).reaches = s.reaches := rfl
@[simp] theorem updLaunch_pchg (k : Nat) (f : Launch → Launch) : (s.updLaunch k f).pchg = s.pchg := rfl
@[simp] theorem updLaunch_phcfg (k : Nat) (f : Launch → Launch) : (s.updLaunch k f).phcfg = s.phcfg := rfl
@[simp] theorem updLaunch_pkgcap (k : Nat) (f : Launch → Launch) : (s.updLaunch k f).pkgcap = s.pkgcap := rfl
@[simp] theorem updLaunch_links (k : Nat) (f : Launch → Launch) : (s.updLaunch k f).links = s.links := rfl
@[simp] theorem updLaunch_ports (k : Nat) (f : Launch → Launch) : (s.updLaunch k f).ports = s.ports := rfl
@[simp] theorem updLaunch_snoop (k : Nat) (f : Launch → Launch) : (s.updLaunch k f).snoop = s.snoop := rfl
@[simp] theorem updLaunch_late (k : Nat) (f : Launch → Launch) : (s.updLaunch k f).late = s.late := rfl
@[simp] theorem updLaunch_tlb (k : Nat) (f : Launch → Launch) : (s.updLaunch k f).tlb = s.tlb := rfl
@[simp] theorem updLaunch_parts (k : Nat) (f : Launch → Launch) : (s.updLaunch k f).parts = s.parts := rfl
@[simp] theorem updLaunch_ctxs (k : Nat) (f : Launch → Launch) : (s.updLaunch k f).ctxs = s.ctxs := rfl
@[simp] theorem updLaunch_springs (k : Nat) (f : Launch → Launch) : (s.updLaunch k f).springs = s.springs := rfl
@[simp] theorem updLaunch_misses (k : Nat) (f : Launch → Launch) : (s.updLaunch k f).misses = s.misses := rfl
@[simp] theorem updLaunch_freshLaunch (k : Nat) (f : Launch → Launch) : (s.updLaunch k f).freshLaunch = s.freshLaunch := rfl
@[simp] theorem updLaunch_lids (k : Nat) (f : Launch → Launch) : (s.updLaunch k f).lids = s.lids := rfl
@[simp] theorem updLaunch_served (k : Nat) (f : Launch → Launch) : (s.updLaunch k f).served = s.served := rfl
@[simp] theorem updLaunch_dispatch (k : Nat) (f : Launch → Launch) : (s.updLaunch k f).dispatch = s.dispatch := rfl
@[simp] theorem updLaunch_abands (k : Nat) (f : Launch → Launch) : (s.updLaunch k f).abands = s.abands := rfl
@[simp] theorem updLaunch_teams (k : Nat) (f : Launch → Launch) : (s.updLaunch k f).teams = s.teams := rfl
@[simp] theorem updLaunch_freshTeam (k : Nat) (f : Launch → Launch) : (s.updLaunch k f).freshTeam = s.freshTeam := rfl
@[simp] theorem updLaunch_cores (k : Nat) (f : Launch → Launch) : (s.updLaunch k f).cores = s.cores := rfl
@[simp] theorem updLaunch_cmds (k : Nat) (f : Launch → Launch) : (s.updLaunch k f).cmds = s.cmds := rfl
@[simp] theorem updLaunch_freshCmd (k : Nat) (f : Launch → Launch) : (s.updLaunch k f).freshCmd = s.freshCmd := rfl
@[simp] theorem updLaunch_colls (k : Nat) (f : Launch → Launch) : (s.updLaunch k f).colls = s.colls := rfl
@[simp] theorem updLaunch_screens (k : Nat) (f : Launch → Launch) : (s.updLaunch k f).screens = s.screens := rfl
@[simp] theorem updLaunch_kept (k : Nat) (f : Launch → Launch) : (s.updLaunch k f).kept = s.kept := rfl
@[simp] theorem updLaunch_commits (k : Nat) (f : Launch → Launch) : (s.updLaunch k f).commits = s.commits := rfl
@[simp] theorem updLaunch_marks (k : Nat) (f : Launch → Launch) : (s.updLaunch k f).marks = s.marks := rfl
@[simp] theorem updLaunch_order (k : Nat) (f : Launch → Launch) : (s.updLaunch k f).order = s.order := rfl
@[simp] theorem updLaunch_lcs (k : Nat) (f : Launch → Launch) : (s.updLaunch k f).lcs = s.lcs := rfl
@[simp] theorem updLaunch_streams (k : Nat) (f : Launch → Launch) : (s.updLaunch k f).streams = s.streams := rfl
@[simp] theorem updLaunch_sregs (k : Nat) (f : Launch → Launch) : (s.updLaunch k f).sregs = s.sregs := rfl
@[simp] theorem updLaunch_heldWrites (k : Nat) (f : Launch → Launch) : (s.updLaunch k f).heldWrites = s.heldWrites := rfl

@[simp] theorem updPs_now (k : Nat) (f : PStream → PStream) : (s.updPs k f).now = s.now := rfl
@[simp] theorem updPs_turn (k : Nat) (f : PStream → PStream) : (s.updPs k f).turn = s.turn := rfl
@[simp] theorem updPs_free (k : Nat) (f : PStream → PStream) : (s.updPs k f).free = s.free := rfl
@[simp] theorem updPs_agenda (k : Nat) (f : PStream → PStream) : (s.updPs k f).agenda = s.agenda := rfl
@[simp] theorem updPs_cur (k : Nat) (f : PStream → PStream) : (s.updPs k f).cur = s.cur := rfl
@[simp] theorem updPs_rivals (k : Nat) (f : PStream → PStream) : (s.updPs k f).rivals = s.rivals := rfl
@[simp] theorem updPs_curLc (k : Nat) (f : PStream → PStream) : (s.updPs k f).curLc = s.curLc := rfl
@[simp] theorem updPs_mem (k : Nat) (f : PStream → PStream) : (s.updPs k f).mem = s.mem := rfl
@[simp] theorem updPs_device (k : Nat) (f : PStream → PStream) : (s.updPs k f).device = s.device := rfl
@[simp] theorem updPs_host (k : Nat) (f : PStream → PStream) : (s.updPs k f).host = s.host := rfl
@[simp] theorem updPs_queues (k : Nat) (f : PStream → PStream) : (s.updPs k f).queues = s.queues := rfl
@[simp] theorem updPs_rings (k : Nat) (f : PStream → PStream) : (s.updPs k f).rings = s.rings := rfl
@[simp] theorem updPs_units (k : Nat) (f : PStream → PStream) : (s.updPs k f).units = s.units := rfl
@[simp] theorem updPs_vaults (k : Nat) (f : PStream → PStream) : (s.updPs k f).vaults = s.vaults := rfl
@[simp] theorem updPs_reaches (k : Nat) (f : PStream → PStream) : (s.updPs k f).reaches = s.reaches := rfl
@[simp] theorem updPs_pchg (k : Nat) (f : PStream → PStream) : (s.updPs k f).pchg = s.pchg := rfl
@[simp] theorem updPs_phcfg (k : Nat) (f : PStream → PStream) : (s.updPs k f).phcfg = s.phcfg := rfl
@[simp] theorem updPs_pkgcap (k : Nat) (f : PStream → PStream) : (s.updPs k f).pkgcap = s.pkgcap := rfl
@[simp] theorem updPs_links (k : Nat) (f : PStream → PStream) : (s.updPs k f).links = s.links := rfl
@[simp] theorem updPs_ports (k : Nat) (f : PStream → PStream) : (s.updPs k f).ports = s.ports := rfl
@[simp] theorem updPs_snoop (k : Nat) (f : PStream → PStream) : (s.updPs k f).snoop = s.snoop := rfl
@[simp] theorem updPs_late (k : Nat) (f : PStream → PStream) : (s.updPs k f).late = s.late := rfl
@[simp] theorem updPs_tlb (k : Nat) (f : PStream → PStream) : (s.updPs k f).tlb = s.tlb := rfl
@[simp] theorem updPs_parts (k : Nat) (f : PStream → PStream) : (s.updPs k f).parts = s.parts := rfl
@[simp] theorem updPs_ctxs (k : Nat) (f : PStream → PStream) : (s.updPs k f).ctxs = s.ctxs := rfl
@[simp] theorem updPs_springs (k : Nat) (f : PStream → PStream) : (s.updPs k f).springs = s.springs := rfl
@[simp] theorem updPs_misses (k : Nat) (f : PStream → PStream) : (s.updPs k f).misses = s.misses := rfl
@[simp] theorem updPs_launches (k : Nat) (f : PStream → PStream) : (s.updPs k f).launches = s.launches := rfl
@[simp] theorem updPs_freshLaunch (k : Nat) (f : PStream → PStream) : (s.updPs k f).freshLaunch = s.freshLaunch := rfl
@[simp] theorem updPs_lids (k : Nat) (f : PStream → PStream) : (s.updPs k f).lids = s.lids := rfl
@[simp] theorem updPs_served (k : Nat) (f : PStream → PStream) : (s.updPs k f).served = s.served := rfl
@[simp] theorem updPs_dispatch (k : Nat) (f : PStream → PStream) : (s.updPs k f).dispatch = s.dispatch := rfl
@[simp] theorem updPs_abands (k : Nat) (f : PStream → PStream) : (s.updPs k f).abands = s.abands := rfl
@[simp] theorem updPs_teams (k : Nat) (f : PStream → PStream) : (s.updPs k f).teams = s.teams := rfl
@[simp] theorem updPs_freshTeam (k : Nat) (f : PStream → PStream) : (s.updPs k f).freshTeam = s.freshTeam := rfl
@[simp] theorem updPs_cores (k : Nat) (f : PStream → PStream) : (s.updPs k f).cores = s.cores := rfl
@[simp] theorem updPs_cmds (k : Nat) (f : PStream → PStream) : (s.updPs k f).cmds = s.cmds := rfl
@[simp] theorem updPs_freshCmd (k : Nat) (f : PStream → PStream) : (s.updPs k f).freshCmd = s.freshCmd := rfl
@[simp] theorem updPs_colls (k : Nat) (f : PStream → PStream) : (s.updPs k f).colls = s.colls := rfl
@[simp] theorem updPs_screens (k : Nat) (f : PStream → PStream) : (s.updPs k f).screens = s.screens := rfl
@[simp] theorem updPs_kept (k : Nat) (f : PStream → PStream) : (s.updPs k f).kept = s.kept := rfl
@[simp] theorem updPs_commits (k : Nat) (f : PStream → PStream) : (s.updPs k f).commits = s.commits := rfl
@[simp] theorem updPs_marks (k : Nat) (f : PStream → PStream) : (s.updPs k f).marks = s.marks := rfl
@[simp] theorem updPs_order (k : Nat) (f : PStream → PStream) : (s.updPs k f).order = s.order := rfl
@[simp] theorem updPs_lcs (k : Nat) (f : PStream → PStream) : (s.updPs k f).lcs = s.lcs := rfl
@[simp] theorem updPs_sregs (k : Nat) (f : PStream → PStream) : (s.updPs k f).sregs = s.sregs := rfl
@[simp] theorem updPs_heldWrites (k : Nat) (f : PStream → PStream) : (s.updPs k f).heldWrites = s.heldWrites := rfl

@[simp] theorem updSpring_now (k : Nat) (f : Spring → Spring) : (s.updSpring k f).now = s.now := rfl
@[simp] theorem updSpring_turn (k : Nat) (f : Spring → Spring) : (s.updSpring k f).turn = s.turn := rfl
@[simp] theorem updSpring_free (k : Nat) (f : Spring → Spring) : (s.updSpring k f).free = s.free := rfl
@[simp] theorem updSpring_agenda (k : Nat) (f : Spring → Spring) : (s.updSpring k f).agenda = s.agenda := rfl
@[simp] theorem updSpring_cur (k : Nat) (f : Spring → Spring) : (s.updSpring k f).cur = s.cur := rfl
@[simp] theorem updSpring_rivals (k : Nat) (f : Spring → Spring) : (s.updSpring k f).rivals = s.rivals := rfl
@[simp] theorem updSpring_curLc (k : Nat) (f : Spring → Spring) : (s.updSpring k f).curLc = s.curLc := rfl
@[simp] theorem updSpring_mem (k : Nat) (f : Spring → Spring) : (s.updSpring k f).mem = s.mem := rfl
@[simp] theorem updSpring_device (k : Nat) (f : Spring → Spring) : (s.updSpring k f).device = s.device := rfl
@[simp] theorem updSpring_host (k : Nat) (f : Spring → Spring) : (s.updSpring k f).host = s.host := rfl
@[simp] theorem updSpring_queues (k : Nat) (f : Spring → Spring) : (s.updSpring k f).queues = s.queues := rfl
@[simp] theorem updSpring_rings (k : Nat) (f : Spring → Spring) : (s.updSpring k f).rings = s.rings := rfl
@[simp] theorem updSpring_units (k : Nat) (f : Spring → Spring) : (s.updSpring k f).units = s.units := rfl
@[simp] theorem updSpring_vaults (k : Nat) (f : Spring → Spring) : (s.updSpring k f).vaults = s.vaults := rfl
@[simp] theorem updSpring_reaches (k : Nat) (f : Spring → Spring) : (s.updSpring k f).reaches = s.reaches := rfl
@[simp] theorem updSpring_pchg (k : Nat) (f : Spring → Spring) : (s.updSpring k f).pchg = s.pchg := rfl
@[simp] theorem updSpring_phcfg (k : Nat) (f : Spring → Spring) : (s.updSpring k f).phcfg = s.phcfg := rfl
@[simp] theorem updSpring_pkgcap (k : Nat) (f : Spring → Spring) : (s.updSpring k f).pkgcap = s.pkgcap := rfl
@[simp] theorem updSpring_links (k : Nat) (f : Spring → Spring) : (s.updSpring k f).links = s.links := rfl
@[simp] theorem updSpring_ports (k : Nat) (f : Spring → Spring) : (s.updSpring k f).ports = s.ports := rfl
@[simp] theorem updSpring_snoop (k : Nat) (f : Spring → Spring) : (s.updSpring k f).snoop = s.snoop := rfl
@[simp] theorem updSpring_late (k : Nat) (f : Spring → Spring) : (s.updSpring k f).late = s.late := rfl
@[simp] theorem updSpring_tlb (k : Nat) (f : Spring → Spring) : (s.updSpring k f).tlb = s.tlb := rfl
@[simp] theorem updSpring_parts (k : Nat) (f : Spring → Spring) : (s.updSpring k f).parts = s.parts := rfl
@[simp] theorem updSpring_ctxs (k : Nat) (f : Spring → Spring) : (s.updSpring k f).ctxs = s.ctxs := rfl
@[simp] theorem updSpring_misses (k : Nat) (f : Spring → Spring) : (s.updSpring k f).misses = s.misses := rfl
@[simp] theorem updSpring_launches (k : Nat) (f : Spring → Spring) : (s.updSpring k f).launches = s.launches := rfl
@[simp] theorem updSpring_freshLaunch (k : Nat) (f : Spring → Spring) : (s.updSpring k f).freshLaunch = s.freshLaunch := rfl
@[simp] theorem updSpring_lids (k : Nat) (f : Spring → Spring) : (s.updSpring k f).lids = s.lids := rfl
@[simp] theorem updSpring_served (k : Nat) (f : Spring → Spring) : (s.updSpring k f).served = s.served := rfl
@[simp] theorem updSpring_dispatch (k : Nat) (f : Spring → Spring) : (s.updSpring k f).dispatch = s.dispatch := rfl
@[simp] theorem updSpring_abands (k : Nat) (f : Spring → Spring) : (s.updSpring k f).abands = s.abands := rfl
@[simp] theorem updSpring_teams (k : Nat) (f : Spring → Spring) : (s.updSpring k f).teams = s.teams := rfl
@[simp] theorem updSpring_freshTeam (k : Nat) (f : Spring → Spring) : (s.updSpring k f).freshTeam = s.freshTeam := rfl
@[simp] theorem updSpring_cores (k : Nat) (f : Spring → Spring) : (s.updSpring k f).cores = s.cores := rfl
@[simp] theorem updSpring_cmds (k : Nat) (f : Spring → Spring) : (s.updSpring k f).cmds = s.cmds := rfl
@[simp] theorem updSpring_freshCmd (k : Nat) (f : Spring → Spring) : (s.updSpring k f).freshCmd = s.freshCmd := rfl
@[simp] theorem updSpring_colls (k : Nat) (f : Spring → Spring) : (s.updSpring k f).colls = s.colls := rfl
@[simp] theorem updSpring_screens (k : Nat) (f : Spring → Spring) : (s.updSpring k f).screens = s.screens := rfl
@[simp] theorem updSpring_kept (k : Nat) (f : Spring → Spring) : (s.updSpring k f).kept = s.kept := rfl
@[simp] theorem updSpring_commits (k : Nat) (f : Spring → Spring) : (s.updSpring k f).commits = s.commits := rfl
@[simp] theorem updSpring_marks (k : Nat) (f : Spring → Spring) : (s.updSpring k f).marks = s.marks := rfl
@[simp] theorem updSpring_order (k : Nat) (f : Spring → Spring) : (s.updSpring k f).order = s.order := rfl
@[simp] theorem updSpring_lcs (k : Nat) (f : Spring → Spring) : (s.updSpring k f).lcs = s.lcs := rfl
@[simp] theorem updSpring_streams (k : Nat) (f : Spring → Spring) : (s.updSpring k f).streams = s.streams := rfl
@[simp] theorem updSpring_sregs (k : Nat) (f : Spring → Spring) : (s.updSpring k f).sregs = s.sregs := rfl
@[simp] theorem updSpring_heldWrites (k : Nat) (f : Spring → Spring) : (s.updSpring k f).heldWrites = s.heldWrites := rfl

@[simp] theorem updLc_now (n : Nat) (f : LineCore → LineCore) : (s.updLc n f).now = s.now := rfl
@[simp] theorem updLc_turn (n : Nat) (f : LineCore → LineCore) : (s.updLc n f).turn = s.turn := rfl
@[simp] theorem updLc_free (n : Nat) (f : LineCore → LineCore) : (s.updLc n f).free = s.free := rfl
@[simp] theorem updLc_agenda (n : Nat) (f : LineCore → LineCore) : (s.updLc n f).agenda = s.agenda := rfl
@[simp] theorem updLc_cur (n : Nat) (f : LineCore → LineCore) : (s.updLc n f).cur = s.cur := rfl
@[simp] theorem updLc_rivals (n : Nat) (f : LineCore → LineCore) : (s.updLc n f).rivals = s.rivals := rfl
@[simp] theorem updLc_curLc (n : Nat) (f : LineCore → LineCore) : (s.updLc n f).curLc = s.curLc := rfl
@[simp] theorem updLc_mem (n : Nat) (f : LineCore → LineCore) : (s.updLc n f).mem = s.mem := rfl
@[simp] theorem updLc_device (n : Nat) (f : LineCore → LineCore) : (s.updLc n f).device = s.device := rfl
@[simp] theorem updLc_host (n : Nat) (f : LineCore → LineCore) : (s.updLc n f).host = s.host := rfl
@[simp] theorem updLc_queues (n : Nat) (f : LineCore → LineCore) : (s.updLc n f).queues = s.queues := rfl
@[simp] theorem updLc_rings (n : Nat) (f : LineCore → LineCore) : (s.updLc n f).rings = s.rings := rfl
@[simp] theorem updLc_units (n : Nat) (f : LineCore → LineCore) : (s.updLc n f).units = s.units := rfl
@[simp] theorem updLc_vaults (n : Nat) (f : LineCore → LineCore) : (s.updLc n f).vaults = s.vaults := rfl
@[simp] theorem updLc_reaches (n : Nat) (f : LineCore → LineCore) : (s.updLc n f).reaches = s.reaches := rfl
@[simp] theorem updLc_pchg (n : Nat) (f : LineCore → LineCore) : (s.updLc n f).pchg = s.pchg := rfl
@[simp] theorem updLc_phcfg (n : Nat) (f : LineCore → LineCore) : (s.updLc n f).phcfg = s.phcfg := rfl
@[simp] theorem updLc_pkgcap (n : Nat) (f : LineCore → LineCore) : (s.updLc n f).pkgcap = s.pkgcap := rfl
@[simp] theorem updLc_links (n : Nat) (f : LineCore → LineCore) : (s.updLc n f).links = s.links := rfl
@[simp] theorem updLc_ports (n : Nat) (f : LineCore → LineCore) : (s.updLc n f).ports = s.ports := rfl
@[simp] theorem updLc_snoop (n : Nat) (f : LineCore → LineCore) : (s.updLc n f).snoop = s.snoop := rfl
@[simp] theorem updLc_late (n : Nat) (f : LineCore → LineCore) : (s.updLc n f).late = s.late := rfl
@[simp] theorem updLc_tlb (n : Nat) (f : LineCore → LineCore) : (s.updLc n f).tlb = s.tlb := rfl
@[simp] theorem updLc_parts (n : Nat) (f : LineCore → LineCore) : (s.updLc n f).parts = s.parts := rfl
@[simp] theorem updLc_ctxs (n : Nat) (f : LineCore → LineCore) : (s.updLc n f).ctxs = s.ctxs := rfl
@[simp] theorem updLc_springs (n : Nat) (f : LineCore → LineCore) : (s.updLc n f).springs = s.springs := rfl
@[simp] theorem updLc_misses (n : Nat) (f : LineCore → LineCore) : (s.updLc n f).misses = s.misses := rfl
@[simp] theorem updLc_launches (n : Nat) (f : LineCore → LineCore) : (s.updLc n f).launches = s.launches := rfl
@[simp] theorem updLc_freshLaunch (n : Nat) (f : LineCore → LineCore) : (s.updLc n f).freshLaunch = s.freshLaunch := rfl
@[simp] theorem updLc_lids (n : Nat) (f : LineCore → LineCore) : (s.updLc n f).lids = s.lids := rfl
@[simp] theorem updLc_served (n : Nat) (f : LineCore → LineCore) : (s.updLc n f).served = s.served := rfl
@[simp] theorem updLc_dispatch (n : Nat) (f : LineCore → LineCore) : (s.updLc n f).dispatch = s.dispatch := rfl
@[simp] theorem updLc_abands (n : Nat) (f : LineCore → LineCore) : (s.updLc n f).abands = s.abands := rfl
@[simp] theorem updLc_teams (n : Nat) (f : LineCore → LineCore) : (s.updLc n f).teams = s.teams := rfl
@[simp] theorem updLc_freshTeam (n : Nat) (f : LineCore → LineCore) : (s.updLc n f).freshTeam = s.freshTeam := rfl
@[simp] theorem updLc_cores (n : Nat) (f : LineCore → LineCore) : (s.updLc n f).cores = s.cores := rfl
@[simp] theorem updLc_cmds (n : Nat) (f : LineCore → LineCore) : (s.updLc n f).cmds = s.cmds := rfl
@[simp] theorem updLc_freshCmd (n : Nat) (f : LineCore → LineCore) : (s.updLc n f).freshCmd = s.freshCmd := rfl
@[simp] theorem updLc_colls (n : Nat) (f : LineCore → LineCore) : (s.updLc n f).colls = s.colls := rfl
@[simp] theorem updLc_screens (n : Nat) (f : LineCore → LineCore) : (s.updLc n f).screens = s.screens := rfl
@[simp] theorem updLc_kept (n : Nat) (f : LineCore → LineCore) : (s.updLc n f).kept = s.kept := rfl
@[simp] theorem updLc_commits (n : Nat) (f : LineCore → LineCore) : (s.updLc n f).commits = s.commits := rfl
@[simp] theorem updLc_marks (n : Nat) (f : LineCore → LineCore) : (s.updLc n f).marks = s.marks := rfl
@[simp] theorem updLc_order (n : Nat) (f : LineCore → LineCore) : (s.updLc n f).order = s.order := rfl
@[simp] theorem updLc_streams (n : Nat) (f : LineCore → LineCore) : (s.updLc n f).streams = s.streams := rfl
@[simp] theorem updLc_sregs (n : Nat) (f : LineCore → LineCore) : (s.updLc n f).sregs = s.sregs := rfl
@[simp] theorem updLc_heldWrites (n : Nat) (f : LineCore → LineCore) : (s.updLc n f).heldWrites = s.heldWrites := rfl

@[simp] theorem updStream_now (n : Nat) (v : Bool) (f : LStream → LStream) : (s.updStream n v f).now = s.now := rfl
@[simp] theorem updStream_turn (n : Nat) (v : Bool) (f : LStream → LStream) : (s.updStream n v f).turn = s.turn := rfl
@[simp] theorem updStream_free (n : Nat) (v : Bool) (f : LStream → LStream) : (s.updStream n v f).free = s.free := rfl
@[simp] theorem updStream_agenda (n : Nat) (v : Bool) (f : LStream → LStream) : (s.updStream n v f).agenda = s.agenda := rfl
@[simp] theorem updStream_cur (n : Nat) (v : Bool) (f : LStream → LStream) : (s.updStream n v f).cur = s.cur := rfl
@[simp] theorem updStream_rivals (n : Nat) (v : Bool) (f : LStream → LStream) : (s.updStream n v f).rivals = s.rivals := rfl
@[simp] theorem updStream_curLc (n : Nat) (v : Bool) (f : LStream → LStream) : (s.updStream n v f).curLc = s.curLc := rfl
@[simp] theorem updStream_mem (n : Nat) (v : Bool) (f : LStream → LStream) : (s.updStream n v f).mem = s.mem := rfl
@[simp] theorem updStream_device (n : Nat) (v : Bool) (f : LStream → LStream) : (s.updStream n v f).device = s.device := rfl
@[simp] theorem updStream_host (n : Nat) (v : Bool) (f : LStream → LStream) : (s.updStream n v f).host = s.host := rfl
@[simp] theorem updStream_queues (n : Nat) (v : Bool) (f : LStream → LStream) : (s.updStream n v f).queues = s.queues := rfl
@[simp] theorem updStream_rings (n : Nat) (v : Bool) (f : LStream → LStream) : (s.updStream n v f).rings = s.rings := rfl
@[simp] theorem updStream_units (n : Nat) (v : Bool) (f : LStream → LStream) : (s.updStream n v f).units = s.units := rfl
@[simp] theorem updStream_vaults (n : Nat) (v : Bool) (f : LStream → LStream) : (s.updStream n v f).vaults = s.vaults := rfl
@[simp] theorem updStream_reaches (n : Nat) (v : Bool) (f : LStream → LStream) : (s.updStream n v f).reaches = s.reaches := rfl
@[simp] theorem updStream_pchg (n : Nat) (v : Bool) (f : LStream → LStream) : (s.updStream n v f).pchg = s.pchg := rfl
@[simp] theorem updStream_phcfg (n : Nat) (v : Bool) (f : LStream → LStream) : (s.updStream n v f).phcfg = s.phcfg := rfl
@[simp] theorem updStream_pkgcap (n : Nat) (v : Bool) (f : LStream → LStream) : (s.updStream n v f).pkgcap = s.pkgcap := rfl
@[simp] theorem updStream_links (n : Nat) (v : Bool) (f : LStream → LStream) : (s.updStream n v f).links = s.links := rfl
@[simp] theorem updStream_ports (n : Nat) (v : Bool) (f : LStream → LStream) : (s.updStream n v f).ports = s.ports := rfl
@[simp] theorem updStream_snoop (n : Nat) (v : Bool) (f : LStream → LStream) : (s.updStream n v f).snoop = s.snoop := rfl
@[simp] theorem updStream_late (n : Nat) (v : Bool) (f : LStream → LStream) : (s.updStream n v f).late = s.late := rfl
@[simp] theorem updStream_tlb (n : Nat) (v : Bool) (f : LStream → LStream) : (s.updStream n v f).tlb = s.tlb := rfl
@[simp] theorem updStream_parts (n : Nat) (v : Bool) (f : LStream → LStream) : (s.updStream n v f).parts = s.parts := rfl
@[simp] theorem updStream_ctxs (n : Nat) (v : Bool) (f : LStream → LStream) : (s.updStream n v f).ctxs = s.ctxs := rfl
@[simp] theorem updStream_springs (n : Nat) (v : Bool) (f : LStream → LStream) : (s.updStream n v f).springs = s.springs := rfl
@[simp] theorem updStream_misses (n : Nat) (v : Bool) (f : LStream → LStream) : (s.updStream n v f).misses = s.misses := rfl
@[simp] theorem updStream_launches (n : Nat) (v : Bool) (f : LStream → LStream) : (s.updStream n v f).launches = s.launches := rfl
@[simp] theorem updStream_freshLaunch (n : Nat) (v : Bool) (f : LStream → LStream) : (s.updStream n v f).freshLaunch = s.freshLaunch := rfl
@[simp] theorem updStream_lids (n : Nat) (v : Bool) (f : LStream → LStream) : (s.updStream n v f).lids = s.lids := rfl
@[simp] theorem updStream_served (n : Nat) (v : Bool) (f : LStream → LStream) : (s.updStream n v f).served = s.served := rfl
@[simp] theorem updStream_dispatch (n : Nat) (v : Bool) (f : LStream → LStream) : (s.updStream n v f).dispatch = s.dispatch := rfl
@[simp] theorem updStream_abands (n : Nat) (v : Bool) (f : LStream → LStream) : (s.updStream n v f).abands = s.abands := rfl
@[simp] theorem updStream_teams (n : Nat) (v : Bool) (f : LStream → LStream) : (s.updStream n v f).teams = s.teams := rfl
@[simp] theorem updStream_freshTeam (n : Nat) (v : Bool) (f : LStream → LStream) : (s.updStream n v f).freshTeam = s.freshTeam := rfl
@[simp] theorem updStream_cores (n : Nat) (v : Bool) (f : LStream → LStream) : (s.updStream n v f).cores = s.cores := rfl
@[simp] theorem updStream_cmds (n : Nat) (v : Bool) (f : LStream → LStream) : (s.updStream n v f).cmds = s.cmds := rfl
@[simp] theorem updStream_freshCmd (n : Nat) (v : Bool) (f : LStream → LStream) : (s.updStream n v f).freshCmd = s.freshCmd := rfl
@[simp] theorem updStream_colls (n : Nat) (v : Bool) (f : LStream → LStream) : (s.updStream n v f).colls = s.colls := rfl
@[simp] theorem updStream_screens (n : Nat) (v : Bool) (f : LStream → LStream) : (s.updStream n v f).screens = s.screens := rfl
@[simp] theorem updStream_kept (n : Nat) (v : Bool) (f : LStream → LStream) : (s.updStream n v f).kept = s.kept := rfl
@[simp] theorem updStream_commits (n : Nat) (v : Bool) (f : LStream → LStream) : (s.updStream n v f).commits = s.commits := rfl
@[simp] theorem updStream_marks (n : Nat) (v : Bool) (f : LStream → LStream) : (s.updStream n v f).marks = s.marks := rfl
@[simp] theorem updStream_order (n : Nat) (v : Bool) (f : LStream → LStream) : (s.updStream n v f).order = s.order := rfl
@[simp] theorem updStream_streams (n : Nat) (v : Bool) (f : LStream → LStream) : (s.updStream n v f).streams = s.streams := rfl
@[simp] theorem updStream_sregs (n : Nat) (v : Bool) (f : LStream → LStream) : (s.updStream n v f).sregs = s.sregs := rfl
@[simp] theorem updStream_heldWrites (n : Nat) (v : Bool) (f : LStream → LStream) : (s.updStream n v f).heldWrites = s.heldWrites := rfl

@[simp] theorem freed_now (n : Nat) : (s.freed n).now = s.now := rfl
@[simp] theorem freed_turn (n : Nat) : (s.freed n).turn = s.turn := rfl
@[simp] theorem freed_agenda (n : Nat) : (s.freed n).agenda = s.agenda := rfl
@[simp] theorem freed_cur (n : Nat) : (s.freed n).cur = s.cur := rfl
@[simp] theorem freed_rivals (n : Nat) : (s.freed n).rivals = s.rivals := rfl
@[simp] theorem freed_curLc (n : Nat) : (s.freed n).curLc = s.curLc := rfl
@[simp] theorem freed_mem (n : Nat) : (s.freed n).mem = s.mem := rfl
@[simp] theorem freed_device (n : Nat) : (s.freed n).device = s.device := rfl
@[simp] theorem freed_host (n : Nat) : (s.freed n).host = s.host := rfl
@[simp] theorem freed_queues (n : Nat) : (s.freed n).queues = s.queues := rfl
@[simp] theorem freed_rings (n : Nat) : (s.freed n).rings = s.rings := rfl
@[simp] theorem freed_units (n : Nat) : (s.freed n).units = s.units := rfl
@[simp] theorem freed_vaults (n : Nat) : (s.freed n).vaults = s.vaults := rfl
@[simp] theorem freed_reaches (n : Nat) : (s.freed n).reaches = s.reaches := rfl
@[simp] theorem freed_pchg (n : Nat) : (s.freed n).pchg = s.pchg := rfl
@[simp] theorem freed_phcfg (n : Nat) : (s.freed n).phcfg = s.phcfg := rfl
@[simp] theorem freed_pkgcap (n : Nat) : (s.freed n).pkgcap = s.pkgcap := rfl
@[simp] theorem freed_links (n : Nat) : (s.freed n).links = s.links := rfl
@[simp] theorem freed_ports (n : Nat) : (s.freed n).ports = s.ports := rfl
@[simp] theorem freed_snoop (n : Nat) : (s.freed n).snoop = s.snoop := rfl
@[simp] theorem freed_late (n : Nat) : (s.freed n).late = s.late := rfl
@[simp] theorem freed_tlb (n : Nat) : (s.freed n).tlb = s.tlb := rfl
@[simp] theorem freed_parts (n : Nat) : (s.freed n).parts = s.parts := rfl
@[simp] theorem freed_ctxs (n : Nat) : (s.freed n).ctxs = s.ctxs := rfl
@[simp] theorem freed_springs (n : Nat) : (s.freed n).springs = s.springs := rfl
@[simp] theorem freed_misses (n : Nat) : (s.freed n).misses = s.misses := rfl
@[simp] theorem freed_launches (n : Nat) : (s.freed n).launches = s.launches := rfl
@[simp] theorem freed_freshLaunch (n : Nat) : (s.freed n).freshLaunch = s.freshLaunch := rfl
@[simp] theorem freed_lids (n : Nat) : (s.freed n).lids = s.lids := rfl
@[simp] theorem freed_served (n : Nat) : (s.freed n).served = s.served := rfl
@[simp] theorem freed_dispatch (n : Nat) : (s.freed n).dispatch = s.dispatch := rfl
@[simp] theorem freed_abands (n : Nat) : (s.freed n).abands = s.abands := rfl
@[simp] theorem freed_teams (n : Nat) : (s.freed n).teams = s.teams := rfl
@[simp] theorem freed_freshTeam (n : Nat) : (s.freed n).freshTeam = s.freshTeam := rfl
@[simp] theorem freed_cores (n : Nat) : (s.freed n).cores = s.cores := rfl
@[simp] theorem freed_cmds (n : Nat) : (s.freed n).cmds = s.cmds := rfl
@[simp] theorem freed_freshCmd (n : Nat) : (s.freed n).freshCmd = s.freshCmd := rfl
@[simp] theorem freed_colls (n : Nat) : (s.freed n).colls = s.colls := rfl
@[simp] theorem freed_screens (n : Nat) : (s.freed n).screens = s.screens := rfl
@[simp] theorem freed_kept (n : Nat) : (s.freed n).kept = s.kept := rfl
@[simp] theorem freed_commits (n : Nat) : (s.freed n).commits = s.commits := rfl
@[simp] theorem freed_marks (n : Nat) : (s.freed n).marks = s.marks := rfl
@[simp] theorem freed_order (n : Nat) : (s.freed n).order = s.order := rfl
@[simp] theorem freed_lcs (n : Nat) : (s.freed n).lcs = s.lcs := rfl
@[simp] theorem freed_streams (n : Nat) : (s.freed n).streams = s.streams := rfl
@[simp] theorem freed_sregs (n : Nat) : (s.freed n).sregs = s.sregs := rfl
@[simp] theorem freed_heldWrites (n : Nat) : (s.freed n).heldWrites = s.heldWrites := rfl

@[simp] theorem withLate_now (l : List Late) : (s.withLate l).now = s.now := rfl
@[simp] theorem withLate_turn (l : List Late) : (s.withLate l).turn = s.turn := rfl
@[simp] theorem withLate_free (l : List Late) : (s.withLate l).free = s.free := rfl
@[simp] theorem withLate_agenda (l : List Late) : (s.withLate l).agenda = s.agenda := rfl
@[simp] theorem withLate_cur (l : List Late) : (s.withLate l).cur = s.cur := rfl
@[simp] theorem withLate_rivals (l : List Late) : (s.withLate l).rivals = s.rivals := rfl
@[simp] theorem withLate_curLc (l : List Late) : (s.withLate l).curLc = s.curLc := rfl
@[simp] theorem withLate_mem (l : List Late) : (s.withLate l).mem = s.mem := rfl
@[simp] theorem withLate_device (l : List Late) : (s.withLate l).device = s.device := rfl
@[simp] theorem withLate_host (l : List Late) : (s.withLate l).host = s.host := rfl
@[simp] theorem withLate_queues (l : List Late) : (s.withLate l).queues = s.queues := rfl
@[simp] theorem withLate_rings (l : List Late) : (s.withLate l).rings = s.rings := rfl
@[simp] theorem withLate_units (l : List Late) : (s.withLate l).units = s.units := rfl
@[simp] theorem withLate_vaults (l : List Late) : (s.withLate l).vaults = s.vaults := rfl
@[simp] theorem withLate_reaches (l : List Late) : (s.withLate l).reaches = s.reaches := rfl
@[simp] theorem withLate_pchg (l : List Late) : (s.withLate l).pchg = s.pchg := rfl
@[simp] theorem withLate_phcfg (l : List Late) : (s.withLate l).phcfg = s.phcfg := rfl
@[simp] theorem withLate_pkgcap (l : List Late) : (s.withLate l).pkgcap = s.pkgcap := rfl
@[simp] theorem withLate_links (l : List Late) : (s.withLate l).links = s.links := rfl
@[simp] theorem withLate_ports (l : List Late) : (s.withLate l).ports = s.ports := rfl
@[simp] theorem withLate_snoop (l : List Late) : (s.withLate l).snoop = s.snoop := rfl
@[simp] theorem withLate_tlb (l : List Late) : (s.withLate l).tlb = s.tlb := rfl
@[simp] theorem withLate_parts (l : List Late) : (s.withLate l).parts = s.parts := rfl
@[simp] theorem withLate_ctxs (l : List Late) : (s.withLate l).ctxs = s.ctxs := rfl
@[simp] theorem withLate_springs (l : List Late) : (s.withLate l).springs = s.springs := rfl
@[simp] theorem withLate_misses (l : List Late) : (s.withLate l).misses = s.misses := rfl
@[simp] theorem withLate_launches (l : List Late) : (s.withLate l).launches = s.launches := rfl
@[simp] theorem withLate_freshLaunch (l : List Late) : (s.withLate l).freshLaunch = s.freshLaunch := rfl
@[simp] theorem withLate_lids (l : List Late) : (s.withLate l).lids = s.lids := rfl
@[simp] theorem withLate_served (l : List Late) : (s.withLate l).served = s.served := rfl
@[simp] theorem withLate_dispatch (l : List Late) : (s.withLate l).dispatch = s.dispatch := rfl
@[simp] theorem withLate_abands (l : List Late) : (s.withLate l).abands = s.abands := rfl
@[simp] theorem withLate_teams (l : List Late) : (s.withLate l).teams = s.teams := rfl
@[simp] theorem withLate_freshTeam (l : List Late) : (s.withLate l).freshTeam = s.freshTeam := rfl
@[simp] theorem withLate_cores (l : List Late) : (s.withLate l).cores = s.cores := rfl
@[simp] theorem withLate_cmds (l : List Late) : (s.withLate l).cmds = s.cmds := rfl
@[simp] theorem withLate_freshCmd (l : List Late) : (s.withLate l).freshCmd = s.freshCmd := rfl
@[simp] theorem withLate_colls (l : List Late) : (s.withLate l).colls = s.colls := rfl
@[simp] theorem withLate_screens (l : List Late) : (s.withLate l).screens = s.screens := rfl
@[simp] theorem withLate_kept (l : List Late) : (s.withLate l).kept = s.kept := rfl
@[simp] theorem withLate_commits (l : List Late) : (s.withLate l).commits = s.commits := rfl
@[simp] theorem withLate_marks (l : List Late) : (s.withLate l).marks = s.marks := rfl
@[simp] theorem withLate_order (l : List Late) : (s.withLate l).order = s.order := rfl
@[simp] theorem withLate_lcs (l : List Late) : (s.withLate l).lcs = s.lcs := rfl
@[simp] theorem withLate_streams (l : List Late) : (s.withLate l).streams = s.streams := rfl
@[simp] theorem withLate_sregs (l : List Late) : (s.withLate l).sregs = s.sregs := rfl
@[simp] theorem withLate_heldWrites (l : List Late) : (s.withLate l).heldWrites = s.heldWrites := rfl

@[simp] theorem addLate_now (l : List Late) : (s.addLate l).now = s.now := rfl
@[simp] theorem addLate_turn (l : List Late) : (s.addLate l).turn = s.turn := rfl
@[simp] theorem addLate_free (l : List Late) : (s.addLate l).free = s.free := rfl
@[simp] theorem addLate_agenda (l : List Late) : (s.addLate l).agenda = s.agenda := rfl
@[simp] theorem addLate_cur (l : List Late) : (s.addLate l).cur = s.cur := rfl
@[simp] theorem addLate_rivals (l : List Late) : (s.addLate l).rivals = s.rivals := rfl
@[simp] theorem addLate_curLc (l : List Late) : (s.addLate l).curLc = s.curLc := rfl
@[simp] theorem addLate_mem (l : List Late) : (s.addLate l).mem = s.mem := rfl
@[simp] theorem addLate_device (l : List Late) : (s.addLate l).device = s.device := rfl
@[simp] theorem addLate_host (l : List Late) : (s.addLate l).host = s.host := rfl
@[simp] theorem addLate_queues (l : List Late) : (s.addLate l).queues = s.queues := rfl
@[simp] theorem addLate_rings (l : List Late) : (s.addLate l).rings = s.rings := rfl
@[simp] theorem addLate_units (l : List Late) : (s.addLate l).units = s.units := rfl
@[simp] theorem addLate_vaults (l : List Late) : (s.addLate l).vaults = s.vaults := rfl
@[simp] theorem addLate_reaches (l : List Late) : (s.addLate l).reaches = s.reaches := rfl
@[simp] theorem addLate_pchg (l : List Late) : (s.addLate l).pchg = s.pchg := rfl
@[simp] theorem addLate_phcfg (l : List Late) : (s.addLate l).phcfg = s.phcfg := rfl
@[simp] theorem addLate_pkgcap (l : List Late) : (s.addLate l).pkgcap = s.pkgcap := rfl
@[simp] theorem addLate_links (l : List Late) : (s.addLate l).links = s.links := rfl
@[simp] theorem addLate_ports (l : List Late) : (s.addLate l).ports = s.ports := rfl
@[simp] theorem addLate_snoop (l : List Late) : (s.addLate l).snoop = s.snoop := rfl
@[simp] theorem addLate_tlb (l : List Late) : (s.addLate l).tlb = s.tlb := rfl
@[simp] theorem addLate_parts (l : List Late) : (s.addLate l).parts = s.parts := rfl
@[simp] theorem addLate_ctxs (l : List Late) : (s.addLate l).ctxs = s.ctxs := rfl
@[simp] theorem addLate_springs (l : List Late) : (s.addLate l).springs = s.springs := rfl
@[simp] theorem addLate_misses (l : List Late) : (s.addLate l).misses = s.misses := rfl
@[simp] theorem addLate_launches (l : List Late) : (s.addLate l).launches = s.launches := rfl
@[simp] theorem addLate_freshLaunch (l : List Late) : (s.addLate l).freshLaunch = s.freshLaunch := rfl
@[simp] theorem addLate_lids (l : List Late) : (s.addLate l).lids = s.lids := rfl
@[simp] theorem addLate_served (l : List Late) : (s.addLate l).served = s.served := rfl
@[simp] theorem addLate_dispatch (l : List Late) : (s.addLate l).dispatch = s.dispatch := rfl
@[simp] theorem addLate_abands (l : List Late) : (s.addLate l).abands = s.abands := rfl
@[simp] theorem addLate_teams (l : List Late) : (s.addLate l).teams = s.teams := rfl
@[simp] theorem addLate_freshTeam (l : List Late) : (s.addLate l).freshTeam = s.freshTeam := rfl
@[simp] theorem addLate_cores (l : List Late) : (s.addLate l).cores = s.cores := rfl
@[simp] theorem addLate_cmds (l : List Late) : (s.addLate l).cmds = s.cmds := rfl
@[simp] theorem addLate_freshCmd (l : List Late) : (s.addLate l).freshCmd = s.freshCmd := rfl
@[simp] theorem addLate_colls (l : List Late) : (s.addLate l).colls = s.colls := rfl
@[simp] theorem addLate_screens (l : List Late) : (s.addLate l).screens = s.screens := rfl
@[simp] theorem addLate_kept (l : List Late) : (s.addLate l).kept = s.kept := rfl
@[simp] theorem addLate_commits (l : List Late) : (s.addLate l).commits = s.commits := rfl
@[simp] theorem addLate_marks (l : List Late) : (s.addLate l).marks = s.marks := rfl
@[simp] theorem addLate_order (l : List Late) : (s.addLate l).order = s.order := rfl
@[simp] theorem addLate_lcs (l : List Late) : (s.addLate l).lcs = s.lcs := rfl
@[simp] theorem addLate_streams (l : List Late) : (s.addLate l).streams = s.streams := rfl
@[simp] theorem addLate_sregs (l : List Late) : (s.addLate l).sregs = s.sregs := rfl
@[simp] theorem addLate_heldWrites (l : List Late) : (s.addLate l).heldWrites = s.heldWrites := rfl

@[simp] theorem overLate_now (sp : Option (Nat × Nat)) (as : List Nat) : (s.overLate sp as).now = s.now := rfl
@[simp] theorem overLate_turn (sp : Option (Nat × Nat)) (as : List Nat) : (s.overLate sp as).turn = s.turn := rfl
@[simp] theorem overLate_free (sp : Option (Nat × Nat)) (as : List Nat) : (s.overLate sp as).free = s.free := rfl
@[simp] theorem overLate_agenda (sp : Option (Nat × Nat)) (as : List Nat) : (s.overLate sp as).agenda = s.agenda := rfl
@[simp] theorem overLate_cur (sp : Option (Nat × Nat)) (as : List Nat) : (s.overLate sp as).cur = s.cur := rfl
@[simp] theorem overLate_rivals (sp : Option (Nat × Nat)) (as : List Nat) : (s.overLate sp as).rivals = s.rivals := rfl
@[simp] theorem overLate_curLc (sp : Option (Nat × Nat)) (as : List Nat) : (s.overLate sp as).curLc = s.curLc := rfl
@[simp] theorem overLate_mem (sp : Option (Nat × Nat)) (as : List Nat) : (s.overLate sp as).mem = s.mem := rfl
@[simp] theorem overLate_device (sp : Option (Nat × Nat)) (as : List Nat) : (s.overLate sp as).device = s.device := rfl
@[simp] theorem overLate_host (sp : Option (Nat × Nat)) (as : List Nat) : (s.overLate sp as).host = s.host := rfl
@[simp] theorem overLate_queues (sp : Option (Nat × Nat)) (as : List Nat) : (s.overLate sp as).queues = s.queues := rfl
@[simp] theorem overLate_rings (sp : Option (Nat × Nat)) (as : List Nat) : (s.overLate sp as).rings = s.rings := rfl
@[simp] theorem overLate_units (sp : Option (Nat × Nat)) (as : List Nat) : (s.overLate sp as).units = s.units := rfl
@[simp] theorem overLate_vaults (sp : Option (Nat × Nat)) (as : List Nat) : (s.overLate sp as).vaults = s.vaults := rfl
@[simp] theorem overLate_reaches (sp : Option (Nat × Nat)) (as : List Nat) : (s.overLate sp as).reaches = s.reaches := rfl
@[simp] theorem overLate_pchg (sp : Option (Nat × Nat)) (as : List Nat) : (s.overLate sp as).pchg = s.pchg := rfl
@[simp] theorem overLate_phcfg (sp : Option (Nat × Nat)) (as : List Nat) : (s.overLate sp as).phcfg = s.phcfg := rfl
@[simp] theorem overLate_pkgcap (sp : Option (Nat × Nat)) (as : List Nat) : (s.overLate sp as).pkgcap = s.pkgcap := rfl
@[simp] theorem overLate_links (sp : Option (Nat × Nat)) (as : List Nat) : (s.overLate sp as).links = s.links := rfl
@[simp] theorem overLate_ports (sp : Option (Nat × Nat)) (as : List Nat) : (s.overLate sp as).ports = s.ports := rfl
@[simp] theorem overLate_snoop (sp : Option (Nat × Nat)) (as : List Nat) : (s.overLate sp as).snoop = s.snoop := rfl
@[simp] theorem overLate_tlb (sp : Option (Nat × Nat)) (as : List Nat) : (s.overLate sp as).tlb = s.tlb := rfl
@[simp] theorem overLate_parts (sp : Option (Nat × Nat)) (as : List Nat) : (s.overLate sp as).parts = s.parts := rfl
@[simp] theorem overLate_ctxs (sp : Option (Nat × Nat)) (as : List Nat) : (s.overLate sp as).ctxs = s.ctxs := rfl
@[simp] theorem overLate_springs (sp : Option (Nat × Nat)) (as : List Nat) : (s.overLate sp as).springs = s.springs := rfl
@[simp] theorem overLate_misses (sp : Option (Nat × Nat)) (as : List Nat) : (s.overLate sp as).misses = s.misses := rfl
@[simp] theorem overLate_launches (sp : Option (Nat × Nat)) (as : List Nat) : (s.overLate sp as).launches = s.launches := rfl
@[simp] theorem overLate_freshLaunch (sp : Option (Nat × Nat)) (as : List Nat) : (s.overLate sp as).freshLaunch = s.freshLaunch := rfl
@[simp] theorem overLate_lids (sp : Option (Nat × Nat)) (as : List Nat) : (s.overLate sp as).lids = s.lids := rfl
@[simp] theorem overLate_served (sp : Option (Nat × Nat)) (as : List Nat) : (s.overLate sp as).served = s.served := rfl
@[simp] theorem overLate_dispatch (sp : Option (Nat × Nat)) (as : List Nat) : (s.overLate sp as).dispatch = s.dispatch := rfl
@[simp] theorem overLate_abands (sp : Option (Nat × Nat)) (as : List Nat) : (s.overLate sp as).abands = s.abands := rfl
@[simp] theorem overLate_teams (sp : Option (Nat × Nat)) (as : List Nat) : (s.overLate sp as).teams = s.teams := rfl
@[simp] theorem overLate_freshTeam (sp : Option (Nat × Nat)) (as : List Nat) : (s.overLate sp as).freshTeam = s.freshTeam := rfl
@[simp] theorem overLate_cores (sp : Option (Nat × Nat)) (as : List Nat) : (s.overLate sp as).cores = s.cores := rfl
@[simp] theorem overLate_cmds (sp : Option (Nat × Nat)) (as : List Nat) : (s.overLate sp as).cmds = s.cmds := rfl
@[simp] theorem overLate_freshCmd (sp : Option (Nat × Nat)) (as : List Nat) : (s.overLate sp as).freshCmd = s.freshCmd := rfl
@[simp] theorem overLate_colls (sp : Option (Nat × Nat)) (as : List Nat) : (s.overLate sp as).colls = s.colls := rfl
@[simp] theorem overLate_screens (sp : Option (Nat × Nat)) (as : List Nat) : (s.overLate sp as).screens = s.screens := rfl
@[simp] theorem overLate_kept (sp : Option (Nat × Nat)) (as : List Nat) : (s.overLate sp as).kept = s.kept := rfl
@[simp] theorem overLate_commits (sp : Option (Nat × Nat)) (as : List Nat) : (s.overLate sp as).commits = s.commits := rfl
@[simp] theorem overLate_marks (sp : Option (Nat × Nat)) (as : List Nat) : (s.overLate sp as).marks = s.marks := rfl
@[simp] theorem overLate_order (sp : Option (Nat × Nat)) (as : List Nat) : (s.overLate sp as).order = s.order := rfl
@[simp] theorem overLate_lcs (sp : Option (Nat × Nat)) (as : List Nat) : (s.overLate sp as).lcs = s.lcs := rfl
@[simp] theorem overLate_streams (sp : Option (Nat × Nat)) (as : List Nat) : (s.overLate sp as).streams = s.streams := rfl
@[simp] theorem overLate_sregs (sp : Option (Nat × Nat)) (as : List Nat) : (s.overLate sp as).sregs = s.sregs := rfl
@[simp] theorem overLate_heldWrites (sp : Option (Nat × Nat)) (as : List Nat) : (s.overLate sp as).heldWrites = s.heldWrites := rfl

@[simp] theorem withoutLate_now (k : Nat) : (s.withoutLate k).now = s.now := rfl
@[simp] theorem withoutLate_turn (k : Nat) : (s.withoutLate k).turn = s.turn := rfl
@[simp] theorem withoutLate_free (k : Nat) : (s.withoutLate k).free = s.free := rfl
@[simp] theorem withoutLate_agenda (k : Nat) : (s.withoutLate k).agenda = s.agenda := rfl
@[simp] theorem withoutLate_cur (k : Nat) : (s.withoutLate k).cur = s.cur := rfl
@[simp] theorem withoutLate_rivals (k : Nat) : (s.withoutLate k).rivals = s.rivals := rfl
@[simp] theorem withoutLate_curLc (k : Nat) : (s.withoutLate k).curLc = s.curLc := rfl
@[simp] theorem withoutLate_mem (k : Nat) : (s.withoutLate k).mem = s.mem := rfl
@[simp] theorem withoutLate_device (k : Nat) : (s.withoutLate k).device = s.device := rfl
@[simp] theorem withoutLate_host (k : Nat) : (s.withoutLate k).host = s.host := rfl
@[simp] theorem withoutLate_queues (k : Nat) : (s.withoutLate k).queues = s.queues := rfl
@[simp] theorem withoutLate_rings (k : Nat) : (s.withoutLate k).rings = s.rings := rfl
@[simp] theorem withoutLate_units (k : Nat) : (s.withoutLate k).units = s.units := rfl
@[simp] theorem withoutLate_vaults (k : Nat) : (s.withoutLate k).vaults = s.vaults := rfl
@[simp] theorem withoutLate_reaches (k : Nat) : (s.withoutLate k).reaches = s.reaches := rfl
@[simp] theorem withoutLate_pchg (k : Nat) : (s.withoutLate k).pchg = s.pchg := rfl
@[simp] theorem withoutLate_phcfg (k : Nat) : (s.withoutLate k).phcfg = s.phcfg := rfl
@[simp] theorem withoutLate_pkgcap (k : Nat) : (s.withoutLate k).pkgcap = s.pkgcap := rfl
@[simp] theorem withoutLate_links (k : Nat) : (s.withoutLate k).links = s.links := rfl
@[simp] theorem withoutLate_ports (k : Nat) : (s.withoutLate k).ports = s.ports := rfl
@[simp] theorem withoutLate_snoop (k : Nat) : (s.withoutLate k).snoop = s.snoop := rfl
@[simp] theorem withoutLate_tlb (k : Nat) : (s.withoutLate k).tlb = s.tlb := rfl
@[simp] theorem withoutLate_parts (k : Nat) : (s.withoutLate k).parts = s.parts := rfl
@[simp] theorem withoutLate_ctxs (k : Nat) : (s.withoutLate k).ctxs = s.ctxs := rfl
@[simp] theorem withoutLate_springs (k : Nat) : (s.withoutLate k).springs = s.springs := rfl
@[simp] theorem withoutLate_misses (k : Nat) : (s.withoutLate k).misses = s.misses := rfl
@[simp] theorem withoutLate_launches (k : Nat) : (s.withoutLate k).launches = s.launches := rfl
@[simp] theorem withoutLate_freshLaunch (k : Nat) : (s.withoutLate k).freshLaunch = s.freshLaunch := rfl
@[simp] theorem withoutLate_lids (k : Nat) : (s.withoutLate k).lids = s.lids := rfl
@[simp] theorem withoutLate_served (k : Nat) : (s.withoutLate k).served = s.served := rfl
@[simp] theorem withoutLate_dispatch (k : Nat) : (s.withoutLate k).dispatch = s.dispatch := rfl
@[simp] theorem withoutLate_abands (k : Nat) : (s.withoutLate k).abands = s.abands := rfl
@[simp] theorem withoutLate_teams (k : Nat) : (s.withoutLate k).teams = s.teams := rfl
@[simp] theorem withoutLate_freshTeam (k : Nat) : (s.withoutLate k).freshTeam = s.freshTeam := rfl
@[simp] theorem withoutLate_cores (k : Nat) : (s.withoutLate k).cores = s.cores := rfl
@[simp] theorem withoutLate_cmds (k : Nat) : (s.withoutLate k).cmds = s.cmds := rfl
@[simp] theorem withoutLate_freshCmd (k : Nat) : (s.withoutLate k).freshCmd = s.freshCmd := rfl
@[simp] theorem withoutLate_colls (k : Nat) : (s.withoutLate k).colls = s.colls := rfl
@[simp] theorem withoutLate_screens (k : Nat) : (s.withoutLate k).screens = s.screens := rfl
@[simp] theorem withoutLate_kept (k : Nat) : (s.withoutLate k).kept = s.kept := rfl
@[simp] theorem withoutLate_commits (k : Nat) : (s.withoutLate k).commits = s.commits := rfl
@[simp] theorem withoutLate_marks (k : Nat) : (s.withoutLate k).marks = s.marks := rfl
@[simp] theorem withoutLate_order (k : Nat) : (s.withoutLate k).order = s.order := rfl
@[simp] theorem withoutLate_lcs (k : Nat) : (s.withoutLate k).lcs = s.lcs := rfl
@[simp] theorem withoutLate_streams (k : Nat) : (s.withoutLate k).streams = s.streams := rfl
@[simp] theorem withoutLate_sregs (k : Nat) : (s.withoutLate k).sregs = s.sregs := rfl
@[simp] theorem withoutLate_heldWrites (k : Nat) : (s.withoutLate k).heldWrites = s.heldWrites := rfl

@[simp] theorem poke_mem (pa : Nat) (bs : List Byte) : (s.poke pa bs).mem = Mem.write s.mem pa bs := rfl
@[simp] theorem freed_free (n : Nat) : (s.freed n).free = s.free + n := rfl

end Sys2Proof.Machine
end

