-- ==== Sys2Proof/Laws/Tables.lean ====
section
/-! SUPPORT. Tables read after writes, and memory by byte: what a lookup finds after a set, a change or a removal, and that
every write of memory keeps its canonical form. -/

namespace Sys2Proof.Machine

/-! ### Tables -/

@[simp] theorem look_set_same {α : Type} (t : Sparse α) (k : Nat) (x : α) : look (set t k x) k = some x := by
  induction t with
  | nil => simp [set, look]
  | cons e r ih =>
    obtain ⟨k', y⟩ := e
    simp only [set]
    split
    · simp [look]
    · split
      · simp [look]
      · next h => simp [look, ih, Ne.symm h]

theorem look_set_other {α : Type} (t : Sparse α) {k k' : Nat} (x : α) (h : k' ≠ k) : look (set t k x) k' = look t k' := by
  induction t with
  | nil => simp [set, look, Ne.symm h]
  | cons e r ih =>
    obtain ⟨k₁, y⟩ := e
    simp only [set]
    split
    · simp [look, Ne.symm h]
    · split
      · next h₁ => subst h₁; simp [look, Ne.symm h]
      · simp [look, ih]

@[simp] theorem look_del_same {α : Type} (t : Sparse α) (k : Nat) : look (del t k) k = none := by
  induction t with
  | nil => rfl
  | cons e r ih =>
    simp only [del, List.filter_cons] at ih ⊢
    split
    · next h => simp only [look, ih]; simp_all
    · exact ih

theorem look_del_other {α : Type} (t : Sparse α) {k k' : Nat} (h : k' ≠ k) : look (del t k) k' = look t k' := by
  induction t with
  | nil => rfl
  | cons e r ih =>
    simp only [del, List.filter_cons] at ih ⊢
    split
    · simp only [look, ih]
    · next h₁ => simp only [look, ih]; simp_all [Ne.symm h]

@[simp] theorem get_setD_same {α : Type} [DecidableEq α] (d : α) (t : Sparse α) (k : Nat) (x : α) : get d (setD d t k x) k = x := by
  simp only [get, setD]
  split
  · next h => simp [h]
  · simp

theorem get_setD_other {α : Type} [DecidableEq α] (d : α) (t : Sparse α) {k k' : Nat} (x : α) (h : k' ≠ k) :
    get d (setD d t k x) k' = get d t k' := by
  simp only [get, setD]
  split
  · rw [look_del_other t h]
  · rw [look_set_other t x h]

theorem look_upd {α : Type} (t : Sparse α) (k k' : Nat) (f : α → α) :
    look (upd t k f) k' = if k' = k then (look t k').map f else look t k' := by
  induction t with
  | nil => simp [upd, look]
  | cons e r ih =>
    obtain ⟨k₁, y⟩ := e
    simp only [upd, List.map_cons] at ih ⊢
    by_cases h : k₁ = k <;> by_cases h' : k₁ = k' <;> simp_all [look]

@[simp] theorem look_upd_same {α : Type} (t : Sparse α) (k : Nat) (f : α → α) : look (upd t k f) k = (look t k).map f := by
  simp [look_upd]

theorem look_upd_other {α : Type} (t : Sparse α) {k k' : Nat} (f : α → α) (h : k' ≠ k) : look (upd t k f) k' = look t k' := by
  simp [look_upd, h]

/-! ### The state's tables -/

@[simp] theorem setQueue_queue (s : State) (q : Nat) (x : Queue) : (s.setQueue q x).queue q = x := get_setD_same _ _ _ _
theorem setQueue_other (s : State) {q q' : Nat} (x : Queue) (h : q' ≠ q) : (s.setQueue q x).queue q' = s.queue q' :=
  get_setD_other _ _ _ h
@[simp] theorem setRing_ring (s : State) (n : Nat) (x : Ring) : (s.setRing n x).ring n = x := get_setD_same _ _ _ _
theorem setRing_other (s : State) {n n' : Nat} (x : Ring) (h : n' ≠ n) : (s.setRing n x).ring n' = s.ring n' := get_setD_other _ _ _ h
@[simp] theorem setReach_reach (s : State) (n : Nat) (x : Reach) : (s.setReach n x).reach n = x := get_setD_same _ _ _ _
theorem setReach_other (s : State) {n n' : Nat} (x : Reach) (h : n' ≠ n) : (s.setReach n x).reach n' = s.reach n' :=
  get_setD_other _ _ _ h
@[simp] theorem setVault_vault (s : State) (n : Nat) (x : Vault) : (s.setVault n x).vault n = x := get_setD_same _ _ _ _
theorem setVault_other (s : State) {n n' : Nat} (x : Vault) (h : n' ≠ n) : (s.setVault n x).vault n' = s.vault n' :=
  get_setD_other _ _ _ h
@[simp] theorem setUnit_unit (s : State) (n : Nat) (x : MemUnit) : (s.setUnit n x).unit n = x := get_setD_same _ _ _ _
theorem setUnit_other (s : State) {n n' : Nat} (x : MemUnit) (h : n' ≠ n) : (s.setUnit n x).unit n' = s.unit n' :=
  get_setD_other _ _ _ h
@[simp] theorem setCore_core (s : State) (n : Nat) (x : CoreState) : (s.setCore n x).core n = x := get_setD_same _ _ _ _
theorem setCore_other (s : State) {n n' : Nat} (x : CoreState) (h : n' ≠ n) : (s.setCore n x).core n' = s.core n' :=
  get_setD_other _ _ _ h
@[simp] theorem setLc_lc (s : State) (n : Nat) (x : LineCore) : (s.setLc n x).lc n = x := get_setD_same _ _ _ _
theorem setLc_other (s : State) {n n' : Nat} (x : LineCore) (h : n' ≠ n) : (s.setLc n x).lc n' = s.lc n' := get_setD_other _ _ _ h
@[simp] theorem updLc_lc (s : State) (n : Nat) (f : LineCore → LineCore) : (s.updLc n f).lc n = f (s.lc n) := setLc_lc _ _ _
theorem updLc_other (s : State) {n n' : Nat} (f : LineCore → LineCore) (h : n' ≠ n) : (s.updLc n f).lc n' = s.lc n' :=
  setLc_other _ _ h
@[simp] theorem updStream_lc (s : State) (n : Nat) (vec : Bool) (f : LStream → LStream) :
    (s.updStream n vec f).lc n = (s.lc n).setStream vec (f ((s.lc n).stream vec)) := updLc_lc _ _ _
@[simp] theorem setStream_stream (c : LineCore) (vec : Bool) (x : LStream) : (c.setStream vec x).stream vec = x := by
  cases vec <;> rfl
@[simp] theorem setStream_other (c : LineCore) (vec : Bool) (x : LStream) : (c.setStream vec x).stream (!vec) = c.stream (!vec) := by
  cases vec <;> rfl

/-- A team found under a key, after a change of it. -/
@[simp] theorem updTeam_look (s : State) (k : Nat) (f : Team → Team) : look (s.updTeam k f).teams k = (look s.teams k).map f :=
  look_upd_same _ _ _
theorem updTeam_other (s : State) {k k' : Nat} (f : Team → Team) (h : k' ≠ k) : look (s.updTeam k f).teams k' = look s.teams k' :=
  look_upd_other _ _ h

/-! ### Memory by byte -/

/-- An address below every listed one is not listed. -/
theorem look_filter_none {α : Type} (t : Sparse α) (p : Nat → Bool) (x : Nat) (h : p x = false) :
    look (t.filter (fun c => p c.1)) x = none := by
  induction t with
  | nil => rfl
  | cons e r ih =>
    simp only [List.filter_cons]
    split
    · next h₁ => simp only [look, ih]; rw [if_neg]; rintro rfl; simp_all
    · exact ih

theorem look_filter_keep {α : Type} (t : Sparse α) (p : Nat → Bool) (x : Nat) (h : p x = true) :
    look (t.filter (fun c => p c.1)) x = look t x := by
  induction t with
  | nil => rfl
  | cons e r ih =>
    simp only [List.filter_cons]
    split
    · simp only [look, ih]
    · next h₁ => simp only [look, ih]; rw [if_neg]; rintro rfl; simp_all

theorem look_append {α : Type} (t r : Sparse α) (x : Nat) : look (t ++ r) x = (look t x).or (look r x) := by
  induction t with
  | nil => simp [look]
  | cons e t ih =>
    simp only [List.cons_append, look, ih]
    split <;> simp

theorem look_cells (a : Nat) (bs : List Byte) (x : Nat) : look (Mem.cells a bs) x =
    if a ≤ x ∧ x < a + bs.length then (if bs[x - a]?.getD 0 = 0 then none else some (bs[x - a]?.getD 0)) else none := by
  induction bs generalizing a with
  | nil => simp only [Mem.cells, look, List.length_nil]; rw [if_neg]; omega
  | cons b r ih =>
    by_cases hx : x = a
    · subst hx
      have h : x ≤ x ∧ x < x + (b :: r).length := ⟨le_rfl, by simp⟩
      rw [if_pos h, Nat.sub_self]
      by_cases hb : b = 0
      · have : look (Mem.cells (x + 1) r) x = none := by rw [ih, if_neg]; omega
        simp [Mem.cells, hb, this]
      · have hb' : ¬ b = 0#8 := hb
        simp [Mem.cells, hb', look]
    · have hl : look (Mem.cells a (b :: r)) x = look (Mem.cells (a + 1) r) x := by
        simp only [Mem.cells]
        split
        · rfl
        · simp [look, Ne.symm hx]
      rw [hl, ih]
      by_cases hr : a + 1 ≤ x ∧ x < a + 1 + r.length
      · have h : a ≤ x ∧ x < a + (b :: r).length := by simp only [List.length_cons]; omega
        rw [if_pos hr, if_pos h, show x - a = (x - (a + 1)) + 1 by omega, List.getElem?_cons_succ]
      · have h : ¬ (a ≤ x ∧ x < a + (b :: r).length) := by simp only [List.length_cons]; omega
        rw [if_neg hr, if_neg h]

/-- A written run is read back, and every other byte is kept. -/
theorem read_write (m : Bytes) (a : Nat) (bs : List Byte) (x : Nat) : Mem.read (Mem.write m a bs) x =
    if a ≤ x ∧ x < a + bs.length then bs[x - a]?.getD 0 else Mem.read m x := by
  have e : look (Mem.write m a bs) x = ((look (m.filter (fun c => decide (c.1 < a))) x).or (look (Mem.cells a bs) x)).or
      (look (m.filter (fun c => decide (a + bs.length ≤ c.1))) x) := by rw [Mem.write, look_append, look_append]
  have lo := look_filter_keep m (fun k => decide (k < a)) x
  have lo' := look_filter_none m (fun k => decide (k < a)) x
  have hi := look_filter_keep m (fun k => decide (a + bs.length ≤ k)) x
  have hi' := look_filter_none m (fun k => decide (a + bs.length ≤ k)) x
  simp only [decide_eq_true_eq, decide_eq_false_iff_not] at lo lo' hi hi'
  simp only [Mem.read, get, e, look_cells]
  by_cases h₁ : x < a
  · rw [lo h₁, hi' (by omega), if_neg (by omega), if_neg (by omega)]; simp
  · rw [lo' h₁]
    by_cases h₂ : x < a + bs.length
    · have h : a ≤ x ∧ x < a + bs.length := ⟨by omega, h₂⟩
      rw [hi' (by omega), if_pos h]
      by_cases hz : bs[x - a]?.getD 0 = 0
      · rw [if_pos hz, if_pos h, hz]; rfl
      · rw [if_neg hz, if_pos h]; rfl
    · rw [hi (by omega), if_neg (by omega), if_neg (by omega)]; simp

/-! ### The canonical form of memory -/

/-- The canonical form is: rising addresses, and no zero byte. -/
theorem wf_iff (m : Bytes) : Memory.wf m = true ↔ m.Pairwise (fun a b => a.1 < b.1) ∧ ∀ c ∈ m, c.2 ≠ 0 := by
  induction m with
  | nil => simp [Memory.wf]
  | cons c r ih =>
    cases r with
    | nil => simp [Memory.wf]
    | cons d r =>
      simp only [Memory.wf, Bool.and_eq_true, bne_iff_ne, decide_eq_true_eq, ih, List.pairwise_cons, List.mem_cons, forall_eq_or_imp]
      constructor
      · rintro ⟨⟨h1, h2⟩, ⟨h3, h4⟩, h5, h6⟩
        exact ⟨⟨⟨h2, fun x hx => lt_trans h2 (h3 x hx)⟩, h3, h4⟩, h1, h5, h6⟩
      · rintro ⟨⟨⟨h2, -⟩, h3, h4⟩, h1, h5, h6⟩
        exact ⟨⟨h1, h2⟩, ⟨h3, h4⟩, h5, h6⟩

theorem mem_cells {a : Nat} {bs : List Byte} {c : Host.Cell} (h : c ∈ Mem.cells a bs) : a ≤ c.1 ∧ c.1 < a + bs.length ∧ c.2 ≠ 0 := by
  induction bs generalizing a with
  | nil => simp [Mem.cells] at h
  | cons b r ih =>
    simp only [Mem.cells] at h
    split at h
    · obtain ⟨h1, h2, h3⟩ := ih h
      exact ⟨by omega, by simp only [List.length_cons]; omega, h3⟩
    · next hb =>
      rcases List.mem_cons.mp h with rfl | h
      · exact ⟨le_rfl, by simp, hb⟩
      · obtain ⟨h1, h2, h3⟩ := ih h
        exact ⟨by omega, by simp only [List.length_cons]; omega, h3⟩

theorem wf_cells (a : Nat) (bs : List Byte) : Memory.wf (Mem.cells a bs) = true := by
  rw [wf_iff]
  refine ⟨?_, fun c h => (mem_cells h).2.2⟩
  induction bs generalizing a with
  | nil => simp [Mem.cells]
  | cons b r ih =>
    simp only [Mem.cells]
    split
    · exact ih _
    · refine List.pairwise_cons.mpr ⟨fun c h => ?_, ih _⟩
      have := mem_cells h
      omega

theorem wf_filter {m : Bytes} (h : Memory.wf m = true) (p : Host.Cell → Bool) : Memory.wf (m.filter p) = true := by
  rw [wf_iff] at h ⊢
  exact ⟨h.1.filter p, fun c hc => h.2 c (List.mem_of_mem_filter hc)⟩

/-- Writing a run keeps the canonical form. -/
theorem wf_write {m : Bytes} (h : Memory.wf m = true) (a : Nat) (bs : List Byte) : Memory.wf (Mem.write m a bs) = true := by
  have lo := (wf_iff _).mp (wf_filter h (fun c => decide (c.1 < a)))
  have hi := (wf_iff _).mp (wf_filter h (fun c => decide (a + bs.length ≤ c.1)))
  have mid := (wf_iff _).mp (wf_cells a bs)
  rw [wf_iff, Mem.write]
  constructor
  · rw [List.append_assoc, List.pairwise_append, List.pairwise_append]
    refine ⟨lo.1, ⟨mid.1, hi.1, ?_⟩, ?_⟩
    · intro x hx y hy
      have h1 := mem_cells hx
      have h2 := (List.mem_filter.mp hy).2
      simp only [decide_eq_true_eq] at h2
      omega
    · intro x hx y hy
      have h1 := (List.mem_filter.mp hx).2
      simp only [decide_eq_true_eq] at h1
      rcases List.mem_append.mp hy with hy | hy
      · have h2 := mem_cells hy; omega
      · have h2 := (List.mem_filter.mp hy).2
        simp only [decide_eq_true_eq] at h2; omega
  · intro c hc
    rcases List.mem_append.mp hc with hc | hc
    · rcases List.mem_append.mp hc with hc | hc
      · exact lo.2 c hc
      · exact mid.2 c hc
    · exact hi.2 c hc

theorem wf_put {m : Bytes} (h : Memory.wf m = true) (a : Nat) (b : Byte) : Memory.wf (Mem.put m a b) = true := by
  simp only [Mem.put, setD]
  split
  · exact wf_filter h _
  · next hb =>
    rw [wf_iff] at h ⊢
    obtain ⟨h1, h2⟩ := h
    have key : ∀ c ∈ set m a b, c = (a, b) ∨ c ∈ m := by
      intro c hc
      induction m with
      | nil => simpa [set] using hc
      | cons d r ih =>
        simp only [set] at hc
        have h1' := (List.pairwise_cons.mp h1).2
        split at hc
        · simpa using hc
        · split at hc
          · rcases List.mem_cons.mp hc with h | h <;> simp [h]
          · rcases List.mem_cons.mp hc with h | h
            · simp [h]
            · rcases ih h1' (fun c hc => h2 c (List.mem_cons_of_mem _ hc)) h with h | h <;> simp [h]
    refine ⟨?_, fun c hc => ?_⟩
    · induction m with
      | nil => simp [set]
      | cons d r ih =>
        obtain ⟨hd, hr⟩ := List.pairwise_cons.mp h1
        simp only [set]
        split
        · next hlt => exact List.pairwise_cons.mpr ⟨fun c hc => by rcases List.mem_cons.mp hc with rfl | hc
                                                                   · exact hlt
                                                                   · exact lt_trans hlt (hd c hc), h1⟩
        · split
          · next heq => exact List.pairwise_cons.mpr ⟨fun c hc => heq ▸ hd c hc, hr⟩
          · next h3 h4 =>
            have key' : ∀ c ∈ set r a b, c = (a, b) ∨ c ∈ r := by
              clear * -
              intro c hc
              induction r with
              | nil => simpa [set] using hc
              | cons e r ih =>
                simp only [set] at hc
                split at hc
                · simpa using hc
                · split at hc
                  · rcases List.mem_cons.mp hc with h | h <;> simp [h]
                  · rcases List.mem_cons.mp hc with h | h
                    · simp [h]
                    · rcases ih h with h | h <;> simp [h]
            refine List.pairwise_cons.mpr ⟨fun c hc => ?_, ih hr (fun c hc => h2 c (List.mem_cons_of_mem _ hc)) (fun c hc => key' c hc)⟩
            rcases key' c hc with rfl | hc
            · simp only; omega
            · exact hd c hc
    · rcases key c hc with rfl | hc
      · exact hb
      · exact h2 c hc

theorem read_put (m : Bytes) (a : Nat) (b : Byte) (x : Nat) : Mem.read (Mem.put m a b) x = if x = a then b else Mem.read m x := by
  by_cases h : x = a
  · subst h; rw [if_pos rfl]; exact get_setD_same _ _ _ _
  · rw [if_neg h]; exact get_setD_other _ _ _ h

/-- A poke keeps the canonical form. -/
theorem poke_canonical {s : State} (h : MemCanonical s) (pa : Nat) (bs : List Byte) : MemCanonical (s.poke pa bs) := wf_write h pa bs

/-- Memory after reset is in its canonical form. -/
theorem reset_canonical : MemCanonical State.reset := rfl

end Sys2Proof.Machine
end

