-- ==== Sys2Proof/Laws/Causes.lean ====
section
/-! SUPPORT. What a cause, a check list, a write-back and a word's issue can do. -/

namespace Sys2Proof.Machine

/-- The issuer's team is found under its key, and the issuer in its team. -/
theorem issuer_finds {s : State} {tk : Nat} {t : Team} {m : Member} (h : issuer s = some (tk, t, m)) :
    look s.teams tk = some t ∧ ∃ id, t.member id = some m := by
  unfold issuer at h
  split at h
  · cases h
  · split at h
    · cases h
    · simp only [Option.map_eq_some_iff, Prod.mk.injEq] at h
      obtain ⟨_, hm, rfl, rfl, rfl⟩ := h
      exact ⟨by assumption, _, hm⟩

/-- A word is a next state, or a fault for want of a member that issues: it never refuses. -/
theorem calud_cases (r : CRow) (entry : Ctx → Res) (w : CWord) (s : State) :
    (issuer s = none ∧ calud r entry w s = .fault .noIssuer) ∨
    ∃ tk t m, issuer s = some (tk, t, m) ∧ (calud r entry w s = .next s ∨
      calud r entry w s = .next (issue (ctxOf s tk t m r.op w) r entry)) := by
  unfold calud
  cases h : issuer s with
  | none => exact .inl ⟨rfl, rfl⟩
  | some x =>
    obtain ⟨tk, t, m⟩ := x
    refine .inr ⟨tk, t, m, rfl, ?_⟩
    simp only
    split
    · exact .inl rfl
    · exact .inr rfl

/-- Settling queues changes teams alone. -/
theorem settleQueues_rest (s : State) (tk mid : Nat) : { s.settleQueues tk mid with teams := s.teams } = s := by
  unfold State.settleQueues
  split
  · rfl
  · simp only
    split <;> rfl

/-- Settling queues writes no byte of memory. -/
@[simp] theorem settleQueues_mem (s : State) (tk mid : Nat) : (s.settleQueues tk mid).mem = s.mem :=
  show ({ s.settleQueues tk mid with teams := s.teams } : State).mem = s.mem from congrArg State.mem (settleQueues_rest s tk mid)

/-- A member with no result in a queue has nothing to settle. -/
theorem settleQueues_none {s : State} {tk mid : Nat} {t : Team} {m : Member} (ht : look s.teams tk = some t) (hm : t.member mid = some m)
    (h : ∀ q ∈ m.pend, q.queue = none) : s.settleQueues tk mid = s := by
  have hp : m.pend.all (fun q => q.queue.isNone) = true := List.all_eq_true.mpr (fun q hq => by simp [h q hq])
  simp [State.settleQueues, ht, hm, hp]

/-- A cause changes nothing, dooms the team, or enters the handler of the member. -/
theorem takeCauseAt_cases (s : State) (tk mid c arg : Nat) (epc : Word) :
    takeCauseAt s tk mid c arg epc = s ∨
    (∃ t m d, look s.teams tk = some t ∧ t.member mid = some m ∧ (t.gen.isSome || abandons t m c) = true ∧ d.cause = c ∧
      takeCauseAt s tk mid c arg epc = s.updTeam tk (fun t => { t with doom := some d })) ∨
    ∃ t m, look s.teams tk = some t ∧ t.member mid = some m ∧ (t.gen.isSome || abandons t m c) = false ∧
      takeCauseAt s tk mid c arg epc = (s.settleQueues tk mid).updMember tk mid (fun m => m.enter t.tvec c arg epc) := by
  unfold takeCauseAt
  cases h : look s.teams tk with
  | none => exact .inl rfl
  | some t =>
    cases h' : t.member mid with
    | none => simp only [h', true_or]
    | some m =>
      simp only [h']
      split
      · next hd => exact .inr (.inl ⟨t, m, _, rfl, h', hd, rfl, rfl⟩)
      · next hd => exact .inr (.inr ⟨t, m, rfl, h', by simpa using hd, rfl⟩)

/-- A cause writes no byte of memory. -/
@[simp] theorem takeCauseAt_mem (s : State) (tk mid c arg : Nat) (epc : Word) : (takeCauseAt s tk mid c arg epc).mem = s.mem := by
  obtain h | ⟨_, _, _, _, _, _, _, h⟩ | ⟨_, _, _, _, _, h⟩ := takeCauseAt_cases s tk mid c arg epc <;> rw [h]
  · rfl
  · exact settleQueues_mem ..

/-- A cause that a word takes writes no byte of memory. -/
@[simp] theorem takeCause_mem (s : State) (tk mid c arg : Nat) : (takeCause s tk mid c arg).mem = s.mem := by
  unfold takeCause
  split
  · rfl
  · exact takeCauseAt_mem ..

/-- Entry leaves a member's registers to its drain, and saves the PC, the cause and the partial-completion mask. -/
theorem enter_saves (m : Member) (tvec : Word) (c arg : Nat) (epc : Word) :
    (m.enter tvec c arg epc).pc = tvec ∧ (m.enter tvec c arg epc).trap.tepc = epc ∧
    (m.enter tvec c arg epc).trap.tcause = BitVec.ofNat 32 (arg * 0x10000 + c) ∧ (m.enter tvec c arg epc).trap.inh = true ∧
    (m.enter tvec c arg epc).trap.budget = 65536 := ⟨rfl, rfl, rfl, rfl, rfl⟩

/-- A list of checks none of which names a cause. -/
theorem firstCause_none {l : List (Option Nat)} (h : ∀ x ∈ l, x = none) : firstCause l = none := by
  unfold firstCause
  rw [List.findSome?_eq_none_iff]
  intro x hx
  simpa using h x hx

/-- A write-back of a team that holds no dirty entry does nothing. -/
theorem writeBackAll_clean (c : Ctx) (k : Ctx → Res) (h : c.t.clean = true) (ns : List Nat) : writeBackAll c k ns = k c := by
  induction ns with
  | nil => rfl
  | cons n r ih =>
    unfold writeBackAll
    cases ho : c.t.obj n with
    | none => exact ih
    | some o =>
      simp only [Team.clean, Bool.and_eq_true, decide_eq_true_eq] at h
      have hd := List.all_eq_true.mp h.2 o (List.mem_of_getElem? ho)
      have hb : (decide (o.kind = .stash) && c.t.backCells n o != []) = false := by
        by_cases hk : o.kind = .stash
        · have he : o.dirtyEntries = [] := by simpa [hk] using hd
          simp [Team.backCells, Obj.dirtyCells, he, h.1]
        · simp [hk]
      simp only [hb, Bool.false_eq_true, if_false]
      exact ih

end Sys2Proof.Machine
end

