-- ==== Sys2Proof/Laws/LineCore.lean ====
section
/-! SUPPORT. What a slot of a line core can do, said once: it halts the line core by the first check that fails, it waits, or
it acts in the state whose stream goes on at its next word; and what the order of line-store accesses leaves alone. -/

namespace Sys2Proof.Machine

/-- A slot that issues is a bundle of one slot. -/
theorem oneSlot_issues {k : Slot} {s : State} {b : BCtx} (h : SlotIssues s b) :
    oneSlot k s = .next (bundle s s b.n b.vec true true [k]) := by
  simp only [oneSlot, h.who, if_true]

/-- A slot alone shares no register with another slot. -/
theorem clash_one (k : Slot) : clash [k] = false := by simp [clash]

/-- Both guards let a slot alone act. -/
theorem Slot.guarded_true (k : Slot) : k.guarded true true = true := by
  simp only [Slot.guarded]; split <;> simp

/-- The causes of a slot alone, in the order of R371. -/
theorem bundleCause_one (b : BCtx) (k : Slot) : bundleCause b true true [k] =
    if k.bad b then some (0x01, k.num, 0, 0)
    else match (k.sems b).map (fun e => (e.1, k.num, e.2, 0)) with
      | some e => some e
      | none => (k.data b).map (fun e => (e.1, k.num, e.2.1, e.2.2)) := by
  cases h : k.bad b
  · simp [bundleCause, h, clash_one, Slot.guarded_true]
    all_goals cases k.sems b <;> cases k.data b <;> simp
  · simp [bundleCause, h]

/-- A slot whose checks pass and that is ready acts, once its wait has ordered its accesses. -/
theorem oneSlot_acts {k : Slot} {s : State} {b : BCtx} (h : SlotIssues s b) (h1 : k.bad b = false) (h2 : k.sems b = none)
    (h3 : k.data b = none) (h4 : k.ready b = .go) : oneSlot k s = .next (k.act b true (k.before b (s.slotNext b))) := by
  rw [oneSlot_issues h, bundle]
  simp only [← h.ctx, bundleCause_one, h1, h2, h3, h4, Slot.guarded_true, List.filter_cons, List.filter_nil, if_true, ite_self, List.map_cons,
    List.map_nil, List.find?_cons, List.find?_nil, Option.map_none, Bool.false_eq_true, if_false, ne_eq, not_true_eq_false, decide_false,
    Option.getD_none, List.foldl_cons, List.foldl_nil]
  rfl

/-- A slot that fails step 3 of R371 as its word reaches issue halts its line core with cause 0x01. -/
theorem oneSlot_bad {k : Slot} {s : State} {b : BCtx} (h : SlotIssues s b) (h0 : b.st.waiting = false) (h1 : k.bad b = true) :
    oneSlot k s = .next (haltLc s b.n 0x01 (partyOf b.vec) k.num 0 b.st.pc 0) := by
  rw [oneSlot_issues h, bundle]
  simp only [← h.ctx, h0, bundleCause_one, h1, Bool.false_eq_true, if_true, if_false]

/-- A slot that fails step 4 as its word reaches issue halts its line core with that step's cause. -/
theorem oneSlot_sems {k : Slot} {s : State} {b : BCtx} {c a : Nat} (h : SlotIssues s b) (h0 : b.st.waiting = false) (h1 : k.bad b = false)
    (h2 : k.sems b = some (c, a)) : oneSlot k s = .next (haltLc s b.n c (partyOf b.vec) k.num a b.st.pc 0) := by
  rw [oneSlot_issues h, bundle]
  simp only [← h.ctx, h0, bundleCause_one, h1, h2, Bool.false_eq_true, if_false, Option.map_some]

/-- A slot that fails step 5 as its word reaches issue halts its line core with that step's cause. -/
theorem oneSlot_data {k : Slot} {s : State} {b : BCtx} {c a e : Nat} (h : SlotIssues s b) (h0 : b.st.waiting = false) (h1 : k.bad b = false)
    (h2 : k.sems b = none) (h3 : k.data b = some (c, a, e)) :
    oneSlot k s = .next (haltLc s b.n c (partyOf b.vec) k.num a b.st.pc e) := by
  rw [oneSlot_issues h, bundle]
  simp only [← h.ctx, h0, bundleCause_one, h1, h2, h3, Bool.false_eq_true, if_false, Option.map_some, Option.map_none]

/-- A Q slot whose checks pass and that cannot issue waits, waits on a semaphore, or halts its line core. -/
theorem oneSlot_stays {k : Slot} {s : State} {b : BCtx} {r : Ready} (h : SlotIssues s b) (h1 : k.bad b = false) (h2 : k.sems b = none)
    (h3 : k.data b = none) (h4 : k.ready b = r) (h5 : r ≠ .go) : oneSlot k s = .next (match r with
      | .wait => s.setWaiting b.n b.vec true
      | .sem sm => (s.updLc b.n (fun c => c.awaits (partyOf b.vec) sm)).setWaiting b.n b.vec true
      | .cause c a => haltLc s b.n c (partyOf b.vec) 6 a b.st.pc 0
      | .go => s) := by
  rw [oneSlot_issues h, bundle]
  simp only [← h.ctx, bundleCause_one, h1, h2, h3, h4, Slot.guarded_true, List.filter_cons, List.filter_nil, if_true, ite_self, List.map_cons,
    List.map_nil, List.find?_cons, Option.map_none, Bool.false_eq_true, if_false, ne_eq, h5, not_false_eq_true, decide_true,
    Option.getD_some]
  cases r <;> first | rfl | exact absurd rfl h5

/-- A patch word whose stream issues performs its own effect. -/
theorem patch_issues {f : Nat → Bool → LStream → State → State} {s : State} {b : BCtx} (h : SlotIssues s b) :
    patch f s = .next (f b.n b.vec b.st s) := by
  have hb : (s.lc b.n).stream b.vec = b.st := by rw [h.ctx]; rfl
  simp only [patch, h.who, if_true, hb]

/-! ### The order of line-store accesses (R400) -/

/-- An order between parties changes the record of racing writes and nothing else of the line core. -/
theorem LineCore.orderedAfter_only (c : LineCore) (party : Nat) (p : LRace → Bool) :
    ∃ r, c.orderedAfter party p = { c with races := r } := by
  unfold LineCore.orderedAfter; split
  · exact ⟨_, rfl⟩
  · exact ⟨c.races, rfl⟩

/-- A unit consumed leaves the line store as it was. -/
@[simp] theorem LineCore.consumed_ls (c : LineCore) (party sm : Nat) : (c.consumed party sm).ls = c.ls := by
  obtain ⟨r, h⟩ := c.orderedAfter_only party (fun r => r.sems.contains sm)
  rw [LineCore.consumed, h]

/-- Full tiles that are seen leave the line store as it was. -/
@[simp] theorem LineCore.sawFull_ls (c : LineCore) (party : Nat) (ts : List Nat) : (c.sawFull party ts).ls = c.ls := by
  obtain ⟨r, h⟩ := c.orderedAfter_only party (fun r => r.tiles.any (fun t => ts.contains t))
  rw [LineCore.sawFull, h]

/-- Byte runs that no unordered write meets are read as they stand, and draw no free value. -/
theorem LineCore.readRuns_unraced (c : LineCore) (party : Nat) (rows : List (Nat × Nat)) (h : ∀ r ∈ rows, c.raced party r = false) :
    (∀ free, c.readRuns free party rows = rows.flatMap (fun r => Mem.readN c.ls r.1 r.2)) ∧ c.draws party rows = 0 := by
  constructor
  · induction rows with
    | nil => intro free; rfl
    | cons r l ih =>
      intro free
      simp only [List.mem_cons, forall_eq_or_imp] at h
      simp [LineCore.readRuns, LineCore.readRun, h.1, ih h.2]
  · simp only [LineCore.draws]
    rw [if_neg]
    simpa using h

end Sys2Proof.Machine
end

