-- ==== Sys2Proof/Laws/Packets.lean ====
section
/-! SUPPORT. What the issue of a packet can do, said once: it issues with its effect, or its queue halts with an error, or it
waits. -/

namespace Sys2Proof.Machine

/-- A queue that nothing destroys stays. -/
theorem finishQueue_stays {s : State} {q : Nat} (h : (s.queue q).closing = none) : finishQueue s q = s := by
  simp only [finishQueue, h]

/-- A packet that has issued, on a queue that stays. -/
theorem issued_stays {p : Packet} {s : State} (fin : Bool) (h : (s.queue p.queue).closing = none) : issued p fin s = s.issues p fin := by
  rw [issued]
  exact finishQueue_stays (by rw [setQueue_queue]; exact h)

/-- The checks of a packet that its queue may issue all pass. -/
theorem runPacket_admits {typ : Nat} {p : Packet} {s : State} (h : Admits typ p s) (eff : Packet → State → PEnd) :
    runPacket p eff s = match eff p s with
      | .refuse s' code cause => queueError s' p.queue code cause
      | .done s' => issued p true s'
      | .later s' => issued p false s'
      | .wait => s := by
  simp only [runPacket, h.enabled, h.runs, h.checks, h.context, Bool.not_true, Bool.or_self, Bool.false_eq_true, if_false]
  all_goals cases eff p s <;> rfl

/-- A packet whose effect is done has issued and completed. -/
theorem runPacket_done {typ : Nat} {p : Packet} {s s' : State} {eff : Packet → State → PEnd} (h : Admits typ p s)
    (e : eff p s = .done s') (hq : (s'.queue p.queue).closing = none) : runPacket p eff s = s'.issues p true := by
  rw [runPacket_admits h, e]; exact issued_stays true hq

/-- A packet whose effect lasts has issued. -/
theorem runPacket_later {typ : Nat} {p : Packet} {s s' : State} {eff : Packet → State → PEnd} (h : Admits typ p s)
    (e : eff p s = .later s') (hq : (s'.queue p.queue).closing = none) : runPacket p eff s = s'.issues p false := by
  rw [runPacket_admits h, e]; exact issued_stays false hq

/-- A refused packet halts its queue. -/
theorem runPacket_refused {typ : Nat} {p : Packet} {s s' : State} {eff : Packet → State → PEnd} {code cause : Nat} (h : Admits typ p s)
    (e : eff p s = .refuse s' code cause) : runPacket p eff s = queueError s' p.queue code cause := by
  rw [runPacket_admits h, e]

/-- A packet that fails a check halts its queue. -/
theorem runPacket_checked {p : Packet} {s : State} {code : Nat} (eff : Packet → State → PEnd) (h1 : (s.queue p.queue).en = true)
    (h2 : (s.queue p.queue).halt = false) (h3 : checkPacket s p = some code) : runPacket p eff s = queueError s p.queue code 0 := by
  simp only [runPacket, h1, h2, h3, Bool.not_true, Bool.or_self, Bool.false_eq_true, if_false]

end Sys2Proof.Machine
end

