-- ==== Sys2Proof/Tests/Slice0.lean ====
section
/-! SUPPORT. Tests: ill-formed terms that WellFormed refuses, words decoded from the spec's encodings, single steps on
small states with the results that the spec gives, and, for each statement with hypotheses, a state and operands that meet them. -/

open Sys2Proof Sys2Proof.Machine

namespace Sys2Proof.Tests

set_option Elab.async false

/-! ### Small states and words -/

/-- The common fields of a word: always executed, no tag, PD = 0. -/
def always : Common := { gn := false, g := 63, y := false, ru := false, tw := 0, ta := 7, pd := 0 }
/-- A word of format R: M, C, B, A, D. -/
def fr (m : BitVec 16) (c b a d : BitVec 8) : CWord := { common := always, body := .r d a b c m }
/-- A lane with values in v1 to v4, and p0 set. -/
def lane (tid : Word) (v1 v2 v3 v4 : Word) : Lane := { tid := tid, v := [(1, v1), (2, v2), (3, v3), (4, v4)], p := 1, flags := 0, rng := 1 }
/-- A group of two lanes. -/
def group (a b : Lane) : Member :=
  { id := 0, slot := 0, role := 0, arrival := none, lanes := [(0, a), (1, b)], pc := 5, s := [(1, 100), (2, 3)], d := [], cb := [], tags := 0,
    latch := none, windows := [], pend := [], pcmask := 0, cont := none, trap := Trap.zero, weir := none, park := none,
    wait := .none, queued := none, due := none, ready := 0, issued := 0, words := 0, aged := false }
/-- What its team declares. -/
def spec0 : Spec :=
  { passKey := 0, adopt := false, keep := false, gen := false, flat := false, half := false, sres := 0, prio := 0, weir := 7,
    pclass := 0, tile := 0, vq := 0, loops := [{ start := 0, limit := 1, step := 1 }], order := [0], cw := 1, ch := 1, acc := 8, preds := 48,
    sregs := 128, roles := [{ entry := 0, groups := 1, regs := 256 }], carve := [], recs := [], code := 0 }
/-- Its team. -/
def team (m : Member) : Team :=
  { ctx := 1, part := 0, launch := none, task := 0, retry := 0,
    seat := { core := 0, vcore := 0, bank := 0, cluster := 0, run := 0, placed := 0, rising := false, charge := 0 }, spec := spec0, prio := 0,
    members := [m], fresh := 1, bins := [], tokens := [], tiles := [], units := [], objs := [], flushes := [], rels := [], arriving := none, ver := startVersion 0,
    hold := 0, tres := 0, tdata := [], tilecfg := 0, drop := 0, arrivals := [], arrmiss := 0, fpenable := 0, tvec := 0xFFFFFFFF,
    prc := false, shapes := [], arrived := [], gen := none, doom := none, saved := false }
/-- A state in which a team's only member has its turn. -/
def turn (t : Team) : State := { State.reset with teams := [(1, t)], freshTeam := 2, cur := some (1, 0) }
/-- A state in which a group of two lanes has its turn. -/
def st (a b : Lane) : State := turn (team (group a b))
/-- The next state of an outcome. -/
def after (x : Host.Outcome State Fault Refusal) : Option State := match x with
  | .next s => some s
  | _ => none
/-- The member after an outcome. -/
def member (x : Host.Outcome State Fault Refusal) : Option Member := (after x).bind (fun s => s.memberAt 1 0)
/-- What a place of the member reads after an outcome. -/
def reads (x : Host.Outcome State Fault Refusal) (p : Place) : Option Nat := (member x).map (fun m => m.file p)

/-- A state whose member's word has two lanes of plain values. -/
def s0 : State := st (lane 0 7 5 1 2) (lane 1 0xFFFFFFFF 2 3 4)

/-- A word of format I. -/
def fi (d a : BitVec 8) (imm : BitVec 32) : CWord := { common := always, body := .i d a imm }
/-- A word of format B. -/
def fb (d a : BitVec 8) (off : BitVec 32) : CWord := { common := always, body := .b d a off }
/-- A word of format E that consumes no token. -/
def fe (d : BitVec 6) (a b : BitVec 8) (sub : BitVec 2) : CWord := { common := always, body := .e d a b none none none false sub }

/-! ### Witnesses -/

/-- A word of a row issues in a state, and what it sees has a property. -/
def meets (r : CRow) (w : CWord) (s : State) (p : Ctx → Bool) : Bool :=
  match issuer s with
  | none => false
  | some (tk, t, m) =>
    let c := ctxOf s tk t m r.op w
    !held s t m && !bankHeld s t m && !tagBlocked m w && !c.unitBusy && r.legal w && !c.unitFails && !neverGuard w && decide (c.act ≠ []) &&
      (c.earlyCause r).isNone && !c.overCharge && (r.uniform w || c.others (maskOf c.act) == 0) && p c

/-- What `meets` evaluates is the hypothesis of a statement about a word. -/
theorem witness {r : CRow} {w : CWord} {s : State} {P : Ctx → Prop} [DecidablePred P]
    (h : meets r w s (fun c => decide (P c)) = true) : ∃ c, Issues r w s c ∧ P c := by
  unfold meets at h
  cases hi : issuer s with
  | none => simp [hi] at h
  | some x =>
    obtain ⟨tk, t, m⟩ := x
    simp only [hi, Bool.and_eq_true, Bool.not_eq_true', decide_eq_true_eq, Option.isNone_iff_eq_none] at h
    obtain ⟨⟨⟨⟨⟨⟨⟨⟨⟨⟨⟨h1, h2⟩, h3⟩, h4⟩, h5⟩, h0⟩, h6⟩, h7⟩, h8⟩, h9⟩, h10⟩, h11⟩ := h
    have a : Attempts r w s (ctxOf s tk t m r.op w) := ⟨hi, rfl, h1, h2, h3, h4⟩
    exact ⟨ctxOf s tk t m r.op w, ⟨⟨a, h5, h0, h6, h7, h8, h10⟩, h9⟩, h11⟩

/-- A member's turn, and no wait of its own: what `meets` asks before any check. -/
def tries (r : CRow) (w : CWord) (s : State) (p : Ctx → Bool) : Bool :=
  match issuer s with
  | none => false
  | some (tk, t, m) =>
    let c := ctxOf s tk t m r.op w
    !held s t m && !bankHeld s t m && !tagBlocked m w && !c.unitBusy && p c

/-- What `tries` evaluates is the hypothesis of a statement about an attempt. -/
theorem attempt {r : CRow} {w : CWord} {s : State} {P : Ctx → Prop} [DecidablePred P]
    (h : tries r w s (fun c => decide (P c)) = true) : ∃ c, Attempts r w s c ∧ P c := by
  unfold tries at h
  cases hi : issuer s with
  | none => simp [hi] at h
  | some x =>
    obtain ⟨tk, t, m⟩ := x
    simp only [hi, Bool.and_eq_true, Bool.not_eq_true', decide_eq_true_eq] at h
    obtain ⟨⟨⟨⟨h1, h2⟩, h3⟩, h4⟩, h5⟩ := h
    exact ⟨ctxOf s tk t m r.op w, ⟨hi, rfl, h1, h2, h3, h4⟩, h5⟩

/-- Each word of a list issues in a state. -/
def Issue (s : State) (l : List (Nat × CWord)) : Prop := ∀ e ∈ l, ∃ c, Issues (rowAt e.1) e.2 s c

/-- What decides it. -/
theorem issue_of {s : State} {l : List (Nat × CWord)} (h : l.all (fun e => meets (rowAt e.1) e.2 s (fun _ => true)) = true) :
    Issue s l := by
  intro e he
  obtain ⟨c, hc, _⟩ := witness (P := fun _ => True) (by simpa using List.all_eq_true.mp h e he)
  exact ⟨c, hc⟩

theorem wit_IntegerShiftAndBitWords : Issue s0
    [(0x040, fr 2 0 2 1 9), (0x041, fr 2 0 2 1 9), (0x042, fr 2 0 2 1 9), (0x043, fr 2 0 2 1 9), (0x044, fr 2 3 2 1 9),
     (0x045, fr 2 0 2 1 9), (0x046, fr 2 0 2 1 9), (0x047, fr 2 0 0 1 9), (0x048, fr 2 0 2 1 9), (0x049, fr 2 0 2 1 9),
     (0x04A, fr 10 3 2 1 9), (0x04B, fr 2 3 2 1 9), (0x04C, fr 10 3 2 1 9), (0x04D, fr 10 0 0 1 9), (0x04E, fr 10 0 0 1 9),
     (0x04F, fr 10 0 0 1 9), (0x050, fr 0 3 2 1 9)] := issue_of (by decide +kernel)

theorem wit_CompareSelectMoveAndPredicateWords : Issue s0
    [(0x051, fr 2 0 2 1 9), (0x052, fr 10 3 2 1 9), (0x053, fr 10 0 0 1 9), (0x054, fi 9 0 5), (0x055, fi 9 0 5), (0x008, fr 0 3 2 1 9),
     (0x009, fr 0 0 0 1 9), (0x00A, fr 0 0 0 1 9)] := issue_of (by decide +kernel)

theorem wit_CrossLaneWordsCombineTheActiveLanes : Issue s0
    [(0x010, fr 0 0 2 1 9), (0x011, fr 0 0 2 1 9), (0x012, fr 0 0 2 1 9), (0x013, fr 0 0 2 1 9), (0x014, fr 0 0 0 1 9),
     (0x015, fr 2 0 0 1 9), (0x016, fr 2 0 0 1 9)] := issue_of (by decide +kernel)

theorem wit_FloatWordsRoundTheExactResultOnce : Issue s0
    [(0x0C0, fr 16 0 2 1 9), (0x0C1, fr 16 0 2 1 9), (0x0C2, fr 16 0 2 1 9), (0x0C3, fr 16 3 2 1 9), (0x0C4, fr 16 0 2 1 9),
     (0x0C5, fr 16 0 2 1 9), (0x0C6, fr 16 0 2 1 9), (0x0C7, fr 16 0 0 1 9)] := issue_of (by decide +kernel)

theorem wit_PackedAndConversionWordsActByElement : Issue s0
    [(0x0C8, fr 17 0 2 1 9), (0x0C9, fr 17 0 2 1 9), (0x0CA, fr 17 3 2 1 9), (0x0CB, fr 0 0 0 1 9), (0x0CC, fr 19 0 2 1 9),
     (0x0CD, fr 19 0 2 1 9)] := issue_of (by decide +kernel)

theorem wit_DotCodebookAndSpecialFunctionWords : Issue s0
    [(0x0CE, fr 1 3 2 1 9), (0x0CF, fr 0 3 2 1 9), (0x0D0, fr 23 3 2 1 9), (0x0D1, fr 19 3 2 1 9), (0x0D2, fr 0 0 2 1 0),
     (0x0D3, fr 0 0 0 1 9), (0x140, fr 16 0 0 1 9), (0x141, fr 16 0 0 1 9), (0x142, fr 16 0 0 1 9), (0x143, fr 16 0 0 1 9),
     (0x144, fr 16 0 0 1 9), (0x145, fr 16 0 0 1 9), (0x146, fr 16 0 0 1 9), (0x147, fr 16 0 0 1 9)] := issue_of (by decide +kernel)

/-- A state in which the team's second group of one lane goes on. -/
def s2 : State := turn { team (group (lane 0 7 5 1 2) (lane 1 6 2 3 4)) with
  members := [group (lane 0 7 5 1 2) (lane 1 6 2 3 4), { group (lane 0 1 1 1 1) (lane 1 1 1 1 1) with id := 1, slot := 1 }], fresh := 2 }
/-- The same, with the second group at cluster barrier 3. -/
def s3 : State := turn { team (group (lane 0 7 5 1 2) (lane 1 6 2 3 4)) with
  members := [group (lane 0 7 5 1 2) (lane 1 6 2 3 4),
    { group (lane 0 1 1 1 1) (lane 1 1 1 1 1) with id := 1, slot := 1, wait := .barrier true 3 }], fresh := 2 }

theorem wit_ControlFlowWordsAndTheLastExit :
    Issue s0 [(0x000, fr 0 0 0 0 0), (0x001, fb 0 0 5), (0x002, fb 0 1 5), (0x003, fb 9 0 5), (0x004, fr 0 0 0 1 0), (0x006, fr 0 0 0 0 0)] :=
  issue_of (by decide +kernel)
theorem wit_ExitOfOneGroup : ∃ c, Issues (rowAt 0x007) (fr 0 0 0 0 0) s2 c ∧ c.ended.idle = false ∧ c.ended.lastArrival = none :=
  witness (by decide +kernel)
theorem wit_ExitOfTheTeam : ∃ c, Issues (rowAt 0x007) (fr 0 0 0 0 0) s0 c ∧ c.ended.idle = true ∧ c.t.clean = true :=
  witness (by decide +kernel)

/-- The conditions of a word with a role, as evaluation decides them. -/
abbrev passing (c : Ctx) (sc : Nat) (rel : Bool) : Prop :=
  c.m.wait = .none ∧ (rel && c.screensOut) = false ∧
    (!rel || decide (sc < 2) || c.t.clean) = true ∧ (!rel || decide (sc < 2) || commitFits c.s c.tk c.t) = true
theorem passes_of {c : Ctx} {sc : Nat} {rel : Bool} (h : passing c sc rel) : Passes c sc rel := ⟨h.1, h.2.1, h.2.2.1, h.2.2.2⟩

theorem wit_ExitThatArrives : ∃ c, Issues (rowAt 0x007) (fr 0 0 0 0 0) s3 c ∧ (c.ended.idle = false ∧ c.ended.lastArrival = some 3 ∧ passing c 2 true) :=
  witness (by decide +kernel)

/-- A member is changed in a state. -/
def chg (s : State) (f : Member → Member) : State := s.updMember 1 0 f
/-- The team is changed in a state. -/
def chgT (s : State) (f : Team → Team) : State := s.updTeam 1 f
/-- An open weir of level 2 and limit 40. -/
def weir2 : Weir := { level := 2, limit := 40, weights := [1, 2, 3, 4, 5, 6, 7, 8], window := [], regrant := none }
/-- The member is in a handler that resumes at word 9. -/
def inTrap (m : Member) : Member := { m with trap := { Trap.zero with inh := true, tepc := 9, budget := 65536 } }
/-- A family of two members, the other one at its REFORM.join or not. -/
def s4 (w : Wait) : State := turn { team (group (lane 0 7 5 1 2) (lane 1 6 2 3 4)) with
  members := [{ group (lane 0 7 5 1 2) (lane 1 6 2 3 4) with lanes := [(0, lane 0 7 5 1 2)] },
    { group (lane 0 1 1 1 1) (lane 1 1 1 1 1) with id := 1, lanes := [(1, lane 1 6 2 3 4)], wait := w }], fresh := 2 }
/-- REFORM.join. -/
def join : CWord := fr 1024 0 0 0 0

theorem wit_ReformFiles : ∃ c, Issues (rowAt 0x005) (fr 0 0 0 0 0) s0 c ∧ (c.m.weir = none ∧ c.m.settled.tags = 0 ∧ c.m.trap.inh = false) :=
  witness (by decide +kernel)
theorem wit_ReformInAHandler : ∃ c, Issues (rowAt 0x005) (fr 0 0 0 0 0) (chg s0 inTrap) c ∧
    (c.m.weir = none ∧ c.m.settled.tags = 0 ∧ c.m.trap.inh = true) := witness (by decide +kernel)
theorem wit_ReformUnderAWeir : ∃ c, Issues (rowAt 0x005) (fr 0 0 0 0 0) (chg s0 (fun m => { m with weir := some weir2 })) c ∧ c.m.weir ≠ none :=
  witness (by decide +kernel)
theorem wit_ReformWaitsForATag : ∃ c, Issues (rowAt 0x005) (fr 0 0 0 0 0) (chg s0 (fun m => { m with tags := 1 })) c ∧
    (c.m.weir = none ∧ c.m.settled.tags ≠ 0) := witness (by decide +kernel)
theorem wit_JoinWaitsForATag : ∃ c, Issues rowReformJoin join (chg (s4 .join) (fun m => { m with tags := 1 })) c ∧ c.m.settled.tags ≠ 0 :=
  witness (by decide +kernel)
theorem wit_JoinMerges : ∃ c, Issues rowReformJoin join (s4 .join) c ∧ (c.m.settled.tags = 0 ∧ c.m.trap.inh = false ∧
    (∀ x : Member, x ∈ c.t.members → x.slot = c.m.slot → x.id ≠ c.m.id → x.wait = .join ∧ x.trap.inh = false) ∧
    (if c.m.again then 0 else c.millWeight) + c.siblings.length * ((c.s.reach (reachOf c.t.seat.core)).weights.toNat % 256) ≤
      (c.s.reach (reachOf c.t.seat.core)).level) := witness (by decide +kernel)
theorem wit_JoinWaitsForItsMillpond : ∃ c, Issues rowReformJoin join { s4 .join with reaches := [(0, { Reach.zero with level := 1, weights := 1 })] } c ∧
    (c.m.settled.tags = 0 ∧ c.m.trap.inh = false ∧
    (∀ x : Member, x ∈ c.t.members → x.slot = c.m.slot → x.id ≠ c.m.id → x.wait = .join ∧ x.trap.inh = false) ∧
    (c.s.reach (reachOf c.t.seat.core)).level < (if c.m.again then 0 else c.millWeight) +
      c.siblings.length * ((c.s.reach (reachOf c.t.seat.core)).weights.toNat % 256)) := witness (by decide +kernel)
theorem wit_JoinInAHandler : ∃ c, Issues rowReformJoin join (chg s0 inTrap) c ∧
    (c.m.settled.tags = 0 ∧ c.m.trap.inh = true) := witness (by decide +kernel)
theorem wit_JoinWaits : ∃ c, Issues rowReformJoin join (s4 .none) c ∧ (c.m.settled.tags = 0 ∧ c.m.trap.inh = false ∧
    ∃ x ∈ c.t.members, x.slot = c.m.slot ∧ x.id ≠ c.m.id ∧ (x.wait ≠ .join ∨ x.trap.inh = true)) := witness (by decide +kernel)

/-- A record of `ext` bytes at `base`, with the bits of its top word. -/
def record (base ext : Nat) (top : List Nat) : Rec := BitVec.ofNat 256 (base + ext * 2 ^ 64 + (top.map (2 ^ ·)).sum)
/-- A readable and writable record. -/
def rw : Rec := record 0x20000 256 [234, 235]
/-- A local-store object of 256 bytes. -/
def obj (k : ObjKind) (st : BufState) : Obj :=
  { kind := k, bytes := 256, data := [(0, 9), (4, 7)], st := st, land := true, pendw := 0, pendr := 0, recd := rw, offset := 0, entries := [],
    dfull := true, fulls := [] }
/-- The group with registers for memory words: d1, and v0 = 0. -/
def objs : List Obj := [obj .buffer .empty, obj .buffer .filling, obj .buffer .full, obj .buffer .draining, obj .sync .empty, obj .stash .empty,
  { obj .sync .empty with dfull := false }, { obj .stash .empty with entries := [(0, { st := .valid, dirty := BitVec.ofNat 128 1 })] }]
/-- A team with local store, its first GiB of virtual memory mapped to itself, and a readable and writable record in d1. -/
def sm : State := placeTable { turn { team { group (lane 0 0 4 1 2) (lane 1 8 4 3 4) with d := [(1, rw)] } with objs := objs, tvec := 99 } with
  ctxs := [(1, placeCtx)], tlb := [{ die := 0, core := none, ctx := 1, va := 0, size := 2 ^ 30, leaf := 0x1F, leafPa := 0x12000 }] }

/-- The conditions of a memory word that performs in every lane, as evaluation decides them. -/
abbrev performing (c : Ctx) (a : MemAsk) : Prop :=
  (recV a.r && c.t.ver.waiting && a.lanes.any (fun l => l.vas != [])) = false ∧
  a.lanes.all (laneOk (reachLines c.s c.t (wantOf c.t a) a.lanes).2.tr) = true ∧
  transCause (reachLines c.s c.t (wantOf c.t a) a.lanes).2.tr = none ∧
  linesHeld (reachLines c.s c.t (wantOf c.t a) a.lanes).1 c.t (reachLines c.s c.t (wantOf c.t a) a.lanes).2.tr = false ∧
  (if recV a.r && !recI a.r || recV a.r && a.need.writes
    then versionWord (reachLines c.s c.t (wantOf c.t a) a.lanes).1 c.tk c.t c.m (reachLines c.s c.t (wantOf c.t a) a.lanes).2.tr a.need.writes a.lanes
    else ((reachLines c.s c.t (wantOf c.t a) a.lanes).1, none)).2 = none
theorem performs_of {c : Ctx} {a : MemAsk} (h : performing c a) : ∃ s1 tr, Performs c a s1 tr :=
  ⟨_, _, { open_ := h.1, lines := rfl, every := h.2.1, noCause := h.2.2.1, path := h.2.2.2.1,
           marks := ⟨_, Prod.ext rfl h.2.2.2.2, rfl⟩ }⟩

/-- The object that a word names is of a kind and in a state. -/
abbrev names (c : Ctx) (k : ObjKind) (st : List BufState) : Prop := (c.t.obj (fA c.w)).any (fun o => o.kind = k && st.contains o.st) = true

theorem wit_LocalStoreLoads : (∃ c, Issues (rowAt 0x160) (fr 10 0 1 1 9) sm c ∧ (names c .buffer [.filling, .full, .draining] ∧
      (c.t.obj (fA c.w)).map (fun o => lsChecks o 4 (c.dLanes.map c.lsOff)) = some none)) ∧
    (∃ c, Issues (rowAt 0x160) (fr 10 0 1 4 9) sm c ∧ (names c .sync [.empty] ∧
      (c.t.obj (fA c.w)).map (fun o => lsChecks o 4 (c.dLanes.map c.lsOff)) = some none)) :=
  ⟨witness (by decide +kernel), witness (by decide +kernel)⟩
theorem wit_StashLoads : ∃ c, Issues (rowAt 0x160) (fr 10 0 1 5 9) sm c ∧ (names c .stash [.empty] ∧
    (c.t.obj (fA c.w)).map (fun o => (lsChecks o 4 (c.dLanes.map c.lsOff), stashChecks o false 4 (c.dLanes.map c.lsOff))) = some (none, none) ∧
    performing c { r := rw, kind := 8, need := .read, requester := true, lanes := c.dLanes.map (fun l =>
      { lane := l, vas := ((obj .stash .empty).fillBytes (c.lsOff l / 128)).map (fun x => recVa rw x) }), back := true }) := witness (by decide +kernel)
theorem wit_LocalStoreStores : (∃ c, Issues (rowAt 0x161) (fr 10 3 1 1 0) sm c ∧ (names c .buffer [.filling] ∧
      (c.t.obj (fA c.w)).map (fun o => lsChecks o 4 (c.act.map c.lsOff)) = some none)) ∧
    (∃ c, Issues (rowAt 0x161) (fr 10 3 1 5 0) sm c ∧ (names c .stash [.empty] ∧
      (c.t.obj (fA c.w)).map (fun o => (lsChecks o 4 (c.act.map c.lsOff), stashChecks o true 4 (c.act.map c.lsOff))) = some (none, none))) :=
  ⟨witness (by decide +kernel), witness (by decide +kernel)⟩
theorem wit_SyncWords : (∃ c, Issues (rowAt 0x162) (fr 10 0 1 4 9) sm c ∧ (c.t.obj (fA c.w)).map (fun o => (o.kind,
      lsChecks o 4 (c.act.map c.lsOff), (serveLanes true (fun o i => c.objTurn (fun q => o.isFull i == (q.op == 0x162)) i) c.lsOff (fun l => c.v l (fC c.w)) o c.act).2.length)) = some (.sync, none, 2)) ∧
    (∃ c, Issues (rowAt 0x163) (fr 10 3 1 6 0) sm c ∧ (c.t.obj (fA c.w)).map (fun o => (o.kind,
      lsChecks o 4 (c.act.map c.lsOff), (serveLanes false (fun o i => c.objTurn (fun q => o.isFull i == (q.op == 0x162)) i) c.lsOff (fun l => c.v l (fC c.w)) o c.act).2.length)) = some (.sync, none, 2)) :=
  ⟨witness (by decide +kernel), witness (by decide +kernel)⟩
theorem wit_SyncWordOfEitherState : (obj .sync .empty).isFull 1 = true ∧ { obj .sync .empty with dfull := false }.isFull 1 = false := by
  decide +kernel
/-- A buffer word names a buffer in a state, at its turn. -/
abbrev moving (c : Ctx) (st : List BufState) : Prop :=
  names c .buffer st ∧ (c.t.obj (fA c.w)).all (fun o => c.objTurn (movesNow o) 0) = true
theorem wit_BufferStashAndArrivalWords :
    (∃ c, Issues (rowAt 0x164) (fr 0 0 0 0 0) sm c ∧ moving c [.empty]) ∧
    (∃ c, Issues (rowAt 0x165) (fr 0 0 0 1 0) sm c ∧ (moving c [.filling] ∧ (c.t.obj (fA c.w)).all (fun o => o.pendw = 0) = true)) ∧
    (∃ c, Issues (rowAt 0x166) (fr 0 0 0 2 0) sm c ∧ moving c [.full]) ∧
    (∃ c, Issues (rowAt 0x166) (fr 0 0 0 3 0) sm c ∧ moving c [.draining]) ∧
    (∃ c, Issues (rowAt 0x167) (fr 0 0 0 0 0) sm c ∧ moving c [.empty]) ∧
    (∃ c, Issues (rowAt 0x167) (fr 0 0 0 1 0) sm c ∧ (moving c [.filling] ∧ (c.t.obj (fA c.w)).all (fun o => o.pendw = 0) = true)) ∧
    (∃ c, Issues (rowAt 0x167) (fr 0 0 0 3 0) sm c ∧ (moving c [.draining] ∧ (c.t.obj (fA c.w)).all (fun o => o.pendr = 0) = true)) ∧
    (∃ c, Issues (rowAt 0x168) (fr 0 0 0 5 9) sm c ∧ names c .stash [.empty]) ∧
    (∃ c, Issues (rowAt 0x169) (fr 0 0 0 5 0) sm c ∧ (c.m.again = false ∧ (c.t.obj (fA c.w)).any (fun o => o.dirtyEntries = []) = true)) ∧
    (∃ c, Issues (rowAt 0x16A) (fr 0 0 0 5 0) sm c ∧ (c.m.again = false ∧ (c.t.obj (fA c.w)).any (fun o => o.entries.all (fun e => e.2.dirty = 0)) = true)) ∧
    Issue sm [(0x16B, fr 0 0 2 1 0)] :=
  ⟨witness (by decide +kernel), witness (by decide +kernel), witness (by decide +kernel), witness (by decide +kernel), witness (by decide +kernel),
    witness (by decide +kernel), witness (by decide +kernel), witness (by decide +kernel), witness (by decide +kernel), witness (by decide +kernel),
    issue_of (by decide +kernel)⟩
/-- A window whose dirty bytes a word has taken. -/
abbrev snapped (c : Ctx) (emptied : Obj → Obj) : State :=
  c.s.updTeam c.tk (fun t => match c.t.obj (fA c.w) with
    | some o => { t with
        objs := t.objs.set (fA c.w) (emptied o)
        flushes := [{ mem := c.m.id, handler := c.m.trap.inh, obj := fA c.w, cells := o.dirtyCells }] }
    | none => t)
/-- What a write-back finds: dirty bytes, no snapshot of an earlier attempt, and accesses that perform. -/
abbrev writesBack (c : Ctx) (emptied : Obj → Obj) : Prop :=
  names c .stash [.empty] ∧ (c.t.obj (fA c.w)).any (fun o => o.dirtyEntries ≠ []) = true ∧ c.m.again = false ∧
    (look (snapped c emptied).teams c.tk).any (fun t => performing { c with s := snapped c emptied, t := t }
      { r := rw, kind := 9, need := .write, requester := false, lanes := [{ lane := 0, vas := [recVa rw 0] }], back := true }) = true
theorem wit_StashFlush :
    (∃ c, Issues (rowAt 0x169) (fr 0 0 0 7 0) sm c ∧ writesBack c (fun o => o.dirtyEntries.foldl (fun o i => o.cleaned i) o)) ∧
    ∃ c, Issues (rowAt 0x16A) (fr 0 0 0 7 0) sm c ∧ writesBack c (fun o => { o with entries := [] }) :=
  ⟨witness (by decide +kernel), witness (by decide +kernel)⟩

/-- A record for elements of four bytes. -/
def rw4 : Rec := record 0x20000 256 [234, 235, 242]
/-- The same state with that record. -/
def smE : State := chg sm (fun m => { m with d := [(1, rw4)] })

theorem wit_RecordLoads : (∃ c, Issues (rowAt 0x170) (fr 10 0 1 1 9) sm c ∧ (recChecks c.recA .read 4 c.oddFlat (c.dLanes.map c.off) = none ∧
      performing c (c.ask 0 .read true 4 c.off c.dLanes))) ∧
    ∃ c, Issues (rowAt 0x172) (fr 0 0 1 1 9) smE c ∧ (recFlat c.recA = false ∧
      recChecks c.recA .read (2 ^ recEsz c.recA) (elemOdd c.recA (fD c.w)) (c.act.map c.elemOff) = none ∧
      performing c (c.ask 3 .read true (2 ^ recEsz c.recA) c.elemOff c.act)) :=
  ⟨witness (by decide +kernel), witness (by decide +kernel)⟩
/-- The accesses of a STU of 32-bit registers. -/
abbrev stuAsk (c : Ctx) : MemAsk :=
  { r := c.recA, kind := 5, need := .write, requester := false,
    lanes := (c.act.filter (fun l => c.stuBytes 4 l ≠ [])).map (fun l => { lane := l, vas := (c.stuBytes 4 l).map (fun j => recVa c.recA (c.off l + j)) }) }
theorem wit_RecordStores : (∃ c, Issues (rowAt 0x171) (fr 10 3 1 1 0) sm c ∧ (recChecks c.recA .write 4 c.oddFlat (c.act.map c.off) = none ∧
      performing c (c.ask 1 .write false 4 c.off c.act))) ∧
    (∃ c, Issues (rowAt 0x173) (fr 0 0 1 1 0) smE c ∧ (recFlat c.recA = false ∧
      recChecks c.recA .write (2 ^ recEsz c.recA) (elemOdd c.recA (fC c.w)) (c.act.map c.elemOff) = none ∧
      performing c (c.ask 4 .write false (2 ^ recEsz c.recA) c.elemOff c.act))) ∧
    ∃ c, Issues (rowAt 0x174) (fr 10 3 1 1 9) sm c ∧ (c.oddFlat = false ∧
      (∀ l ∈ c.act.filter (fun l => c.stuBytes 4 l ≠ []), ∀ j ∈ c.stuBytes 4 l, outOfBounds c.recA (c.off l + j) 1 = false) ∧
      permits c.recA .write = true ∧ performing c (stuAsk c)) :=
  ⟨witness (by decide +kernel), witness (by decide +kernel), witness (by decide +kernel)⟩
/-- Offsets 1, 256 and 8 in lane 0, and a record without R and W. -/
def smOff (x : Word) (r : Rec) : State := chg sm (fun m => { m with d := [(1, r)], lanes := [(0, lane 0 x 4 1 2)] })
theorem wit_RecordTraps :
    (∃ c, Issues (rowAt 0x170) (fr 10 0 1 1 9) (smOff 257 rw) c ∧ ∃ l ∈ c.dLanes, c.off l % 4 ≠ 0) ∧
    (∃ c, Issues (rowAt 0x170) (fr 10 0 1 1 9) (smOff 256 rw) c ∧ (c.oddFlat = false ∧ (∀ l ∈ c.dLanes, c.off l % 4 = 0) ∧
      ∃ l ∈ c.dLanes, outOfBounds c.recA (c.off l) 4 = true)) ∧
    (∃ c, Issues (rowAt 0x170) (fr 10 0 1 1 9) (smOff 252 (record 0x20000 256 [235])) c ∧ (c.oddFlat = false ∧ (∀ l ∈ c.dLanes, c.off l % 4 = 0 ∧
      outOfBounds c.recA (c.off l) 4 = false) ∧ recR c.recA = false)) ∧
    (∃ c, Issues (rowAt 0x171) (fr 10 3 1 1 0) (smOff 257 rw) c ∧ ∃ l ∈ c.act, c.off l % 4 ≠ 0) ∧
    (∃ c, Issues (rowAt 0x171) (fr 10 3 1 1 0) (smOff 256 rw) c ∧ (c.oddFlat = false ∧ (∀ l ∈ c.act, c.off l % 4 = 0) ∧
      ∃ l ∈ c.act, outOfBounds c.recA (c.off l) 4 = true)) ∧
    (∃ c, Issues (rowAt 0x171) (fr 10 3 1 1 0) (smOff 252 (record 0x20000 256 [234])) c ∧ (c.oddFlat = false ∧ (∀ l ∈ c.act, c.off l % 4 = 0 ∧
      outOfBounds c.recA (c.off l) 4 = false) ∧ recW c.recA = false)) :=
  ⟨witness (by decide +kernel), witness (by decide +kernel), witness (by decide +kernel), witness (by decide +kernel), witness (by decide +kernel),
    witness (by decide +kernel)⟩

/-- The same state with a texture of 16 × 4 texels of four bytes in d1, and a record image at its first bytes. -/
def smT (r : Rec) : State := (chg sm (fun m => { m with d := [(1, r)] })).poke 0x20000 [0, 0, 2]
/-- A readable texture. -/
def tex : Rec := record 0x20000 256 [234, 248, 166]
/-- The accesses of a SAMPLE. -/
abbrev texAsk (c : Ctx) : MemAsk :=
  { r := c.recA, kind := 6, need := .read, requester := true, lanes := c.act.map (fun l =>
      { lane := l, vas := (c.taps l).flatMap (fun k => recVas c.recA (k.2.1 * recStride c.recA + k.1 * 4) 4) }) }
theorem wit_TextureAndRecordWords :
    Issue sm [(0x175, fr 0 0 1 1 0), (0x179, fr 0 0 0 1 9), (0x179, fr 0 0 8 1 9)] ∧
    (∃ c, Issues (rowAt 0x176) (fr 0 3 2 1 9) (smT tex) c ∧ (recFlat c.recA = false ∧ recSfmt c.recA = 1 ∧ recStride c.recA % 4 = 0 ∧
      texWidth c.recA = 16 ∧ texHeight c.recA = 4 ∧ recR c.recA = true ∧ performing c (texAsk c))) ∧
    (∃ c, Issues (rowAt 0x177) (fr 0 0 0 1 9) (smT rw) c ∧ (recFlat c.recA = false ∧ recChecks c.recA .read 32 false [c.sc (fB c.w)] = none ∧
      performing c (c.ask 7 .read true 32 (fun _ => c.sc (fB c.w)) (c.act.take 1)))) ∧
    (∃ c, Issues (rowAt 0x178) (fr 0 1 2 1 9) sm c ∧ (recFlat c.recA = false ∧
      (recset (fB c.w) (c.sc (fC c.w)) c.recA).any recPlain = true)) :=
  ⟨issue_of (by decide +kernel), witness (by decide +kernel), witness (by decide +kernel), witness (by decide +kernel)⟩

/-- The same state without local store. -/
def sn : State := chgT sm (fun t => { t with objs := [] })
/-- An atomic word's conditions: its checks, its roles and its accesses. -/
abbrev atomic32 (need : Need) (kind : Nat) (returns : Bool) (c : Ctx) : Prop :=
  recChecks c.recA need 4 c.oddFlat ((if returns then c.dLanes else c.act).map c.off) = none ∧ recV c.recA = false ∧
  passing c (scopeOf c.w) (ordRel c.w) ∧
  performing (c.passed (scopeOf c.w) (ordRel c.w)) ((c.passed (scopeOf c.w) (ordRel c.w)).ask kind need false 4 c.off (if returns then c.dLanes else c.act))
theorem wit_AtomicWordsActLaneByLane :
    (∃ c, Issues (rowAt 0x1A0) (fr 1 3 1 1 9) sm c ∧ atomic32 .atomic 2 true c) ∧
    (∃ c, Issues (rowAt 0x1A0) (fr 209 3 1 1 9) sn c ∧ (ordRel c.w = true ∧ 2 ≤ scopeOf c.w ∧ atomic32 .atomic 2 true c)) ∧
    (∃ c, Issues (rowAt 0x1A1) (fr 0 3 1 1 9) sm c ∧ atomic32 .atomic 2 true c) ∧
    (∃ c, Issues (rowAt 0x1A2) (fr 1 3 1 1 0) sm c ∧ atomic32 .atomic 2 false c) ∧
    (∃ c, Issues (rowAt 0x1A3) (fr 0 0 1 1 9) sm c ∧ atomic32 .read 0 true c) ∧
    (∃ c, Issues (rowAt 0x1A4) (fr 0 3 1 1 0) sm c ∧ atomic32 .write 1 false c) :=
  ⟨witness (by decide +kernel), witness (by decide +kernel), witness (by decide +kernel), witness (by decide +kernel), witness (by decide +kernel),
    witness (by decide +kernel)⟩

/-- A version that does not fit: a share of nothing, and a mark. -/
def full : State := chgT sn (fun t => { t with ver := { t.ver with reads := [0x20000], writes := [0x20000], waiting := true } })
/-- An arrival group. -/
def arrival (m : Member) : Member := { m with arrival := some 0 }
/-- Every pending result of a member has a queue: no load is out. -/
abbrev back (c : Ctx) : Prop := ∀ p ∈ c.m.pend, p.queue ≠ none
/-- A load that has not returned its value. -/
def pendLoad (m : Member) : Member := { m with pend := [{ writes := [(.v 0 1, 5)], loads := [], tag := some 1, words := none, queue := none, since := 0, acq := false, word := 0, overs := [], free := 0 }], tags := 2 }
/-- A screen write of lane 0 is on its way. -/
def sendsScreen (s : State) : State :=
  { s with screens := [{ sender := 1, mem := 0, lane := 0, die := 0, tag := none, ctx := 1, launch := 0, owner := 0, x := 0, y := 0, key := [] }] }
theorem wit_FencesBarriersAndCommits :
    (∃ c, Issues (rowAt 0x1A5) (fr 64 0 0 0 0) sn c ∧ ((ordAcq c.w = true → back c) ∧ passing c (scopeOf c.w) (ordRel c.w || scopeOf c.w = 0))) ∧
    (∃ c, Issues (rowAt 0x1A5) (fr 0xE0 0 0 0 0) sn c ∧ ((ordAcq c.w = true → back c) ∧ scopeOf c.w = 4 ∧ passing c (scopeOf c.w) true)) ∧
    (∃ c, Issues (rowAt 0x1A5) (fr 192 0 0 0 0) (chg sn pendLoad) c ∧ (ordAcq c.w = true ∧ ¬ back c)) ∧
    (∃ c, Issues (rowAt 0x1A5) (fr 128 0 0 0 0) (sendsScreen sn) c ∧ (ordRel c.w = true ∧ (ordAcq c.w = true → back c) ∧ c.screensOut = true)) ∧
    (∃ c, Issues (rowAt 0x1A6) (fr 0 0 0 1 0) sn c ∧ (c.m.arrival = none ∧ c.screensOut = false)) ∧
    (∃ c, Issues (rowAt 0x1A6) (fr 0 0 0 1 0) (sendsScreen sn) c ∧ (c.m.arrival = none ∧ c.screensOut = true)) ∧
    (∃ c, Issues (rowAt 0x1A6) (fr 0 0 0 1 0) (chg sn arrival) c ∧ (c.m.arrival ≠ none ∧ back c ∧ passing c 1 true)) ∧
    (∃ c, Issues (rowAt 0x1A7) (fr 0 0 0 3 0) s2 c ∧ (c.m.arrival = none ∧ c.screensOut = false ∧ othersArrived c.t c.m.id true (fA c.w) = false)) ∧
    (∃ c, Issues (rowAt 0x1A7) (fr 0 0 0 3 0) s3 c ∧ (c.m.arrival = none ∧ othersArrived c.t c.m.id true (fA c.w) = true ∧ passing c 2 true)) ∧
    (∃ c, Issues (rowAt 0x1A7) (fr 0 0 0 3 0) (chg sn arrival) c ∧ (c.m.arrival ≠ none ∧ back c ∧ passing c 2 true)) ∧
    (∃ c, Issues (rowAt 0x1A8) (fr 0 0 0 0 0) sn c ∧ (c.m.wait = .none ∧ commitFits c.s c.tk c.t = true)) ∧
    (∃ c, Issues (rowAt 0x1A8) (fr 0 0 0 0 0) (chg sn (fun m => { m with wait := .committed })) c ∧ c.m.wait = .committed) ∧
    Issue sn [(0x1A9, fr 0 0 0 1 9)] :=
  ⟨witness (by decide +kernel), witness (by decide +kernel), witness (by decide +kernel), witness (by decide +kernel), witness (by decide +kernel),
    witness (by decide +kernel), witness (by decide +kernel), witness (by decide +kernel), witness (by decide +kernel), witness (by decide +kernel),
    witness (by decide +kernel), witness (by decide +kernel), issue_of (by decide +kernel)⟩
theorem wit_CommitThatWaits : ∃ c, Issues (rowAt 0x1A8) (fr 0 0 0 0 0) (chgT full (fun t => { t with ver := { t.ver with waiting := false } })) c ∧
    (c.m.wait ≠ .committed ∧ commitFits c.s c.tk c.t = false) := witness (by decide +kernel)
/-- A version that waits and fits. -/
def waits : State := chgT sn (fun t => { t with ver := { t.ver with waiting := true } })
theorem wit_CommitsHorizonsAndBarriers : (∃ t, look waits.teams 1 = some t ∧ (t.ver.waiting = true ∧ t.doom = none ∧ commitFits waits 1 t = true)) ∧
    (∃ t, look (chg sn (fun m => { m with wait := .barrier false 3 })).teams 1 = some t ∧ (∃ m ∈ t.members, m.arrival = none ∧ m.lanes ≠ []) ∧
      ∀ m ∈ t.members, m.arrival = none → m.lanes ≠ [] → m.id = t.fresh ∨ m.wait = .barrier false 3) ∧
    (∃ t, look (chgT sn (fun t => { t with arrived := [3] })).teams 1 = some t ∧
      ∀ e ∈ clusterOf (chgT sn (fun t => { t with arrived := [3] })) 1 t,
        look (chgT sn (fun t => { t with arrived := [3] })).teams e.1 = some e.2 ∧ 3 ∈ e.2.arrived) :=
  ⟨⟨_, rfl, by decide +kernel⟩, ⟨_, rfl, by decide +kernel⟩, ⟨_, rfl, by decide +kernel⟩⟩

/-- A spring of one context: blocks of 64 KiB, its fill map at 0x50000. -/
def spr : Spring :=
  { ctx := 1, num := 0, base := 0x40000, size := 0x20000, blk := 16, rlim := 1, mapBase := 0x50000, poolBase := 0x60000, poolSize := 0x20000, arg := 0,
    entry := 7, spec := spec0, launchId := 1, waiters := [], noFrame := [], queue := [], fills := [0], evicting := [] }
/-- The team generates the spring's block 0. -/
def sg : State := { chgT sn (fun t => { t with gen := some { spring := 0, block := 0, depth := 0, filled := false, place := 0 } }) with
  springs := [(springKey 1 0, spr)] }
/-- The spring's record in d1, and block 0 in a state. -/
def ss (x : Byte) : State :=
  ({ chg sn (fun m => { m with d := [(1, record 0x40000 0x20000 [234, 235, 238])] }) with springs := [(springKey 1 0, spr)] }).poke 0x50000 [x]
/-- The generator has filled its block already. -/
def sgDone : State := chgT sg (fun t => { t with gen := some { spring := 0, block := 0, depth := 0, filled := true, place := 0 } })
/-- The way to the home of the named block is open, and no miss sent before is on it. -/
abbrev reaches (c : Ctx) : Prop :=
  let pa := spr.entryPa (spr.blockOf (recVa c.recA (c.sc (fB c.w))))
  pathHeld c.s (dieOf c.t.seat.core) pa = false ∧ linkHeld c.s pa 32 = false ∧ ∀ y ∈ c.s.misses, afterMiss c.s c.t.seat.core (homeDie c.s pa) y = false
/-- An SEVICT's conditions and the state of its block. -/
abbrev evicts (st : Nat) (c : Ctx) : Prop := recFlat c.recA = false ∧ recS c.recA = true ∧ recW c.recA = true ∧ c.sc (fB c.w) < recExtent c.recA ∧
  springAt c.s c.t.ctx (recVa c.recA (c.sc (fB c.w))) = some spr ∧ reaches c ∧ entState (c.s.fillEntry spr (spr.blockOf (recVa c.recA (c.sc (fB c.w))))) = st
theorem wit_SpringWords :
    (∃ c, Issues (rowAt 0x1C0) (fr 0 0 0 1 0) sg c ∧ ((c.filling = some (spr, { spring := 0, block := 0, depth := 0, filled := false, place := 0 }) ∧
      c.sc (fA c.w) ≤ 2 ^ spr.blk) ∧ (∀ m ∈ c.t.members, m.id ≠ c.m.id → m.lanes = []) ∧ c.t.bins = [] ∧ (∀ k ∈ c.s.cmds, k.team ≠ c.tk) ∧
      c.t.clean = true ∧ pathHeld c.s (dieOf c.t.seat.core) (spr.entryPa 0) = false ∧
      pathHeld c.s (dieOf c.t.seat.core) (entFrame (c.s.fillEntry spr 0) + c.sc (fA c.w)) = false ∧
      linkHeld c.s (entFrame (c.s.fillEntry spr 0) + c.sc (fA c.w)) (2 ^ spr.blk - c.sc (fA c.w)) = false ∧ homeHeld c.s spr 0 = false)) ∧
    (∃ c, Attempts (rowAt 0x1C0) (fr 0 0 0 1 0) sn c ∧ ((rowAt 0x1C0).legal (fr 0 0 0 1 0) = true ∧ c.t.gen = none)) ∧
    (∃ c, Attempts (rowAt 0x1C0) (fr 0 0 0 1 0) sgDone c ∧ ((rowAt 0x1C0).legal (fr 0 0 0 1 0) = true ∧ c.t.gen.any (·.filled) = true)) ∧
    (∃ c, Issues (rowAt 0x1C1) (fr 0 0 2 1 0) sg c ∧ c.filling ≠ none) ∧
    (∃ c, Attempts (rowAt 0x1C1) (fr 0 0 2 1 0) sn c ∧ ((rowAt 0x1C1).legal (fr 0 0 2 1 0) = true ∧ c.t.gen = none)) ∧
    (∃ c, Attempts (rowAt 0x1C1) (fr 0 0 2 1 0) sgDone c ∧ ((rowAt 0x1C1).legal (fr 0 0 2 1 0) = true ∧ c.t.gen.any (·.filled) = true)) ∧
    (∃ c, Issues (rowAt 0x1C2) (fr 0 0 2 1 0) { ss 2 with misses := [{ ctx := 1, spring := 0, block := 1, who := .member 1 0 }] } c ∧
      (recFlat c.recA = false ∧ recS c.recA = true ∧ recW c.recA = true ∧ c.sc (fB c.w) < recExtent c.recA ∧
      springAt c.s c.t.ctx (recVa c.recA (c.sc (fB c.w))) = some spr ∧ ¬ reaches c)) ∧
    (∃ c, Issues (rowAt 0x1C2) (fr 0 0 2 1 0) (ss 0) c ∧ evicts 0 c) ∧ (∃ c, Issues (rowAt 0x1C2) (fr 0 0 2 1 0) (ss 2) c ∧ evicts 2 c) ∧
    (∃ c, Issues (rowAt 0x1C2) (fr 0 0 2 1 0) (ss 3) c ∧ evicts 3 c) ∧
    (∃ c, Issues (rowAt 0x1C2) (fr 0 0 2 1 0) { ss 0 with springs := [] } c ∧ (recFlat c.recA = false ∧ recS c.recA = true ∧ recW c.recA = true ∧
      c.sc (fB c.w) < recExtent c.recA ∧ springAt c.s c.t.ctx (recVa c.recA (c.sc (fB c.w))) = none)) ∧
    (∃ c, Issues (rowAt 0x1C3) (fr 0 0 1 1 9) (ss 2) c ∧ recChecks c.recA .read 1 c.oddFlat (c.dLanes.map c.off) = none) :=
  ⟨witness (by decide +kernel), attempt (by decide +kernel), attempt (by decide +kernel), witness (by decide +kernel), attempt (by decide +kernel),
    attempt (by decide +kernel), witness (by decide +kernel), witness (by decide +kernel),
    witness (by decide +kernel), witness (by decide +kernel), witness (by decide +kernel), witness (by decide +kernel)⟩

/-- A team with 4096 bytes of tile store, laid out as 16 × 16 pixels of one ordered plane, and scalars. -/
def ti (r : List (Nat × Word)) : State :=
  chg (chgT (chgT sn (fun t => { t with hold := 4096, tilecfg := 0x800F0F00 })) (fun t => { t with spec := { spec0 with tile := 2 }, launch := some 0 }))
    (fun m => { m with s := r, lanes := [(0, lane 0 1 2 3 4), (1, lane 1 2 3 5 6)] })
/-- No screen write of the lanes is under way. -/
abbrev screensHome (c : Ctx) : Prop := ∀ x ∈ c.s.screens, x.sender = c.tk → ∀ e ∈ c.m.lanes, e.2.tid ≠ x.lane
theorem wit_TileStoreWords :
    (∃ c, Issues (rowAt 0x1C8) (fr 0 0 0 1 9) (ti [(1, 4096)]) c ∧ c.sc (fA c.w) % 4096 = 0) ∧
    (∃ c, Issues (rowAt 0x1C9) (fr 0 0 0 1 0) (ti [(1, 4096)]) c ∧ (c.sc (fA c.w) % 4096 = 0 ∧ c.sc (fA c.w) ≤ c.t.hold ∧ screensHome c)) ∧
    (∃ c, Issues (rowAt 0x1C9) (fr 0 0 0 1 0) (sendsScreen (ti [(1, 4096)])) c ∧ (c.sc (fA c.w) % 4096 = 0 ∧ c.sc (fA c.w) ≤ c.t.hold ∧ ¬ screensHome c)) ∧
    (∃ c, Issues (rowAt 0x1CA) (fr 0 0 2 1 9) (ti []) c ∧ pixelChecks c (c.pl + c.cnt) = none) ∧
    (∃ c, Issues (rowAt 0x1CB) (fr 0 3 2 1 0) (ti []) c ∧ pixelChecks c (c.pl + c.cnt) = none) ∧
    (∃ c, Issues rowTstOrd (fr 4096 3 2 1 0) (ti []) c ∧ ((cfgOrd c.t.tilecfg = true ∧ c.pl = 0 ∧ c.cnt = cfgQ c.t.tilecfg) ∧ mBit c.w 7 = false ∧
      pixelChecks c (cfgP c.t.tilecfg) = none)) ∧
    (∃ c, Issues rowTstOrd (fr 4224 3 2 1 0) (ti []) c ∧ ((cfgOrd c.t.tilecfg = true ∧ c.pl = 0 ∧ c.cnt = cfgQ c.t.tilecfg) ∧ mBit c.w 7 = true ∧
      ∀ l ∈ c.act, c.owner l ≠ none)) :=
  ⟨witness (by decide +kernel), witness (by decide +kernel), witness (by decide +kernel), witness (by decide +kernel), witness (by decide +kernel), witness (by decide +kernel),
    witness (by decide +kernel)⟩

/-- A team with buffers of 4096 bytes, tokens, an open tile, and scalars. -/
def en (r : List (Nat × Word)) : State :=
  chg (chgT (chgT (chgT sn (fun t => { t with objs := (objs.take 5).map (fun o => { o with bytes := 4096 }) }))
    (fun t => { t with tokens := [(5, .complete), (6, .pending), (7, .error 8 0x2000)] }))
    (fun t => { t with tiles := [(0, { opened := true, remain := 2, owner := 0, data := [(0, 1)] })] })) (fun m => { m with s := r })
/-- An engine word that its entry accepts: every check of its list passes. -/
def accepts (entry : Ctx → Res) (c : Ctx) : Bool :=
  match entry c with
  | .done s _ => s.cmds.length = c.s.cmds.length + 1
  | _ => false
/-- A source of 16 bytes in buffer 2 at s10, a destination in buffer 1 at s20, sends, gathers and collectives. -/
def eng : State := en [(11, 0x80000002), (13, 16), (20, 0x80000001), (33, 16), (42, 0x01000000), (43, 0xFFFFFFFF), (51, 1), (53, 0x80000001),
  (61, 0x80000002), (63, 0x20), (64, 4), (70, 0x30), (80, 1)]
theorem wit_CopyGatherAndCollectiveWordsAreAccepted :
    (∃ c, Issues (rowAt 0x1D0) (fe 9 30 20 2) eng c ∧ (fSub c.w = 2 ∧ accepts entryXcopy c = true)) ∧
    (∃ c, Issues (rowAt 0x1D0) (fe 9 10 20 0) eng c ∧ (fSub c.w ≠ 2 ∧ accepts entryXcopy c = true)) ∧
    (∃ c, Issues (rowAt 0x1D1) (fe 9 10 40 0) eng c ∧ accepts entryXsend c = true) ∧
    (∃ c, Issues (rowAt 0x1D4) (fe 9 50 1 0) eng c ∧ accepts entryXgath c = true) ∧
    (∃ c, Issues (rowAt 0x1D5) (fe 9 60 20 0) eng c ∧ accepts entryColl c = true) ∧
    (∃ c, Issues (rowAt 0x1D2) (fr 0 0 70 1 0) eng c ∧ shapeLegal ((List.range 9).map (fun i => BitVec.ofNat 32 (c.sc (fB c.w + i)))) = true) ∧
    Issue eng [(0x1D3, fr 0 0 0 1 0)] :=
  ⟨witness (by decide +kernel), witness (by decide +kernel), witness (by decide +kernel), witness (by decide +kernel), witness (by decide +kernel),
    witness (by decide +kernel), issue_of (by decide +kernel)⟩

/-- A word of format E that consumes a token. -/
def fk (d : BitVec 6) (k : BitVec 6) : CWord := { common := always, body := .e d 0 0 (some k) none none false 0 }
/-- The word names no token with a property. -/
abbrev noToken (c : Ctx) (p : Token → Bool) : Prop := ∀ k ∈ fTokens c.w, p (c.t.token k) = false
/-- The accesses of a CREC. -/
abbrev crecAsk (c : Ctx) : MemAsk :=
  { r := c.d 1, kind := 0, need := .read, requester := false, lanes := [{ lane := c.act.headD 0, vas := recVas (c.d 1) 8 8 }] }
/-- Its ring stands, and its read translates. -/
abbrev crecReads (c : Ctx) : Prop := c.sc (fA c.w) = 1 ∧ ringCheck (c.d 1) = none ∧
  (reachLines c.s c.t (wantOf c.t (crecAsk c)) (crecAsk c).lanes).2.cause = none ∧
  (reachLines c.s c.t (wantOf c.t (crecAsk c)) (crecAsk c).lanes).2.bad = []
/-- DONE − T, as its check reads it. -/
abbrev crecAhead (c : Ctx) : Int :=
  sgn 64 (leVal ((recVas (c.d 1) 8 8).map (fun a =>
    Mem.read c.s.mem (bytePa (reachLines c.s c.t (wantOf c.t (crecAsk c)) (crecAsk c).lanes).2.tr a))) + 2 ^ 64 - c.scPair (fB c.w))
theorem wit_TokenAndRingWords :
    (∃ c, Issues (rowAt 0x1D6) (fk 0 5) eng c ∧ (noToken c (· == .empty) ∧ noToken c (· == .pending) ∧ noToken c (fun x => x.err.isSome))) ∧
    (∃ c, Issues (rowAt 0x1D6) (fk 0 4) eng c ∧ ¬ noToken c (· == .empty)) ∧
    (∃ c, Issues (rowAt 0x1D6) (fk 0 6) eng c ∧ (noToken c (· == .empty) ∧ ¬ noToken c (· == .pending))) ∧
    (∃ c, Issues (rowAt 0x1D6) (fk 0 7) eng c ∧ (noToken c (· == .empty) ∧ noToken c (· == .pending) ∧ fTokens c.w = [7] ∧
      (c.t.token 7).err = some (8, 0x2000))) ∧
    (∃ c, Issues (rowAt 0x1D7) (fk 9 6) eng c ∧ noToken c (· == .empty)) ∧
    (∃ c, Issues (rowAt 0x1D8) (fr 0 0 2 80 0) eng c ∧ (crecReads c ∧ 0 ≤ crecAhead c ∧ performing c (crecAsk c))) ∧
    (∃ c, Issues (rowAt 0x1D8) (fr 0 0 20 80 0) eng c ∧ (crecReads c ∧ crecAhead c < 0)) :=
  ⟨witness (by decide +kernel), witness (by decide +kernel), witness (by decide +kernel), witness (by decide +kernel), witness (by decide +kernel),
    witness (by decide +kernel), witness (by decide +kernel)⟩
/-- The member's weir is open. -/
def sw : State := chg s0 (fun m => { m with weir := some weir2 })
theorem wit_WeirWords :
    (∃ c, Issues (rowAt 0x1F8) (fr 0 0 0 5 0) s0 c ∧ ((familySplit c.t c.m = false ∧ c.m.trap.inh = false) ∧ c.m.weir = none ∧ fA c.w ≤ c.t.spec.weir)) ∧
    (∃ c, Issues (rowAt 0x1F8) (fr 0 0 0 5 0) sw c ∧ c.m.weir ≠ none) ∧
    (∃ c, Issues (rowAt 0x1F8) (fr 0 0 0 5 0) (chg s0 inTrap) c ∧ c.m.trap.inh = true) ∧
    (∃ c, Issues (rowAt 0x1F8) (fr 0 0 0 5 0) (chgT s0 (fun t => { t with spec := { spec0 with weir := 4 } })) c ∧ c.t.spec.weir < fA c.w) ∧
    (∃ c, Issues (rowAt 0x1F9) (fr 0 0 0 0 0) sw c ∧ ((familySplit c.t c.m = false ∧ c.m.trap.inh = false) ∧ c.m.weir ≠ none)) ∧
    (∃ c, Issues (rowAt 0x1F9) (fr 0 0 0 0 0) s0 c ∧ c.m.weir = none) ∧
    (∃ c, Issues (rowAt 0x1F9) (fr 0 0 0 0 0) (s4 .none) c ∧ familySplit c.t c.m = true) ∧
    Issue s0 [(0x1FA, fr 0 0 0 0 9)] :=
  ⟨witness (by decide +kernel), witness (by decide +kernel), witness (by decide +kernel), witness (by decide +kernel), witness (by decide +kernel),
    witness (by decide +kernel), witness (by decide +kernel), issue_of (by decide +kernel)⟩

/-- Blocks of MMA at s90, of META.LD at s100, of ACC.RET at s110 and of BEAM at s20. -/
def mat : State := en [(35, 0x80000001), (90, 0x200), (101, 0x80000002), (103, 128), (111, 0x80000001)]
theorem wit_MatrixWordsAreAccepted :
    (∃ c, Issues (rowAt 0x1E0) (fr 1 0 0 0 1) mat c ∧ (((c.t.tileAt (fD c.w)).opened = false ∧ familySplit c.t c.m = false) ∧ mBit c.w 12 = false)) ∧
    (∃ c, Issues (rowAt 0x1E0) (fr 4097 0 0 0 1) mat c ∧ (((c.t.tileAt (fD c.w)).opened = false ∧ familySplit c.t c.m = false) ∧ mBit c.w 12 = true)) ∧
    (∃ c, Issues (rowAt 0x1E5) (fr 0 0 0 0 0) mat c ∧ c.notOwner (fD c.w) = false) ∧
    (∃ c, Issues (rowAt 0x1E1) (fe 9 1 90 0) mat c ∧ accepts (entryMma false) c = true) ∧
    (∃ c, Issues (rowAt 0x1E2) (fe 9 1 90 0) mat c ∧ accepts (entryMma true) c = true) ∧
    (∃ c, Issues (rowAt 0x1E6) (fe 9 0 100 0) mat c ∧ accepts entryMetaLd c = true) ∧
    (∃ c, Issues (rowAt 0x1E3) (fe 9 0 110 0) mat c ∧ accepts entryAccRet c = true) ∧
    (∃ c, Issues (rowAt 0x1E4) (fr 0 0 0 0 9) mat c ∧ (c.notOwner (fA c.w) = false ∧
      (∀ l ∈ c.act, c.x (selB c.w) l (fB c.w) + (mBits c.w 4 0 + 1) ≤ 32) ∧ ∀ k ∈ c.s.cmds, ¬ (k.team = c.tk ∧ k.job.tile = some (fA c.w)))) :=
  ⟨witness (by decide +kernel), witness (by decide +kernel), witness (by decide +kernel), witness (by decide +kernel), witness (by decide +kernel),
    witness (by decide +kernel), witness (by decide +kernel), witness (by decide +kernel)⟩

/-- The BVH of the example after R302: triangles A and B in one leaf. -/
def bvh : List Nat :=
    [0x1, 0x80, 0, 0, 0, 0, 0, 0, 0, 0, 0, 0, 0, 0, 0, 0, 0, 0, 0, 0x3f800000, 0x3f800000, 0, 0x80000000, 0, 0x2, 0, 0, 0, 0, 0, 0, 0,
     0, 0, 0, 0x3f800000, 0, 0, 0, 0x3f800000, 0, 0xa, 0, 0, 0, 0x3f800000, 0, 0x3f800000, 0, 0, 0x3f800000, 0x3f800000, 0, 0xb, 0, 0]
/-- A ray that misses everything: its tmin is a NaN. -/
def rayLane : Lane := { lane 0 0 0 0 0 with v := [(7, 0x7FC00000)] }
/-- The BVH of the example after R302 in d6. -/
def sr : State :=
  { chg sn (fun m => { m with d := [(6, record 0x20000 224 [234])], lanes := [(0, rayLane)] }) with
    mem := sn.mem ++ ((bvh.flatMap (toBytes 4)).zipIdx.filter (fun e => e.1 ≠ 0)).map (fun e => (0x20000 + e.2, e.1)) }
/-- What a RAY sees of its record, and the path of a lane. -/
abbrev rayAsk (c : Ctx) (ls : List LaneReq) : MemAsk := { r := c.recA, kind := 0, need := .read, requester := true, lanes := ls }
/-- The path of a lane. -/
abbrev rayPath (c : Ctx) (l : Nat) : Trav := traverse (viewOf c.s c.t (wantOf c.t (rayAsk c [])) c.recA (c.laneByte l)) (c.ray l)
theorem wit_RayAndBeamWords :
    (∃ c, Issues (rowAt 0x1CD) (fr 0 8 4 6 20) sr c ∧ (recFlat c.recA = false ∧ 64 ≤ recExtent c.recA ∧ recR c.recA = true ∧
      (∀ l ∈ c.act, (rayPath c l).bad = none ∧ (rayPath c l).stuck = false) ∧
      performing { c with s := c.s.freed (4 * c.act.length) } (rayAsk c (c.act.map (fun l => { lane := l, vas := (rayPath c l).vas c.recA }))))) ∧
    (∃ c, Issues (rowAt 0x1CC) (fe 9 1 20 0) mat c ∧ accepts entryBeam c = true) :=
  ⟨witness (by decide +kernel), witness (by decide +kernel)⟩

/-- The ray of lane 0 in that example. -/
def exampleRay : Ray :=
  { o := V3.ofWords [0x3F000000, 0x3F000000, 0xBF800000], d := V3.ofWords [0, 0, 0x3F800000], tmin := decode f32 0, tmax := decode f32 0x42C80000 }
/-- A view of bytes that can all be read. -/
def bytesView (bs : List Byte) : BvhView := { extent := bs.length, ready := fun _ _ => true, byte := fun i => bs[i]?.getD 0 }
/-- The example after R302: t = 1, id 11, b1 = 0.5 and b2 = 0. -/
theorem test_ray_watertight : bestHit exampleRay (traverse (bytesView (bvh.flatMap (toBytes 4))) exampleRay).tris =
    [0x3F800000, 11, 0x3F000000, 0] := by decide +kernel

/-- A block of one ray with a tmin that is a NaN. -/
def beamBlk : List Word := List.replicate 16 0 ++ [0x7FC00000, 0]
/-- A started BEAM. -/
def beamCmd (r : Rec) : Command :=
  { id := 3, core := 0, team := 1, mem := 0, slot := 0, pc := 5, matrix := false, token := some 9, uses := [], ring := none,
    job := .beam r beamBlk (.obj 1 0), phase := .started, stop := .none, startAt := 0 }
/-- The state with it: the BVH of the example after R302 at 0x20000. -/
def sb (r : Rec) : State := { sr with cmds := [beamCmd r] }
/-- Its ray. -/
def beamRay : Ray :=
  let b (i : Nat) : Nat := (beamBlk[i - 1]?.getD 0).toNat
  let half (n : Nat) : Ex := .num false (2 * n + 1) 2
  let dir (i px py : Nat) : Nat := encodeQuiet f32 (Ex.add 0 (Ex.add 0 (decode f32 (b (4 + i))) ((half px).mul (decode f32 (b (7 + i)))))
    ((half py).mul (decode f32 (b (10 + i))))) 0 false
  { o := V3.ofWords [b 1, b 2, b 3], d := V3.ofWords [dir 0 0 0, dir 1 0 0, dir 2 0 0], tmin := decode f32 (b 17), tmax := decode f32 (b 18) }
/-- What it sees of a state. -/
def beamTrav (s : State) (t : Team) (r : Rec) : Trav :=
  traverse (viewOf s t { die := 0, core := none, ctx := 1, need := .read, spring := recS r, requester := recS r } r (Mem.read s.mem)) beamRay
/-- Its accesses can be performed, and its path has a property. -/
def beamMeets (r : Rec) (p : Trav → Bool) : Bool :=
  let s1 := (sb r).updCmd 3 (fun k => { k with stop := .none })
  match look (sb r).teams 1 with
  | none => false
  | some t =>
    let tv := beamTrav s1 t r
    runnable (sb r) (beamCmd r) && p tv &&
    match cmdReach s1 (beamCmd r) false false r [{ lane := 0, vas := (tv.vas r).dedup }] (fun s _ _ => .ok s []) with
    | .ok _ _ => true
    | _ => false
theorem wit_BeamThatMisses : beamMeets (record 0x20000 224 [234]) (fun tv => tv.bad.isNone && !rayOpen beamRay tv.tris) = true := by decide +kernel
theorem wit_BeamOverAMalformedRecord : beamMeets (record 0x30000 224 [234]) (fun tv => tv.bad.isSome) = true := by decide +kernel

/-- A screen write of the team's member to the team itself. -/
def screen : Screen :=
  { sender := 1, mem := 0, lane := 0, die := 0, tag := some 2, ctx := 1, launch := 0, owner := 0, x := 3, y := 5, key := [0xAA, 0x10, 7] }
/-- A state with screen writes on their way, under a configuration of the holding. -/
def sc (cfg : Word) (l : List Screen) : State :=
  { chg (chgT (ti []) (fun t => { t with tilecfg := cfg })) (fun m => { m with tags := 4 }) with screens := l }
theorem wit_ScreenWriteDelivery : ∀ e ∈ [(0x800F0F00, [screen]), (0x000F0F00, [screen, screen])],
    let s := sc e.1 e.2
    s.screens[0]? = some screen ∧ ∃ t, s.teams.find? (fun e => e.2.launch = some screen.launch && e.2.index = screen.owner) = some (1, t) ∧
      (look s.teams 1 = some t ∧ t.saved = false ∧ (dieOf t.seat.core ≠ screen.die → (s.link screen.die (dieOf t.seat.core)).retraining = false) ∧
        (∀ y ∈ s.screens.take 0, y.die = screen.die → screenDest s y ≠ some (dieOf t.seat.core)) ∧
        (s.memberAt 1 0).isSome = true ∧ (cfgOrd t.tilecfg = true → planeAt t.tilecfg screen.x screen.y (cfgP t.tilecfg) ≤ t.hold)) := by
  intro e he
  simp only [List.mem_cons, List.not_mem_nil, or_false] at he
  rcases he with rfl | rfl
  · exact ⟨by decide +kernel, _, rfl, by decide +kernel⟩
  · exact ⟨by decide +kernel, _, rfl, by decide +kernel⟩

theorem wit_TrapWords : Issue s0 [(0x1F0, fr 0 0 0 7 0), (0x1F2, fr 0 0 0 0 0), (0x1F3, fr 0 0 0 1 0)] ∧
    (∃ c, Attempts (rowAt 0x1F1) (fr 0 0 0 0 0) s0 c ∧ ((rowAt 0x1F1).legal (fr 0 0 0 0 0) = true ∧ c.m.trap.inh = false)) ∧
    (∃ c, Issues (rowAt 0x1F1) (fr 0 0 0 0 0) (chg s0 inTrap) c ∧ c.m.trap.inh = true) :=
  ⟨issue_of (by decide +kernel), attempt (by decide +kernel), witness (by decide +kernel)⟩

/-- SYSWR of a register from v2, which holds an illegal or a legal configuration. -/
def wrSt (x : Word) : State := st (lane 0 7 x 1 2) (lane 1 7 x 3 4)
theorem wit_SpecialRegisters : Issue s0 [(0x1F4, fr 0 0 0 0x35 9), (0x1F4, fr 0 0 0 0x19 9), (0x1F4, fr 0 0 0 0x08 10)] ∧
    (∀ n ∈ [(0x18 : BitVec 8), 0x19, 0x1A, 0x20, 0x34], ∃ c, Issues (rowAt 0x1F5) (fr 0 0 2 n 0) s0 c ∧ fA c.w = n.toNat) ∧
    (∃ c, Issues (rowAt 0x1F5) (fr 0 0 2 0x30 0) (wrSt 0x800F0F00) c ∧ (fA c.w = 0x30 ∧ tilecfgOk (c.x (selB c.w) c.m.low (fB c.w)) = true)) ∧
    (∃ c, Attempts (rowAt 0x1F5) (fr 0 0 2 0x35 0) s0 c ∧ ((rowAt 0x1F5).legal (fr 0 0 2 0x35 0) = true ∧ fA c.w ∉ [0x18, 0x19, 0x1A, 0x20, 0x30, 0x34])) ∧
    (∃ c, Issues (rowAt 0x1F5) (fr 0 0 2 0x30 0) (wrSt 0xFFFFFFFF) c ∧ (fA c.w = 0x30 ∧ tilecfgOk (c.x (selB c.w) c.m.low (fB c.w)) = false)) := by
  refine ⟨issue_of (by decide +kernel), ?_, witness (by decide +kernel), attempt (by decide +kernel), witness (by decide +kernel)⟩
  intro n hn
  simp only [List.mem_cons, List.not_mem_nil, or_false] at hn
  rcases hn with rfl | rfl | rfl | rfl | rfl <;> exact witness (by decide +kernel)

/-- IADD v9, v1, v2 with other common fields. -/
def add (k : Common) : CWord := { common := k, body := .r 9 1 2 0 2 }
/-- What a word meets that acts in no lane. -/
abbrev noLane (r : CRow) (w : CWord) (c : Ctx) : Prop :=
  r.legal w = true ∧ c.unitFails = false ∧ (neverGuard w = true ∨ c.act = [] ∧ c.earlyCause r = none) ∧ c.overCharge = false ∧
    (r.uniform w || c.others (maskOf c.act) == 0) = true
theorem wit_WordsThatActInNoLane :
    (∃ c, Attempts (rowAt 0x040) (add { always with gn := true }) s0 c ∧ noLane (rowAt 0x040) (add { always with gn := true }) c) ∧
    (∃ c, Attempts (rowAt 0x040) (add { always with g := 5 }) s0 c ∧ noLane (rowAt 0x040) (add { always with g := 5 }) c) :=
  ⟨attempt (by decide +kernel), attempt (by decide +kernel)⟩
/-- A bank that does not issue, a pending tag, a queue of eight special functions, and a held member. -/
def heldMember (m : Member) : Member := { m with wait := .barrier true 3 }
theorem wit_WordsThatWait :
    (∃ tk t m, issuer (chg s0 heldMember) = some (tk, t, m) ∧ held (chg s0 heldMember) t m = true) ∧
    (∃ tk t m, issuer (chgT s0 (fun t => { t with seat := { t.seat with bank := 1 } })) = some (tk, t, m) ∧
      offBank (chgT s0 (fun t => { t with seat := { t.seat with bank := 1 } })) t = true) ∧
    (∃ tk t m, issuer (chg s0 (fun m => { m with tags := 2 })) = some (tk, t, m) ∧ tagBlocked m (add { always with tw := 2 }) = true) ∧
    (∃ tk t m, issuer (chg s0 (fun m => { m with pend := List.replicate 8 { writes := [], loads := [], tag := none, words := none, queue := some 0, since := 0, acq := false, word := 0, overs := [], free := 0 } })) = some (tk, t, m) ∧
      (ctxOf (chg s0 (fun m => { m with pend := List.replicate 8 { writes := [], loads := [], tag := none, words := none, queue := some 0, since := 0, acq := false, word := 0, overs := [], free := 0 } })) tk t m 0x140
        (fr 16 0 0 1 9)).unitBusy = true) ∧
    issuer State.reset = none :=
  ⟨⟨_, _, _, rfl, by decide +kernel⟩, ⟨_, _, _, rfl, by decide +kernel⟩, ⟨_, _, _, rfl, by decide +kernel⟩,
    ⟨_, _, _, rfl, by decide +kernel⟩, by decide +kernel⟩

/-- A word beyond 8 registers; a pending result for v1. -/
def few : State := chgT s0 (fun t => { t with spec := { spec0 with roles := [{ entry := 0, groups := 1, regs := 8 }] } })
/-- A variable-latency result for v1 in lane 0, with tag 1. -/
def pendV1 (m : Member) : Member := { m with pend := [{ writes := [(.v 0 1, 5), (.v 0 1, 6)], loads := [], tag := some 1, words := none, queue := some 0, since := 0, acq := false, word := 0, overs := [], free := 0 }], tags := 2 }
/-- The weir of the member is at its limit. -/
def atLimit (m : Member) : Member := { m with weir := some { weir2 with limit := 0 } }
/-- Operands whose sum, difference and product are inexact, under enabled flags. -/
def nans : State := chgT (st (lane 0 0x7F7FFFFF 0x3DCCCCCD 0 0) (lane 1 0x3F800000 0x3F800000 0 0)) (fun t => { t with fpenable := 31 })
/-- The flags that a float word raises. -/
abbrev raised (c : Ctx) (op : Option Ex → Nat → Rounded) (f : Ctx → Nat → Option Ex) : List (Nat × BitVec 5) :=
  (perLane c (selD c.w) (rmOf c.w) 1 (fun l rs => ([], (op (f c l) (rs.headD 0)).2))).flags
/-- The end of a float word. -/
abbrev rounds (c : Ctx) (x : Option Ex) (r : Nat) : Rounded := match x with
  | none => (0x7FC00000, flIV)
  | some x => encode f32 x (rmOf c.w) (ftzOf c.w) false r
/-- An operand of a float word. -/
abbrev opnd (c : Ctx) (x : Nat) : Ex := decodeZ (ftzOf c.w) f32 x
/-- A device whose only compute die is 0; s40 names core 600. -/
def oneDie : State := { en [(40, 600)] with device := { (en []).device with caps := [0x00180701, 0x08008000, 0x8084FE74, 0x82042401] } }
theorem wit_AbsentCore : ∃ c, Attempts (rowAt 0x1D1) (fe 9 10 40 0) oneDie c ∧ ((rowAt 0x1D1).legal (fe 9 10 40 0) = true ∧
    c.unitFails = true ∧ physCore c.s c.t.ctx (c.sc (fB c.w) % 2 ^ 11) = some 600 ∧ c.s.diePresent (dieOf 600) = false) := attempt (by decide +kernel)
theorem wit_ChecksFlagsAndLimits :
    (∃ c, Attempts (rowAt 0x040) { add always with common := { always with y := true, g := 50 } } s0 c ∧
      (rowAt 0x040).legal { add always with common := { always with y := true, g := 50 } } = false) ∧
    (∃ c, Attempts (rowAt 0x040) (add always) few c ∧ ((rowAt 0x040).legal (add always) = true ∧ neverGuard (add always) = false ∧
      allotmentFails c.t c.m (c.row (rowAt 0x040)) (add always) = true)) ∧
    (∃ c, Attempts (rowAt 0x040) (add always) (chgT (chg s0 pendV1) (fun t => { t with prc := true })) c ∧
      ((rowAt 0x040).legal (add always) = true ∧ neverGuard (add always) = false ∧ allotmentFails c.t c.m (c.row (rowAt 0x040)) (add always) = false ∧
        c.t.prc = true ∧ c.touchesPending (rowAt 0x040) = true)) ∧
    (∃ c, Issues (rowAt 0x0C0) (fr 16 0 2 1 9) nans c ∧
      trapsFp c.t (raised c (rounds c) (fun c l => Ex.add? (rmOf c.w) (opnd c (c.a false l)) (opnd c (c.b false l)))) = true) ∧
    (∃ c, Issues (rowAt 0x0C1) (fr 16 0 2 1 9) nans c ∧
      trapsFp c.t (raised c (rounds c) (fun c l => Ex.add? (rmOf c.w) (opnd c (c.a false l)) (opnd c (c.b false l)).opp)) = true) ∧
    (∃ c, Issues (rowAt 0x0C2) (fr 16 0 2 1 9) nans c ∧
      trapsFp c.t (raised c (rounds c) (fun c l => Ex.mul? (opnd c (c.a false l)) (opnd c (c.b false l)))) = true) ∧
    (∃ c, Attempts (rowAt 0x040) (add always) (chg s0 atLimit) c ∧ ((rowAt 0x040).legal (add always) = true ∧ neverGuard (add always) = false ∧
      c.act ≠ [] ∧ c.earlyCause (rowAt 0x040) = none ∧ c.overCharge = true)) :=
  ⟨attempt (by decide +kernel), attempt (by decide +kernel), attempt (by decide +kernel), witness (by decide +kernel), witness (by decide +kernel),
    witness (by decide +kernel), attempt (by decide +kernel)⟩

theorem wit_TagWaits :
    (∃ tk t m, issuer (chg s0 pendV1) = some (tk, t, m) ∧ (add { always with tw := 2 }).common.tw.getLsbD 1 = true ∧ m.tags.getLsbD 1 = true ∧
      m.contTag.getLsbD 1 = false) ∧
    ((∀ k, k < 6 → (add { always with tw := 4, ta := 3 }).common.tw.getLsbD k = true → (pendV1 (group (lane 0 0 0 0 0) (lane 1 0 0 0 0))).tags.getLsbD k = false) ∧
      (pendV1 (group (lane 0 0 0 0 0) (lane 1 0 0 0 0))).tags.getLsbD 3 = false) ∧
    (∃ c, Attempts (rowAt 0x140) { fr 16 0 0 1 9 with common := { always with tw := 2, ta := 1 } } s0 c ∧ c.m.cont = none) ∧
    ∃ c, Issues (rowAt 0x140) { fr 16 0 0 1 9 with common := { always with tw := 2, ta := 1 } } s0 c ∧
      (c.m.cont = none ∧ (Out.late [(.v 0 9, 1)]).var = true ∧ (Out.late [(.v 0 9, 1)]).next = []) :=
  ⟨⟨_, _, _, rfl, by decide +kernel⟩, by decide +kernel, attempt (by decide +kernel), witness (by decide +kernel)⟩

theorem wit_EveryPdTwAndYIsLegal :
    (∃ c, Attempts (rowAt 0x040) (add { always with ta := 6 }) s0 c ∧ (add { always with ta := 6 }).common.ta = 6) ∧
    (∃ c, Attempts (rowAt 0x040) (add { always with ru := true }) s0 c ∧ (add { always with ru := true }).common.ru = true) ∧
    ∀ w, calRow (.iadd w) = some (rowAt 0x040, w) :=
  ⟨attempt (by decide +kernel), attempt (by decide +kernel), fun _ => rfl⟩

/-- Two writes of v9 in lane 0. -/
def twice : List (Place × Nat) := [(.v 0 9, 1), (.v 0 9, 2), (.v 1 9, 3)]
/-- Every place of a list is the member's. -/
def hasAll (m : Member) (ws : List (Place × Nat)) : Bool := ws.all (fun e => match e.1 with
  | .v l _ => decide (l ∈ m.present)
  | _ => false)
/-- What it decides. -/
theorem has_of {m : Member} {ws : List (Place × Nat)} (h : hasAll m ws = true) : ∀ e ∈ ws, m.has e.1 := by
  intro e he
  have := List.all_eq_true.mp h e he
  cases hp : e.1 <;> simp_all [Member.has]
/-- Two results of one queue. -/
def pendTwo (m : Member) : Member := { pendV1 m with pend := (pendV1 m).pend ++ (pendV1 m).pend }
theorem wit_ResultsStandByTheirDistance :
    (∃ c, Issues (rowAt 0x040) (add always) s0 c ∧ ((Out.fixed twice).var = false ∧ (Out.fixed twice).next = [] ∧ hasAll c.m twice = true)) ∧
    (∃ c, Issues (rowAt 0x040) (add { always with pd := 3 }) s0 c ∧ ((Out.fixed twice).var = false ∧ hasAll c.m twice = true ∧ c.m.windows = [])) ∧
    (∃ c, Issues (rowAt 0x140) { fr 16 0 0 1 9 with common := { always with ta := 1 } } s0 c ∧ ((Out.late twice).var = true ∧ (Out.late twice).next = [] ∧ c.m.cont = none)) ∧
    (∃ c, Issues (rowAt 0x140) (fr 16 0 0 1 9) s0 c ∧ ((Out.late twice).var = true ∧ (Out.late twice).next = [] ∧ c.m.cont = none)) ∧
    -- a result in its turn, and one behind a word that its queue accepted first
    (∃ t m q, look (chg s0 pendV1).teams 1 = some t ∧ t.member 0 = some m ∧ m.pend[0]? = some q ∧ (hasAll m q.writes = true ∧ q.tag = some 1 ∧
      q.queue = some 0 ∧ (∀ x ∈ m.pend.take 0, x.queue ≠ some 0) ∧
      ∀ x ∈ queueWords (chg s0 pendV1) t.seat.core (portOf m.slot) 0, q.since ≤ x.since)) ∧
    ∃ t m q, look (chg s0 pendTwo).teams 1 = some t ∧ t.member 0 = some m ∧ m.pend[1]? = some q ∧ (q.queue = some 0 ∧ ∃ x ∈ m.pend.take 1, x.queue = some 0) := by
  refine ⟨?_, ?_, witness (by decide +kernel), witness (by decide +kernel), ⟨_, _, _, rfl, rfl, rfl, by decide +kernel⟩, ⟨_, _, _, rfl, rfl, rfl, by decide +kernel⟩⟩
  · exact witness (by decide +kernel)
  · exact witness (by decide +kernel)

theorem wit_CompletedWordsGoOn : ∃ c, Issues (rowAt 0x002) (fb 0 1 5) s0 c ∧ ((Out.none.writes = [] ∧ Out.none.flags = [] ∧ Out.none.rng = []) ∧
    c.m.lanes ≠ [] ∧ c.m.cont = none ∧ Out.none.next = [] ∧ c.m.trap.inh = false) := witness (by decide +kernel)

theorem wit_CausesEnterTheHandler : ∃ t m, look (chgT (chg s0 pendV1) (fun t => { t with tvec := 99 })).teams 1 = some t ∧ t.member 0 = some m ∧
    (t.gen = none ∧ m.trap.inh = false ∧ m.trap.mask = false ∧ t.tvec ≠ 0xFFFFFFFF) := ⟨_, _, rfl, rfl, by decide +kernel⟩
theorem wit_CausesAbandonTheTeam : ∃ t m, look (chg s0 inTrap).teams 1 = some t ∧ t.member 0 = some m ∧ m.trap.inh = true := ⟨_, _, rfl, rfl, rfl⟩

theorem wit_RegisterWordsLeaveAllElseAlone : ∃ c s', calRow (.iadd (add always)) = some (rowAt 0x040, add always) ∧ issuer s0 = some (c.tk, c.t, c.m) ∧
    c = ctxOf s0 c.tk c.t c.m (rowAt 0x040).op (add always) ∧ exec (.iadd (add always)) s0 = .next s' := by
  obtain ⟨c, h, _⟩ := attempt (r := rowAt 0x040) (w := add always) (s := s0) (P := fun _ => True) (by decide +kernel)
  exact ⟨c, _, rfl, h.who, h.ctx, rfl⟩
theorem wit_MemoryWordsWithoutACountedLine : ∃ c, Issues (rowAt 0x171) (fr 10 3 1 1 0) sm c ∧ (performing c (c.ask 1 .write false 4 c.off c.act) ∧
    ∀ e ∈ (reachLines c.s c.t (wantOf c.t (c.ask 1 .write false 4 c.off c.act)) (c.ask 1 .write false 4 c.off c.act).lanes).2.tr,
      countsLine (dieOf c.t.seat.core) e = false) := witness (by decide +kernel)

/-! ### Line cores -/

/-- A running stream: x1 = 16, x2 = 300, x3 = 0, x4 = 0x203F0000 (a shape), x5 = 2, x8 to x11 a command block; template 5 loaded. -/
def on : LStream :=
  { LStream.zero with on := true, len := 4096, tpl := [(5, 7)], lc := 2, ec := 3, pc := 3, x := [(1, 16), (2, 300), (4, 0x203F0000), (5, 2), (8, 0), (9, 0), (11, 64), (12, 0x1000), (13, 0x2000), (14, 0x3000)] }
/-- A line core whose two streams run: semaphore 3 holds 2 units of 5, window 0 is of 4096 bytes of both kinds, tiles 0 to 2 are full. -/
def lcOn : LineCore :=
  { LineCore.zero with cs := on, vs := on, run := .section_, shp := 0x200F0003, full := [0, 1, 2], sems := [(3, { count := 2, ceiling := 5 })], lwext := [(0, 0xC000000000001000)], cqs := [(0, [9]), (2, [8])] }
/-- A stream of a line core has its turn. -/
def li (vec : Bool) (c : LineCore) : State := { State.reset with lcs := [(0, c)], curLc := some (0, vec) }
/-- In each state a slot issues and sees a property. -/
def Slots (l : List (State × (BCtx → Bool))) : Prop := ∀ e ∈ l, ∃ b, SlotIssues e.1 b ∧ e.2 b = true
/-- What decides that a slot issues and sees a property, for each state and property of a list. -/
theorem slots {l : List (State × (BCtx → Bool))} (h : l.all (fun e => match lineIssuer e.1 with
    | some (n, vec, true) => e.2 (bctx e.1 n vec)
    | _ => false) = true) : Slots l := by
  intro e he
  have h := List.all_eq_true.mp h e he
  split at h
  · next n vec hi => exact ⟨bctx e.1 n vec, ⟨hi, rfl⟩, h⟩
  · exact absurd h (by simp)
/-- A command that stands in a queue. -/
def qcmd : LCmd := { pc := 0, ws := none, ss := none, blk := [0, 0, 64, 0], pa := 0, f0 := false, f1 := false, consumed := false, started := false, data := [] }
/-- The line core's queues hold 16 commands each. -/
def fullQueues : LineCore := { lcOn with ldq := List.replicate 16 qcmd, stq := List.replicate 16 qcmd, mq := List.replicate 16 qcmd }

theorem wit_PatchWords : Slots ([(li true lcOn, fun b => decide (look b.st.tpl 5 = some 7) && amendOk 0x43 1024), (li false lcOn, fun b => look b.st.tpl 6 = none),
    (li false lcOn, fun b => 32 * 127 + 32 ≤ b.st.len ∧ b.c.ldq = [] ∧ b.c.stq = [] ∧ b.c.mq = []), (li false fullQueues, fun b => b.c.ldq ≠ []),
    (li true lcOn, fun b => b.st.len < 32 * 128 + 32 ∧ amendOk 0xFF 0 = false)]) := slots (by decide +kernel)
/-- LCLEN names two sections of 32 bytes. -/
def lcgoAt : State := { State.reset with lcs := [(0, { LineCore.zero with lclen := 0x2000000020 })] }
theorem wit_Lcgo : lcgoAt.edie = true ∧ (lcgoAt.lc 0).runs = false ∧ claimed lcgoAt 0 = false ∧ (0x80000000 : DWord).toNat < 2 ^ 52 ∧
    sectionOk (0x80000000 % 2 ^ 26) ((lcgoAt.lc 0).lclen.toNat % 2 ^ 18) = true ∧
    sectionOk (0x80000000 / 2 ^ 26) ((lcgoAt.lc 0).lclen.toNat / 2 ^ 32 % 2 ^ 18) = true := by decide +kernel

/-- A slice program of stream 0. -/
def sliceOn : LineCore := { lcOn with run := .slice 0 0 0 [4, 5] }
theorem wit_ScalarSlots : Slots ([(li true lcOn, fun b => b.vec = true ∧ (b.x 4).toNat / 2 ^ 28 % 4 ≠ 3 ∧ b.x 4 &&& 0xCE00FFC0#32 = 0),
    (li true lcOn, fun b => b.x 2 &&& 0xCE00FFC0#32 ≠ 0), (li false lcOn, fun b => b.vec = false),
    (li true sliceOn, fun b => b.c.run = .slice 0 0 0 [4, 5])]) := slots (by decide +kernel)
/-- A V1 slot that writes w9 from w1, w2, w3 of a type, with a parameter. -/
def vf (ty b c parm : Nat) : VForm :=
  { v1 := true, ty := BitVec.ofNat 3 ty, rm := 0, ftz := false, sat := false, d := 9, a := 1, b := BitVec.ofNat 7 b, c := BitVec.ofNat 7 c,
    parm := BitVec.ofNat _ parm }
/-- For each V operation a legal slot. -/
def vforms : List (Nat × VForm) :=
  [0x00, 0x01, 0x02, 0x03, 0x04, 0x05, 0x06, 0x07, 0x08, 0x09, 0x0A, 0x0B, 0x0C, 0x0D, 0x0E, 0x0F, 0x10, 0x20, 0x21, 0x22, 0x23, 0x24, 0x25].map (fun op =>
    (op, vf (if op = 0x0E ∨ op = 0x0F then 3 else 0) (if vSources op ≥ 2 then 2 else 0) (if vSources op ≥ 3 then 3 else 0)
      (if op = 0x10 ∨ op = 0x21 ∨ op = 0x22 then 1 else 0)))
theorem wit_VectorSlots : Slots (vforms.map (fun f => (li true lcOn, fun (b : BCtx) => b.vec && vOk f.1 f.2 &&
      decide (b.c.nr * b.c.nc * vSize f.2.ty.toNat ≤ 512 ∧ b.c.nr * b.c.nc * vSize f.2.parm.toNat ≤ 512) && decide (f.2.parm.toNat < b.c.nr ∧ f.2.parm.toNat < b.c.nc))) ++
    [(li false lcOn, fun b => !b.vec), (li true { lcOn with shp := 0x21FF003F }, fun b => decide (512 < b.c.nr * b.c.nc * 4)),
     (li true lcOn, fun b => !decide (((vf 0 0 0 100).parm.toNat) < b.c.nr))]) := slots (by decide +kernel)

/-- A slot of 512 bytes, of rows and of a register. -/
def ld (d pitch : Nat) (a : BitVec 5) : LdForm := { d := BitVec.ofNat 7 d, a := a, off := 0, take := true, post := true, pitch := BitVec.ofNat 6 pitch }
theorem wit_LineStoreSlots :
    (ldOk 0 (ld 9 0 1) = true ∧ ldOk 1 (ld 9 16 1) = true ∧ ldOk 2 (ld 97 0 1) = true ∧ stOk 0 { s := 9, a := 1, off := 0, fill := true, post := true, pitch := 0 } = true ∧
      stOk 1 { s := 9, a := 1, off := 0, fill := true, post := true, pitch := 16 } = true ∧
      stOk 2 { s := 97, a := 2, off := 0, fill := true, post := true, pitch := 0 } = true) ∧
    Slots ([(li true lcOn, fun b => decide ((b.x 1).toNat = 16 ∧ b.c.nc * b.c.es % 16 = 0 ∧ b.c.nr * b.c.nc * b.c.es ≤ 512) && b.c.allFull (tilesOf [(16, 512)]) &&
        b.c.allFull (tilesOf [(16, 64), (272, 64)])),
      (li true { lcOn with full := [] }, fun b => decide ((b.x 1).toNat % 16 = 0) && !b.c.allFull (tilesOf [(16, 4)])),
      (li true lcOn, fun b => decide ((b.x 2).toNat % 16 ≠ 0 ∧ (b.x 2).toNat % 4 = 0)), (li true lcOn, fun b => decide (262144 < (b.x 4).toNat + 4 ∧ (b.x 4).toNat % 16 = 0)),
      (li false lcOn, fun b => decide (b.vec = false ∧ (b.x 5).toNat % 4 ≠ 0))]) :=
  ⟨by decide +kernel, slots (by decide +kernel)⟩

/-- Waits on semaphore 3 and signals it. -/
def sem3 : SemForm := { wait := some 3, sig := some 3 }
/-- No semaphore. -/
def sem0 : SemForm := { wait := none, sig := none }
theorem wit_QueueSlots : Slots ([
    (li true lcOn, fun b => decide (semFormBad b.c sem3 = none) && b.c.canTake (partyOf b.vec) 3 1),
    (li true lcOn, fun b => decide ((b.x 1).toNat ≤ 16 ∧ 15 < (b.x 1).toNat)),
    (li true lcOn, fun b => decide (look b.c.sems 3 = some { count := 2, ceiling := 5 } ∧ (∀ e ∈ b.c.waiters, e.2 ≠ 3) ∧ look b.c.sems 4 = none)),
    -- a push and a pop of each stream that go on, wait or have no partner
    (li false lcOn, fun b => decide (¬ 8 ≤ (b.c.cq 1).length ∧ b.c.cq 2 = [8] ∧ b.vec = false)), (li true lcOn, fun b => decide (b.c.cq 0 = [9] ∧ ¬ 8 ≤ (b.c.cq 3).length ∧ b.vec = true)),
    (li false { lcOn with cqs := [(0, List.replicate 8 0)], vs := { on with on := false, ended := true } }, fun b =>
      decide (8 ≤ (b.c.cq 0).length ∧ b.c.cq 2 = []) && (b.c.stream (!b.vec)).ended),
    (li false { lcOn with cqs := [(0, List.replicate 8 0)] }, fun b => decide (8 ≤ (b.c.cq 0).length ∧ b.c.cq 2 = []) && !(b.c.stream (!b.vec)).ended),
    (li true lcOn, fun b => decide (semFormBad b.c sem0 = none ∧ copyCheck false 8 b = none ∧ copyCheck true 8 b = none ∧ mmcCheck 12 b = none ∧ b.c.ldq.length < 16 ∧
      b.c.stq.length < 16 ∧ b.c.mq.length < 16)),
    (li true fullQueues, fun b => decide (copyCheck false 8 b = none ∧ copyCheck true 8 b = none ∧ mmcCheck 12 b = none ∧ 16 ≤ b.c.ldq.length ∧ 16 ≤ b.c.stq.length ∧
      16 ≤ b.c.mq.length))]) := slots (by decide +kernel)
theorem wit_Signals : look (((li true lcOn).lc 0).sems) 3 = some { count := 2, ceiling := 5 } ∧
    look (((li true { lcOn with sems := [(3, { count := 5, ceiling := 5 })] }).lc 0).sems) 3 = some { count := 5, ceiling := 5 } := by decide +kernel
theorem wit_SlotsTouchOnlyTheirLineCore : ∃ k s' b, slotOf (.saddi 4 1 5) = some k ∧ SlotIssues (li true lcOn) b ∧ exec (.saddi 4 1 5) (li true lcOn) = .next s' ∧
    (s'.lc b.n).halt = false := ⟨_, _, bctx (li true lcOn) 0 true, rfl, ⟨rfl, rfl⟩, rfl, by decide +kernel⟩

/-! ### Packets -/

/-- A partition of every reach of die 0, with shares of version store, vaults, encoders and streams. -/
def part : Partition :=
  { reaches := 0xFFFFFFFF, ways := 0xF, vshare := 8, vaults := 0xFFFFFFFF, enc := 4, streams := 8, resize := none }
/-- Queue 0 runs, and queue 1 of partition 0. -/
def qs : Sparse Queue := [(0, { Queue.zero with en := true, size := 4096, base := 0x80000 }), (1, { Queue.zero with en := true, size := 4096, base := 0x90000 })]
/-- A partition, its queues, a context with a mapped GiB, and nothing else. -/
def sq : State := placeTable { State.reset with queues := qs, parts := [(0, part)], ctxs := [(1, placeCtx)] }
/-- A packet of queue 0. -/
def adm (typ : Byte) (body : List DWord) : Packet :=
  { queue := 0, typ := typ, context := 0, bar := false, sig := false, sigval := 0, waits := [], len := 3 + body.length, reserved := false, body := body }
/-- A packet of queue 1 for context 1. -/
def own (typ : Byte) (body : List DWord) : Packet := { adm typ body with queue := 1, context := 1 }
/-- What a queue may issue, as evaluation decides it, together with a condition. -/
def admits (e : Nat × Packet × State × Bool) : Bool :=
  let p := e.2.1
  let s := e.2.2.1
  decide (p.typ.toNat = e.1 ∧ (s.queue p.queue).en = true ∧ (s.queue p.queue).halt = false ∧ (s.queue p.queue).closing = none ∧
    checkPacket s p = none ∧ contextBad s p = false) && e.2.2.2
/-- Each packet of a list may issue, and its condition holds. -/
def Packets (l : List (Nat × Packet × State × Bool)) : Prop := ∀ e ∈ l, Admits e.1 e.2.1 e.2.2.1 ∧ e.2.2.2 = true
/-- What decides it. -/
theorem packets {l : List (Nat × Packet × State × Bool)} (h : l.all admits = true) : Packets l := by
  intro e he
  have h := List.all_eq_true.mp h e he
  simp only [admits, Bool.and_eq_true, decide_eq_true_eq] at h
  obtain ⟨⟨h1, h2, h3, h4, h5, h6⟩, h7⟩ := h
  exact ⟨⟨h1, h2, h3, h4, h5, h6⟩, h7⟩

/-- A body of PART.RESIZE that keeps what partition 0 has. -/
def resizeBody : List DWord := [0, 0xFFFFFFFF, 0, 0xF, 8, 0, 0xFFFFFFFF, 0]
/-- No context. -/
def noCtx : State := { sq with ctxs := [] }
/-- The conditions of a PART.RESIZE of partition 0. -/
def resizes (s : State) : Bool :=
  decide (look s.parts 0 = some part ∧ part.resize = none ∧ maskRefusal s 0 0xFFFFFFFF = none ∧ resizeMeets s 0 0xFFFFFFFF = false ∧ resizeMaps (adm 3 resizeBody) s = [] ∧
    mapsRefused s 0 part.reaches (resizeOf (adm 3 resizeBody) s) = false ∧ sharesOver s 0 8 = false ∧
    (List.range 4).all (fun d => decide (shareUsed s 0 d ≤ 65536 * shareIn 8 d)) = true ∧ millraceLost s 0 part.vaults 0xFFFFFFFF = false)
/-- A firmware image at 0x100000. -/
def fw (s : State) : State := { s with host := { s.host with fwstat := 0x20000000 } }
theorem wit_AdministrativePackets : Packets [
    (0x01, adm 0x01 [1, 0, 1, 0xF, 8 * 65536, 0x100000, 64, 0, 1], sq, decide (resizeMeets sq 1 (BitVec.ofNat 128 (2 ^ 64)) = false ∧ look sq.parts 1 = none ∧
      maskRefusal sq 1 (BitVec.ofNat 128 (2 ^ 64)) = none ∧
      sharesOver sq 1 (8 * 65536) = false ∧ hostSpan sq 0x100000 (64 * 64) = true)),
    (0x02, adm 0x02 [0], { noCtx with queues := [(0, { Queue.zero with en := true })] }, decide (look noCtx.parts 0 ≠ none)),
    (0x03, adm 0x03 resizeBody, sq, resizes sq && decide (∃ c ∈ sq.ctxs, c.2.part = 0 ∧ c.2.st = .live)), (0x03, adm 0x03 resizeBody, noCtx, resizes noCtx),
    (0x04, adm 0x04 [2, 0x100000, 4096, 0x200000], sq, decide ((sq.queue 2).en = false ∧ look sq.parts 0 ≠ none ∧ hostSpan sq 0x100000 4096 = true ∧ hostSpan sq 0x200000 8 = true)),
    (0x05, adm 0x05 [1], sq, decide ((sq.queue 1).en = true ∧ (sq.queue 1).closing = none ∧ (sq.queue 1).head = none ∧ (sq.queue 1).flights = [])),
    (0x05, adm 0x05 [1], sq.setQueue 1 { sq.queue 1 with flights := [{ num := 0, sig := none, done := false }] }, true),
    (0x06, adm 0x06 [0x100000], sq, hostSpan sq 0x100000 12416 && !linkHeld sq 0x100000 12416 && decide (sq.heldWrites = [])),
    (0x08, adm 0x08 [1, 2, 3, 4, 5, 6, 0x100000], sq, hostSpan sq 0x100000 400 && !linkHeld sq 0x100000 400),
    (0x07, adm 0x07 [0x100000, 4096], fw sq, decide (linkHeld (fw sq) 0x100000 4096 = false ∧ hostSpan (fw sq) 0x100000 4096 = true ∧ (fw sq).host.minSvn ≤ imgSvn (Mem.readN (fw sq).mem 0x100000 4096) ∧
      imgField (Mem.readN (fw sq).mem 0x100000 4096) 12 2 ≤ (fw sq).host.fwstat.toNat % 2 ^ 16)),
    (0x10, { adm 0x10 [] with queue := 1 }, sq, true)] := packets (by decide +kernel)

/-- A launch record at 0x20000: one iteration, one group of 256 registers, its code at 0x13000; `gen` sets GEN. -/
def launchRec (gen : Nat) : Nat :=
  0x13000 + 10 * 2 ^ 64 + 2 ^ 234 + 2 ^ 236 + 31 * 2 ^ 424 + 2 ^ 736 + 2 ^ 768 + 2 ^ 1088 + gen * 2 ^ 1130
/-- The state with it: only the bytes that are not zero are listed. -/
def withRec (gen : Nat) (s : State) : State :=
  { s with mem := s.mem ++ ((toBytes 144 (launchRec gen)).zipIdx.filter (fun e => e.1 ≠ 0)).map (fun e => (0x20000 + e.2, e.1)) }
/-- A spring declaration: 32 blocks of 4 KiB at 0x40000000, its fill map at 0x300000, its pool at 0x400000. -/
def springBody : List DWord :=
  [0x40000000, 0x20000 + 12 * 2 ^ 48, 0x300000, 0x400000, 0x10000, 0x20000, 0, 0, 0x50000, 16, 0, 0]
/-- A saved context, and a member of it that is saved. -/
def saved : Context := { placeCtx with st := .saved, save := 0x500000, saveBytes := 4096 }
/-- A descriptor of stream 0: 64 × 32 pixels in one slice, one encoder, an output, line core 0. -/
def desc : BitVec 1024 :=
  let f (lo v : Nat) : Nat := v * 2 ^ lo
  BitVec.ofNat 1024 (f 812 0x200000 + f 760 0x300000 + f 708 0x400000 + f 676 0x2000 + f 644 65536 + f 580 50000 + f 548 1 + f 522 0x1000 + f 496 0x2000 +
    f 470 0x4000 + f 444 0x8000 + f 418 0x9000 + f 400 32 + f 382 32 + f 331 100 + f 318 31 + f 305 63 + f 296 32 + f 293 1 + f 290 1 + f 262 0x3000)
/-- The words of a descriptor. -/
def descBody : List DWord := (List.range 16).map (fun i => desc.extractLsb' (64 * i) 64)
/-- The stream that it opens; its output starts its frame at 5 000 000 cycles. -/
def ps : PStream := { newStream 0 0 desc with pipes := [0], tf := 5000000 }
/-- A refused or failed task of launch 3. -/
def aband : Aband := { ctx := 1, launch := 3, task := 7, retry := 0, st := .waiting }
/-- A state with it. -/
def sa : State := { sq with abands := [aband] }
/-- The conditions of the packets of a context. -/
theorem wit_ContextPackets : Packets [
    (0x11, { own 0x11 [0x10000, 0x500000, 4096, 0] with context := 9 }, sq, hostSpan sq 0x500000 4096),
    (0x12, own 0x12 [], sq, decide (sq.teams = [] ∧ sq.springs = [] ∧ sq.abands = [])),
    (0x13, own 0x13 [0x20000, 1], withRec 0 sq, sq.diePresent 0 && partOnDie sq 0 0 && !specHeld (withRec 0 sq) 1 0x20000 && (match readSpec (withRec 0 sq) 1 0 0x20000 1 with
      | .ok q => !q.gen
      | .error _ => false)),
    (0x14, own 0x14 [], sq, decide (look sq.ctxs 1 = some placeCtx ∧ part.resize = none ∧ placeCtx.st = .live)),
    (0x14, own 0x14 [], { sq with ctxs := [(1, saved)] }, true),
    (0x16, own 0x16 [0, 0], sq, true), (0x1B, own 0x1B [3], sq, true),
    (0x17, own 0x17 springBody, withRec 1 sq, !specHeld (withRec 1 sq) 1 (pnum (own 0x17 springBody) / 2 ^ 320 % 2 ^ 57) && (match readSpec (withRec 1 sq) 1 0 (pnum (own 0x17 springBody) / 2 ^ 320 % 2 ^ 57) 1 with
      | .ok q =>
        let x := springOf (withRec 1 sq) 1 (pnum (own 0x17 springBody)) q
        !springRefused (withRec 1 sq) x && !linkHeld (withRec 1 sq) x.mapBase (32 * (x.size / 2 ^ x.blk))
      | .error _ => false)),
    (0x18, own 0x18 [0], { sq with springs := [(springKey 1 0, spr)] }, decide (spr.waiters = [] ∧ spr.queue = [] ∧ spr.noFrame = [] ∧
      ∀ b ∈ spr.fills, linkHeld sq (spr.entryPa b) 32 = false)),
    (0x19, { own 0x19 descBody with context := 0 }, sq, (match openStream sq 0 (BitVec.ofNat 1024 (pnum (own 0x19 descBody))) with
      | .ok _ => true
      | .error _ => false)),
    (0x1A, { own 0x1A [0] with context := 0 }, { sq with streams := [(0, ps)] }, sq.edie && decide (ps.part = 0 ∧ ps.closing = none)),
    (0x1C, own 0x1C [7, 1], sa, decide (sa.abands.find? (fun a => a.ctx = 1 && a.task = 7) = some aband ∧ aband.st = .waiting)),
    (0x1C, own 0x1C [7, 0], sa, true)] := packets (by decide +kernel)

/-! ### Queues, the host and the firmware -/

/-- Queue 1 with what the host put into its ring, and its QPUT. -/
def ring1 (put : Word) (bs : List Byte) (q : Queue) : State := (sq.setQueue 1 { q with put := put }).poke 0x90000 bs
/-- Queue 1. -/
def q1 : Queue := sq.queue 1
/-- A NOP packet with SIGVAL 9. -/
def nop9 : Packet := { own 0x10 [] with context := 0, sig := true, sigval := 9 }
/-- A queue whose first packets have completed, one of them with a SIGVAL. -/
def flown : Queue :=
  { q1 with flights := [{ num := 0, sig := some 5, done := true }, { num := 1, sig := none, done := true }, { num := 2, sig := some 9, done := false }] }
theorem wit_QueueErrors :
    ((sq.queue 1).en = true ∧ (sq.queue 1).halt = false ∧ (sq.queue 1).closing = none) ∧
    (checkPacket sq (own 0x01 []) = some 9 ∧ checkPacket sq (own 0x03 []) = some 9) ∧
    (checkPacket sq { own 0x14 [] with context := 5 } = none ∧ contextBad sq { own 0x14 [] with context := 5 } = true) ∧ (∀ e ∈ sq.parts, e.2.resize = none) ∧
    ∀ e ∈ [(ring1 8192 [] q1, 8192, 0), (ring1 8 [] q1, 8, 0), (ring1 8 [0x10, 0, 0xE8, 3] q1, 8, 1000), (ring1 8 [0x10, 0, 4] q1, 8, 4)],
      ((e.1.queue 1).put - (e.1.queue 1).get).toNat = e.2.1 ∧ ringWord e.1 (e.1.queue 1) 0 / 2 ^ 16 % 2 ^ 16 = e.2.2 ∧ (e.1.queue 1).size ≠ 0 ∧ (e.1.queue 1).head = none ∧ ringHeld e.1 (e.1.queue 1) 1 = false := by
  decide +kernel
theorem wit_TimelineOfAHaltedQueue :
    ((sq.setQueue 1 { flown with halt := true }).queue 1).halt = true ∧ ((flown.flights.takeWhile (·.done)).filterMap (·.sig)).getLast? = some 5 ∧
      flown.tlmir = 0 ∧ linkHeld sq 0x200000 8 = false ∧ linkHeld ({ sq with vaults := [(0, { (sq.vault 0) with halt := true })] } : State) 0x200000 8 = true ∧
      flown.closing = none ∧ (0x800000002 : DWord).getLsbD 1 = true := by decide +kernel
theorem wit_PacketTakeUp : let s := ring1 24 [0x10, 1, 3, 0, 0, 0, 0, 0, 9] q1
    let x := s.queue 1
    (x.en = true ∧ x.halt = false ∧ x.head = none ∧ x.closing = none ∧ x.size ≠ 0 ∧ (x.put - x.get).toNat = 24) ∧
    ringWord s x 0 / 2 ^ 16 % 2 ^ 16 = 3 ∧ ringWord s x 0 / 2 ^ 10 % 2 ^ 3 = 0 ∧ (ptypeOf (ringWord s x 0 % 2 ^ 8)).isSome = true ∧ ringHeld s x 3 = false ∧
    checkPacket (s.setQueue 1 { x with seen := x.put }) (readPacket s 1 x 3) = none := by decide +kernel
/-- Queue 1 with a head packet. -/
def headed (p : Packet) : State := sq.setQueue 1 { flown with head := some p }
theorem wit_PacketIssue : Packets [(0x10, nop9, headed nop9, true)] ∧
    (((headed nop9).queue 1).en = true ∧ ((headed nop9).queue 1).halt = false ∧ (∀ e ∈ nop9.waits, 0 ≤ (((headed nop9).queue e.1).tlval - e.2).toInt) ∧ nop9.bar = false) ∧
    (∃ f ∈ ((headed { nop9 with bar := true }).queue 1).flights, f.done = false) :=
  ⟨packets (by decide +kernel), by decide +kernel, by decide +kernel⟩
theorem wit_QueueEnableAndEvents :
    ((1 : DWord).getLsbD 0 = true ∧ (fw sq).host.fwstat.toNat / 2 ^ 28 % 4 = 2 ∧ ((fw sq).queue 0).size.toNat = 4096 * 2 ^ 0 ∧
      hostSpan (fw sq) ((fw sq).queue 0).base.toNat ((fw sq).queue 0).size.toNat = true) ∧
    ∀ r ∈ [{ Ring.zero with size := 64 }, { Ring.zero with size := 64, put := 3, get := 1 }], (sq.setRing 0 r).ring 0 = r ∧ r.isFull (sq.setRing 0 r) = false ∧ r.held = [] ∧ r.out = [] ∧
      entryHeld (sq.setRing 0 r) 0 = false := by
  decide +kernel

theorem wit_RegisterWrites : (∃ off width, width ≠ 4 ∧ width ≠ 8 ∨ off % width ≠ 0) ∧ (sq.queue 1).en = true ∧ (sq.queue 7).en = false ∧
    (inDram (0x5000 : DWord).toNat = true ∧ inDram (0x4000000000 : DWord).toNat = false ∧ hostPa sq (0x5000 : DWord).toNat = true ∧
      hostPa ({ sq with host := { sq.host with dieoff := 1 } } : State) (0x5000 : DWord).toNat = false) ∧
    (63 < sq.maxStreams ∧ sq.edie = true ∧ look sq.streams 63 = none) ∧
    (hostSpan sq (sq.queue 7).base.toNat 8192 = true ∧ hostSpan sq ((sq.setQueue 7 { Queue.zero with base := 0x3FFFFFF000 }).queue 7).base.toNat 8192 = false) ∧
    ((0x5000 : DWord).toNat % 4096 = 0 ∧ hostPa sq (0x5000 : DWord).toNat = true) ∧ (0x5001 : DWord).toNat % 4096 ≠ 0 ∧
    (BitVec.ofNat 32 (8192 : DWord).toNat).toNat = 4096 * 2 ^ 1 ∧ (∀ k, k < 13 → (BitVec.ofNat 32 (8193 : DWord).toNat).toNat ≠ 4096 * 2 ^ k) ∧
    (sq.ring 64).held = [] ∧ sq.dieUp 0 = true ∧ sq.dieUp (127 / 32) = true ∧ ({ sq with host := { sq.host with dieoff := 2 } } : State).dieUp 1 = false := by
  exact ⟨⟨0, 3, by decide⟩, by decide +kernel⟩

/-- The vault of PA 0x5000 halts, and so does the one of PA 0x700000. -/
def hot : State := { sq with vaults := [(0, { (sq.vault 0) with halt := true })] }
theorem wit_HostAccesses : (hostSpan sq 0x5000 2 = true ∧ meetsSpring sq (0x5000, 2) = false ∧ linkHeld sq 0x5000 2 = false ∧ sq.heldWrites = []) ∧
    (hostSpan hot 0x5000 2 = true ∧ meetsSpring hot (0x5000, 2) = false ∧ linkHeld hot 0x5000 2 = true) ∧ linkHeld sq 0x100000 12416 = false ∧
    (hostSpan sq 0x50000 2 = true ∧ meetsSpring { sq with springs := [(springKey 1 0, spr)] } (0x50000, 2) = true) ∧ hostSpan sq 0x100000 12416 = true ∧
    hostSpan sq 0xFFFFFFFFFFFFF 12416 = false ∧ (({ fw sq with host := { sq.host with fwstat := 0x60000000 } } : State).host.fwstat.toNat / 2 ^ 28 % 4 = 2 ∧
      ({ fw sq with host := { sq.host with fwstat := 0x60000000 } } : State).host.fwstat.getLsbD 30 = true) := by decide +kernel
/-- Whether stacked DRAM comes up, whether an image verifies and what a configuration record says are not given (log entry 5): where they
are, every other condition of a device reset and of a firmware update can hold. -/
def boots : State :=
  ({ sq with host := { sq.host with bootimg := 0x600000, bootcfg := 0x610000 } } : State).poke 0x600010 [0, 1]
/-- What verifies an image: its hash with the signature's bytes zero, and the signature. -/
abbrev verifies (img : List Byte) : Bool :=
  Config.ecdsaVerifies Config.waimusKey (Config.sha384 (img.take 160 ++ List.replicate 96 0 ++ img.drop 256)) ((img.drop 160).take 48) ((img.drop 208).take 48)
theorem wit_DeviceReset : ∀ caps halfw dis, Config.dramUp boots.free = true → verifies (Mem.readN boots.mem 0x600000 256) = true → Config.configBytes ≤ 4096 →
    Config.configRecord (Mem.readN boots.mem 0x610000 Config.configBytes) = some (0, caps, halfw, dis) →
    let size := boots.peek (boots.host.bootimg.toNat + 16) 8
    let img := Mem.readN boots.mem boots.host.bootimg.toNat size
    256 ≤ size ∧ boots.host.bootimg.toNat + size ≤ 2 ^ 38 ∧ boots.host.bootcfg.toNat + Config.configBytes ≤ 2 ^ 38 ∧ verifies img = true ∧
      Config.configRecord (Mem.readN boots.mem boots.host.bootcfg.toNat Config.configBytes) = some (0, caps, halfw, dis) ∧ 0 ≤ imgSvn img := by
  intro caps halfw dis _ h1 h2 h3
  have b : boots.host.bootimg.toNat = 0x600000 := by decide +kernel
  have c : boots.host.bootcfg.toNat = 0x610000 := by decide +kernel
  simp only [b, c]
  exact ⟨by decide, by decide, by omega, h1, h3, Nat.zero_le _⟩
/-- A resume of a saved context: its image's hash is not given (log entry 5); where the header holds it, the rest can hold. -/
def sv : State := ({ sq with ctxs := [(1, saved)] }).poke 0x500000 [0, 0, 0, 0, 0, 0, 0, 1, 0, 0, 0, 0, 1]
theorem wit_Resume : (Packets [(0x15, own 0x15 [0], sv, decide (look sv.parts 0 = some part ∧ part.resize = none ∧ look sv.ctxs 1 = some saved ∧ saved.st = .saved ∧ linkHeld sv saved.save (max 1 saved.saveBytes) = false ∧
      resumeFits (resumeContext (sv.updCtx 1 (fun x => { x with map := saved.map })) 1) 1 = true))]) ∧
    ((Config.sha384 (Mem.readN sv.mem (0x500000 + 64) 960)).toNat = 0 → imageOk sv saved = true) := by
  refine ⟨packets (by decide +kernel), fun h => ?_⟩
  have h1 : bits (sv.peek 0x500000 64) 127 96 = 1 := by decide +kernel
  have h2 : bits (sv.peek 0x500000 64) 511 128 = 0 := by decide +kernel
  have h3 : bits (sv.peek 0x500000 64) 63 56 = 1 := by decide +kernel
  simp only [imageOk, show saved.save = 0x500000 from rfl, show saved.saveBytes = 4096 from rfl, h1, h2, h3, show 1024 * 1 - 64 = 960 from rfl, h]
  decide
/-- A saved team of a live context. -/
def restored : State := { sq with teams := [(1, { team (group (lane 0 0 0 0 0) (lane 1 0 0 0 0)) with saved := true })] }
theorem wit_Restore : ∃ t, look restored.teams 1 = some t ∧ resumeCore restored t = some 0 := ⟨_, rfl, by decide +kernel⟩
/-- A context whose save may end. -/
def saving : State := { restored with ctxs := [(1, { placeCtx with st := .preempting 0, preempters := [(1, 4)] })] }
theorem wit_PreemptSaveComplete : saveReady saving 1 0 = true ∧ ∀ x, look saving.parts 0 = some x → x.resize = none := by
  refine ⟨by decide +kernel, fun x h => ?_⟩
  have : look saving.parts 0 = some part := by decide +kernel
  rw [this] at h; cases h; decide
theorem wit_DieOffline : Packets [(0x09, adm 0x09 [1], sq, sq.dieUp 1 && sq.dieUp 0)] := packets (by decide +kernel)

/-! ### The queues of a line core, and presentation streams -/

/-- A copy command of 64 bytes between PA 0x700000 and the line store, and a matrix command, at a stage. -/
def copyCmd (started : Bool) (data : List Byte) : LCmd := { qcmd with blk := [0, 0, 256, 64], pa := 0x700000, ss := some 3, started := started, data := data, f0 := true, f1 := true }
/-- A matrix command of BF16 into FP32 that adds C. -/
def mmcCmd (started : Bool) (n : Nat) : LCmd := { copyCmd started (List.replicate n 1) with blk := [0x1000, 0x2000, 0x3000, 1] }
/-- A state whose line core 0 holds a command in each queue. -/
def cmdAt (pa : Nat) (started : Bool) (n : Nat) : State :=
  li true { lcOn with ldq := [{ copyCmd started [1, 2] with pa := pa }], stq := [{ copyCmd started [1, 2] with pa := pa }], mq := [mmcCmd started n] }
theorem wit_LineCoreCommandsStart : (((cmdAt 0x700000 false 0).lc 0).halt = false ∧ ((cmdAt 0x700000 false 0).lc 0).stopped = false) ∧
    (∀ k ∈ [copyCmd false [1, 2], mmcCmd false 0], (k.started = false ∧ k.ws = none)) ∧
    ((cmdAt 0x700000 false 0).lc 0).allFull (tilesOf [(copyAddr (copyCmd false []).blk, copyCount (copyCmd false []).blk)]) = true ∧
    copyHeld (cmdAt 0x700000 false 0) (copyCmd false [1, 2]) = false ∧ copyBad (cmdAt 0x700000 false 0) (copyCmd false [1, 2]) = false ∧
    copyBad (cmdAt 0xFFFFFFFFFFFF0 false 0) { copyCmd false [1, 2] with pa := 0xFFFFFFFFFFFF0 } = true ∧
    copyHeld (cmdAt 0xFFFFFFFFFFFF0 false 0) { copyCmd false [1, 2] with pa := 0xFFFFFFFFFFFF0 } = false := by decide +kernel
theorem wit_LineCoreCommandsComplete : let c := (cmdAt 0x700000 true 8192).lc 0
    c.ldq = [copyCmd true [1, 2]] ∧ c.stq = [copyCmd true [1, 2]] ∧ c.mq = [mmcCmd true 8192] ∧ (mmcCmd true 8192).data.length = 4096 + 1024 * 4 ∧
      (copyCmd true [1, 2]).ss = some 3 ∧ (∃ x, look c.sems 3 = some x ∧ x.count < x.ceiling) ∧
      copyBad (cmdAt 0x700000 true 0) (copyCmd true [1, 2]) = false ∧ copyHeld (cmdAt 0x700000 true 0) (copyCmd true [1, 2]) = false :=
  ⟨rfl, rfl, rfl, by decide +kernel, rfl, ⟨_, rfl, by decide⟩, by decide +kernel, by decide +kernel⟩

/-- A frame of the stream, its slice listed. -/
def frame (ends : Sparse SliceEnd) (passed : List Nat) : Frame := { num := 0, index := 1, pose := ps.pose, ends := ends, passed := passed, bw := [(0, [1, 2, 3, 4])], owed := [] }
/-- The slice on the launch list. -/
def slice0 : Listed := { frame := 0, slice := 0, deadline := 5000000, pose := ps.pose }
/-- The stream in its frame 0. -/
def psOn (ends : Sparse SliceEnd) (passed : List Nat) : PStream :=
  { ps with frame := some 0, latch := (1, 0), listed := [slice0], frames := [frame ends passed] }
/-- A state with the stream at a device time, and a line core. -/
def sl (now : Nat) (p : PStream) (c : LineCore) : State := { sq with now := now, streams := [(0, p)], lcs := [(0, c)] }
theorem wit_FrameStartsAndLatches : ps.closing = none ∧ ps.frame = none ∧ ps.tfOf 0 ≤ pCycles 5000000 ∧ ps.latch = (0, 0) ∧ ps.latchAt 0 0 ≤ pCycles 5000000 ∧
    ({ ps with closing := some ((1, 3), false) } : PStream).closing = some ((1, 3), false) ∧
    backHeld (sl 5000000 ps LineCore.zero) ps ps.last = false := by decide +kernel
theorem wit_SliceLaunches : (sl 4000000 (psOn [] []) LineCore.zero).edie = true ∧ 0 < (sl 4000000 (psOn [] []) LineCore.zero).lcores ∧ ((sl 4000000 (psOn [] []) LineCore.zero).lc 0).runs = false ∧
    leastBy (fun e => e.2.2.deadline * 2 ^ 16 + e.1 * 2 ^ 8 + e.2.2.slice) (listedFor (sl 4000000 (psOn [] []) LineCore.zero) 0) = some (0, psOn [] [], slice0) := by decide +kernel
/-- The line core that runs the slice, done with it or not. -/
def runner (done : Bool) : LineCore :=
  { LineCore.zero with run := .slice 0 0 0 [], cs := { LStream.zero with ended := done, on := !done }, vs := { LStream.zero with ended := done, on := !done } }
/-- A frame whose missed slice still owes its backwater slice. -/
def owes : Frame := { frame [(0, .missed)] [0] with bw := [], owed := [(0, ps.pose, none)] }
theorem wit_SlicesEnd : (sl 4000000 (psOn [] []) (runner true)).lc 0 = runner true ∧ (runner true).sliceDone = true ∧
    ((psOn [] []).frameAt 0 = some (frame [] []) ∧ (psOn [] []).deadline 0 0 ≤ pCycles 4500000 ∧ coreOf (sl 4500000 (psOn [] []) (runner false)) 0 0 0 = some 0 ∧
      (runner false).sliceDone = false) ∧
    ((psOn [(0, .missed)] [0]).frameAt 0 = some (frame [(0, .missed)] [0]) ∧ look (frame [(0, .missed)] [0]).ends 0 = some .missed ∧
      look (frame [(0, .missed)] [0]).bw 0 = some [1, 2, 3, 4] ∧ look (frame [(0, .missed)] [0]).owed 0 = none ∧ (runner false).queuesEmpty = true ∧
      edieHeld (sl 4500000 (psOn [(0, .missed)] [0]) (runner false)) ((psOn [(0, .missed)] [0]).sliceRows 0 0) ((psOn [(0, .missed)] [0]).sliceBytes 0) = false) ∧
    (look owes.owed 0 = some (ps.pose, none) ∧ look owes.ends 0 = some .missed ∧ backHeld (sl 4500000 ps (runner false)) ps none = false) := by decide +kernel
/-- The length of an encoded tile row is not given (log entry 5): it may fit, and it may not. -/
theorem wit_Encoders : ((psOn [(0, .complete)] [0]).frameAt 0 = some (frame [(0, .complete)] [0]) ∧ ps.fld 295 293 ≠ 0 ∧ (psOn [(0, .complete)] [0]).slices = 1 ∧
      (psOn [(0, .complete)] [0]).dropping = none ∧ (psOn [(0, .complete)] [0]).rowHeld (sl 5000000 (psOn [(0, .complete)] [0]) LineCore.zero) (frame [(0, .complete)] [0]) 0 = false ∧ ps.desc.getLsbD 290 = true ∧ ({ ps with dropping := some 0 } : PStream).dropping ≠ none) ∧
    ringFits (psOn [(0, .complete)] [0]) 32 = true ∧ ringFits (psOn [(0, .complete)] [0]) 65536 = false := by decide +kernel

/-! ### What happens on a core beside its words -/

/-- An eddy bin of one lane. -/
def bin : Bin := { num := 4, role := 0, pc := 8, cb := [], lanes := [lane 9 1 2 3 4], since := 0 }
/-- A parked word that waits for a fault, and one with a failed spring block. -/
def park (faults : BitVec 32) (failed : List Failed) (un : Bool) : Park :=
  { kind := 0, faults := faults, misses := [], retry := 0, failed := failed, unrecorded := un, order := 0, fetch := false }
/-- A failed block. -/
def failed1 : Failed := { lanes := 1, va := 0x40000, base := 0x40000, cause := 0x0A, task := 5, detail := 6 }
/-- A team with two group slots and a bin, at 1 ms. -/
def bn : State := { chgT s0 (fun t => { t with spec := { spec0 with roles := [{ entry := 0, groups := 2, regs := 128 }] }, bins := [bin] }) with now := 1000000 }
/-- An armed arrival slot that holds a start. -/
def arr0 : ArrSlot := { armed := some (12, 0), starts := [(1, 64, 7)], running := none }
theorem wit_GroupsAreDrawn : ∃ t, look bn.teams 1 = some t ∧ t.bins.find? (fun b => b.num = 4) = some bin ∧ t.freeSlot bin.role = some 1 ∧
    nextBin t bn.now bin.role = some bin ∧ t.saved = false ∧ t.doom = none := ⟨_, rfl, by decide +kernel⟩
theorem wit_GroupsAge : ∃ t m, look bn.teams 1 = some t ∧ t.member 0 = some m ∧ held bn t m = false ∧
    2048 ≤ bn.now * 940 / 1000 - (max m.ready m.issued) * 940 / 1000 := ⟨_, _, rfl, rfl, by decide +kernel⟩
/-- A bank whose only group waits, another bank whose group does not. -/
def banks (p : Option Park) (now : Nat) : State :=
  { chg s0 (fun m => { m with park := p }) with now := now, teams := (chg s0 (fun m => { m with park := p })).teams ++
    [(2, { team (group (lane 0 0 0 0 0) (lane 1 0 0 0 0)) with ctx := 2, seat := { core := 0, vcore := 0, bank := 1, cluster := 0, run := 0, placed := 0, rising := false, charge := 0 } })] }
theorem wit_BankSwitches : ((∀ e ∈ bankGroups (banks (some (park 1 [] false)) 0) 0 0, e.2.parked = true) ∧
      ∃ e ∈ bankGroups (banks (some (park 1 [] false)) 0) 0 1, e.2.parked = false) ∧
    (∃ e ∈ bankGroups (banks none 1000000) 0 1, held (banks none 1000000) e.1 e.2 = false ∧ 2048 ≤ 1000000 * 940 / 1000 - (max e.2.ready e.2.issued) * 940 / 1000) := by
  decide +kernel
/-- The member's budget is spent. -/
def spent (m : Member) : Member := { m with trap := { Trap.zero with inh := true, tepc := 9, budget := 0 } }
/-- Its context has been asked to stop. -/
def asked : State := { s0 with ctxs := [(1, { placeCtx with st := .preempting 0 })] }
theorem wit_TrapEntries :
    (∃ m, (chg s0 (fun m => { m with due := some (0x08, 0) })).memberAt 1 0 = some m ∧ m.due = some (0x08, 0)) ∧
    (∃ t m, look (chg s0 (fun m => { m with park := some (park 0 [failed1] false) })).teams 1 = some t ∧ t.member 0 = some m ∧
      (m.due = none ∧ m.park = some (park 0 [failed1] false) ∧ (postFaults s0 (dieOf t.seat.core) [failedRec s0 t m (park 0 [failed1] false) failed1]).2 = true)) ∧
    (∃ m, (chg s0 spent).memberAt 1 0 = some m ∧ m.trap.inh = true ∧ m.trap.budget = 0) ∧
    (∃ t m, look s0.teams 1 = some t ∧ t.member 0 = some m ∧ stopped s0 t m = false ∧ t.doom = none ∧ t.saved = false) ∧
    (∃ t m, look asked.teams 1 = some t ∧ t.member 0 = some m ∧ stopped asked t m = true ∧ t.doom = none ∧ t.saved = false) :=
  ⟨⟨_, rfl, rfl⟩, ⟨_, _, rfl, rfl, by decide +kernel⟩, ⟨_, rfl, rfl, rfl⟩, ⟨_, _, rfl, rfl, by decide +kernel⟩, ⟨_, _, rfl, rfl, by decide +kernel⟩⟩
theorem wit_Retries : (∃ m, (chg s0 (fun m => { m with park := some (park 3 [] true) })).memberAt 1 0 = some m ∧ m.park = some (park 3 [] true) ∧
      (park 3 [] true).unrecorded = true) ∧
    ((1 : DWord).toNat % 2 ^ 32 = 1 ∧ ((0x100000000 : DWord).toNat / 2 ^ 32 = 1 ∧ (0x100000000 : DWord).toNat % 2 ^ 11 = 0)) ∧
    (∃ t, look (chgT bn (fun t => { t with arrivals := [(0, arr0)] })).teams 1 = some t ∧ (get ArrSlot.zero t.arrivals 0 = arr0 ∧ look t.arrivals 0 = some arr0 ∧
      t.freeSlot 0 = some 1 ∧ t.saved = false ∧ t.doom = none)) :=
  ⟨⟨_, rfl, rfl, rfl⟩, by decide +kernel, ⟨_, rfl, by decide +kernel⟩⟩

/-! ### Springs and placement -/

/-- A miss of the member on block 0, whose entry has a first byte. -/
def miss (e : Byte) : State :=
  ({ chg sn (fun m => { m with park := some { park 0 (if e = 3 then [] else []) false with misses := [{ spring := 0, block := 0, lanes := 1, va := 0x40000 }] } }) with
    springs := [(springKey 1 0, spr)], misses := [{ ctx := 1, spring := 0, block := 0, who := .member 1 0 }] }).poke 0x50000 [e]
theorem wit_SpringMisses : ∀ e ∈ [(0 : Byte), 1, 2, 3], ((miss e).misses[0]? = some { ctx := 1, spring := 0, block := 0, who := .member 1 0 } ∧
    missHeld (miss e) 0 { ctx := 1, spring := 0, block := 0, who := .member 1 0 } = false ∧
    look (miss e).springs (springKey 1 0) = some spr ∧ spr.key = springKey 1 0 ∧ (miss e).fillEntry spr 0 = e.toNat ∧
    ((miss e).memberAt 1 0).isSome = true ∧ ((look (miss e).teams 1).map (·.gen)) = some none) ∧
    (e = 0 → freeFrames { miss e with misses := (miss e).misses.eraseIdx 0 } spr ≠ []) := by decide +kernel
/-- A spring with a block that waits for a frame, a waiting generator, or an eviction. -/
def spx (f : Spring → Spring) : State := { sn with springs := [(springKey 1 0, f spr)], parts := [(0, part)] }
/-- A spring whose block 0 is generated by a team that fails. -/
def failing : State := chgT sg (fun t => { t with doom := some { reason := 0, cause := 0, pc := 5, slot := 0, detail := 0, genCause := 0x0A } })
theorem wit_SpringBlocks : freeFrames (spx (fun p => { p with noFrame := [(1, 0, 1, 0)] })) { spr with noFrame := [(1, 0, 1, 0)] } ≠ [] ∧
    (∃ t d, runningGen failing 1 0 0 = some (1, t) ∧ t.doom = some d) ∧
    ((∃ e ∈ ({ spr with evicting := [(0, none)] } : Spring).evicting, e.1 = 0) ∧ (∀ w ∈ spr.waiters, w.1 ≠ 0) ∧
      (∀ b ∈ [0, 1], linkHeld sn (spr.entryPa b) 32 = false) ∧ linkHeld failing (spr.entryPa 0) 32 = false ∧
      homeHeld (spx (fun p => { p with evicting := [(0, none)] })) { spr with evicting := [(0, none)] } 0 = false) :=
  ⟨by decide +kernel, ⟨_, _, rfl, rfl⟩, by decide +kernel⟩

/-- Spring 0 with a generator that waits for its team, in a partition that has room. -/
def gq : State := spx (fun p => { p with queue := [{ block := 1, depth := 0, prio := 1, order := 0, origin := 0 }] })
/-- A launch of one iteration. -/
def launch (cursor : Nat) (again : List (Nat × Nat)) : Launch :=
  { ctx := 1, part := 0, lid := 1, packet := (1, 0), spec := spec0, dies := 1, cursor := cursor, again := again, rises := 0, since := 0,
    blocked := [(0, 0)], holds := [] }
/-- A state with it, without a team. -/
def ln (l : Launch) : State := { sq with launches := [(0, l)], now := 2000000, freshTeam := 2 }
/-- A retired team. -/
def retired (f : Team → Team) : State :=
  chgT { sn with cmds := [] } (fun t => f { t with members := t.members.map (fun m => { m with lanes := [] }), objs := [] })
theorem wit_GeneratorPlacement : ∃ p g, (genQueue gq)[0]? = some (p, g) ∧ genPlace gq p g true 50 1 = some 1 := ⟨_, _, rfl, by decide +kernel⟩
theorem wit_TeamPlacement : let s := ln (launch 0 [])
    let l := launch 0 []
    (s.dieUp 0 = true ∧ (look s.dispatch 0).getD 0 ≤ s.now ∧ servedBy s 0 = [(0, l)] ∧ (l.spec.cw = 1 ∧ l.spec.ch = 1 ∧ l.again = [] ∧ l.cursor < l.spec.iterations) ∧
      (∀ e ∈ s.teams, e.1 < s.freshTeam) ∧ look s.launches 0 = some l) ∧ (look l.blocked 0).isSome = true ∧
    (3 / 512 = 0 ∧ acceptable s l.part l.ctx 3 = true ∧ (checkCore s (l.ask s l.cursor) 3).toOption = some 0) := by decide +kernel
theorem wit_LaunchesRiseHoldAndComplete : let s := ln (launch 1 [])
    (launch 1 []).since + 1000000 * ((launch 1 []).rises + 1) ≤ s.now ∧ min 7 ((launch 1 []).spec.prio + (launch 1 []).rises) < 7 ∧
      look (launch 1 []).blocked 0 = some 0 ∧ 0 + 1000000 < s.now ∧ ((launch 0 []).again ≠ [] ∨ (launch 0 []).cursor < (launch 0 []).spec.iterations) ∧
      look (launch 0 []).blocked 0 = some 0 ∧ (launch 1 []).spec.iterations ≤ (launch 1 []).cursor ∧ s.teams = [] ∧ s.abands = [] := by
  decide +kernel
theorem wit_Retirement : (∃ t, look (retired id).teams 1 = some t ∧ (retireReady (retired id) 1 t = true ∧ t.gen = none ∧ commitFits (retired id) 1 t = true)) ∧
    (∃ t, look (retired (fun t => { t with spec := { spec0 with keep := true } })).teams 1 = some t ∧
      (retireReady (retired (fun t => { t with spec := { spec0 with keep := true } })) 1 t = true ∧ t.spec.keep = true)) ∧
    ∃ t, look (retired (fun t => { t with ver := { t.ver with reads := [0x20000], writes := [0x20000] } })).teams 1 = some t ∧
      (retireReady (retired (fun t => { t with ver := { t.ver with reads := [0x20000], writes := [0x20000] } })) 1 t = true ∧ t.gen = none ∧
        commitFits (retired (fun t => { t with ver := { t.ver with reads := [0x20000], writes := [0x20000] } })) 1 t = false) :=
  ⟨⟨_, rfl, by decide +kernel⟩, ⟨_, rfl, by decide +kernel⟩, ⟨_, rfl, by decide +kernel⟩⟩
/-- An abandoned team of launch 0, to be dispatched again or not. -/
def doomed (reason : Nat) : State :=
  { chgT sn (fun t => { t with launch := some 0, doom := some { reason := reason, cause := 5, pc := 5, slot := 0, detail := 0, genCause := 0x0A } }) with
    launches := [(0, launch 1 [])] }
theorem wit_Abandonment : ∀ r ∈ [1, 4], ∃ t d, look (doomed r).teams 1 = some t ∧ t.doom = some d ∧ t.gen = none ∧ (doomed r).now < 2 ^ 64 ∧ d.reason < 16 ∧
    d.cause < 256 ∧ d.slot < 32 ∧ t.part < 64 ∧ t.seat.bank < 2 ∧ t.seat.vcore < 2048 ∧ t.ctx < 2 ^ 32 ∧ d.reason = r ∧ t.ver.dirw = false ∧ t.retry < 3 := by
  intro r hr
  simp only [List.mem_cons, List.not_mem_nil, or_false] at hr
  rcases hr with rfl | rfl <;> exact ⟨_, _, rfl, rfl, by decide +kernel⟩

/-! ### Engines and matrices -/

/-- A command of the team. -/
def cmd (matrix : Bool) (j : Job) (ph : Phase) : Command :=
  { id := 3, core := 0, team := 1, mem := 0, slot := 0, pc := 5, matrix := matrix, token := some 9, uses := [], ring := none, job := j, phase := ph,
    stop := .none, startAt := 0 }
/-- A state with a command: buffers of 4096 bytes, a target team with index 0 on virtual core 0. -/
def ec (k : Command) : State := { chgT (en []) (fun t => { t with launch := some 0, arrivals := [(0, { arr0 with starts := [] })] }) with cmds := [k] }
/-- It consumes token 7, which is in ERROR. -/
def uses7 (k : Command) : Command := { k with uses := [7] }
/-- A copy of 16 bytes from buffer 2 to buffer 1. -/
def copy16 : Job := .copy (.obj 2 0) (.obj 1 16) none 16
theorem wit_EngineCommands : (startable (ec (cmd false copy16 .accepted)) (cmd false copy16 .accepted) = true ∧
      usedError (ec (cmd false copy16 .accepted)) (cmd false copy16 .accepted) = none) ∧
    (startable (ec (uses7 (cmd false copy16 .accepted))) (uses7 (cmd false copy16 .accepted)) = true ∧
      usedError (ec (uses7 (cmd false copy16 .accepted))) (uses7 (cmd false copy16 .accepted)) = some (8, 0x2000)) ∧
    (∀ j ∈ [copy16, .zero (.obj 1 16) 16, .gath (.obj 2 0) (.obj 1 0) 4 [(0, 4)]], (ec (cmd false j .started)).cmd 3 = some (cmd false j .started) ∧
      runnable (ec (cmd false j .started)) (cmd false j .started) = true) ∧
    (((look (ec (cmd false copy16 .started)).teams 1).bind (fun t => t.obj 1)).isSome = true ∧ ((look (ec (cmd false copy16 .started)).teams 1).bind (fun t => t.obj 2)).isSome = true) := by
  decide +kernel
/-- A read that goes through, one that stops at an unmapped page, and one that has a cause. -/
def readsAs (src : End) : Nat :=
  match readEnd (ec (cmd false copy16 .started)) (cmd false copy16 .started) src false [(0, 0)] with
  | .ok .. => 0
  | .halt .. => 1
  | .err .. => 2
theorem wit_EngineReads : readsAs (.obj 2 0) = 0 ∧ readsAs (.glob (record 0x80000000 256 [234]) 0) = 1 ∧ readsAs (.glob (record 0x7FFFFFFFFFFFF 256 [234]) 0) ≠ 0 := by
  decide +kernel
/-- An XSEND whose landing is on its way to buffer 1 of the team itself. -/
def sendJob : Job := .send (.obj 2 0) none 4 0 0 1 8 12
theorem wit_Landing : (∃ t o, look (ec (cmd false sendJob (.landing [1, 2, 3, 4] 0))).teams 1 = some t ∧ t.obj 1 = some o ∧
      ((ec (cmd false sendJob (.landing [1, 2, 3, 4] 0))).teams.find? (fun e => e.2.launchKey = t.launchKey && e.2.index = 0 && e.2.seat.vcore = 0) = some (1, t) ∧
        t.saved = false ∧ physCore (ec (cmd false sendJob (.landing [1, 2, 3, 4] 0))) t.ctx 0 ≠ none ∧ t.doom = none ∧ o.kind = .buffer ∧ o.land = true ∧
        o.st = .filling ∧ ∀ p ∈ pairsOf none 4, 8 + p.2 < o.bytes)) ∧
    ∃ t o, look (ec (cmd false sendJob (.arriving 1 1 [1, 2, 3, 4]))).teams 1 = some t ∧ t.obj 1 = some o ∧
      (t.saved = false ∧ pairsOf none 4 ≠ [] ∧ look t.arrivals 0 = some { arr0 with starts := [] }) :=
  ⟨⟨_, _, rfl, rfl, by decide +kernel⟩, ⟨_, _, rfl, rfl, by decide +kernel⟩⟩
/-- A collective of two participants, complete: a sum, a broadcast's root, a gather. -/
def coll (op : Nat) : Coll := { launch := 0, sc := 0, inst := 0, id := 1, shape := (op, 0, 1, 2), parts := [(0, 3, some [1, 0, 0, 0]), (1, 4, some [2, 0, 0, 0])] }
theorem wit_Collectives : ∀ op ∈ [0, 1, 3], look [(0, coll op)] 0 = some (coll op) ∧ (coll op).shape.2.2.2 ≤ (coll op).parts.length ∧ (coll op).shape.1 ≠ 2 ∧
    (coll op).parted { sn with colls := [(0, coll op)] } = false := by decide +kernel

/-- An MMA of FP8 operands from buffer 2 into tile 0, sparse or not. -/
def mmaJob (u : Option Nat) : Job := .mma 0 0 0 false false 2 0 0 u [] [] []
/-- A state whose team holds the metadata unit of a pair of equal positions. -/
def em (k : Command) (units : Bytes) : State := { chgT (ec k) (fun t => { t with units := units }) with now := 100000 }
theorem wit_MatrixEntriesStart : (startable (em (cmd true (mmaJob none) .accepted) []) (cmd true (mmaJob none) .accepted) = true ∧
      ((em (cmd true (mmaJob none) .accepted) []).core 0).mreset = false ∧ usedError (em (cmd true (mmaJob none) .accepted) []) (cmd true (mmaJob none) .accepted) = none ∧
      liveCmds (em (cmd true (mmaJob none) .accepted) []) = [cmd true (mmaJob none) .accepted]) ∧
    metaInvalid [] 0 (widthClass 0) = true ∧ metaInvalid ((List.range 512).map (fun i => (i, 0x44))) 0 (widthClass 0) = false ∧
    ((look (em (cmd true (mmaJob none) .accepted) []).teams 1).bind (fun t => t.obj 2)).isSome = true := by decide +kernel
theorem wit_MatrixEntriesComplete : ∀ j ∈ [mmaJob none, .accZero 0, .accRet 0 (.obj 1 0) 0, .metaLd 0 (.obj 2 0) 128],
    (em (cmd true j .started) []).cmd 3 = some (cmd true j .started) ∧ runnable (em (cmd true j .started) []) (cmd true j .started) = true := by decide +kernel
/-- A second team of the core that has no entry in its matrix queue. -/
def lone : State := let s := em (cmd true (mmaJob none) .started) []
  { s with teams := s.teams ++ [(2, team (group (lane 0 0 0 0 0) (lane 1 0 0 0 0)))] }
theorem wit_MatrixReset : let s := em (cmd true (mmaJob none) .started) []
    (cmd true (mmaJob none) .started ∈ liveCmds s ∧ 0 + 80000 ≤ s.now) ∧
    (∃ t, look s.teams 1 = some t ∧ (∀ e ∈ s.teams, e.1 = 1 → e.2 = t) ∧ (matrixAffected s 0 1 t = true ∧ t.doom = none)) ∧
    (∃ t, look lone.teams 2 = some t ∧ (matrixAffected lone 0 2 t = false ∧ ∀ y ∈ lone.cmds, y.matrix = true → y.phase = .started)) ∧
    (({ s with cores := [(0, { CoreState.zero with mreset := true, mend := 50 })] } : State).core 0).mend ≤ s.now := by
  refine ⟨by decide +kernel, ⟨_, rfl, by decide +kernel, by decide +kernel⟩, ⟨_, rfl, by decide +kernel⟩, by decide +kernel⟩

/-! ### Vaults, weirs, clocks and links -/

/-- A rising team. -/
def rising : State := { chgT sn (fun t => { t with seat := { t.seat with rising := true } }) with now := 20000000 }
/-- Vault 0 at a step of its refresh interval. -/
def vt (ivl : Nat) (cool : Option Nat) : State := { sq with vaults := [(0, { (sq.vault 0) with ivl := ivl, cool := cool })], now := 10000000 }
theorem wit_Vaults : sq.dieUp (0 / 32) = true ∧ ((vt 1 (some 0)).vault 0 = { (sq.vault 0) with ivl := 1, cool := some 0 }) ∧
    (∃ t, look rising.teams 1 = some t ∧ t.seat.rising = true ∧ t.seat.placed + 20000000 ≤ rising.now ∧ t.part < 64) ∧
    ((5 : Word).toNat % 2 ^ 11 + (5 : Word).toNat / 2 ^ 16 % 2 ^ 11 + (sq.vault 0).mr + 21 ≤ 1024 ∧
      1024 < (0x7FF : Word).toNat % 2 ^ 11 + (0x7FF : Word).toNat / 2 ^ 16 % 2 ^ 11 + (sq.vault 0).mr + 21) :=
  ⟨by decide +kernel, by decide +kernel, ⟨_, rfl, by decide +kernel⟩, by decide +kernel⟩
/-- A member that waits for a weir of level 3. -/
def wr : State := { chg s0 (fun m => { m with wait := .weir 3 7 }) with reaches := [(0, { (s0.reach 0) with gmax := 4, gpool := 8 })] }
theorem wit_WeirGrant : ∃ e, (grantQueue wr 0).find? (fun x => grantable wr 0 x.2.2.2) = some e ∧ e.2.2.1.wait = .weir e.2.2.2 7 ∧
    look wr.teams e.1 = some e.2.1 ∧ e.2.1.member e.2.2.1.id = some e.2.2.1 := ⟨_, rfl, by decide +kernel⟩
/-- Reach 0 in a hop. -/
def hop (locked : Option Nat) (st : Bool) : State :=
  { sq with reaches := [(0, { (sq.reach 0) with hop := some { new := 2, old := 1, since := 0, locked := locked }, stretch := st })], now := 20000 }
theorem wit_Clocks : (sq.offersRate 2 = true ∧ sq.offersRate 3 = false ∧ (sq.reach 0).hop = none ∧ (sq.reach 0).lrate = 1 ∧ sq.offersRate 1 = true ∧ sq.offersRate 0 = true) ∧
    ((hop none false).reach 0).hop = some { new := 2, old := 1, since := 0, locked := none } ∧ ((hop none true).reach 0).stretch = true ∧
    ((hop (some 0) true).reach 0).hop = some { new := 2, old := 1, since := 0, locked := some 0 } ∧ ((hop (some 0) true).reach 0).nextCfg = none ∧
    (0 + 16000 < (hop (some 0) true).now) ∧ (({ hop (some 0) true with now := 16000 } : State).now ≤ 0 + 16000 ∧
      0 + 16000 ≤ ({ hop (some 0) true with now := 16000 } : State).now) := by decide +kernel
theorem wit_ReachAndDieRegisters : (5 : Word).toNat % 2 ^ 16 ≤ ({ sq with pkgcap := 5 } : State).pkgcap.toNat ∧ ({ sq with pkgcap := 5 } : State).pkgcap.toNat < (6 : Word).toNat % 2 ^ 16 ∧
    (16 : Word).toNat % 32 ≤ 16 ∧ 16 < (17 : Word).toNat % 32 ∧
    (storeBusy sq 0 = false ∧ (4 : Word).toNat % 8 ≤ bits ((sq.device.caps[2]?.getD 0).toNat) 18 16 ∧ shareSum sq 0 ≤ 128 * 4) ∧ ¬ (5 : Word).toNat % 8 ≤ 4 ∧
    ((sq.reach 0).filled < 20000 / 1000 ∧ ¬ 1000 / 1000 ≤ (sq.reach 0).filled ∧ 8000 % 4000 = 250 * sq.phcfg.2 ∧ (sq.reach 0).moved = none) := by decide +kernel
/-- Port 0 retrains, and holds a write of the CXL pool window. -/
def heldPort : State :=
  { sq.setPort 0 { retraining := true, tries := 1, failed := false } with heldWrites := [(0x1000000000000, some [7])] }
theorem wit_LinksAndPorts : (heldPort.portUp 0 = true ∧ (heldPort.port 0).failed = false ∧ (heldPort.port 0).retraining = true ∧
      heldPort.heldWrites = [(0x1000000000000, some [7])] ∧ (∀ e ∈ heldPort.rings, e.2.out = []) ∧ (∀ e ∈ heldPort.units, e.2.fbout = [] ∧ e.2.nqout = []) ∧ hostSpan heldPort 0x1000000000000 1 = true ∧
      linkHeld (heldPort.setPort 0 { retraining := false, tries := 0, failed := false }) 0x1000000000000 1 = false) ∧
    (sq.linkEnd 0 = true ∧ sq.linkEnd 1 = true ∧ (sq.link 0 1).failed = false ∧ (sq.link 0 1).retraining = false) ∧
    (sq.portUp 0 = true ∧ (sq.port 0).failed = false ∧ (sq.port 0).retraining = false) ∧
    ∀ n ∈ [2, 3], ((sq.setLink 0 1 { retraining := true, tries := n, failed := false }).link 0 1) = { retraining := true, tries := n, failed := false } ∧
      ((sq.setPort 0 { retraining := true, tries := n, failed := false }).port 0) = { retraining := true, tries := n, failed := false } := by decide +kernel

/-! ### Words, fetching and memory -/

/-- A word placed after reset, and what its team's only member is. -/
def placed (w : Nat) : State := State.reset.withFetchWord 80 w
/-- The member's turn, as the statement about a step asks it. -/
abbrev member0 (s : State) (t : Team) (m : Member) : Prop :=
  m.wait = .none ∧ m.lanes ≠ [] ∧ held s t m = false ∧ offBank s t = false ∧ m.park = none ∧ portBusy s t m = false
/-- What the fetch of the member's word comes to: the access path is open, and the word. -/
def fetched (s : State) (t : Team) (m : Member) : Option (Except Reject (Instr × List Byte)) :=
  let vas := (List.range 10).map (fun k => recVa t.spec.code (10 * m.pc.toNat + k))
  let y := reachLines s t (fetchWant t) (m.present.map (fun l => { lane := l, vas := vas }))
  if recExtent t.spec.code < 10 * m.pc.toNat + 10 ∨ recX t.spec.code = false then none
  else if linesHeld y.1 t y.2.tr = false ∧ y.2.cause = none ∧ y.2.bad = [] then some (decodeBytes (vas.map (fun a => Mem.read y.1.mem (bytePa y.2.tr a))))
  else none
/-- The state whose agenda names the member that is placed, the member changed. -/
def stepAt (w : Nat) (f : Member → Member) (g : Team → Team) : State := ((placed w).updTeam 0 g).updMember 0 0 f
theorem wit_StepsOfAMember : ∀ e ∈ [(stepAt 0 id id, 0), (stepAt 0 (fun m => { m with pc := 1 }) id, 1)],
    (e.1.agenda = [.member 0 0] ∧ (match look e.1.teams 0 with
      | some t => (match t.member 0 with
        | some m => decide (member0 { e.1 with agenda := [] } t m ∧ m.cont = none ∧ (recExtent t.spec.code < 10 * m.pc.toNat + 10 ↔ e.2 = 1))
        | none => false)
      | none => false) = true) := by decide +kernel
/-- A member that has issued in this fe-cycle; a member outside any weir beside one that waits inside an open weir on an empty millpond. -/
def port1 : State :=
  let s := stepAt 0 id id
  s.setCore 0 { s.core 0 with ports := [(0, 0), (Config.morePorts, 0)] }
/-- The second member's weir is open. -/
def pond : State := { stepAt 0x0002_0002_0103_200F_C038 id (fun t => { t with members := t.members ++ (t.members.map (fun m => { m with id := 1, slot := 1, weir := some weir2 })) })
  with reaches := [(0, { (State.reset.reach 0) with weights := 0x0101010101010101 })] }
theorem wit_PortsAndWeirs : (match look port1.teams 0 with
      | some t => (t.member 0).any (fun m => portBusy { port1 with agenda := [] } t m)
      | none => false) = true ∧
    (match look pond.teams 0 with
      | some t => (t.member 0).any (fun m => behindWeirs { pond with agenda := [] } 0 t m (.iadd (fr 2 0 3 1 2)))
      | none => false) = true ∧
    (match look (placed 0).teams 0 with
      | some t => (t.member 0).any (fun m => !behindWeirs { placed 0 with agenda := [] } 0 t m (.iadd (fr 2 0 3 1 2)))
      | none => false) = true := by decide +kernel
/-- A word that decodes at the placed PC, one that does not, and a code record without X. -/
def fetchOf (w : Nat) : Nat :=
  match look (placed w).teams 0 with
  | some t => (match t.member 0 with
    | some m => (match fetched { placed w with agenda := [] } t m with
      | some (.ok (.iadd _, _)) => 1
      | some (.error _) => 2
      | _ => 0)
    | none => 0)
  | none => 0
theorem wit_FetchedWords : fetchOf 0x0002_0002_0103_200F_C038 = 1 ∧ fetchOf 0xFFFF_FFFF_FFFF_FFFF_FFFF = 2 := by decide +kernel
theorem wit_NoXAndContinuedWords : recX (record 0x13000 10 [234]) = false ∧ 10 * (0 : Word).toNat + 10 ≤ recExtent (record 0x13000 10 [234]) ∧
    (rowOfOp 0x170 (fr 10 0 1 1 9)).isSome = true := by decide +kernel
/-- The vector stream of line core 0 has its turn, with the word of the first example after R369. -/
theorem wit_StreamSteps : let s := State.reset.withFetchWord 32 0x03050080
    s.agenda = [.stream 0 true] ∧ ((s.lc 0).halt = false ∧ (s.lc 0).stopped = false ∧ ((s.lc 0).stream true).on = true ∧ ((s.lc 0).stream true).blocked = none ∧
      4 * ((s.lc 0).stream true).pc + 4 ≤ ((s.lc 0).stream true).len ∧
      (decodePatch (BitVec.ofNat 32 (leVal ((List.range 4).map (fun k => Mem.read ((s.lc 0).stream true).code (4 * ((s.lc 0).stream true).pc + k)))))).toOption = some (.tplLd 5 128)) ∧
    (decodePatch 0xFFFFFFFF).toOption = none ∧ on.len < 4 * ({ on with pc := 1024 } : LStream).pc + 4 := by decide +kernel
theorem wit_Events : ({ State.reset with agenda := [.event (.droop 0)] } : State).agenda = .event (.droop 0) :: [] := rfl
theorem wit_MemoryAndVersions : Memory.wf sm.mem = true ∧ (∃ t, look (chgT sn (fun t => { t with ver := { t.ver with writes := [0x20000], cells := [(0x20000, 7)] } })).teams 1 = some t ∧
    t.ver.writes ≠ []) ∧ Memory.wf [] = true := ⟨by decide +kernel, ⟨_, rfl, by decide +kernel⟩, by decide⟩
theorem wit_StepsKeepMemoryCanonical : ∃ s', Memory.wf State.reset.mem = true ∧ step State.reset = .next s' := ⟨_, by decide +kernel, rfl⟩
theorem wit_RoundTrips : (∃ b, wellFormed (.iadd (add always)) = true ∧ encodeCalud (.iadd (add always)) = some b) ∧
    (∃ w, wellFormed (.tplLd 5 128) = true ∧ encodePatch (.tplLd 5 128) = some w) ∧ (∃ w, wellFormed (.saddi 4 2 1) = true ∧ encodeS0 (.saddi 4 2 1) = some w) ∧
    (∃ w, wellFormed (.vadd (vf 0 2 0 0)) = true ∧ encodeV (.vadd (vf 0 2 0 0)) = some w) ∧ (∃ w, wellFormed (.ldw (ld 9 0 1)) = true ∧ encodeLdSt (.ldw (ld 9 0 1)) = some w) ∧
    (∃ w, wellFormed (.qnop sem3) = true ∧ encodeQ (.qnop sem3) = some w) :=
  ⟨⟨_, by decide +kernel, rfl⟩, ⟨_, by decide +kernel, rfl⟩, ⟨_, by decide +kernel, rfl⟩, ⟨_, by decide +kernel, rfl⟩, ⟨_, by decide +kernel, rfl⟩, ⟨_, by decide +kernel, rfl⟩⟩

/-! ### Ill-formed terms: one for each check of WellFormed -/

/-- A word of format R with other common fields. -/
def fc (k : Common) (m : BitVec 16) (c b a d : BitVec 8) : CWord := { common := k, body := .r d a b c m }
-- R65 in its order: the format, TA = 6, RU, CRQ, a guard between 48 and 62, a guard on a uniform word, an M bit of no field,
-- SD with a vector source, a field beyond its class, an odd register of a pair, and a code of no entry
theorem smoke_format : wellFormed (.exitW (fi 0 0 0)) = false := by decide +kernel
theorem smoke_ta6 : wellFormed (.iadd (fc { always with ta := 6 } 2 0 2 1 9)) = false := by decide +kernel
theorem smoke_ru : wellFormed (.iadd (fc { always with ru := true } 2 0 2 1 9)) = false := by decide +kernel
theorem smoke_crq : wellFormed (.waitk { common := always, body := .e 0 0 0 none none none true 0 }) = false := by decide +kernel
theorem smoke_guard : wellFormed (.iadd (fc { always with g := 50 } 2 0 2 1 9)) = false := by decide +kernel
theorem smoke_uniform_guard : wellFormed (.bufFill (fc { always with g := 3 } 0 0 0 0 0)) = false := by decide +kernel
theorem smoke_m_bit : wellFormed (.iadd (fr 0x802 0 2 1 9)) = false := by decide +kernel
theorem smoke_sd : wellFormed (.iadd (fr 0x8002 0 2 1 9)) = false := by decide +kernel
theorem smoke_field : wellFormed (.ldr (fr 10 0 1 32 9)) = false := by decide +kernel
theorem smoke_pair : wellFormed (.iadd (fr 3 0 2 4 9)) = false := by decide +kernel
theorem smoke_entry : wellFormed (.shflBc (fr 1 0 2 1 9)) = false := by decide +kernel
theorem smoke_two_rows : wellFormed (.reform join) = false ∧ wellFormed (.reformJoin (fr 0 0 0 0 0)) = false := by decide +kernel
-- R364 to R369: a field's width, no such field, a template beyond 63
theorem smoke_patch : wellFormed (.amendThenIssue 5 0x10 64) = false ∧ wellFormed (.amendAndHold 5 0x01 0) = false ∧ wellFormed (.tplLd 64 0) = false := by
  decide +kernel
-- R381 to R386: type, rounding, a V1 operation in V0, destination, sources, an absent source, a float operation, a shift of floats, PARM, modes
theorem smoke_v : ∀ i ∈ [Instr.vadd (vf 6 2 0 0), .vadd { vf 0 2 0 0 with rm := 4 }, .vtrn { vf 0 0 0 0 with v1 := false }, .vadd { vf 0 2 0 0 with d := 64 },
    .vadd { vf 0 2 0 0 with a := 80 }, .vadd (vf 0 80 0 0), .vadd (vf 0 2 3 0), .vmov (vf 0 2 0 0), .vlerp (vf 3 2 3 0), .vshl (vf 0 2 0 0), .vcmp (vf 0 2 0 6),
    .vadd (vf 0 2 0 1), .vadd { vf 3 2 0 0 with ftz := true }, .vadd { vf 0 2 0 0 with sat := true }], wellFormed i = false := by decide +kernel
-- R379, R388, R390, R396
theorem smoke_slots : ∀ i ∈ [Instr.srd 4 12, .ldw (ld 64 0 1), .ldw (ld 9 3 1), .ldwr (ld 9 0 1), .ldx (ld 9 0 1), .stw { s := 80, a := 1, off := 0, fill := false, post := false, pitch := 0 },
    .stwr { s := 9, a := 1, off := 0, fill := false, post := false, pitch := 0 }, .stx { s := 9, a := 1, off := 0, fill := false, post := false, pitch := 0 }, .semInit 1 3 0, .semAdd 3 0,
    .semSub 3 0, .cpld 29 sem0 false, .cpst 29 sem0 false false, .mmc 29 sem0], wellFormed i = false := by decide +kernel
-- R10, R13, R28: units that the device does not have
theorem smoke_units : ∀ i ∈ [Instr.vscarve 4 0, .clkcfg 128 0, .vres 128 0, .bankSwitch 2048, .dieLinkRetrain 2 2, .dieLinkRetrain 0 5, .cxlPortRetrain 4, .qput 256 0, .lcgo 32 0,
    .frameStart 64], wellFormed i = false := by decide +kernel

/-! ### Words of the spec's examples -/

/-- A word reads as an instruction. -/
abbrev word (w : Nat) (i : Instr) : Prop := decodeTableWord 80 w = some i
/-- PD, TA and TW of a word that is always executed. -/
def cm (pd ta tw : Nat) : Common := { always with pd := BitVec.ofNat 3 pd, ta := BitVec.ofNat 3 ta, tw := BitVec.ofNat 6 tw }
-- spec/03: FFMA under p3, BRA
theorem decode_control : word 0x00100803020861_80C0BA (.ffma (fc { cm 2 7 2 with g := 3 } 0x10 8 3 2 8)) ∧
    word 0xFFFFFFFA000000CFC03F (.bra { common := cm 7 7 0, body := .b 0 0 0xFFFFFFFA }) ∧
    word 0x0400000000000_28FC03F (.reformJoin (fc (cm 7 7 0) 0x400 0 0 0 0)) ∧ word 0x000000000000038FC03F (.exitW (fc (cm 7 7 0) 0 0 0 0 0)) := by decide +kernel
-- spec/04, spec/05, spec/19: a shuffle, IMAD.sat, NPACK, ISUB of scalars, ICMP, IADD with an immediate
theorem decode_lanes_and_numbers : word 0x2000000904040_88FC038 (.shflXor (fc (cm 0 7 0) 0x2000 0 9 4 4)) ∧
    word 0x2202050201052_20FC039 (.imad (fc (cm 1 7 0) 0x2202 5 2 1 5)) ∧ word 0x04130004030A660FC038 (.npack (fc (cm 0 7 0) 0x413 0 4 3 10)) ∧
    word 0xE00200060505208FC039 (.isub (fc (cm 1 7 0) 0xE002 0 6 5 5)) ∧ word 0x6A0200060500288FC03A (.icmp (fc (cm 2 7 0) 0x6A02 0 6 5 0)) ∧
    word 0x000000800101202FC039 (.iadd { common := cm 1 7 0, body := .i 1 1 0x80 }) := by decide +kernel
-- spec/06 to spec/08: local store, records, atomics, fences
theorem decode_memory : word 0x000A0003000CB00FC007 (.ldl (fc (cm 7 0 0) 10 0 3 0 12)) ∧ word 0x0000000A0100B58FC03F (.armW (fc (cm 7 7 0) 0 0 10 1 0)) ∧
    word 0x000A00060208B80FC00F (.ldr (fc (cm 7 1 0) 10 0 6 2 8)) ∧ word 0x000009070304BC0FC03F (.recset (fc (cm 7 7 0) 0 9 7 3 4)) ∧
    word 0x002203020104D00FC007 (.atom (fc (cm 7 0 0) 0x22 3 2 1 4)) ∧ word 0x005008010306D08FC017 (.atomCas (fc (cm 7 2 0) 0x50 8 1 3 6)) ∧
    word 0x00E000000000D28FC03F (.fence (fc (cm 7 7 0) 0xE0 0 0 0 0)) ∧ word 0x009001000500D20FC03F (.strl (fc (cm 7 7 0) 0x90 1 0 5 0)) ∧
    word 0x005000000502D18FC007 (.lda (fc (cm 7 0 0) 0x50 0 0 5 2)) ∧ word 0x000000030104B90FC04F (.ldg (fc (cm 7 1 1) 0 0 3 1 4)) ∧
    word 0x200B10170213BA01003F (.stu (fc { cm 7 7 0 with g := 4 } 0x200B 16 23 2 19)) := by decide +kernel
-- spec/09 to spec/12: springs, engines, matrices, tiles, rays
theorem decode_units : word 0x000000000700E00FC03F (.sfill (fc (cm 7 7 0) 0 0 0 7 0)) ∧ word 0x000000020305E18FC00F (.sqry (fc (cm 7 1 0) 0 0 2 3 5)) ∧
    word 0x100241080403E86FC03F (.xcopy { common := cm 7 7 0, body := .e 3 4 8 (some 1) (some 2) none false 0 }) ∧
    word 0x000043000000EB6FC03F (.waitk { common := cm 7 7 0, body := .e 0 0 0 (some 3) none none false 0 }) ∧
    word 0x100200000000F00FC03F (.accOpen (fc (cm 7 7 0) 0x1002 0 0 0 0)) ∧
    word 0x000000081001F0EFD03F (.mma { common := { cm 7 7 0 with ru := true }, body := .e 1 16 8 none none none false 0 }) ∧
    word 0x0000420C0003F1EFC03F (.accRet { common := cm 7 7 0, body := .e 3 0 12 (some 2) none none false 0 }) ∧
    word 0x000000000502E40FC03F (.tgrow (fc (cm 7 7 0) 0 0 0 5 2)) ∧ word 0x109008020100E58FC027 (.tstOrd (fc (cm 7 4 0) 0x1090 8 2 1 0)) ∧
    word 0x000008040614E68FC01F (.ray (fc (cm 7 3 0) 0 8 4 6 20)) := by decide +kernel
-- spec/14, spec/15: weirs, traps
theorem decode_system : word 0x000000000500FC0FC03F (.weirAcq (fc (cm 7 7 0) 0 0 0 5 0)) ∧ word 0x200000143400FA8FC03F (.syswr (fc (cm 7 7 0) 0x2000 0 20 0x34 0)) ∧
    word 0x000000000700F80FC03F (.trapW (fc (cm 7 7 0) 0 0 0 7 0)) ∧ word 0x800000003515FA0FC038 (.sysrd (fc (cm 0 7 0) 0x8000 0 0 0x35 21)) ∧
    word 0x000000000000F88FC03F (.tret (fc (cm 7 7 0) 0 0 0 0 0)) := by decide +kernel
-- R64: RCP.f32 v9, v1 with TA = 2, written field by field: M, C, B, A, D, OP, FMT, GN, G, Y, RU, TW, TA, PD
theorem decode_sfu : decodeTableWord 80 ((0x10#16) ++ (0#8) ++ (0#8) ++ (1#8) ++ (9#8) ++ (0x140#9) ++ (0#2) ++ (0#1) ++ (63#6) ++ (0#1) ++ (0#1) ++ (0#6) ++ (2#3) ++ (7#3)).toNat =
    some (.rcp (fc (cm 7 2 0) 0x10 0 0 1 9)) := by decide +kernel
-- spec/16 after R369 and R386; R378, R388, R390 field by field
theorem decode_line_core : (decodePatch 0x03050080).toOption = some (.tplLd 5 128) ∧ (decodePatch 0x15430400).toOption = some (.amendThenIssue 5 0x43 1024) ∧
    (decodeS0 ((0x10#6) ++ (4#5) ++ (2#5) ++ (0xFFFF#16))).toOption = some (.saddi 4 2 0xFFFF) ∧
    (decodeV false 0x1001421CAA40).toOption = some (.vfma { v1 := false, ty := 0, rm := 0, ftz := false, sat := false, d := 40, a := 33, b := 101, c := 41, parm := 0 }) ∧
    (decodeLd ((1#4) ++ (7#7) ++ (3#5) ++ (256#16) ++ (0#1) ++ (1#1) ++ (4#6))).toOption = some (.ldwr { d := 7, a := 3, off := 256, take := false, post := true, pitch := 4 }) ∧
    (decodeQ ((0x08#6) ++ (8#5) ++ (1#1) ++ (3#5) ++ (1#1) ++ (4#5) ++ (1#9))).toOption = some (.cpld 8 { wait := some 3, sig := some 4 } true) := by decide +kernel

/-! ### Single steps with results that the spec's rules give -/

/-- R115: IADD wraps; SAT clamps. -/
theorem test_iadd_sat : reads (exec (.iadd (fr 0x202 0 2 1 9)) (st (lane 0 0x7FFFFFFF 1 0 0) (lane 1 0xFFFFFFFF 1 0 0))) (.v 0 9) = some 0x7FFFFFFF := by decide +kernel
/-- The example of R121: v1 = 0x4000_0000, s2 = 4 and v5 = 5 give 0x7FFF_FFFF under .sat. -/
theorem test_imad_sat : reads (exec (.imad (fr 0x2202 5 2 1 5)) (chg (st { lane 0 0x40000000 0 0 0 with v := [(1, 0x40000000), (5, 5)] } (lane 1 0 0 0 0))
    (fun m => { m with s := [(2, 4)] }))) (.v 0 5) = some 0x7FFFFFFF := by decide +kernel
/-- The example after R78: with s9 = 16, lane 3 keeps its v4 where lane 19 is absent. -/
theorem test_shuffle_absent : reads (exec (.shflXor (fr 0x2000 0 9 4 4)) (chg (st (lane 0 1 2 3 0x55) (lane 1 1 2 3 4)) (fun m => { m with s := [(9, 16)] }))) (.v 0 4) = some 0x55 := by
  decide +kernel
/-- A source that is also the destination: v1 := v2 − v1 reads before it writes. -/
theorem test_isub_same : reads (exec (.isub (fr 2 0 1 2 1)) s0) (.v 0 1) = some (2 ^ 32 - 2) := by decide +kernel
/-- R338, R345: TRAP 7 enters the handler with cause 0x28 and its operand, and %tepc at the next word. -/
theorem test_trap : (member (exec (.trapW (fr 0 0 0 7 0)) (chgT s0 (fun t => { t with tvec := 99 })))).map (fun m => (m.pc, m.trap.tcause, m.trap.tepc, m.trap.inh)) =
    some (99, 0x00070028, 6, true) := by decide +kernel
/-- R204: LDR reads the four bytes of its offset, little-endian. -/
theorem test_ldr : (member (exec (.ldr (fr 10 0 1 1 9)) (sm.poke 0x20000 [0x78, 0x56, 0x34, 0x12]))).map (fun m => m.pend.map (·.writes)) =
    some [[(.v 0 9, 0x12345678), (.v 1 9, 0)]] := by decide +kernel
/-- R201: two lanes of ATOM.add on one word act in lane order: 7, then 8; the word ends at 18 (the example after R201). -/
theorem test_atom_add : ((after (exec (.atom (fc (cm 7 0 0) 0x22 3 2 1 4)) ((chg sn (fun m => { m with lanes := [(0, lane 0 0 64 1 0), (5, lane 5 0 64 10 0)], d := [(1, rw)] })).poke 0x20040 [7]))).map
    (fun s => (s.peek 0x20040 4, (s.memberAt 1 0).map (fun m => m.pend.map (·.writes))))) = some (18, some [[(.v 0 4, 7), (.v 5 4, 8)]]) := by decide +kernel
/-- R376, R379: SADDI adds the sign-extended immediate. -/
theorem test_saddi : (after (exec (.saddi 4 1 0xFFFF) (li true lcOn))).map (fun s => ((s.lc 0).vs.xr 4, (s.lc 0).vs.pc)) = some (15, 4) := by decide +kernel
/-- R436: a packet of an administrative type on another queue halts it with code 9. -/
theorem test_queue_error : (after (exec (.partDestroy (own 0x02 [0])) sq)).map (fun s => ((s.queue 1).halt, (s.queue 1).err.toNat % 256)) = some (true, 9) := by decide +kernel

/-! ### Witnesses of several clauses -/

theorem wit_StoredCells : ∃ c, Issues (rowAt 0x171) (fr 10 3 1 1 0) sm c ∧ (look sm.teams c.tk = some c.t ∧ sm.late = [] ∧
    (([(0, [(0x20000, (5 : Byte))]), (1, [(0x20000, 6)])] : List (Nat × List Host.Cell)).flatMap (·.2)).reverse.find? (fun e => e.1 = 0x20000) = some (0x20000, 6)) :=
  witness (by decide +kernel)
/-- A record in d1 that RECSET changes by code 7 or 4 from s2. -/
def smR (r : Rec) (x : Word) : State := chg sm (fun m => { m with d := [(1, r)], s := [(1, 7), (2, x)] })
theorem wit_RecsetTraps :
    (∃ c, Issues (rowAt 0x178) (fr 0 2 7 1 9) (smR flatRec 0) c ∧ recFlat c.recA = true) ∧
    (∃ c, Issues (rowAt 0x178) (fr 0 2 7 1 9) (smR rw 257) c ∧ (recFlat c.recA = false ∧ recset (fB c.w) (c.sc (fC c.w)) c.recA = none)) ∧
    (∃ c, Issues (rowAt 0x178) (fr 0 2 8 1 9) (smR rw 7) c ∧ (recFlat c.recA = false ∧ (recset (fB c.w) (c.sc (fC c.w)) c.recA).any (fun r => !recPlain r) = true)) :=
  ⟨witness (by decide +kernel), witness (by decide +kernel), witness (by decide +kernel)⟩
/-- A RED or STRL .rel whose accesses are put off: what its release waits for, and its accesses before and after the wait is noted. -/
abbrev later (need : Need) (kind : Nat) (wait : Ctx → Prop) (c : Ctx) : Prop :=
  let c' : Ctx := if c.screensOut then c else { c with s := c.s.updTeam c.tk (fun t => { t with ver := { t.ver with waiting := true } }) }
  recChecks c.recA need 4 c.oddFlat (c.act.map c.off) = none ∧ recV c.recA = false ∧ ordRel c.w = true ∧ ordAcq c.w = false ∧ atom64 c.w = false ∧
    c.m.wait = .none ∧ c.t.clean = true ∧ wait c ∧ performing c (c'.ask kind need false 4 c.off c.act) ∧ performing c' (c'.ask kind need false 4 c.off c.act)
/-- A commit that does not fit, for which nothing waits yet. -/
def tight : State := chgT full (fun t => { t with ver := { t.ver with waiting := false } })
/-- It waits for a screen write. -/
abbrev byScreen (c : Ctx) : Prop := c.screensOut = true
/-- It waits for a commit. -/
abbrev byCommit (c : Ctx) : Prop := c.screensOut = false ∧ 2 ≤ scopeOf c.w ∧ commitFits c.s c.tk c.t = false
theorem wit_PutOffAtomics :
    (∃ c, Issues (rowAt 0x1A2) (fr 0x89 3 1 1 0) (sendsScreen sn) c ∧ later .atomic 2 byScreen c) ∧
    (∃ c, Issues (rowAt 0x1A4) (fr 0x88 3 1 1 0) (sendsScreen sn) c ∧ later .write 1 byScreen c) ∧
    (∃ c, Issues (rowAt 0x1A2) (fr 0x91 3 1 1 0) tight c ∧ later .atomic 2 byCommit c) ∧
    (∃ c, Issues (rowAt 0x1A4) (fr 0x90 3 1 1 0) tight c ∧ later .write 1 byCommit c) :=
  ⟨witness (by decide +kernel), witness (by decide +kernel), witness (by decide +kernel), witness (by decide +kernel)⟩
theorem wit_PutOffFences :
    (∃ c, Issues (rowAt 0x1A5) (fr 0x88 0 0 0 0) (sendsScreen sn) c ∧ (ordRel c.w = true ∧ ordAcq c.w = false ∧ scopeOf c.w ≠ 0 ∧ c.screensOut = true ∧
      (scopeOf c.w < 2 ∨ c.t.clean = true))) ∧
    (∃ c, Issues (rowAt 0x1A5) (fr 0x90 0 0 0 0) tight c ∧ (ordRel c.w = true ∧ ordAcq c.w = false ∧ 2 ≤ scopeOf c.w ∧ c.screensOut = false ∧
      c.t.clean = true ∧ c.m.wait = .none ∧ commitFits c.s c.tk c.t = false)) :=
  ⟨witness (by decide +kernel), witness (by decide +kernel)⟩
/-- A release of a scope, with a RED of one word. -/
def release1 (scope : Nat) : Release :=
  { mem := 0, tag := some 1, slot := 0, scope := scope, lanes := [0], committed := false
    accesses := [{ lane := 0, pas := [0x20000, 0x20001, 0x20002, 0x20003], op := some (0, 0), x := 5 }] }
/-- A state with it. -/
def putOff (scope : Nat) (s : State) : State := chgT s (fun t => { t with rels := [release1 scope] })
theorem wit_ReleasesPerformed : ∀ e ∈ [(1, sn, true), (2, sn, true), (2, tight, false)],
    (look (putOff e.1 e.2.1).teams 1).any (fun t => decide (t.rels = [release1 e.1] ∧ t.ver.waiting = false ∧ t.doom = none ∧ t.saved = false ∧
      (putOff e.1 e.2.1).screens = [] ∧ (release1 e.1).accesses.all (fun x => x.pas.Nodup) = true ∧
      (if e.2.2 then (release1 e.1).scope < 2 ∨ commitFits (putOff e.1 e.2.1) 1 t = true
       else 2 ≤ (release1 e.1).scope ∧ commitFits (putOff e.1 e.2.1) 1 t = false))) = true := by decide +kernel
/-- Atomic combinations at the ends of their clauses: signed and unsigned words, and a NaN on either side or both. -/
theorem wit_AtomicTable : (2 ^ 32 - 1 < 2 ^ 32 ∧ (4 : Nat) ≤ 5) ∧ decode f32 0x7FC00000 = .nan ∧ decode f32 0 ≠ .nan ∧
    Ex.cmp (decode f32 0) (decode f32 0x3F800000) < 0 ∧ 0 < Ex.cmp (decode f32 0x3F800000) (decode f32 0) := by decide +kernel
/-- A WAITK of tokens 5 and 7: the first is complete, the second in ERROR. -/
def wait57 : CWord := { fe 0 0 0 0 with body := .e 0 0 0 (some 5) (some 7) none false 0 }
theorem wit_WaitkOfSeveral : ∃ c, Issues (rowAt 0x1D6) wait57 eng c ∧
    ((∀ k ∈ fTokens c.w, (c.t.token k == .empty) = false ∧ (c.t.token k == .pending) = false) ∧ fTokens c.w = [5, 7] ∧ (c.t.token 5).err = none ∧
      (c.t.token 7).err = some (8, 0x2000)) := witness (by decide +kernel)
theorem wit_DisabledCore : ∃ c, Attempts (rowAt 0x1D1) (fe 9 10 40 0) { oneDie with device := { oneDie.device with caps := State.reset.device.caps, disabled := [600] } } c ∧
    ((rowAt 0x1D1).legal (fe 9 10 40 0) = true ∧ physCore c.s c.t.ctx (c.sc (fB c.w) % 2 ^ 11) = some 600 ∧ c.s.diePresent (dieOf 600) = true ∧
      600 ∈ c.s.device.disabled) := attempt (by decide +kernel)
/-- A load of v1 that is performed when its result stands, one whose register another result has taken, and one inside a later window. -/
def pendLate (overs : List Place) (loads : List LateLoad) (m : Member) : Member :=
  { m with pend := [{ writes := [(.v 0 1, 5)], loads := loads, tag := some 1, words := none, queue := some 0, since := 0, acq := false, word := 0, overs := overs, free := 0 }], tags := 2 }
/-- The load of the word at 0x20000. -/
def load1 : LateLoad := { place := .v 0 1, lane := 0, pas := [0x20000, 0x20001, 0x20002, 0x20003], ty := 2 }
/-- A window over v1 that a later word opened. -/
def after1 (m : Member) : Member := { m with windows := [{ left := 2, handler := false, word := 1, dest := [.v 0 1], old := [(.v 0 1, 7)] }] }
theorem wit_ResultsOverAndLate : (∀ f ∈ [pendLate [] [], pendLate [.v 0 1] [], pendLate [] [load1], fun m => after1 (pendLate [] [] m)],
      ∃ t m q, look (chg s0 f).teams 1 = some t ∧ t.member 0 = some m ∧ m.pend[0]? = some q ∧ (hasAll m q.writes = true ∧ q.queue = some 0 ∧
        (∀ x ∈ m.pend.take 0, x.queue ≠ some 0) ∧ ∀ x ∈ queueWords (chg s0 f) t.seat.core (portOf m.slot) 0, q.since ≤ x.since)) ∧
    (after1 (pendLate [] [] (group (lane 0 0 0 0 0) (lane 1 0 0 0 0)))).trap.inh = false := by
  refine ⟨?_, by decide⟩
  intro f hf
  simp only [List.mem_cons, List.mem_nil_iff, or_false] at hf
  rcases hf with rfl | rfl | rfl | rfl <;> exact ⟨_, _, _, rfl, rfl, rfl, by decide +kernel⟩
/-- A word that raises flags in lane 0, and moves the generator of lane 1. -/
theorem wit_FlagsAndGenerators : ∃ c, Issues (rowAt 0x040) (add always) s0 c ∧
    (({ Out.none with flags := [(0, 1)], rng := [(1, 9)] } : Out).next = [] ∧ (0 ∈ c.m.present ∧ 1 ∈ c.m.present)) := witness (by decide +kernel)
/-- The queue of a cause's member holds nothing: a result without a queue, over which nothing was written. -/
theorem wit_CausesWithNoQueue : ∃ t m, look (chgT (chg s0 pendLoad) (fun t => { t with tvec := 99 })).teams 1 = some t ∧ t.member 0 = some m ∧
    ((∀ q ∈ m.pend, q.queue = none ∧ q.overs = []) ∧ t.gen = none ∧ m.trap.inh = false ∧ m.trap.mask = false ∧ t.tvec ≠ 0xFFFFFFFF) :=
  ⟨_, _, rfl, rfl, by decide +kernel⟩
theorem wit_SummaryHeld : linkHeld hot 0x5000 12416 = true ∧ hostSpan hot 0x5000 12416 = true := by decide +kernel
/-- TLB.INV: an access that is still out through a dropped page. -/
theorem wit_TlbInvWaits : let s : State := { sq with teams := (putOff 1 sn).teams, tlb := sn.tlb }
    let p := own 0x16 [0, 0]
    (∃ e ∈ s.teams, e.2.ctx = p.context.toNat ∧ ∃ r ∈ e.2.rels, ∃ a ∈ r.accesses, ∃ pa ∈ a.pas,
      (s.tlb.filter (fun x => x.ctx = p.context.toNat)).any (fun x => decide (entryPfn x.leaf.toNat / x.size * x.size ≤ pa ∧
        pa < entryPfn x.leaf.toNat / x.size * x.size + x.size)) = true) ∧
    checkPacket s p = none ∧ contextBad s p = false ∧ (s.queue 1).en = true ∧ (s.queue 1).halt = false ∧ (s.queue 1).closing = none := by decide +kernel
/-- The latch of v1: held, and of another register. -/
theorem wit_ReuseLatch : (∃ c, Issues (rowAt 0x1E1) (fe 9 1 90 0) (chg mat (fun m => { m with latch := some { reg := 1, rows := [(0, 0, 77)] } })) c ∧
      (0 ∈ c.m.present ∧ c.m.latch.any (fun x => x.reg = fA c.w && (x.rows.find? (fun e => e.1 = 0 && e.2.1 = 0)) == some (0, 0, 77)) = true ∧ c.w.common.ru = false)) ∧
    (∃ c, Issues (rowAt 0x1E1) { fe 9 1 90 0 with common := { always with ru := true } } (chg mat (fun m => { m with latch := some { reg := 2, rows := [] } })) c ∧
      (c.m.latch.all (fun x => x.reg ≠ fA c.w) = true ∧ c.w.common.ru = true)) :=
  ⟨witness (by decide +kernel), witness (by decide +kernel)⟩

/-- A template of an S0, a V0 and a Q slot, each present or not, under header bits [9:0]. -/
def tplOf (s0 v0 q : Option Instr) (hdr : Nat) : BitVec 256 :=
  let bit (n : Nat) (x : Option Instr) : Nat := if x.isSome then 2 ^ n else 0
  BitVec.ofNat 256 (bit 255 s0 + bit 254 v0 + bit 250 q + hdr * 2 ^ 240 + (((s0.bind encodeS0).map BitVec.toNat).getD 0) * 2 ^ 208 +
    (((v0.bind encodeV).map BitVec.toNat).getD 0) * 2 ^ 160 + ((q.bind encodeQ).map BitVec.toNat).getD 0)
/-- Every slot that stands in a template decodes, in a stream whose turn it is, and a check of its slots holds. -/
def bundles (l : List (BitVec 256 × State × (BCtx → List Slot → Bool))) : Bool :=
  l.all (fun e => match lineIssuer e.2.1, slotsOfTpl e.1 with
    | some (n, vec, true), .ok ks => e.2.2 (bctx e.2.1 n vec) ks
    | _, _ => false)
/-- A V0 slot w9 := w1. -/
def mov : Instr := .vmov { vf 0 0 0 0 with v1 := false }
theorem wit_Bundles : bundles [
    -- V0 in the control stream
    (tplOf (some (.saddi 4 1 5)) (some mov) none 0, li false lcOn, fun b ks => !b.st.waiting && ks.any (fun k => k.bad b)),
    -- S0 and Q write x4
    (tplOf (some (.saddi 4 1 5)) none (some (.semRd 4 3)) 0, li true lcOn, fun b ks => !b.st.waiting && ks.all (fun k => !k.bad b) && clash ks),
    -- a semaphore that is not initialised
    (tplOf (some (.saddi 4 1 5)) none (some (.semRd 6 4)) 0, li true lcOn, fun b ks => ks.all (fun k => !k.bad b) && !clash ks && ks.any (fun k => (k.sems b).isSome)),
    -- a shape that R374 forbids
    (tplOf (some (.setshp 2)) (some mov) none 0, li true lcOn, fun b ks => ks.all (fun k => !k.bad b && k.sems b = none) && !clash ks && ks.any (fun k => (k.data b).isSome)),
    -- the Q slot waits on its semaphore, for room, and finds the other stream ended
    (tplOf (some (.saddi 4 1 5)) none (some (.semSub 3 9)) 0, li true lcOn, fun b ks => ks.any (fun k => k.ready b == .sem 3)),
    (tplOf none none (some (.cqpush 1 { wait := none, sig := none } 0)) 0, li false { lcOn with cqs := [(0, List.replicate 8 0)] }, fun b ks => ks.any (fun k => k.ready b == .wait)),
    (tplOf none none (some (.cqpush 1 { wait := none, sig := none } 0)) 0, li false { lcOn with cqs := [(0, List.replicate 8 0)], vs := { on with on := false, ended := true } },
      fun b ks => ks.any (fun k => match k.ready b with
        | .cause _ _ => true
        | _ => false)),
    -- all three go on, V0 under a guard that is 0
    (tplOf (some (.saddi 4 1 5)) (some mov) (some (.semRd 6 3)) 8, li true lcOn, fun b ks => ks.length = 3 && bundleCause b false true ks = none &&
      ks.all (fun k => k.ready b == .go) && !guardA (tplOf (some (.saddi 4 1 5)) (some mov) (some (.semRd 6 3)) 8) b.st.sg)] = true ∧
    -- reserved header bits, and an invalid slot with a set bit
    (tplOf none none none 1).getLsbD 240 = true ∧ ((tplOf none none none 0 ||| 1).getLsbD 250 = false ∧ (tplOf none none none 0 ||| 1).getLsbD 0 = true) ∧
    (let t := tplOf (some (.saddi 4 1 5)) (some mov) (some (.semRd 6 3)) 8;
      ((issueTpl 0 true t (li true lcOn) (li true lcOn)).lc 0).halt = false) := by decide +kernel

/-- A line core whose vector stream has written two words of its line store. -/
def raceCore : LineCore := ({ lcOn with ls := [(0, 7)] }).store 1 0 [9, 0, 0, 0, 1, 0, 0, 0]
/-- R400: the store queue may read a word as it was or as it is, until it has consumed a unit that the stream signalled after its write; the
stream itself reads what it wrote. -/
theorem test_racing_words : raceCore.mayRead 3 0 = [9, 7] ∧ raceCore.mayRead 1 0 = [9] ∧ raceCore.mayRead 3 8 = [0] ∧
    ((raceCore.signalled 1 4).consumed 3 4).mayRead 3 0 = [9] ∧ ((raceCore.signalled 1 4).consumed 3 5).mayRead 3 0 = [9, 7] ∧
    ((raceCore.fill 1 [0]).sawFull 3 [0, 1]).mayRead 3 0 = [9] := by decide +kernel
theorem wit_LineRaces : (raceCore.raced 3 (0, 16) = true ∧ raceCore.raced 3 (16, 16) = false ∧ raceCore.raced 4 (0, 2048) = true) ∧
    ((∀ r ∈ raceCore.races, r.party = 1 ∨ 3 ∈ r.after) ∧ Machine.get [] raceCore.cqs 1 = [] ∧ (∀ r ∈ raceCore.races, look r.cqs 1 = none)) ∧
    -- an LD, a store command and a matrix command that no unordered write meets, and a store command that a copying load meets
    ((lcOn.raced 1 (16, 512) = false ∧ lcOn.races = []) ∧ ({ lcOn with stq := [copyCmd true []] } : LineCore).raced 3 (256, 64) = false ∧
      (mmcRuns (mmcCmd false 0).blk).all (fun x => !({ lcOn with mq := [mmcCmd false 0] } : LineCore).raced 4 x) = true ∧
      ((cmdAt 0x700000 true 0).lc 0).raced 3 (256, 64) = true) := by decide +kernel

end Sys2Proof.Tests
end

/-! PROOFS. Memory by byte, and a team's version: what a write leaves to be read, and what a commit moves to memory (R3, R14, R195,
R204, R205). -/

namespace Sys2Proof.Machine

/-! ### The bytes of a little-endian value (R3) -/

theorem leVal_byte (bs : List Byte) (k : Nat) : leVal bs / 256 ^ k % 256 = (bs[k]?.getD 0).toNat := by
  induction bs generalizing k with
  | nil => simp [leVal]
  | cons b r ih =>
    have hb := b.isLt
    have e : leVal (b :: r) = b.toNat + 256 * leVal r := rfl
    cases k with
    | zero => simp only [e, pow_zero, Nat.div_one, List.getElem?_cons_zero, Option.getD_some]; omega
    | succ k =>
      have hd : leVal (b :: r) / 256 = leVal r := by omega
      rw [pow_succ', ← Nat.div_div_eq_div_mul, hd, ih, List.getElem?_cons_succ]

theorem peek_byte (s : State) (pa : Nat) {n k : Nat} (hk : k < n) : s.peek pa n / 256 ^ k % 256 = (Mem.read s.mem (pa + k)).toNat := by
  simp [State.peek, leVal_byte, Mem.readN, hk]

/-! ### A canonical memory is its bytes -/

/-- In rising addresses, a lookup finds every listed cell. -/
theorem look_of_mem {m : Bytes} (hm : m.Pairwise (fun a b => a.1 < b.1)) {c : Host.Cell} (hc : c ∈ m) : look m c.1 = some c.2 := by
  induction m with
  | nil => simp at hc
  | cons d r ih =>
    obtain ⟨hd, hr⟩ := List.pairwise_cons.mp hm
    rcases List.mem_cons.mp hc with rfl | hc
    · simp [look]
    · simp [look, (hd c hc).ne, ih hr hc]

theorem mem_of_look {α : Type} {t : Sparse α} {k : Nat} {x : α} (h : look t k = some x) : (k, x) ∈ t := by
  induction t with
  | nil => simp [look] at h
  | cons e r ih =>
    simp only [look] at h
    split at h
    · next he => cases h; exact he ▸ List.mem_cons_self
    · exact List.mem_cons_of_mem _ (ih h)

/-- The cells of a canonical memory are the bytes that do not read 0. -/
theorem mem_iff_read {m : Bytes} (hm : Memory.wf m = true) (c : Host.Cell) : c ∈ m ↔ Mem.read m c.1 = c.2 ∧ c.2 ≠ 0 := by
  obtain ⟨hrise, hnz⟩ := (wf_iff m).mp hm
  constructor
  · intro hc
    exact ⟨by simp [Mem.read, get, look_of_mem hrise hc], hnz c hc⟩
  · rintro ⟨hr, h0⟩
    cases hl : look m c.1 with
    | none => exact absurd (by simpa [Mem.read, get, hl] using hr.symm) h0
    | some b =>
      have hb : b = c.2 := by simpa [Mem.read, get, hl] using hr
      exact mem_of_look (hb ▸ hl)

theorem eq_of_read_eq {m m' : Bytes} (hm : Memory.wf m = true) (hm' : Memory.wf m' = true) (h : ∀ x, Mem.read m x = Mem.read m' x) :
    m = m' := by
  have hirr : Std.Irrefl (fun a b : Host.Cell => a.1 < b.1) := ⟨fun a => lt_irrefl a.1⟩
  exact ((wf_iff m).mp hm).1.eq_of_mem_iff ((wf_iff m').mp hm').1 (fun c => by rw [mem_iff_read hm, mem_iff_read hm', h])

/-! ### Cells written in order -/

/-- The byte that the last of the written cells at an address leaves there, if one is at it. -/
def lastCell (cells : List Host.Cell) (x : Nat) : Option Byte := (cells.reverse.find? (fun e => e.1 = x)).map (·.2)

@[simp] theorem lastCell_nil (x : Nat) : lastCell [] x = none := rfl

theorem lastCell_cons (c : Host.Cell) (cells : List Host.Cell) (x : Nat) :
    lastCell (c :: cells) x = (lastCell cells x).or (if c.1 = x then some c.2 else none) := by
  simp only [lastCell, List.reverse_cons, List.find?_append, Option.map_or]
  by_cases h : c.1 = x <;> simp [h]

theorem lastCell_isSome (cells : List Host.Cell) (x : Nat) : (lastCell cells x).isSome = cells.any (fun e => e.1 = x) := by
  rw [Bool.eq_iff_iff, lastCell, Option.isSome_map, List.find?_isSome]
  simp

theorem look_foldl_set (cells m : List Host.Cell) (x : Nat) :
    look (cells.foldl (fun m c => set m c.1 c.2) m) x = (lastCell cells x).or (look m x) := by
  induction cells generalizing m with
  | nil => simp
  | cons c cells ih =>
    rw [List.foldl_cons, ih, lastCell_cons, Option.or_assoc]
    by_cases h : c.1 = x
    · subst h; simp
    · simp [h, look_set_other m c.2 (Ne.symm h)]

theorem read_foldl_put (cells : List Host.Cell) (m : Bytes) (x : Nat) :
    Mem.read (cells.foldl (fun m c => Mem.put m c.1 c.2) m) x = (lastCell cells x).getD (Mem.read m x) := by
  induction cells generalizing m with
  | nil => simp
  | cons c cells ih =>
    rw [List.foldl_cons, ih, lastCell_cons, Option.getD_or, read_put]
    by_cases h : c.1 = x
    · simp [h]
    · simp [h, Ne.symm h]

theorem read_pokeCells (s : State) (cells : List Host.Cell) (x : Nat) :
    Mem.read (pokeCells s cells).mem x = (lastCell cells x).getD (Mem.read s.mem x) := read_foldl_put cells s.mem x

/-! ### A team's writes (R195, R204, R213) -/

/-- The team's version after a versioned write of cells. -/
def Team.versioned (cells : List Host.Cell) (t : Team) : Team :=
  { t with ver := { t.ver with cells := cells.foldl (fun m c => set m c.1 c.2) t.ver.cells } }

/-- The team's version after a direct write of cells: it holds none of them. -/
def Team.direct (cells : List Host.Cell) (t : Team) : Team :=
  { t with ver := { t.ver with dirw := true, cells := t.ver.cells.filter (fun e => !cells.any (fun x => x.1 = e.1)) } }

@[simp] theorem writeCells_nil (s : State) (tk : Nat) (v : Bool) : writeCells s tk v [] = s := rfl

theorem writeCells_versioned (s : State) (tk : Nat) {cells : List Host.Cell} (h : cells ≠ []) :
    writeCells s tk true cells = s.updTeam tk (Team.versioned cells) := by
  rw [writeCells, if_neg h, if_pos rfl]; rfl

theorem writeCells_direct (s : State) (tk : Nat) {cells : List Host.Cell} (h : cells ≠ []) :
    writeCells s tk false cells = (pokeCells s cells).updTeam tk (Team.direct cells) := by
  rw [writeCells, if_neg h, if_neg Bool.false_ne_true]; rfl

theorem writeCells_versioned_mem (s : State) (tk : Nat) (cells : List Host.Cell) : (writeCells s tk true cells).mem = s.mem := by
  rcases eq_or_ne cells [] with rfl | h
  · rfl
  · rw [writeCells_versioned s tk h, updTeam_mem]

theorem writeCells_direct_mem (s : State) (tk : Nat) (cells : List Host.Cell) (x : Nat) :
    Mem.read (writeCells s tk false cells).mem x = (lastCell cells x).getD (Mem.read s.mem x) := by
  rcases eq_or_ne cells [] with rfl | h
  · rfl
  · rw [writeCells_direct s tk h, updTeam_mem, read_pokeCells]

theorem writeCells_other (s : State) {tk k : Nat} (v : Bool) (cells : List Host.Cell) (hk : k ≠ tk) :
    look (writeCells s tk v cells).teams k = look s.teams k := by
  rcases eq_or_ne cells [] with rfl | h
  · rfl
  · cases v with
    | true => rw [writeCells_versioned s tk h, updTeam_other _ _ hk]
    | false => rw [writeCells_direct s tk h, updTeam_other _ _ hk]; rfl

/-- A team reads its versioned write, and elsewhere what it read before. -/
theorem readByte_versioned (s s' : State) (t : Team) (cells : List Host.Cell) (x : Nat) (hm : s'.mem = s.mem) :
    readByte s' (t.versioned cells) x = (lastCell cells x).getD (readByte s t x) := by
  simp only [readByte, Team.versioned, look_foldl_set, Option.getD_or, hm]

/-- A team reads its direct write, over its version's byte too, and elsewhere what it read before. -/
theorem readByte_direct (s s' : State) (t : Team) (cells : List Host.Cell) (x : Nat)
    (hm : Mem.read s'.mem x = (lastCell cells x).getD (Mem.read s.mem x)) :
    readByte s' (t.direct cells) x = (lastCell cells x).getD (readByte s t x) := by
  have hs := lastCell_isSome cells x
  simp only [readByte, Team.direct, hm]
  cases hl : lastCell cells x with
  | some b =>
    rw [look_filter_none _ (fun k => !cells.any (fun e => e.1 = k)) x (by simp [← hs, hl])]
    rfl
  | none =>
    rw [look_filter_keep _ (fun k => !cells.any (fun e => e.1 = k)) x (by simp [← hs, hl])]
    rfl

theorem writeCells_versioned_read {s : State} {tk : Nat} {t : Team} (cells : List Host.Cell) (x : Nat) (ht : look s.teams tk = some t) :
    ∃ t', look (writeCells s tk true cells).teams tk = some t' ∧
      readByte (writeCells s tk true cells) t' x = (lastCell cells x).getD (readByte s t x) := by
  have hm := writeCells_versioned_mem s tk cells
  rcases eq_or_ne cells [] with rfl | h
  · exact ⟨t, ht, rfl⟩
  · exact ⟨t.versioned cells, by simp [writeCells_versioned s tk h, ht], readByte_versioned s _ t cells x hm⟩

theorem writeCells_direct_read {s : State} {tk : Nat} {t : Team} (cells : List Host.Cell) (x : Nat) (ht : look s.teams tk = some t) :
    ∃ t', look (writeCells s tk false cells).teams tk = some t' ∧
      readByte (writeCells s tk false cells) t' x = (lastCell cells x).getD (readByte s t x) := by
  have hm := writeCells_direct_mem s tk cells x
  rcases eq_or_ne cells [] with rfl | h
  · exact ⟨t, ht, rfl⟩
  · exact ⟨t.direct cells, by simp [writeCells_direct s tk h, pokeCells, ht], readByte_direct s _ t cells x hm⟩

/-! ### The commit of a version (R205) -/

/-- An access to the pool through the caches changes the snoop filter alone. -/
theorem touchPool_frame (s : State) (part : Option Nat) (pa : Nat) (write : Bool) :
    ∃ snoop, touchPool s part pa write = { s with snoop := snoop } := by
  simp only [touchPool]
  split
  · exact ⟨s.snoop, rfl⟩
  · split
    · exact ⟨_, rfl⟩
    · split
      · exact ⟨s.snoop, rfl⟩
      · exact ⟨_, rfl⟩

theorem foldl_touchPool_frame (s : State) (part : Option Nat) (lines : List Nat) (write : Bool) :
    ∃ snoop, lines.foldl (fun s a => touchPool s part a write) s = { s with snoop := snoop } := by
  induction lines generalizing s with
  | nil => exact ⟨s.snoop, rfl⟩
  | cons a lines ih =>
    obtain ⟨sn, h⟩ := touchPool_frame s part a write
    rw [List.foldl_cons, h]
    exact ih _

/-- The commit of a version with write marks: it writes the version's cells to memory and counts one commit, and the team is then as
after a commit. -/
theorem commitVersion_marked (s : State) (tk : Nat) {t : Team} (h : t.ver.writes ≠ []) :
    ∃ s0 : State, commitVersion s tk t = s0.updTeam tk Team.committed ∧ s0.teams = s.teams ∧ s0.commits = s.commits + 1 ∧
      s0.mem = (pokeCells s t.ver.cells).mem := by
  obtain ⟨sn, hsn⟩ := foldl_touchPool_frame s (some t.part) ((t.ver.cells.map (fun x => x.1 / 64 * 64)).dedup) true
  rw [commitVersion, if_neg (fun hv => h hv.2), hsn]
  exact ⟨_, rfl, rfl, rfl, rfl⟩

end Sys2Proof.Machine

namespace Sys2Proof.Proofs

open Sys2Proof Sys2Proof.Machine

/-- Settles O41: a write is read through the last cell at each address (`lastCell`), in memory and in a version alike; a canonical memory
is determined by its bytes; and a commit is the version's cells written to memory. -/
theorem memoryAndVersionsReadWhatWasWritten : Obligations.MemoryAndVersionsReadWhatWasWritten := by
  refine ⟨⟨?poke, ?peek, ?canonical, ?unique, ?reset⟩, ?versioned, ?direct, ?commit⟩
  case poke => exact fun s pa bs x => read_write s.mem pa bs x
  case peek => exact fun s pa n k hk => peek_byte s pa hk
  case canonical => exact fun s pa bs h => poke_canonical h pa bs
  case unique => exact fun m m' hm hm' h => eq_of_read_eq hm hm' h
  case reset => exact fun x => rfl
  case versioned =>
    intro s tk t cells x ht
    obtain ⟨t', ht', hr⟩ := writeCells_versioned_read cells x ht
    exact ⟨t', ht', hr, writeCells_versioned_mem s tk cells, fun u k hk hu => (writeCells_other s true cells hk).trans hu⟩
  case direct => exact fun s tk t cells x ht => writeCells_direct_read cells x ht
  case commit =>
    intro s tk t x ht hw
    obtain ⟨s0, hc, hteams, hcommits, hmem⟩ := commitVersion_marked s tk hw
    rw [hc]
    refine ⟨?_, t.committed, ?_, rfl, rfl, rfl, hcommits⟩
    · rw [updTeam_mem, hmem]; exact read_pokeCells s t.ver.cells x
    · rw [updTeam_look, hteams, ht]; rfl

end Sys2Proof.Proofs

/-! ### What may hold a state, and memory in its canonical form there

Every step's meaning is put together from functions that answer a state, or a value with a state in it. A lemma `f_mem` says that `f` writes no
byte of memory, and a lemma `f_wf` that memory is canonical in what `f` answers where it was before. -/

namespace Sys2Proof.Machine

/-- Memory is canonical in the state of a word's outcome. -/
def Res.wf : Res → Prop
  | .cause s _ _ | .wait s | .done s _ | .part s _ _ _ | .partCause s _ _ _ _ => Memory.wf s.mem

/-- Memory is canonical in the state of a packet's end. -/
def PEnd.wf : PEnd → Prop
  | .refuse s _ _ | .done s | .later s => Memory.wf s.mem
  | .wait => True

/-- Memory is canonical in the state of an engine command's attempt. -/
def Try.wf : Try → Prop
  | .ok s _ | .halt s _ | .err s _ _ => Memory.wf s.mem

/-- Memory is canonical in the state of a turn. -/
def Fetched.wf : Fetched → Prop
  | .stop s | .go _ s => Memory.wf s.mem

/-- Memory is canonical in the next state, where an instruction answers one. -/
def outWf : Host.Outcome State Fault Refusal → Prop
  | .next s => Memory.wf s.mem
  | .fault _ | .refused _ => True

section
variable (s : State)

@[simp] theorem Res.wf_cause (c arg : Nat) : (Res.cause s c arg).wf ↔ Memory.wf s.mem := Iff.rfl
@[simp] theorem Res.wf_wait : (Res.wait s).wf ↔ Memory.wf s.mem := Iff.rfl
@[simp] theorem Res.wf_done (o : Out) : (Res.done s o).wf ↔ Memory.wf s.mem := Iff.rfl
@[simp] theorem Res.wf_part (o : Out) (fin : BitVec 32) (k : Option Stuck) : (Res.part s o fin k).wf ↔ Memory.wf s.mem := Iff.rfl
@[simp] theorem Res.wf_partCause (o : Out) (fin : BitVec 32) (c arg : Nat) : (Res.partCause s o fin c arg).wf ↔ Memory.wf s.mem := Iff.rfl
@[simp] theorem PEnd.wf_refuse (code cause : Nat) : (PEnd.refuse s code cause).wf ↔ Memory.wf s.mem := Iff.rfl
@[simp] theorem PEnd.wf_done : (PEnd.done s).wf ↔ Memory.wf s.mem := Iff.rfl
@[simp] theorem PEnd.wf_later : (PEnd.later s).wf ↔ Memory.wf s.mem := Iff.rfl
@[simp] theorem PEnd.wf_wait : PEnd.wait.wf := trivial
@[simp] theorem Try.wf_ok (bs : List Byte) : (Try.ok s bs).wf ↔ Memory.wf s.mem := Iff.rfl
@[simp] theorem Try.wf_halt (k : Stop) : (Try.halt s k).wf ↔ Memory.wf s.mem := Iff.rfl
@[simp] theorem Try.wf_err (c va : Nat) : (Try.err s c va).wf ↔ Memory.wf s.mem := Iff.rfl
@[simp] theorem Fetched.wf_stop : (Fetched.stop s).wf ↔ Memory.wf s.mem := Iff.rfl
@[simp] theorem Fetched.wf_go (i : Instr) : (Fetched.go i s).wf ↔ Memory.wf s.mem := Iff.rfl
@[simp] theorem outWf_next : outWf (.next s) ↔ Memory.wf s.mem := Iff.rfl
@[simp] theorem outWf_fault (x : Fault) : outWf (.fault x) := trivial
@[simp] theorem outWf_refused (x : Refusal) : outWf (.refused x) := trivial

end

/-- An outcome that depends on a test. -/
theorem Res.wf.ite {p : Prop} [Decidable p] {a b : Res} (ha : a.wf) (hb : b.wf) : (if p then a else b).wf := by
  split
  · exact ha
  · exact hb

/-- An attempt that depends on a test. -/
theorem Try.wf.ite {p : Prop} [Decidable p] {a b : Try} (ha : a.wf) (hb : b.wf) : (if p then a else b).wf := by
  split
  · exact ha
  · exact hb

/-- An end of a packet that depends on a test. -/
theorem PEnd.wf.ite {p : Prop} [Decidable p] {a b : PEnd} (ha : a.wf) (hb : b.wf) : (if p then a else b).wf := by
  split
  · exact ha
  · exact hb

/-- A turn that depends on a test. -/
theorem Fetched.wf.ite {p : Prop} [Decidable p] {a b : Fetched} (ha : a.wf) (hb : b.wf) : (if p then a else b).wf := by
  split
  · exact ha
  · exact hb

/-! ### Writes of memory, and folds over states -/

/-- The other writes of memory than a poke: cells one by one, and a span that is cleared. -/
@[simp] theorem pokeCells_wf {s : State} (h : Memory.wf s.mem) (cells : List Host.Cell) : Memory.wf (pokeCells s cells).mem := by
  have put (l : List Host.Cell) : ∀ m : Bytes, Memory.wf m → Memory.wf (l.foldl (fun m c => Mem.put m c.1 c.2) m) := by
    induction l with
    | nil => exact fun m h => h
    | cons c l ih => exact fun m h => ih _ (wf_put h _ _)
  exact put cells _ h

@[simp] theorem zeroSpan_wf {s : State} (h : Memory.wf s.mem) (pa n : Nat) : Memory.wf (zeroSpan s pa n).mem := wf_filter h _

@[simp] theorem write_wf {m : Bytes} (h : Memory.wf m) (a : Nat) (bs : List Byte) : Memory.wf (Mem.write m a bs) := wf_write h a bs

/-- A fold of what writes no byte writes no byte. -/
@[simp] theorem foldl_mem {α : Type} {f : State → α → State} (h : ∀ s x, (f s x).mem = s.mem) (l : List α) (s : State) :
    (l.foldl f s).mem = s.mem := by
  induction l generalizing s with
  | nil => rfl
  | cons x l ih => rw [List.foldl_cons, ih, h]

/-- A fold of what keeps memory canonical keeps it canonical. -/
theorem foldl_wf {α : Type} {f : State → α → State} (hf : ∀ s x, Memory.wf s.mem → Memory.wf (f s x).mem) (l : List α) {s : State}
    (h : Memory.wf s.mem) : Memory.wf (l.foldl f s).mem := by
  induction l generalizing s with
  | nil => exact h
  | cons x l ih => exact ih (hf _ _ h)

@[simp] theorem Ctx.draw_mem (c : Ctx) (s : State) : (Ctx.draw c s).mem = s.mem := by
  unfold Ctx.draw
  split <;> simp

@[simp] theorem stay_mem (c : Ctx) (s : State) (o : Out) (fin : BitVec 32) (park : Option Park) : (stay c s o fin park).mem = s.mem := by
  unfold stay
  split <;> simp

@[simp] theorem advance_mem (s : State) (tk mid : Nat) (next : List (Nat × Word)) : (advance s tk mid next).mem = s.mem := by
  simp only [advance]
  split <;> simp

@[simp] theorem complete_mem (c : Ctx) (s : State) (o : Out) : (complete c s o).mem = s.mem := by simp [complete]

@[simp] theorem settle_wf {c : Ctx} {r' : Res} (r : CRow) (hc : Memory.wf c.s.mem) (hr' : r'.wf) : Memory.wf (settle c r r').mem := by
  unfold settle
  (repeat' split) <;> simp_all

theorem issue_wf {c : Ctx} (r : CRow) {entry : Ctx → Res} (he : ∀ c : Ctx, Memory.wf c.s.mem → (entry c).wf) (h : Memory.wf c.s.mem) :
    Memory.wf (issue c r entry).mem := by
  have he := he c h
  unfold issue
  (repeat' split) <;> simp [*]

theorem calud_wf {r : CRow} {entry : Ctx → Res} {w : CWord} {s : State} (he : ∀ c : Ctx, Memory.wf c.s.mem → (entry c).wf) (h : Memory.wf s.mem) :
    outWf (calud r entry w s) := by
  unfold calud
  split
  · trivial
  · dsimp only
    split
    · exact h
    · exact issue_wf r he h

@[simp] theorem entryNop_wf {c : Ctx} (h : Memory.wf c.s.mem) : (entryNop c).wf := h

@[simp] theorem branch_wf {c : Ctx} (ws : List (Place × Nat)) (target : Nat → Word) (h : Memory.wf c.s.mem) : (branch c ws target).wf := h

@[simp] theorem entryBra_wf {c : Ctx} (h : Memory.wf c.s.mem) : (entryBra c).wf := h

@[simp] theorem entryBrx_wf {c : Ctx} (h : Memory.wf c.s.mem) : (entryBrx c).wf := h

@[simp] theorem entryCall_wf {c : Ctx} (h : Memory.wf c.s.mem) : (entryCall c).wf := h

@[simp] theorem entryRet_wf {c : Ctx} (h : Memory.wf c.s.mem) : (entryRet c).wf := h

@[simp] theorem entryReform_wf {c : Ctx} (h : Memory.wf c.s.mem) : (entryReform c).wf := by
  unfold entryReform
  (repeat' split) <;> simp [h]

@[simp] theorem Ctx.drawJoins_mem (c : Ctx) (n : Nat) : (Ctx.drawJoins c n).mem = c.s.mem := rfl

@[simp] theorem entryReformJoin_wf {c : Ctx} (h : Memory.wf c.s.mem) : (entryReformJoin c).wf := by
  simp only [entryReformJoin]
  (repeat' split) <;> simp [h]

@[simp] theorem entryYield_wf {c : Ctx} (h : Memory.wf c.s.mem) : (entryYield c).wf := h

@[simp] theorem tlbFill_mem (s : State) (core : Option Nat) (walked : Bool) (e : TlbEntry) : (tlbFill s core walked e).mem = s.mem := rfl

@[simp] theorem transLine_mem (s : State) (t : Team) (q : Want) (va : Nat) : (transLine s t q va).1.mem = s.mem := by
  unfold transLine
  (repeat' split) <;> simp

@[simp] theorem transLines_mem (t : Team) (q : Want) (s : State) (vas : List Nat) : (transLines t q s vas).1.mem = s.mem := by
  induction vas generalizing s with
  | nil => rfl
  | cons va vas ih => simp [transLines, ih]

@[simp] theorem reachLines_mem (s : State) (t : Team) (q : Want) (ls : List LaneReq) : (reachLines s t q ls).1.mem = s.mem := by simp [reachLines]

@[simp] theorem versionWord_mem (s : State) (tk : Nat) (t : Team) (m : Member) (tr : List (Nat × Trans)) (write : Bool) (ls : List LaneReq) :
    (versionWord s tk t m tr write ls).1.mem = s.mem := by
  simp only [versionWord]
  (repeat' split) <;> simp

@[simp] theorem State.firmLoads_mem (s : State) (tk : Nat) (p : LateLoad → Bool) : (State.firmLoads s tk p).mem = s.mem := rfl

@[simp] theorem Ctx.accessAgain_mem (c : Ctx) (s : State) (tr : List (Nat × Trans)) (ls : List LaneReq) :
    (Ctx.accessAgain c s tr ls).mem = s.mem := rfl

@[simp] theorem State.interrupt_mem (s : State) (n : Nat) : (State.interrupt s n).mem = s.mem := rfl

@[simp] theorem putNote_wf {s : State} (die : Nat) (bs : List Byte) (h : Memory.wf s.mem) : Memory.wf (putNote s die bs).mem := by
  simp only [putNote]
  split <;> simp [h]

@[simp] theorem notify_wf {s : State} (die va part cnt : Nat) (h : Memory.wf s.mem) : Memory.wf (notify s die va part cnt).mem := by
  simp only [notify]
  (repeat' split) <;> simp [h]

@[simp] theorem countAccess_wf {s : State} (die part va leafPa : Nat) (h : Memory.wf s.mem) : Memory.wf (countAccess s die part va leafPa).mem := by
  simp only [countAccess]
  split <;> simp [h]

@[simp] theorem touchPool_mem (s : State) (part : Option Nat) (pa : Nat) (write : Bool) : (touchPool s part pa write).mem = s.mem := by
  simp only [touchPool]
  (repeat' split) <;> simp

@[simp] theorem touchLine_wf {s : State} (die part : Nat) (write : Bool) (x : Nat × Trans) (h : Memory.wf s.mem) :
    Memory.wf (touchLine s die part write x).mem := by
  unfold touchLine
  (repeat' split) <;> simp [h]

@[simp] theorem touchLines_wf {s : State} (t : Team) (write : Bool) (tr : List (Nat × Trans)) (ls : List LaneReq) (h : Memory.wf s.mem) :
    Memory.wf (touchLines s t write tr ls).mem :=
  foldl_wf (fun s x h => by simp [h]) _ h

@[simp] theorem putFault_wf {s : State} (die : Nat) (bs : List Byte) (h : Memory.wf s.mem) : Memory.wf (putFault s die bs).mem := by
  simp only [putFault]
  split <;> simp [h]

@[simp] theorem writeFault_wf {s : State} (die : Nat) (f : FaultRec) (h : Memory.wf s.mem) : Memory.wf (writeFault s die f).mem := by
  simp only [writeFault]
  split <;> simp [h]

@[simp] theorem postFaults_wf {s : State} (h : Memory.wf s.mem) (die : Nat) (fs : List FaultRec) : Memory.wf (postFaults s die fs).1.mem := by
  simp only [postFaults]
  split
  · exact foldl_wf (fun s x h => by simp [h]) _ h
  · simp [h]

@[simp] theorem stuckOf_wf {s : State} (tk : Nat) (t : Team) (m : Member) (kind : Nat) (x : Reached) (h : Memory.wf s.mem) :
    Memory.wf (stuckOf s tk t m kind x).1.mem := by simp [stuckOf, h]

/-- The version's checks of a memory word write no byte, whether they are made or not. -/
@[simp] theorem ite_versionWord_mem (p : Prop) [Decidable p] (s : State) (tk : Nat) (t : Team) (m : Member) (tr : List (Nat × Trans)) (write : Bool)
    (ls : List LaneReq) : (if p then versionWord s tk t m tr write ls else (s, none)).1.mem = s.mem := by
  split
  · exact versionWord_mem ..
  · rfl

theorem memWord_wf {c : Ctx} (u : Bool) (a : MemAsk) {perform : State → List (Nat × Trans) → List LaneReq → State × Out}
    (hp : ∀ s tr ls, Memory.wf s.mem → Memory.wf (perform s tr ls).1.mem) (h : Memory.wf c.s.mem) : (memWord c u a perform).wf := by
  unfold memWord
  dsimp only
  split
  · exact h
  split
  · exact h
  split
  · simpa using h
  · split
    · exact hp _ _ _ (by simp [h])
    · split
      · exact hp _ _ _ (by simp [h])
      · exact stuckOf_wf _ _ _ _ _ (hp _ _ _ (by simp [h]))

@[simp] theorem writeCells_wf {s : State} (tk : Nat) (v : Bool) (cells : List Host.Cell) (h : Memory.wf s.mem) :
    Memory.wf (writeCells s tk v cells).mem := by
  unfold writeCells
  (repeat' split) <;> simp [h]

@[simp] theorem State.storeWord_wf {s : State} (tk slot : Nat) (tid : Word) (words : Nat) (v : Bool) (upto : Nat) (done : List Word) (w : Nat)
    (cells : List Host.Cell) (h : Memory.wf s.mem) : Memory.wf (State.storeWord s tk slot tid words v upto done w cells).mem := by
  unfold State.storeWord
  (repeat' split) <;> simp [h]

@[simp] theorem Ctx.storeFrom_wf (c : Ctx) (v : Bool) (upto : Nat) (done l : List (Nat × List Host.Cell)) {s : State} (h : Memory.wf s.mem) :
    Memory.wf (c.storeFrom v upto done s l).mem := by
  induction l generalizing s done with
  | nil => exact h
  | cons e l ih => exact ih _ (foldl_wf (fun s x h => by simp [h]) _ h)

@[simp] theorem Ctx.storeCells_wf {c : Ctx} {s : State} (v : Bool) (upto : Nat) (cs : List (Nat × List Host.Cell)) (h : Memory.wf s.mem) :
    Memory.wf (Ctx.storeCells c s v upto cs).mem := by simp [Ctx.storeCells, h]

theorem storeBack_wf {c : Ctx} (quiet : Bool) (o : Obj) (cells : List Host.Cell) {after : List Nat → State → State}
    (ha : ∀ done s, Memory.wf s.mem → Memory.wf (after done s).mem) (h : Memory.wf c.s.mem) : (storeBack c quiet o cells after).wf := by
  unfold storeBack
  exact memWord_wf _ _ (fun s tr ok h => ha _ _ (by simp [h])) h

@[simp] theorem writeBack_wf {c : Ctx} (n : Nat) (o : Obj) (h : Memory.wf c.s.mem) :
    (writeBack c n o).wf := storeBack_wf _ _ _ (fun done s h => by simpa using h) h

@[simp] theorem Res.forAll_wf (c : Ctx) {r : Res} (h : r.wf) : (r.forAll c).wf := by
  unfold Res.forAll
  split <;> exact h

theorem writeBackAll_wf {k : Ctx → Res} (hk : ∀ c : Ctx, Memory.wf c.s.mem → (k c).wf) (ns : List Nat) {c : Ctx} (h : Memory.wf c.s.mem) :
    (writeBackAll c k ns).wf := by
  induction ns generalizing c with
  | nil => exact hk c h
  | cons n r ih =>
    unfold writeBackAll
    split
    · next o _ =>
      split
      · have hw := writeBack_wf n o h
        split
        · next s _ hs =>
          rw [hs] at hw
          split
          · exact ih hw
          · exact hw
        · exact Res.forAll_wf c hw
      · exact ih h
    · exact ih h

theorem afterWriteBack_wf {k : Ctx → Res} (hk : ∀ c : Ctx, Memory.wf c.s.mem → (k c).wf) {c : Ctx} (h : Memory.wf c.s.mem) :
    (afterWriteBack c k).wf := writeBackAll_wf hk _ h

@[simp] theorem State.performFor_mem (s : State) (tk : Nat) (t : Team) (slot : Nat) (lanes : List Word) (scope : Nat) (on : Late → Bool) :
    (State.performFor s tk t slot lanes scope on).mem = s.mem := rfl

@[simp] theorem Ctx.performAt_mem (c : Ctx) (scope : Nat) (on : Late → Bool) (s : State) : (Ctx.performAt c scope on s).mem = s.mem := rfl

@[simp] theorem Ctx.released_mem (c : Ctx) (scope : Nat) : (Ctx.released c scope).s.mem = c.s.mem := rfl

@[simp] theorem newRegion_mem (s : State) (tk : Nat) : (newRegion s tk).mem = s.mem := rfl

@[simp] theorem boundaryState_mem (c : Ctx) (acq : Bool) (s : State) : (boundaryState c acq s).mem = s.mem := by
  unfold boundaryState
  split <;> simp

@[simp] theorem Res.atBoundary_wf (c : Ctx) (acq : Bool) {r : Res} (h : r.wf) : (r.atBoundary c acq).wf := by
  unfold Res.atBoundary
  split
  · simpa using h
  · exact h

@[simp] theorem commitVersion_wf {s : State} (tk : Nat) (t : Team) (h : Memory.wf s.mem) : Memory.wf (commitVersion s tk t).mem := by
  simp only [commitVersion]
  split <;> simp [h]

theorem commitPoint_wf {k : Ctx → Res} (hk : ∀ c : Ctx, Memory.wf c.s.mem → (k c).wf) {c : Ctx} (bad : Bool) (h : Memory.wf c.s.mem) :
    (commitPoint c bad k).wf := by
  unfold commitPoint
  dsimp only
  (repeat' split) <;> simp [h, hk]

theorem boundary_wf {k : Ctx → Res} (hk : ∀ c : Ctx, Memory.wf c.s.mem → (k c).wf) {c : Ctx} (scope : Nat) (rel acq bad : Bool) {later : Option
    (Ctx → Res)} (hl : ∀ d ∈ later, ∀ c : Ctx, Memory.wf c.s.mem → (d c).wf)
  (h : Memory.wf c.s.mem) : (boundary c scope rel acq k bad later).wf := by
  have hp (c : Ctx) (h : Memory.wf c.s.mem) : Memory.wf (if rel then c.released scope else c).s.mem := by split <;> simp [h]
  have hcp (c : Ctx) (h : Memory.wf c.s.mem) : (commitPoint c bad k).wf := commitPoint_wf hk _ h
  have hwb (k : Ctx → Res) (hk : ∀ c : Ctx, Memory.wf c.s.mem → (k c).wf) : (afterWriteBack c k).wf := afterWriteBack_wf hk h
  unfold boundary
  dsimp only
  split
  · split
    · next d => split
                · exact hl d rfl c h
                · exact hwb d (hl d rfl)
    · exact h
  split
  · exact hk _ (hp c h)
  split
  · exact Res.atBoundary_wf _ _ (hk _ (hp c h))
  · refine hwb _ (fun c h => ?_)
    split
    · exact Res.atBoundary_wf _ _ (hcp _ (hp c h))
    · split
      · next d => exact hl d rfl _ h
      · exact hcp c h

@[simp] theorem entryExit_wf {c : Ctx} (h : Memory.wf c.s.mem) : (entryExit c).wf := by
  unfold entryExit
  dsimp only
  (repeat' split)
  · exact h
  · exact afterWriteBack_wf (fun c h => by simpa using h) h
  · exact boundary_wf (fun c h => by simpa using h) _ _ _ _ (by rintro d ⟨⟩) h
  · simpa using h


/-! ### The rows of Calud -/

@[simp] theorem predWise_wf {c : Ctx} (f : Nat → Bool) (h : Memory.wf c.s.mem) : (predWise c f).wf := h

@[simp] theorem entryPlog_wf {c : Ctx} (h : Memory.wf c.s.mem) : (entryPlog c).wf := h

@[simp] theorem entryPrd_wf {c : Ctx} (h : Memory.wf c.s.mem) : (entryPrd c).wf := h

@[simp] theorem entryPwr_wf {c : Ctx} (h : Memory.wf c.s.mem) : (entryPwr c).wf := h

@[simp] theorem shuffle_wf {c : Ctx} (src : Nat → Nat → Int) (h : Memory.wf c.s.mem) : (shuffle src c).wf := h

@[simp] theorem entryVote_wf {c : Ctx} (h : Memory.wf c.s.mem) : (entryVote c).wf := h

@[simp] theorem entryGred_wf {c : Ctx} (h : Memory.wf c.s.mem) : (entryGred c).wf := by
  unfold entryGred
  split <;> simp [h]

@[simp] theorem entryGscan_wf {c : Ctx} (h : Memory.wf c.s.mem) : (entryGscan c).wf := h

@[simp] theorem laneWise_wf {c : Ctx} (wide : Bool) (f : Nat → Nat) (h : Memory.wf c.s.mem) : (laneWise c wide f).wf := h

@[simp] theorem arith_wf {c : Ctx} (f : Int → Int → Int → Int) (h : Memory.wf c.s.mem) : (arith f c).wf := h

@[simp] theorem entryShl_wf {c : Ctx} (h : Memory.wf c.s.mem) : (entryShl c).wf := h

@[simp] theorem entryShr_wf {c : Ctx} (h : Memory.wf c.s.mem) : (entryShr c).wf := h

@[simp] theorem entryFsh_wf {c : Ctx} (h : Memory.wf c.s.mem) : (entryFsh c).wf := h

@[simp] theorem entryBfe_wf {c : Ctx} (h : Memory.wf c.s.mem) : (entryBfe c).wf := h

@[simp] theorem entryBfi_wf {c : Ctx} (h : Memory.wf c.s.mem) : (entryBfi c).wf := h

@[simp] theorem entryPopc_wf {c : Ctx} (h : Memory.wf c.s.mem) : (entryPopc c).wf := h

@[simp] theorem entryClz_wf {c : Ctx} (h : Memory.wf c.s.mem) : (entryClz c).wf := h

@[simp] theorem entryBrev_wf {c : Ctx} (h : Memory.wf c.s.mem) : (entryBrev c).wf := h

@[simp] theorem entryBfn_wf {c : Ctx} (h : Memory.wf c.s.mem) : (entryBfn c).wf := h

@[simp] theorem entryIcmp_wf {c : Ctx} (h : Memory.wf c.s.mem) : (entryIcmp c).wf := h

@[simp] theorem entrySel_wf {c : Ctx} (h : Memory.wf c.s.mem) : (entrySel c).wf := h

@[simp] theorem entryMov_wf {c : Ctx} (h : Memory.wf c.s.mem) : (entryMov c).wf := h

@[simp] theorem entryMovi_wf {c : Ctx} (h : Memory.wf c.s.mem) : (entryMovi c).wf := h

@[simp] theorem entrySmovi_wf {c : Ctx} (h : Memory.wf c.s.mem) : (entrySmovi c).wf := h

@[simp] theorem floatWise_wf {c : Ctx} (f : Nat → Nat → Rounded) (h : Memory.wf c.s.mem) : (floatWise c f).wf := h

@[simp] theorem float2_wf {c : Ctx} (f : Fmt32 → Nat → Bool → Nat → Nat → Nat → Rounded) (h : Memory.wf c.s.mem) : (float2 f c).wf := h

@[simp] theorem entryFfma_wf {c : Ctx} (h : Memory.wf c.s.mem) : (entryFfma c).wf := h

@[simp] theorem floatMinMax_wf {c : Ctx} (isMax : Bool) (h : Memory.wf c.s.mem) : (floatMinMax isMax c).wf := h

@[simp] theorem entryFcmp_wf {c : Ctx} (h : Memory.wf c.s.mem) : (entryFcmp c).wf := h

@[simp] theorem entryFrnd_wf {c : Ctx} (h : Memory.wf c.s.mem) : (entryFrnd c).wf := h

@[simp] theorem float16x2_wf {c : Ctx} (f : Fmt32 → Nat → Nat → Nat → Nat → Rounded) (h : Memory.wf c.s.mem) : (float16x2 c f).wf := h

@[simp] theorem entryHadd2_wf {c : Ctx} (h : Memory.wf c.s.mem) : (entryHadd2 c).wf := h

@[simp] theorem entryHmul2_wf {c : Ctx} (h : Memory.wf c.s.mem) : (entryHmul2 c).wf := h

@[simp] theorem entryHfma2_wf {c : Ctx} (h : Memory.wf c.s.mem) : (entryHfma2 c).wf := h

@[simp] theorem entryCvt_wf {c : Ctx} (h : Memory.wf c.s.mem) : (entryCvt c).wf := h

@[simp] theorem entryNpack_wf {c : Ctx} (h : Memory.wf c.s.mem) : (entryNpack c).wf := h

@[simp] theorem entryNunpk_wf {c : Ctx} (h : Memory.wf c.s.mem) : (entryNunpk c).wf := h

@[simp] theorem dotInts_wf {c : Ctx} (n : Nat) (h : Memory.wf c.s.mem) : (dotInts c n).wf := h

@[simp] theorem dotFloats_wf {c : Ctx} (n : Nat) (acc : Nat → Nat) (val : Nat → Nat → Ex) (sa sb : Ex) (h : Memory.wf c.s.mem) :
    (dotFloats c n acc val sa sb).wf := h

@[simp] theorem entryDot2_wf {c : Ctx} (h : Memory.wf c.s.mem) : (entryDot2 c).wf := by
  simp only [entryDot2]
  split <;> simp [h]

@[simp] theorem entryDot4_wf {c : Ctx} (h : Memory.wf c.s.mem) : (entryDot4 c).wf := by
  simp only [entryDot4]
  split <;> simp [h]

@[simp] theorem entryDot8_wf {c : Ctx} (h : Memory.wf c.s.mem) : (entryDot8 c).wf := h

@[simp] theorem entryDotsc_wf {c : Ctx} (h : Memory.wf c.s.mem) : (entryDotsc c).wf := h

@[simp] theorem entryCbLd_wf {c : Ctx} (h : Memory.wf c.s.mem) : (entryCbLd c).wf := h

@[simp] theorem entryCbRd_wf {c : Ctx} (h : Memory.wf c.s.mem) : (entryCbRd c).wf := h

@[simp] theorem entrySfu_wf {c : Ctx} (fn : Fun) (h : Memory.wf c.s.mem) : (entrySfu fn c).wf := h

@[simp] theorem Ctx.sawWords_mem (c : Ctx) (l : Nat) (space : Option (Nat × Nat)) (s : State) (ws : List Nat) :
    (c.sawWords l space s ws).mem = s.mem :=
  foldl_mem (fun s w => by split <;> rfl) ws s

@[simp] theorem Ctx.sawObj_mem (c : Ctx) (n : Nat) (ls : List Nat) : (Ctx.sawObj c n ls).mem = c.s.mem := by simp [Ctx.sawObj]

@[simp] theorem Ctx.sawLanes_mem (c : Ctx) (s : State) (tr : List (Nat × Trans)) (ls : List LaneReq) :
    (Ctx.sawLanes c s tr ls).mem = s.mem := by simp [Ctx.sawLanes]

@[simp] theorem entryLdl_wf {c : Ctx} (h : Memory.wf c.s.mem) : (entryLdl c).wf := by
  unfold entryLdl
  dsimp only
  split
  · exact h
  split
  · exact h
  split
  · exact h
  split
  · simpa using h
  split
  · exact h
  exact memWord_wf _ _ (fun s tr ok h => by simpa using h) h

@[simp] theorem entryStl_wf {c : Ctx} (h : Memory.wf c.s.mem) : (entryStl c).wf := by
  simp only [entryStl]
  (repeat' split) <;> simp [h]

@[simp] theorem Ctx.enqueue_mem (c : Ctx) (i : Nat) (s : State) : (Ctx.enqueue c i s).mem = s.mem := rfl

@[simp] theorem entrySync_wf {c : Ctx} (load : Bool) (h : Memory.wf c.s.mem) : (entrySync load c).wf := by
  simp only [entrySync]
  (repeat' split) <;> simp [h]

@[simp] theorem entryBuf_wf {c : Ctx} (h : Memory.wf c.s.mem) : (entryBuf c).wf := by
  unfold entryBuf
  (repeat' split) <;> simp [h]

@[simp] theorem entryBufStat_wf {c : Ctx} (h : Memory.wf c.s.mem) : (entryBufStat c).wf := by
  unfold entryBufStat
  split <;> simp [h]

@[simp] theorem Res.unflushed_wf (c : Ctx) {r : Res} (h : r.wf) : (r.unflushed c).wf := by
  unfold Res.unflushed
  split <;> exact h

@[simp] theorem stashWord_wf (inv : Bool) {c : Ctx} (h : Memory.wf c.s.mem) : (stashWord inv c).wf := by
  unfold stashWord
  split
  · exact h
  · next o _ =>
    have rest (c : Ctx) (cells : List Host.Cell) (h : Memory.wf c.s.mem) : (if cells = [] then Res.done c.s Out.none
        else storeBack c true o cells (fun done s => s.updTeam c.tk (fun t => t.flushed (fA c.w) c.ownFlush done))).wf := by
      split
      · exact h
      · exact storeBack_wf _ _ _ (fun done s h => h) h
    dsimp only
    split
    · exact rest _ _ h
    · split
      · exact Res.unflushed_wf _ (rest _ _ h)
      · exact h

@[simp] theorem entryStashFlush_wf {c : Ctx} (h : Memory.wf c.s.mem) : (entryStashFlush c).wf := by simp [entryStashFlush, h]

@[simp] theorem entryStashInv_wf {c : Ctx} (h : Memory.wf c.s.mem) : (entryStashInv c).wf := by simp [entryStashInv, h]

@[simp] theorem entryArm_wf {c : Ctx} (h : Memory.wf c.s.mem) : (entryArm c).wf := h

@[simp] theorem entryLdr_wf {c : Ctx} (h : Memory.wf c.s.mem) : (entryLdr c).wf := by
  unfold entryLdr
  dsimp only
  split
  · exact h
  exact memWord_wf _ _ (fun s tr ok h => by simpa using h) h

@[simp] theorem storeLanes_wf {c : Ctx} {s : State} (v : Bool) (data : Nat → List Byte) (tr : List (Nat × Trans)) (ok : List LaneReq)
    (h : Memory.wf s.mem) : Memory.wf (storeLanes c v data s tr ok).1.mem := by simp [storeLanes, h]

@[simp] theorem entryStr_wf {c : Ctx} (h : Memory.wf c.s.mem) : (entryStr c).wf := by
  unfold entryStr
  dsimp only
  split
  · exact h
  exact memWord_wf _ _ (fun s tr ok h => storeLanes_wf _ _ _ _ h) h

@[simp] theorem entryLdg_wf {c : Ctx} (h : Memory.wf c.s.mem) : (entryLdg c).wf := by
  refine .ite h ?_
  split
  · exact h
  · exact memWord_wf _ _ (fun s tr ok h => by simpa using h) h

@[simp] theorem entryStg_wf {c : Ctx} (h : Memory.wf c.s.mem) : (entryStg c).wf := by
  refine .ite h ?_
  split
  · exact h
  · exact memWord_wf _ _ (fun s tr ok h => storeLanes_wf _ _ _ _ h) h

@[simp] theorem entryStu_wf {c : Ctx} (h : Memory.wf c.s.mem) : (entryStu c).wf :=
  .ite h (.ite h (.ite h (memWord_wf _ _ (fun _ _ _ h => storeLanes_wf _ _ _ _ h) h)))

@[simp] theorem entryPref_wf {c : Ctx} (h : Memory.wf c.s.mem) : (entryPref c).wf := h

@[simp] theorem entrySample_wf {c : Ctx} (h : Memory.wf c.s.mem) : (entrySample c).wf := by
  unfold entrySample
  dsimp only
  split
  · exact h
  split
  · exact h
  split
  · exact h
  split
  · exact h
  exact memWord_wf _ _ (fun s tr ok h => by simpa using h) h

@[simp] theorem entryRecld_wf {c : Ctx} (h : Memory.wf c.s.mem) : (entryRecld c).wf := by
  unfold entryRecld
  dsimp only
  split
  · exact h
  split
  · exact h
  exact memWord_wf _ _ (fun s tr ok h => by simpa using h) h

@[simp] theorem entryRecset_wf {c : Ctx} (h : Memory.wf c.s.mem) : (entryRecset c).wf := by
  unfold entryRecset
  (repeat' split) <;> simp [h]

@[simp] theorem entryRecqry_wf {c : Ctx} (h : Memory.wf c.s.mem) : (entryRecqry c).wf := h

@[simp] theorem Ctx.defer_mem (c : Ctx) (scope : Nat) (accesses : List Deferred) (s : State) : (Ctx.defer c scope accesses s).mem = s.mem := rfl

theorem synced_wf (need : Need) (kind : Nat) (returns : Bool) {c : Ctx} {perform : Ctx → State → List (Nat × Trans) → List LaneReq → State × Out}
    (hp : ∀ c s tr ls, Memory.wf s.mem → Memory.wf (perform c s tr ls).1.mem) (h : Memory.wf c.s.mem) : (synced need kind returns c perform).wf := by
  unfold synced
  dsimp only
  split
  · exact h
  · split
    · exact h
    · refine boundary_wf (fun c h => memWord_wf _ _ (hp c) h) _ _ _ _ ?_ h
      rintro d hd c h
      obtain ⟨-, ⟨⟩⟩ := Option.ite_none_right_eq_some.mp hd
      exact memWord_wf _ _ (fun s tr ok h => by simpa using h) h

@[simp] theorem Ctx.sawLast_mem (c : Ctx) (l : Nat) (s : State) (ws : List Nat) : (Ctx.sawLast c l s ws).mem = s.mem := rfl

@[simp] theorem rmw_wf (c : Ctx) (scope n : Nat) (tr : List (Nat × Trans)) (f : Nat → Nat → Option Nat) {s : State} (h : Memory.wf s.mem)
    (ls : List LaneReq) :
    Memory.wf (rmw c scope n tr f s ls).1.mem := by
  induction ls generalizing s with
  | nil => exact h
  | cons l r ih =>
    refine ih ?_
    split <;> simp [h]

@[simp] theorem atomic_wf (need : Need) (kind : Nat) (f : Ctx → Nat → Nat → Option Nat) (returns : Bool) {c : Ctx} (h : Memory.wf c.s.mem) :
    (atomic need kind f returns c).wf :=
  synced_wf _ _ _ (fun c s tr ls h => by simpa using rmw_wf _ _ _ _ _ h _) h

@[simp] theorem entryAtom_wf {c : Ctx} (h : Memory.wf c.s.mem) : (entryAtom c).wf := by simp [entryAtom, h]

@[simp] theorem entryCas_wf {c : Ctx} (h : Memory.wf c.s.mem) : (entryCas c).wf := by simp [entryCas, h]

@[simp] theorem entryRed_wf {c : Ctx} (h : Memory.wf c.s.mem) : (entryRed c).wf := by simp [entryRed, h]

@[simp] theorem entryLda_wf {c : Ctx} (h : Memory.wf c.s.mem) : (entryLda c).wf := synced_wf _ _ _ (fun c s tr ls h => by simpa using h) h

@[simp] theorem entryStrl_wf {c : Ctx} (h : Memory.wf c.s.mem) : (entryStrl c).wf := by simp [entryStrl, h]

@[simp] theorem entryFence_wf {c : Ctx} (h : Memory.wf c.s.mem) : (entryFence c).wf := by
  unfold entryFence
  split
  · exact h
  · refine boundary_wf (fun c h => by exact h) _ _ _ _ ?_ h
    split
    · rintro d ⟨⟩
    · rintro d ⟨⟩ c h
      simpa using h

@[simp] theorem arrive_wf {c : Ctx} (clu : Bool) (n : Nat) (h : Memory.wf c.s.mem) : (arrive c clu n).wf := by
  unfold arrive
  split <;> simp [h]

@[simp] theorem entryBarTeam_wf {c : Ctx} (h : Memory.wf c.s.mem) : (entryBarTeam c).wf := by
  unfold entryBarTeam
  (repeat' split)
  · exact h
  · exact boundary_wf (fun c h => by exact h) _ _ _ _ (by rintro d ⟨⟩) h
  · simp [h]

@[simp] theorem entryBarClu_wf {c : Ctx} (h : Memory.wf c.s.mem) : (entryBarClu c).wf := by
  unfold entryBarClu
  dsimp only
  (repeat' split)
  · exact h
  · exact boundary_wf (fun c h => by exact h) _ _ _ _ (by rintro d ⟨⟩) h
  · exact boundary_wf (fun c h => by simp [h]) _ _ _ _ (by rintro d ⟨⟩) h
  · simp [h]

@[simp] theorem entryCommit_wf {c : Ctx} (h : Memory.wf c.s.mem) : (entryCommit c).wf := by
  unfold entryCommit
  split
  · exact h
  · exact Res.atBoundary_wf _ _ (commitPoint_wf (fun c h => by exact h) _ h)

@[simp] theorem entryVqry_wf {c : Ctx} (h : Memory.wf c.s.mem) : (entryVqry c).wf := h

@[simp] theorem putEntry_wf {s : State} (p : Spring) (b e : Nat) (h : Memory.wf s.mem) : Memory.wf (putEntry s p b e).mem := by simp [putEntry, h]

theorem answerAll_wf {s : State} (p : Spring) (b : Nat) {f : State → Waiter → State} (hf : ∀ s w, Memory.wf s.mem → Memory.wf (f s w).mem)
    (h : Memory.wf s.mem) :
    Memory.wf (answerAll s p b f).mem := foldl_wf hf _ h

@[simp] theorem releaseWaiter_mem (sp b : Nat) (s : State) (w : Waiter) : (releaseWaiter sp b s w).mem = s.mem := by
  unfold releaseWaiter
  split <;> simp

@[simp] theorem beginEviction_wf {s : State} (p : Spring) (b : Nat) (who : Option (Nat × Nat × Nat)) (h : Memory.wf s.mem) :
    Memory.wf (beginEviction s p b who).mem := by
  simp only [beginEviction]
  split <;> simp [h]

@[simp] theorem fillBlock_wf {s : State} (p : Spring) (b : Nat) (h : Memory.wf s.mem) : Memory.wf (fillBlock s p b).mem := by
  have ha := answerAll_wf (s := (putEntry s p b (s.fillEntry p b / 4 * 4 + 2)).updSpring p.key (fun p => { p with fills :=
    p.fills ++ [b] })) p b (f := releaseWaiter p.num b)
    (fun s w h => by simp [h]) (by simp [h])
  unfold fillBlock
  dsimp only
  (repeat' split) <;> simp [ha]

@[simp] theorem entrySfill_wf {c : Ctx} (h : Memory.wf c.s.mem) : (entrySfill c).wf := by
  unfold entrySfill
  dsimp only
  (repeat' split)
  · exact h
  · exact h
  · exact h
  · refine afterWriteBack_wf (fun c h => ?_) h
    split
    · exact h
    · simp [h]

@[simp] theorem entrySfail_wf {c : Ctx} (h : Memory.wf c.s.mem) : (entrySfail c).wf := by
  unfold entrySfail
  split <;> simp [h]

@[simp] theorem entrySevict_wf {c : Ctx} (h : Memory.wf c.s.mem) : (entrySevict c).wf := by
  simp only [entrySevict]
  (repeat' split) <;> simp [h]

@[simp] theorem entrySqry_wf {c : Ctx} (h : Memory.wf c.s.mem) : (entrySqry c).wf := by
  simp only [entrySqry]
  split <;> simp [h]

@[simp] theorem entryTgrow_wf {c : Ctx} (h : Memory.wf c.s.mem) : (entryTgrow c).wf := by
  simp only [entryTgrow]
  (repeat' split) <;> simp [h]

@[simp] theorem entryTshrink_wf {c : Ctx} (h : Memory.wf c.s.mem) : (entryTshrink c).wf := by
  simp only [entryTshrink]
  (repeat' split) <;> simp [h]

@[simp] theorem entryTld_wf {c : Ctx} (h : Memory.wf c.s.mem) : (entryTld c).wf := by
  unfold entryTld
  (repeat' split) <;> simp [h]

@[simp] theorem entryTst_wf {c : Ctx} (h : Memory.wf c.s.mem) : (entryTst c).wf := by
  unfold entryTst
  (repeat' split) <;> simp [h]

@[simp] theorem entryTstOrd_wf {c : Ctx} (h : Memory.wf c.s.mem) : (entryTstOrd c).wf := by
  simp only [entryTstOrd]
  (repeat' split) <;> simp [h]

@[simp] theorem checked_wf {c : Ctx} {k : Res} (l : List (Option Nat)) (hc : Memory.wf c.s.mem) (hk : k.wf) : (checked c l k).wf := by
  unfold checked
  split <;> simp [hc, hk]

@[simp] theorem countObj_mem (s : State) (tk : Nat) (n : Option Nat) (f : Obj → Obj) : (countObj s tk n f).mem = s.mem := by
  unfold countObj
  split <;> simp

@[simp] theorem countIn_mem (s : State) (k : Command) : (countIn s k).mem = s.mem := by simp [countIn]

@[simp] theorem accept_wf {c : Ctx} (matrix : Bool) (token : Option Nat) (ring : Option Rec) (job : Job) (h : Memory.wf c.s.mem) :
    (accept c matrix token ring job).wf := by
  unfold accept
  split <;> simp [h]

@[simp] theorem entryBeam_wf {c : Ctx} (h : Memory.wf c.s.mem) : (entryBeam c).wf := by simp [entryBeam, h]

@[simp] theorem withMalformed_wf (bad fin : BitVec 32) {r : Res} (h : r.wf) : (withMalformed bad fin r).wf := by
  unfold withMalformed
  (repeat' split) <;> simp_all

@[simp] theorem entryRay_wf {c : Ctx} (h : Memory.wf c.s.mem) : (entryRay c).wf := by
  unfold entryRay
  dsimp only
  (repeat' split)
  case isFalse.isFalse => exact withMalformed_wf _ _ (memWord_wf _ _ (fun s tr ok h => by simpa using h) h)
  all_goals exact h

@[simp] theorem entryXcopy_wf {c : Ctx} (h : Memory.wf c.s.mem) : (entryXcopy c).wf := by
  simp only [entryXcopy]
  split <;> simp [h]

@[simp] theorem entryXsend_wf {c : Ctx} (h : Memory.wf c.s.mem) : (entryXsend c).wf := by simp [entryXsend, h]

@[simp] theorem entryShapeLd_wf {c : Ctx} (h : Memory.wf c.s.mem) : (entryShapeLd c).wf := by
  simp only [entryShapeLd]
  split <;> simp [h]

@[simp] theorem entryShapeEv_wf {c : Ctx} (h : Memory.wf c.s.mem) : (entryShapeEv c).wf := h

@[simp] theorem entryXgath_wf {c : Ctx} (h : Memory.wf c.s.mem) : (entryXgath c).wf := by simp [entryXgath, h]

@[simp] theorem entryColl_wf {c : Ctx} (h : Memory.wf c.s.mem) : (entryColl c).wf := by simp [entryColl, h]

@[simp] theorem entryWaitk_wf {c : Ctx} (h : Memory.wf c.s.mem) : (entryWaitk c).wf := by
  simp only [entryWaitk]
  (repeat' split) <;> simp [h]

@[simp] theorem entryKtest_wf {c : Ctx} (h : Memory.wf c.s.mem) : (entryKtest c).wf := by
  simp only [entryKtest]
  split <;> simp [h]

@[simp] theorem entryCrec_wf {c : Ctx} (h : Memory.wf c.s.mem) : (entryCrec c).wf := by
  have hm (c : Ctx) (a : MemAsk) (h : Memory.wf c.s.mem) : (memWord c true a (fun s _ _ => (s, Out.none))).wf := memWord_wf _ _ (fun s tr ok h => h) h
  unfold entryCrec
  dsimp only
  (repeat' split)
  · exact h
  · exact h
  · exact h
  · exact boundary_wf (fun c h => hm c _ h) _ _ _ _ (by rintro d ⟨⟩) h
  · exact hm c _ h

@[simp] theorem entryAccOpen_wf {c : Ctx} (h : Memory.wf c.s.mem) : (entryAccOpen c).wf := by
  simp only [entryAccOpen]
  (repeat' split) <;> simp [h]

@[simp] theorem entryMma_wf {c : Ctx} (sparse : Bool) (h : Memory.wf c.s.mem) : (entryMma sparse c).wf := by simp [entryMma, h]

@[simp] theorem entryAccRet_wf {c : Ctx} (h : Memory.wf c.s.mem) : (entryAccRet c).wf := by simp [entryAccRet, h]

@[simp] theorem entryAccRd_wf {c : Ctx} (h : Memory.wf c.s.mem) : (entryAccRd c).wf := by
  simp only [entryAccRd]
  (repeat' split) <;> simp [h]

@[simp] theorem entryAccZero_wf {c : Ctx} (h : Memory.wf c.s.mem) : (entryAccZero c).wf := by
  unfold entryAccZero
  split <;> simp [h]

@[simp] theorem entryMetaLd_wf {c : Ctx} (h : Memory.wf c.s.mem) : (entryMetaLd c).wf := by simp [entryMetaLd, h]

@[simp] theorem entryTrap_wf {c : Ctx} (h : Memory.wf c.s.mem) : (entryTrap c).wf := h

@[simp] theorem entryTret_wf {c : Ctx} (h : Memory.wf c.s.mem) : (entryTret c).wf := by simp [entryTret, h]

@[simp] theorem entryTabandon_wf {c : Ctx} (h : Memory.wf c.s.mem) : (entryTabandon c).wf := h

@[simp] theorem entryTmask_wf {c : Ctx} (h : Memory.wf c.s.mem) : (entryTmask c).wf := h

@[simp] theorem entrySysrd_wf {c : Ctx} (h : Memory.wf c.s.mem) : (entrySysrd c).wf := h

@[simp] theorem entrySyswr_wf {c : Ctx} (h : Memory.wf c.s.mem) : (entrySyswr c).wf := by
  simp only [entrySyswr]
  (repeat' split) <;> simp [h]

@[simp] theorem entryAcq_wf {c : Ctx} (h : Memory.wf c.s.mem) : (entryAcq c).wf := by
  unfold entryAcq
  split <;> simp [h]

@[simp] theorem entryRel_wf {c : Ctx} (h : Memory.wf c.s.mem) : (entryRel c).wf := by
  unfold entryRel
  split <;> simp [h]

@[simp] theorem entryQry_wf {c : Ctx} (h : Memory.wf c.s.mem) : (entryQry c).wf := h


/-! ### Patch words, slots and packets -/

theorem patch_wf {f : Nat → Bool → LStream → State → State} (hf : ∀ n vec st s, Memory.wf s.mem → Memory.wf (f n vec st s).mem) {s : State}
    (h : Memory.wf s.mem) : outWf (patch f s) := by
  unfold patch
  split
  · trivial
  · rw [outWf_next]
    split
    · exact hf _ _ _ _ h
    · exact h

@[simp] theorem State.putFstat_wf {s : State} (stream : Nat) (h : Memory.wf s.mem) : Memory.wf (State.putFstat s stream).mem := by
  unfold State.putFstat
  split <;> simp [h]

@[simp] theorem State.endSlice_wf {s : State} (stream frame slice : Nat) (e : SliceEnd) (h : Memory.wf s.mem) :
    Memory.wf (State.endSlice s stream frame slice e).mem := by simp [State.endSlice, h]

@[simp] theorem State.missSlice_wf {s : State} (stream frame slice : Nat) (h : Memory.wf s.mem) :
    Memory.wf (State.missSlice s stream frame slice).mem := by simp [State.missSlice, h]

@[simp] theorem writeEvent_wf {s : State} (n evt : Nat) (body : List Byte) (h : Memory.wf s.mem) : Memory.wf (writeEvent s n evt body).mem := by
  simp only [writeEvent]
  split <;> simp [h]

@[simp] theorem giveRoom_wf {s : State} (n evt : Nat) (body : List Byte) (h : Memory.wf s.mem) : Memory.wf (giveRoom s n evt body).mem := by
  unfold giveRoom
  split <;> simp [h]

@[simp] theorem postEvent_wf {s : State} (n evt : Nat) (body : List Byte) (h : Memory.wf s.mem) : Memory.wf (postEvent s n evt body).mem := by
  simp only [postEvent]
  (repeat' split) <;> simp [h]

@[simp] theorem tellHalt_wf {s : State} (n : Nat) (h : Memory.wf s.mem) : Memory.wf (tellHalt s n).mem := by
  simp only [tellHalt]
  (repeat' split) <;> simp [h]

@[simp] theorem haltLc_wf {s : State} (n cause src slot arg pc err2 : Nat) (h : Memory.wf s.mem) :
    Memory.wf (haltLc s n cause src slot arg pc err2).mem := by
  simp only [haltLc]
  split <;> simp [h]

@[simp] theorem wordCause_wf {s : State} (n : Nat) (vec : Bool) (cause arg pc : Nat) (h : Memory.wf s.mem) :
    Memory.wf (wordCause s n vec cause arg pc).mem := by simp [wordCause, h]

@[simp] theorem putX_mem (b : BCtx) (d : Nat) (v : Word) (s : State) : (putX b d v s).mem = s.mem := rfl

@[simp] theorem branchTo_mem (b : BCtx) (off : BitVec 16) (s : State) : (branchTo b off s).mem = s.mem := rfl

@[simp] theorem rotate_mem (b : BCtx) (bit0 : Bool) (s : State) : (rotate b bit0 s).mem = s.mem := rfl

/-- A slot keeps memory canonical: it writes memory only by the event of a halt (R372, R391). -/
structure Slot.Keeps (k : Slot) : Prop where
  /-- What comes before the slots of its word. -/
  before : ∀ b s, (k.before b s).mem = s.mem
  /-- Its own effect. -/
  act : ∀ b on s, Memory.wf s.mem → Memory.wf (k.act b on s).mem

@[simp] theorem ldPut_mem (n : Nat) (vec : Bool) (dst : Nat × Bool) (bs : List Byte) (s : State) : (ldPut n vec dst bs s).mem = s.mem := by
  unfold ldPut
  split <;> simp

@[simp] theorem applyPost_mem (n : Nat) (vec : Bool) (p : Option (Nat × Word)) (s : State) : (applyPost n vec p s).mem = s.mem := by
  unfold applyPost
  split <;> simp

@[simp] theorem ldPerform_mem (n : Nat) (vec : Bool) (x : LdWait) (s : State) : (ldPerform n vec x s).mem = s.mem := by
  simp only [ldPerform]
  (repeat' split) <;> simp

@[simp] theorem ldAct_mem (op : Nat) (f : LdForm) (b : BCtx) (s : State) : (ldAct op f b s).mem = s.mem := by
  simp only [ldAct]
  split <;> simp

@[simp] theorem stPerform_mem (n : Nat) (vec : Bool) (x2 : StHeld) (s : State) : (stPerform n vec x2 s).mem = s.mem := rfl

@[simp] theorem stAct_mem (op : Nat) (f : StForm) (b : BCtx) (s : State) : (stAct op f b s).mem = s.mem := by
  simp only [stAct]
  (repeat' split) <;> simp

@[simp] theorem signal_wf {s : State} (n sm src pc : Nat) (h : Memory.wf s.mem) : Memory.wf (signal s n sm src pc).mem := by
  unfold signal
  (repeat' split) <;> simp [h]

@[simp] theorem signalUnit_wf {s : State} (b : BCtx) (f : SemForm) (h : Memory.wf s.mem) : Memory.wf (signalUnit b f s).mem := by
  unfold signalUnit
  (repeat' split) <;> simp [h]

@[simp] theorem takeUnit_mem (b : BCtx) (f : SemForm) (s : State) : (takeUnit b f s).mem = s.mem := by
  unfold takeUnit
  split <;> simp

@[simp] theorem orderUnit_mem (b : BCtx) (f : SemForm) (s : State) : (orderUnit b f s).mem = s.mem := by
  unfold orderUnit
  split <;> simp

@[simp] theorem pushCmd_mem (party : Nat) (b : BCtx) (a : BitVec 5) (f : SemForm) (f0 f1 : Bool) (s : State) :
    (pushCmd party b a f f0 f1 s).mem = s.mem := rfl

@[simp] theorem State.setWaiting_mem (s : State) (n : Nat) (vec b : Bool) : (State.setWaiting s n vec b).mem = s.mem := rfl

/-- A slot's effect under its guard. -/
theorem guarded_act_wf {act : BCtx → State → State} (ha : ∀ b s, Memory.wf s.mem → Memory.wf (act b s).mem) (b : BCtx) (on : Bool) (s : State)
    (h : Memory.wf s.mem) : Memory.wf (if on then act b s else s).mem := by
  cases on
  · exact h
  · exact ha b s h

theorem Slot.plain_keeps (num : Nat) (dst : List LReg) {act : BCtx → State → State} (ha : ∀ b s, Memory.wf s.mem → Memory.wf (act b s).mem) :
    (Slot.plain num dst act).Keeps :=
  ⟨fun _ _ => rfl, guarded_act_wf ha⟩

theorem s0Reg_keeps (d a b : BitVec 5) (f : Word → Word → Word) : (s0Reg d a b f).Keeps := Slot.plain_keeps _ _ (fun _ _ h => by simp [h])

theorem vSlot_keeps (op : Nat) (res : BCtx → VForm → BitVec 4096) (f : VForm) : (vSlot op res f).Keeps := ⟨fun _ _ => rfl, fun _ _ _ h => h⟩

theorem ldSlot_keeps (op : Nat) (f : LdForm) : (ldSlot op f).Keeps := ⟨fun _ _ => rfl, guarded_act_wf (fun _ _ h => by simp [h])⟩

theorem stSlot_keeps (op : Nat) (f : StForm) : (stSlot op f).Keeps := ⟨fun _ _ => rfl, guarded_act_wf (fun _ _ h => by simp [h])⟩

theorem cmdSlot_keeps (party : Nat) (a : BitVec 5) (f : SemForm) (f0 f1 : Bool) (data : BCtx → Option (Nat × Nat × Nat)) :
    (cmdSlot party a f f0 f1 data).Keeps := ⟨fun _ _ => rfl, guarded_act_wf (fun _ _ h => h)⟩

/-- Every slot of a template keeps memory canonical. -/
theorem slotOf_keeps {i : Instr} {k : Slot} (h : slotOf i = some k) : k.Keeps := by
  cases i
  all_goals cases h
  case snop => exact Slot.plain_keeps _ _ (fun _ _ h => h)
  case sadd | ssub | smul | sand | sor | sxor | sshl | sshr | ssra | slt | sltu => exact s0Reg_keeps ..
  case saddi | slui => exact Slot.plain_keeps _ _ (fun _ _ h => by simp [h])
  case srd => exact ⟨fun _ _ => rfl, guarded_act_wf (fun _ _ h => by simp [h])⟩
  case beqz | bnez => exact Slot.plain_keeps _ _ (fun b s h => by split <;> simp [h])
  case bru => exact Slot.plain_keeps _ _ (fun _ _ h => by simp [h])
  case lstart => exact Slot.plain_keeps _ _ (fun _ _ h => h)
  case loopS => exact Slot.plain_keeps _ _ (fun b s h => by (repeat' split) <;> simp [h])
  case setshp | setlb | semInit | semAdd | semSub | semRd => exact ⟨fun _ _ => rfl, guarded_act_wf (fun _ _ h => h)⟩
  case vmov | vadd | vsub | vmul | vfma | vmin | vmax | vlerp | vabs | vcmp | vsel | vand | vor | vxor | vshl | vshr | vcvt | vtrn | vbrow | vbcol |
    vrotc | vperm | vrsum => exact vSlot_keeps ..
  case ldw | ldwr | ldx => exact ldSlot_keeps ..
  case stw | stwr | stx => exact stSlot_keeps ..
  case qnop => exact ⟨fun _ _ => orderUnit_mem .., guarded_act_wf (fun _ _ h => by simp [h])⟩
  case cqpush | cqpop => exact ⟨fun _ _ => orderUnit_mem .., guarded_act_wf (fun _ _ h => signalUnit_wf _ _ ((takeUnit_mem ..).symm ▸ h))⟩
  case cpld | cpst | mmc => exact cmdSlot_keeps ..

theorem slotsOfTpl_keeps {t : BitVec 256} {ks : List Slot} (h : slotsOfTpl t = .ok ks) : ∀ k ∈ ks, k.Keeps := by
  unfold slotsOfTpl at h
  split at h
  · cases h
  split at h
  · cases h
  · cases h
    intro k hk
    obtain ⟨p, -, hp⟩ := List.mem_filterMap.mp hk
    split at hp
    · obtain ⟨i, -, hi⟩ := Option.bind_eq_some_iff.mp hp
      exact slotOf_keeps hi
    · cases hp

/-- What comes before the slots of a word. -/
theorem foldl_before_wf (b : BCtx) {ks : List Slot} (hk : ∀ k ∈ ks, k.Keeps) {s : State} (h : Memory.wf s.mem) :
    Memory.wf (ks.foldl (fun s k => k.before b s) s).mem := by
  induction ks generalizing s with
  | nil => exact h
  | cons k ks ih => exact ih (fun k hk' => hk k (List.mem_cons_of_mem _ hk')) (by rw [(hk k List.mem_cons_self).before]; exact h)

/-- The effects of the slots of a word. -/
theorem foldl_act_wf (b : BCtx) (ga gb : Bool) {ks : List Slot} (hk : ∀ k ∈ ks, k.Keeps) {s : State} (h : Memory.wf s.mem) :
    Memory.wf (ks.foldl (fun s k => k.act b (k.guarded ga gb) s) s).mem := by
  induction ks generalizing s with
  | nil => exact h
  | cons k ks ih => exact ih (fun k hk' => hk k (List.mem_cons_of_mem _ hk')) ((hk k List.mem_cons_self).act _ _ _ h)

theorem bundle_wf {s amend : State} (n : Nat) (vec ga gb : Bool) {ks : List Slot} (hk : ∀ k ∈ ks, k.Keeps) (h : Memory.wf s.mem)
    (ha : Memory.wf amend.mem) : Memory.wf (bundle s amend n vec ga gb ks).mem := by
  unfold bundle
  extract_lets b
  split
  · simp [h]
  split
  · simp [h]
  · simp [h]
  · simp [h]
  · exact foldl_act_wf _ _ _ hk (foldl_before_wf _ (fun k hk' => hk k (List.mem_of_mem_filter hk')) ha)

theorem issueTpl_wf {s amend : State} (n : Nat) (vec : Bool) (t : BitVec 256) (h : Memory.wf s.mem) (ha : Memory.wf amend.mem) :
    Memory.wf (issueTpl n vec t amend s).mem := by
  unfold issueTpl
  split
  · simp [h]
  · next hks => exact bundle_wf _ _ _ _ (slotsOfTpl_keeps hks) h ha

theorem oneSlot_wf {k : Slot} {s : State} (hk : k.Keeps) (h : Memory.wf s.mem) : outWf (oneSlot k s) := by
  unfold oneSlot
  split
  · trivial
  split
  · exact bundle_wf _ _ _ _ (by simpa using hk) h h
  · exact h

@[simp] theorem State.completePacket_mem (s : State) (p : Nat × Nat) : (State.completePacket s p).mem = s.mem := rfl

@[simp] theorem finishQueue_mem (s : State) (q : Nat) : (finishQueue s q).mem = s.mem := by
  simp only [finishQueue]
  (repeat' split) <;> simp

@[simp] theorem queueErrorAt_wf {s : State} (q : Nat) (get : Word) (code cause : Nat) (h : Memory.wf s.mem) :
    Memory.wf (queueErrorAt s q get code cause).mem := by simp [queueErrorAt, h]

@[simp] theorem queueError_wf {s : State} (q code cause : Nat) (h : Memory.wf s.mem) :
    Memory.wf (queueError s q code cause).mem := by simp [queueError, h]

@[simp] theorem issued_mem (p : Packet) (fin : Bool) (s : State) : (issued p fin s).mem = s.mem := by simp [issued]

theorem runPacket_wf (p : Packet) {eff : Packet → State → PEnd} {s : State} (he : (eff p s).wf) (h : Memory.wf s.mem) :
    Memory.wf (runPacket p eff s).mem := by
  unfold runPacket
  (repeat' split) <;> simp_all

@[simp] theorem createPart_wf {s : State} (p : Packet) (h : Memory.wf s.mem) : (createPart p s).wf := by
  simp only [createPart]
  (repeat' split) <;> simp [h]

@[simp] theorem destroyPart_wf {s : State} (p : Packet) (h : Memory.wf s.mem) : (destroyPart p s).wf := by
  simp only [destroyPart]
  (repeat' split) <;> simp [h]

@[simp] theorem writeMaps_mem (s : State) (part : Nat) (old : BitVec 128) (r : Resize) : (writeMaps s part old r).mem = s.mem := rfl

@[simp] theorem acceptAgain_mem (s : State) (tks : List Nat) : (acceptAgain s tks).mem = s.mem := by simp [acceptAgain]

@[simp] theorem restoreTeam_mem (s : State) (e : Nat × Team) : (restoreTeam s e).mem = s.mem := by
  unfold restoreTeam
  split <;> simp

@[simp] theorem resumeContext_mem (s : State) (ctx : Nat) : (resumeContext s ctx).mem = s.mem := by simp [resumeContext]

@[simp] theorem resumeOne_wf {s : State} (r : Resize) (e : Nat × Context) (h : Memory.wf s.mem) : Memory.wf (resumeOne r s e).mem := by
  simp only [resumeOne]
  (repeat' split) <;> simp [h]

@[simp] theorem finishResize_wf {s : State} (part : Nat) (h : Memory.wf s.mem) : Memory.wf (finishResize s part).mem := by
  unfold finishResize
  split
  · exact h
  · dsimp only
    split
    · exact h
    · simpa using foldl_wf (fun s x h => resumeOne_wf _ _ h) _ (by simpa using h)

@[simp] theorem State.updTeamsOf_mem (s : State) (ctx : Nat) (f : Team → Team) : (State.updTeamsOf s ctx f).mem = s.mem := rfl

@[simp] theorem requestSave_mem (s : State) (ctx : Nat) : (requestSave s ctx).mem = s.mem := rfl

@[simp] theorem resizePart_wf {s : State} (p : Packet) (h : Memory.wf s.mem) : (resizePart p s).wf := by
  simp only [resizePart]
  split
  · exact h
  split
  · trivial
  split
  · exact h
  split
  · exact h
  · exact foldl_wf (fun s e h => by simp [h]) _ h

@[simp] theorem createQueue_wf {s : State} (p : Packet) (h : Memory.wf s.mem) : (createQueue p s).wf := by
  simp only [createQueue]
  split <;> simp [h]

@[simp] theorem destroyQueue_wf {s : State} (p : Packet) (h : Memory.wf s.mem) : (destroyQueue p s).wf := by
  simp only [destroyQueue]
  (repeat' split) <;> simp [h]

@[simp] theorem writeSummary_wf {s : State} (pa : Nat) (h : Memory.wf s.mem) : Memory.wf (writeSummary s pa).mem := by simp [writeSummary, h]

@[simp] theorem summaryPacket_wf {s : State} (p : Packet) (h : Memory.wf s.mem) : (summaryPacket p s).wf := by
  unfold summaryPacket
  (repeat' split) <;> simp [h]

@[simp] theorem State.linkWrite_wf {s : State} (pa : Nat) (bs : Option (List Byte)) (h : Memory.wf s.mem) :
    Memory.wf (State.linkWrite s pa bs).mem := by
  unfold State.linkWrite
  (repeat' split) <;> simp [h]

@[simp] theorem refuse_wf {s : State} (off : Nat) (h : Memory.wf s.mem) : Memory.wf (refuse s off).mem := by simp [refuse, h]

@[simp] theorem fwEvent_wf {s : State} (code version : Nat) (h : Memory.wf s.mem) : Memory.wf (fwEvent s code version).mem := by simp [fwEvent, h]

@[simp] theorem fwUpdate_wf {s : State} (p : Packet) (h : Memory.wf s.mem) : (fwUpdate p s).wf := by
  simp only [fwUpdate]
  (repeat' split) <;> simp [h]

@[simp] theorem attestPacket_wf {s : State} (p : Packet) (h : Memory.wf s.mem) : (attestPacket p s).wf := by
  unfold attestPacket
  (repeat' split) <;> simp [h]

@[simp] theorem endDispatch_mem (s : State) (ctx : Nat) (task : DWord) : (endDispatch s ctx task).mem = s.mem := by
  unfold endDispatch
  (repeat' split) <;> simp

@[simp] theorem landDone_mem (s : State) (k : Command) : (landDone s k).mem = s.mem := by
  unfold landDone
  split <;> simp

@[simp] theorem removeTeam_mem (s : State) (tk : Nat) : (removeTeam s tk).mem = s.mem := by simp [removeTeam]

@[simp] theorem abandonTeam_wf {s : State} (tk : Nat) (t : Team) (d : Doom) (h : Memory.wf s.mem) : Memory.wf (abandonTeam s tk t d).mem := by
  simp only [abandonTeam]
  (repeat' split) <;> simp [h]

@[simp] theorem leaveCmd_mem (s : State) (k : Command) (x : Token) : (leaveCmd s k x).mem = s.mem := by
  unfold leaveCmd
  split <;> simp

@[simp] theorem readDone_mem (s : State) (k : Command) : (readDone s k).mem = s.mem := by simp [readDone]

@[simp] theorem writeDone_mem (s : State) (k : Command) : (writeDone s k).mem = s.mem := by simp [writeDone]

@[simp] theorem uncount_mem (s : State) (k : Command) : (uncount s k).mem = s.mem := by
  unfold uncount
  (repeat' split) <;> simp

@[simp] theorem endCmd_mem (s : State) (k : Command) (status cause va bytes : Nat) : (endCmd s k status cause va bytes).mem = s.mem := by
  unfold endCmd
  split <;> simp

@[simp] theorem leaveColl_mem (s : State) (k : Command) : (leaveColl s k).mem = s.mem := by
  unfold leaveColl
  split <;> simp

@[simp] theorem stopCmd_wf {y : Try} (k : Command) (h : y.wf) : Memory.wf (stopCmd k y).mem := by
  unfold stopCmd
  (repeat' split) <;> simp_all

@[simp] theorem failWaiter_wf {s : State} (p : Spring) (b e : Nat) (w : Waiter) (h : Memory.wf s.mem) : Memory.wf (failWaiter p b e s w).mem := by
  unfold failWaiter
  (repeat' split) <;> simp [h]

@[simp] theorem failBlock_wf {s : State} (p : Spring) (b cause : Nat) (detail : DWord) (h : Memory.wf s.mem) :
    Memory.wf (failBlock s p b cause detail).mem :=
  answerAll_wf _ _ (fun s w h => failWaiter_wf _ _ _ _ h) (by simp [h])

@[simp] theorem offlineTeam_wf {s : State} (e : Nat × Team) (h : Memory.wf s.mem) : Memory.wf (offlineTeam s e).mem := by
  simp only [offlineTeam]
  (repeat' split) <;> simp [h]

@[simp] theorem losePool_wf {s : State} (d : Nat) (h : Memory.wf s.mem) : Memory.wf (losePool s d).mem :=
  foldl_wf (fun s e h => by split <;> simp [h]) _ h

@[simp] theorem freeTags_mem (s : State) (p : Spring) : (freeTags s p).mem = s.mem :=
  foldl_mem (fun s e => by split <;> rfl) _ _

@[simp] theorem stopSpring_wf {s : State} (x : Spring) (h : Memory.wf s.mem) : Memory.wf (stopSpring s x).mem := by
  simp only [stopSpring, freeTags_mem]
  exact foldl_wf (fun s w h => by (repeat' split) <;> simp [h]) _ h

@[simp] theorem dropSent_mem (s : State) (d : Nat) : (dropSent s d).mem = s.mem :=
  foldl_mem (fun s x => by split <;> rfl) _ _

@[simp] theorem dieOffline_wf {s : State} (p : Packet) (h : Memory.wf s.mem) : (dieOffline p s).wf := by
  unfold dieOffline
  extract_lets d s₁ lost s₂ keep s₃ s₄ s₅ s₆
  have h₁ : Memory.wf s₁.mem := foldl_wf (fun s e h => offlineTeam_wf _ h) _ h
  have h₂ : Memory.wf s₂.mem := losePool_wf _ h₁
  have h₃ : Memory.wf s₃.mem := h₂
  have h₄ : Memory.wf s₄.mem := foldl_wf (fun s i h => by simp [h]) _ h₃
  have h₅ : Memory.wf s₅.mem := foldl_wf (fun s x h => stopSpring_wf _ h) _ h₄
  have h₆ : Memory.wf s₆.mem := by simpa [s₆] using h₅
  exact .ite h (.ite h (postEvent_wf _ _ _ h₆))

@[simp] theorem nopPacket_wf {s : State} (x0 : Packet) (h : Memory.wf s.mem) : (nopPacket x0 s).wf := h

@[simp] theorem createCtx_wf {s : State} (p : Packet) (h : Memory.wf s.mem) : (createCtx p s).wf := by
  unfold createCtx
  split <;> simp [h]

@[simp] theorem destroyCtx_wf {s : State} (p : Packet) (h : Memory.wf s.mem) : (destroyCtx p s).wf := by
  unfold destroyCtx
  extract_lets n
  split
  · trivial
  split
  · exact h
  · exact foldl_wf (fun s e h => by simp [h]) _ h

@[simp] theorem launchPacket_wf {s : State} (p : Packet) (h : Memory.wf s.mem) : (launchPacket p s).wf := by
  simp only [launchPacket]
  (repeat' split) <;> simp [h]

@[simp] theorem preemptCtx_wf {s : State} (p : Packet) (h : Memory.wf s.mem) : (preemptCtx p s).wf := by
  simp only [preemptCtx]
  (repeat' split) <;> simp [h]

@[simp] theorem resumeCtx_wf {s : State} (p : Packet) (h : Memory.wf s.mem) : (resumeCtx p s).wf := by
  simp only [resumeCtx]
  (repeat' split) <;> simp [h]

@[simp] theorem invalidate_wf {s : State} (p : Packet) (h : Memory.wf s.mem) : (invalidate p s).wf := by
  unfold invalidate
  extract_lets
  split
  · trivial
  · exact foldl_wf (fun s e h => by simp [h]) _ h

@[simp] theorem declareSpring_wf {s : State} (p : Packet) (h : Memory.wf s.mem) : (declareSpring p s).wf := by
  simp only [declareSpring]
  (repeat' split) <;> simp [h]

@[simp] theorem undeclareSpring_wf {s : State} (p : Packet) (h : Memory.wf s.mem) : (undeclareSpring p s).wf := by
  unfold undeclareSpring
  split
  · exact h
  split
  · exact h
  split
  · trivial
  · simpa using foldl_wf (fun _ _ h => putEntry_wf _ _ _ h) _ h

@[simp] theorem applyMillrace_mem (s : State) (p : PStream) (add : Bool) : (applyMillrace s p add).mem = s.mem :=
  foldl_mem (fun _ _ => setVault_mem ..) _ _

theorem openStream_wf {s t : State} {part : Nat} {desc : BitVec 1024} (h : Memory.wf s.mem) (ht : openStream s part desc = .ok t) :
    Memory.wf t.mem := by
  unfold openStream at ht
  dsimp only at ht
  repeat (split at ht; · cases ht)
  cases ht
  simp [h]

@[simp] theorem openPacket_wf {s : State} (p : Packet) (h : Memory.wf s.mem) : (openPacket p s).wf := by
  unfold openPacket
  split
  · trivial
  split
  · next hs => exact openStream_wf h hs
  · exact h

@[simp] theorem closePacket_wf {s : State} (p : Packet) (h : Memory.wf s.mem) : (closePacket p s).wf := by
  unfold closePacket
  (repeat' split) <;> simp [h]

@[simp] theorem releasePass_wf {s : State} (p : Packet) (h : Memory.wf s.mem) : (releasePass p s).wf := h

@[simp] theorem taskControl_wf {s : State} (p : Packet) (h : Memory.wf s.mem) : (taskControl p s).wf := by
  simp only [taskControl]
  (repeat' split) <;> simp [h]


/-! ### The events -/

@[simp] theorem execTaskCtl_wf {s : State} (p : Packet) (h : Memory.wf s.mem) : outWf (execTaskCtl p s) := runPacket_wf p (taskControl_wf p h) h

@[simp] theorem State.sawLoads_mem (s : State) (tk : Nat) (q : Pending) : (State.sawLoads s tk q).mem = s.mem := rfl

@[simp] theorem execResultWriteback_wf {s : State} (team mem idx : Nat) (h : Memory.wf s.mem) : outWf (execResultWriteback team mem idx s) := by
  unfold execResultWriteback
  (repeat' split) <;> simp [h]

@[simp] theorem execEddyBinDraw_wf {s : State} (team bin : Nat) (h : Memory.wf s.mem) : outWf (execEddyBinDraw team bin s) := by
  unfold execEddyBinDraw
  (repeat' split) <;> simp [h]

@[simp] theorem execIssueAgeing_wf {s : State} (team mem : Nat) (h : Memory.wf s.mem) : outWf (execIssueAgeing team mem s) := by
  unfold execIssueAgeing
  (repeat' split) <;> simp [h]

@[simp] theorem execBankSwitch_wf {s : State} (core : Nat) (h : Memory.wf s.mem) : outWf (execBankSwitch core s) := by
  simp only [execBankSwitch]
  split <;> simp [h]

@[simp] theorem failedWord_wf {s : State} (tk : Nat) (t : Team) (m : Member) (p : Park) (h : Memory.wf s.mem) :
    Memory.wf (failedWord s tk t m p).mem := by
  simp only [failedWord]
  (repeat' split) <;> simp [h]

@[simp] theorem execTrapEntry_wf {s : State} (team mem : Nat) (h : Memory.wf s.mem) : outWf (execTrapEntry team mem s) := by
  unfold execTrapEntry
  (repeat' split) <;> simp [h]

@[simp] theorem execBudgetExpiry_wf {s : State} (team mem : Nat) (h : Memory.wf s.mem) : outWf (execBudgetExpiry team mem s) := by
  unfold execBudgetExpiry
  (repeat' split) <;> simp [h]

@[simp] theorem execFaultHeldRetry_wf {s : State} (team mem : Nat) (h : Memory.wf s.mem) : outWf (execFaultHeldRetry team mem s) := h

@[simp] theorem execFbreplay_wf {s : State} (die : Nat) (value : DWord) (h : Memory.wf s.mem) : outWf (execFbreplay die value s) := h

@[simp] theorem execFbabort_wf {s : State} (die : Nat) (value : DWord) (h : Memory.wf s.mem) : outWf (execFbabort die value s) := h

@[simp] theorem execBackInvalidate_wf {s : State} (pa : Nat) (h : Memory.wf s.mem) : outWf (execBackInvalidate pa s) := h

@[simp] theorem Release.access_wf {s : State} (tk : Nat) (r : Release) (a : Deferred) (h : Memory.wf s.mem) :
    Memory.wf (Release.access s tk r a).mem :=
  foldl_wf (fun s w h => by simp [h]) _ h

@[simp] theorem performRelease_wf {s : State} (tk : Nat) (r : Release) (h : Memory.wf s.mem) : Memory.wf (performRelease s tk r).mem := by
  unfold performRelease
  split
  · exact h
  · next t _ =>
    have ha := foldl_wf (f := fun s a => r.access s tk a) (fun s a h => Release.access_wf tk r a h) r.accesses
      (s := s.performFor tk t r.slot r.lanes r.scope (fun _ => true)) h
    extract_lets s₁ s₂ s₃
    have h₃ : Memory.wf s₃.mem := by
      unfold s₃
      split
      · exact ha
      · exact ha
    exact h₃

@[simp] theorem settleReleases_wf {s : State} (tk n : Nat) (h : Memory.wf s.mem) : Memory.wf (settleReleases tk n s).mem := by
  induction n generalizing s with
  | zero => exact h
  | succ n ih => unfold settleReleases; (repeat' split) <;> simp [h, ih]

@[simp] theorem execVersionCommit_wf {s : State} (team : Nat) (h : Memory.wf s.mem) : outWf (execVersionCommit team s) := by
  unfold execVersionCommit
  (repeat' split) <;> simp [h]

@[simp] theorem execHorizon_wf {s : State} (h : Memory.wf s.mem) : outWf (execHorizon s) := h

@[simp] theorem failMissing_mem (s : State) (tk : Nat) (pc : Word) : (failMissing s tk pc).mem = s.mem := rfl

@[simp] theorem giveFrame_wf {s : State} (p : Spring) (b depth prio origin : Nat) (frames : List Nat) (h : Memory.wf s.mem) :
    Memory.wf (giveFrame s p b depth prio origin frames).mem := by simp [giveFrame, h]

@[simp] theorem startBlock_wf {s : State} (p : Spring) (b depth prio origin : Nat) (h : Memory.wf s.mem) :
    Memory.wf (startBlock s p b depth prio origin).mem := by
  simp only [startBlock]
  (repeat' split) <;> simp [h]

@[simp] theorem missUnfilled_wf {s : State} (p : Spring) (b : Nat) (w : Waiter) (h : Memory.wf s.mem) : Memory.wf (missUnfilled s p b w).1.mem := by
  unfold missUnfilled
  (repeat' split) <;> simp [h]

@[simp] theorem raisePrio_mem (s : State) (p : Spring) (b n : Nat) : (raisePrio s p b n).mem = s.mem := by
  simp only [raisePrio]
  split <;> simp

@[simp] theorem joinWaiters_mem (s : State) (p : Spring) (b : Nat) (w : Waiter) : (joinWaiters s p b w).mem = s.mem := by
  unfold joinWaiters
  split <;> simp

@[simp] theorem missArrives_wf {s : State} (x : Miss) (h : Memory.wf s.mem) : Memory.wf (missArrives s x).mem := by
  simp only [missArrives]
  (repeat' split) <;> simp [h]

@[simp] theorem execSpringMiss_wf {s : State} (idx : Nat) (h : Memory.wf s.mem) : outWf (execSpringMiss idx s) := by
  unfold execSpringMiss
  (repeat' split) <;> simp [h]

@[simp] theorem vaultEvent_wf {s : State} (v part lid : Nat) (h : Memory.wf s.mem) : Memory.wf (vaultEvent s v part lid).mem := by
  simp only [vaultEvent]
  split <;> simp [h]

@[simp] theorem vaultPress_wf {s : State} (v part lid : Nat) (h : Memory.wf s.mem) :
    Memory.wf (vaultPress s v part lid).mem := by simp [vaultPress, h]

@[simp] theorem putTeam_mem (s : State) (a : Ask) (p : Put) (launch : Option Nat) (task : DWord) (retry prio : Nat) (gen : Option GenOf) :
    (putTeam s a p launch task retry prio gen).mem = s.mem := rfl

@[simp] theorem execGeneratorPlacement_wf {s : State} (idx core bank : Nat) (h : Memory.wf s.mem) :
    outWf (execGeneratorPlacement idx core bank s) := by
  simp only [execGeneratorPlacement]
  (repeat' split) <;> simp [h]

@[simp] theorem execFrameAllocation_wf {s : State} (ctx spring : Nat) (h : Memory.wf s.mem) : outWf (execFrameAllocation ctx spring s) := by
  unfold execFrameAllocation
  (repeat' split) <;> simp [h]

@[simp] theorem execGeneratorFailure_wf {s : State} (ctx spring block : Nat) (h : Memory.wf s.mem) :
    outWf (execGeneratorFailure ctx spring block s) := by
  unfold execGeneratorFailure
  (repeat' split) <;> simp [h]

@[simp] theorem remiss_wf {s : State} (p : Spring) (b : Nat) (ws : List Waiter) (h : Memory.wf s.mem) : Memory.wf (remiss p b s ws).mem := by
  induction ws generalizing s with
  | nil => exact h
  | cons w ws ih => unfold remiss; dsimp only; split <;> simp [h, ih]

@[simp] theorem execEvictionEnd_wf {s : State} (ctx spring block : Nat) (h : Memory.wf s.mem) : outWf (execEvictionEnd ctx spring block s) := by
  unfold execEvictionEnd
  split
  · exact h
  extract_lets mine s₁ s₂
  split
  · exact h
  have h₁ : Memory.wf s₁.mem := by simp [s₁, h]
  have h₂ : Memory.wf s₂.mem := foldl_wf (fun s e h => by split <;> simp [h]) _ h₁
  split
  · exact foldl_wf (fun s w h => by simp [h]) _ (remiss_wf _ _ _ h₂)
  · exact h₂

@[simp] theorem execEngineCommandStart_wf {s : State} (id : Nat) (h : Memory.wf s.mem) : outWf (execEngineCommandStart id s) := by
  simp only [execEngineCommandStart]
  (repeat' split) <;> simp [h]

/-- The state of an attempt that went well. -/
theorem Try.wf_of_ok {y : Try} {s : State} {bs : List Byte} (hy : y.wf) (e : y = .ok s bs) : Memory.wf s.mem := by
  rw [e] at hy
  exact hy

theorem Try.bind_wf {y : Try} {f : State → List Byte → Try} (hy : y.wf) (hf : ∀ s bs, Memory.wf s.mem → (f s bs).wf) : (y.bind f).wf := by
  unfold Try.bind
  split
  · exact hf _ _ hy
  · exact hy
  · exact hy

theorem cmdReach_wf {s : State} (k : Command) (write mask : Bool) (r : Rec) (ls : List LaneReq) {f : State → Team → List (Nat × Trans) → Try}
    (hf : ∀ s t tr, Memory.wf s.mem → (f s t tr).wf) (h : Memory.wf s.mem) : (cmdReach s k write mask r ls f).wf := by
  unfold cmdReach
  split
  · exact h
  extract_lets ask y z
  have hy : Memory.wf y.1.mem := (reachLines_mem ..).symm ▸ h
  refine Try.wf.ite h ?_
  split
  · exact hy
  split
  · exact postFaults_wf hy _ _
  split
  · exact hy
  · exact hf _ _ _ (touchLines_wf _ _ _ _ hy)

@[simp] theorem readEnd_wf {s : State} (k : Command) (e : End) (mask : Bool) (offs : List (Nat × Nat)) (h : Memory.wf s.mem) :
    (readEnd s k e mask offs).wf := by
  unfold readEnd
  split
  · split <;> simp [h]
  · exact cmdReach_wf _ _ _ _ _ (fun s t tr h => h) h

@[simp] theorem engineCells_wf {s : State} (tk : Nat) (cells : List Host.Cell) (h : Memory.wf s.mem) :
    Memory.wf (engineCells s tk cells).mem := by simp [engineCells, h]

@[simp] theorem writeEnd_wf {s : State} (k : Command) (e : End) (bs : List (Nat × Byte)) (h : Memory.wf s.mem) : (writeEnd s k e bs).wf := by
  unfold writeEnd
  split
  · dsimp only
    split <;> simp [h]
  · split
    · exact h
    · exact cmdReach_wf _ _ _ _ _ (fun s t tr h => by simp [h]) h

@[simp] theorem ringStep_wf {s : State} (k : Command) (r : Rec) (i : Option (Nat × Bool)) (status cause va bytes : Nat) (h : Memory.wf s.mem) :
    Memory.wf (ringStep s k r i status cause va bytes).mem := by
  unfold ringStep
  extract_lets at' put goOn
  have hgo (s : State) (i : Nat × Bool) (h : Memory.wf s.mem) : (goOn s i).wf := h
  split
  · exact stopCmd_wf _ (Try.bind_wf (readEnd_wf _ _ _ _ h) fun s bs h => Try.bind_wf (writeEnd_wf _ _ _ h) fun s _ h => hgo _ _ h)
  · refine stopCmd_wf _ (Try.bind_wf (readEnd_wf _ _ _ _ h) fun s bs h => ?_)
    split
    · exact h
    · exact Try.bind_wf (writeEnd_wf _ _ _ h) fun s _ h => hgo _ _ h
  · refine stopCmd_wf _ (Try.bind_wf (readEnd_wf _ _ _ _ h) fun s bs h => ?_)
    split
    · exact h
    · exact Try.bind_wf (writeEnd_wf _ _ _ h) fun s _ h => by simpa using h

/-- An attempt's state, where a command goes on from what went well and stops at what did not. -/
theorem onward_wf {y : Try} (k : Command) {f : State → List Byte → State} (hy : y.wf) (hf : ∀ s bs, Memory.wf s.mem → Memory.wf (f s bs).mem) :
    Memory.wf (match y with
      | .ok s bs => f s bs
      | x => stopCmd k x).mem := by
  split
  · exact hf _ _ hy
  · exact stopCmd_wf _ hy

@[simp] theorem runSend_wf {s : State} (k : Command) (h : Memory.wf s.mem) : Memory.wf (runSend s k).mem := by
  unfold runSend
  split
  · exact onward_wf k (readEnd_wf _ _ _ _ h) fun s bs h => by simp [h]
  · exact h

@[simp] theorem joinColl_mem (s : State) (k : Command) (t : Team) (shape : Nat × Nat × Nat × Nat) (sc id : Nat) (bs : Option (List Byte)) :
    (joinColl s k t shape sc id bs).mem = s.mem := by
  unfold joinColl
  (repeat' split) <;> simp

@[simp] theorem runColl_wf {s : State} (k : Command) (h : Memory.wf s.mem) : Memory.wf (runColl s k).mem := by
  unfold runColl
  split
  · dsimp only
    split
    · split
      · simp [h]
      · exact onward_wf k (readEnd_wf _ _ _ _ h) fun s bs h => by simp [h]
    · exact onward_wf k (writeEnd_wf _ _ _ h) fun s bs h => by simp [h]
    · exact h
  · exact h

@[simp] theorem runCopy_wf {s : State} (k : Command) (h : Memory.wf s.mem) : Memory.wf (runCopy s k).mem := by
  unfold runCopy
  split
  · exact onward_wf k (Try.bind_wf (readEnd_wf _ _ _ _ h) fun s bs h => writeEnd_wf _ _ _ h) fun s bs h => by simp [h]
  · exact onward_wf k (writeEnd_wf _ _ _ h) fun s bs h => by simp [h]
  · exact onward_wf k (Try.bind_wf (readEnd_wf _ _ _ _ h) fun s bs h => writeEnd_wf _ _ _ h) fun s bs h => by simp [h]
  · exact h

@[simp] theorem execEngineCommandCompletion_wf {s : State} (id : Nat) (h : Memory.wf s.mem) : outWf (execEngineCommandCompletion id s) := by
  unfold execEngineCommandCompletion
  (repeat' split) <;> simp [h]

@[simp] theorem landFirst_mem (s : State) (k : Command) (tk obj off : Nat) (t : Team) (ps : List (Nat × Nat)) (bs : List Byte) :
    (landFirst s k tk obj off t ps bs).mem = s.mem := by
  unfold landFirst
  (repeat' split) <;> simp

@[simp] theorem landLast_mem (s : State) (k : Command) (tk obj off : Nat) (pc : Word) (vcore : Nat) (ps : List (Nat × Nat)) (bs : List Byte) :
    (landLast s k tk obj off pc vcore ps bs).mem = s.mem := by
  unfold landLast
  (repeat' split) <;> simp

@[simp] theorem execXsendLanding_wf {s : State} (id : Nat) (h : Memory.wf s.mem) : outWf (execXsendLanding id s) := by
  unfold execXsendLanding
  (repeat' split) <;> simp [h]

@[simp] theorem execArrivalGroupStart_wf {s : State} (team slot : Nat) (h : Memory.wf s.mem) : outWf (execArrivalGroupStart team slot s) := by
  simp only [execArrivalGroupStart]
  (repeat' split) <;> simp [h]

@[simp] theorem execCollectiveCompletion_wf {s : State} (idx : Nat) (h : Memory.wf s.mem) : outWf (execCollectiveCompletion idx s) := by
  unfold execCollectiveCompletion
  split
  · exact h
  next x _ =>
  extract_lets op ty cnt ps finish
  have hfin (s : State) (srcs : List (List Byte)) (h : Memory.wf s.mem) : Memory.wf (finish s srcs).mem := 
    by
    unfold finish
    exact foldl_wf (fun s p h => by simp [h]) _ h
  clear_value op ps
  split
  · exact h
  split
  · split
    · split
      · split
        · exact h
        · split
          · next hr => exact hfin _ _ (Try.wf_of_ok (readEnd_wf _ _ _ _ h) hr)
          · exact stopCmd_wf _ (readEnd_wf _ _ _ _ h)
      · exact h
    · exact h
  · exact hfin _ _ h

@[simp] theorem causeAtBarrier_mem (s : State) (tk mid k arg : Nat) : (causeAtBarrier s tk mid k arg).mem = s.mem := by simp [causeAtBarrier]

/-- Memory is canonical in the state of a write-back of all, whether it came to its end or not. -/
def backWf : Except State State → Prop
  | .ok s | .error s => Memory.wf s.mem

theorem backAll_wf {s : State} (tk : Nat) (m : Member) (ns : List Nat) (h : Memory.wf s.mem) : backWf (backAll s tk m ns) := by
  induction ns generalizing s with
  | nil => exact h
  | cons n r ih =>
    unfold backAll
    split
    · exact h
    next t _ =>
    split
    · exact ih h
    next o _ =>
    extract_lets c
    split
    · exact ih h
    have hw : ((writeBack c n o).forAll c).wf := Res.forAll_wf _ (writeBack_wf _ _ h)
    split
    all_goals rename_i hr; rw [hr] at hw
    case h_1 => exact ih hw
    case h_3 | h_4 => exact by simpa [backWf] using hw
    all_goals exact hw

@[simp] theorem lateArrival_wf {s : State} (tk n : Nat) (h : Memory.wf s.mem) : Memory.wf (lateArrival s tk n).mem := by
  unfold lateArrival
  split
  · exact h
  split
  · exact h
  split
  · exact h
  next t _ _ _ m _ =>
  split
  · exact h
  have hb := backAll_wf tk m (List.range t.objs.length) h
  split
  · next hs =>
    rw [hs] at hb
    exact hb
  · next hs =>
    rw [hs] at hb
    split
    · exact hb
    · split
      · exact commitVersion_wf _ _ hb
      · exact hb

@[simp] theorem beginRegion_mem (s : State) (tk : Nat) : (beginRegion s tk).mem = s.mem := by
  unfold beginRegion
  split <;> simp

@[simp] theorem execBarrierCompletion_wf {s : State} (clu : Bool) (team n : Nat) (h : Memory.wf s.mem) :
    outWf (execBarrierCompletion clu team n s) := by
  unfold execBarrierCompletion
  split
  · exact h
  split
  · split <;> exact h
  · extract_lets s₁ ks
    have h₁ : Memory.wf s₁.mem := foldl_wf (fun s k h => lateArrival_wf _ _ h) _ h
    split
    · exact foldl_wf (fun s e h => by simp [h]) _ h₁
    · exact h₁

@[simp] theorem execMatrixEntryStart_wf {s : State} (id : Nat) (h : Memory.wf s.mem) : outWf (execMatrixEntryStart id s) := by
  unfold execMatrixEntryStart
  split
  · exact h
  extract_lets before isMma clear s₁ s₂
  have h₂ : Memory.wf s₂.mem := by simp [s₂, s₁, h]
  split
  · exact h
  split
  · exact h
  split
  · simp [h]
  split
  · split <;> simp [h₂]
  · exact h

@[simp] theorem execMatrixEntryCompletion_wf {s : State} (id : Nat) (h : Memory.wf s.mem) : outWf (execMatrixEntryCompletion id s) := by
  unfold execMatrixEntryCompletion
  split
  · exact h
  next k _ =>
  split
  · exact h
  extract_lets s₁
  have h₁ : Memory.wf s₁.mem := h
  rw [outWf_next]
  split
  · exact ringStep_wf _ _ _ _ _ _ _ h₁
  · simp [h₁]
  · simp [h₁]
  · exact onward_wf k (writeEnd_wf _ _ _ h₁) fun s bs h => by simp [h]
  · exact onward_wf k (readEnd_wf _ _ _ _ h₁) fun s bs h => by simp [h]
  · exact h₁

@[simp] theorem execMatrixReset_wf {s : State} (core : Nat) (h : Memory.wf s.mem) : outWf (execMatrixReset core s) := by
  simp only [execMatrixReset]
  split <;> simp [h]

@[simp] theorem execMatrixResetEnd_wf {s : State} (core : Nat) (h : Memory.wf s.mem) : outWf (execMatrixResetEnd core s) := by
  simp only [execMatrixResetEnd]
  split <;> simp [h]

@[simp] theorem runBeam_wf {s : State} (k : Command) (t : Team) (r : Rec) (blk : List Word) (dst : End) (h : Memory.wf s.mem) :
    Memory.wf (runBeam s k t r blk dst).mem := by
  unfold runBeam
  extract_lets w hgt q tv ls
  refine onward_wf k (cmdReach_wf _ _ _ _ _ (fun s t tr h => h) h) fun s bs h => ?_
  split
  · simp [h]
  · exact onward_wf k (writeEnd_wf _ _ _ h) fun s bs h => by simp [h]

@[simp] theorem execBeamCompletion_wf {s : State} (id : Nat) (h : Memory.wf s.mem) : outWf (execBeamCompletion id s) := by
  unfold execBeamCompletion
  (repeat' split) <;> simp [h]

@[simp] theorem leaveScreen_mem (s : State) (i : Nat) (x : Screen) : (leaveScreen s i x).mem = s.mem := by
  simp only [leaveScreen]
  split <;> simp

@[simp] theorem dropScreen_mem (s : State) (x : Screen) : (dropScreen s x).mem = s.mem := rfl

@[simp] theorem execScreenWriteDelivery_wf {s : State} (idx : Nat) (h : Memory.wf s.mem) : outWf (execScreenWriteDelivery idx s) := by
  unfold execScreenWriteDelivery
  (repeat' split) <;> simp [h]

@[simp] theorem execAbandonment_wf {s : State} (team : Nat) (h : Memory.wf s.mem) : outWf (execAbandonment team s) := by
  unfold execAbandonment
  (repeat' split) <;> simp [h]

@[simp] theorem execUncorrectableError_wf {s : State} (teams : List Nat) (h : Memory.wf s.mem) : outWf (execUncorrectableError teams s) :=
  foldl_wf (f := fun s k => s.updTeam k (fun t => t.abandon 4 0 0 0)) (fun _ _ h => h) teams h

theorem placeAt_mem {s s' : State} {key : Nat} {l : Launch} {b : Batch} {origin : Nat} {vs : List Nat} (hp : placeAt s key l b origin = some
    (s', vs)) :
    s'.mem = s.mem := by
  have fold {α : Type} (f : State × List Nat → α → Option (State × List Nat)) (hf : ∀ x e y, f x e = some y → y.1.mem = x.1.mem) (items : List α) :
      ∀ x y, items.foldlM f x = some y → y.1.mem = x.1.mem := by
    induction items with
    | nil => rintro x y ⟨⟩; rfl
    | cons e items ih =>
      intro x y h
      obtain ⟨z, hz, hy⟩ := Option.bind_eq_some_iff.mp h
      rw [ih z y hy, hf x e z hz]
  unfold placeAt at hp
  extract_lets w hgt cluster at hp
  split at hp
  · cases hp
  · refine fold _ (fun x e y hy => ?_) _ _ _ hp
    obtain ⟨bank, -, rfl⟩ := Option.map_eq_some_iff.mp hy
    rfl

theorem bestOrigin_mem {s s' : State} {key : Nat} {l : Launch} {b : Batch} {origins : List Nat} (hb : bestOrigin s key l b origins = some s') :
    s'.mem = s.mem := by
  have best {l : List (Int × State)} (hl : ∀ x ∈ l, x.2.mem = s.mem) (acc : Option (Int × State)) (ha : ∀ x ∈ acc, x.2.mem = s.mem) :
      ∀ x ∈ l.foldl (fun acc x => match acc with
        | none => some x
        | some y => if y.1 < x.1 then some x else some y) acc, x.2.mem = s.mem := by
    induction l generalizing acc with
    | nil => exact ha
    | cons x l ih =>
      refine ih (fun y hy => hl y (List.mem_cons_of_mem _ hy)) _ fun y hy => ?_
      have hx := hl x List.mem_cons_self
      cases acc with
      | none => cases hy; exact hx
      | some z =>
        simp only at hy
        split at hy <;> cases hy
        · exact hx
        · exact ha _ rfl
  unfold bestOrigin at hb
  obtain ⟨x, hx, rfl⟩ := Option.map_eq_some_iff.mp hb
  refine best (fun x hx => ?_) none (by simp) x hx
  obtain ⟨o, -, ho⟩ := List.mem_filterMap.mp hx
  obtain ⟨⟨t, vs⟩, ht, hy⟩ := Option.bind_eq_some_iff.mp ho
  split at hy <;> cases hy
  exact placeAt_mem ht

@[simp] theorem serve_wf {s : State} (die : Nat) (ls : List (Nat × Launch)) (h : Memory.wf s.mem) : Memory.wf (serve die s ls).mem := by
  induction ls generalizing s with
  | nil => exact h
  | cons e r ih =>
    obtain ⟨k, l⟩ := e
    unfold serve
    split
    · exact ih h
    extract_lets press
    have hpress (s : State) (h : Memory.wf s.mem) : Memory.wf (press s).mem := foldl_wf (fun s v h => by simp [h]) _ h
    split
    · next hb => exact hpress _ (bestOrigin_mem hb ▸ h)
    · exact ih (hpress s h)

@[simp] theorem execTeamPlacement_wf {s : State} (die : Nat) (h : Memory.wf s.mem) : outWf (execTeamPlacement die s) := by
  unfold execTeamPlacement
  split <;> simp [h]

@[simp] theorem execPlacementRecheck_wf {s : State} (die : Nat) (h : Memory.wf s.mem) : outWf (execPlacementRecheck die s) := by
  unfold execPlacementRecheck
  split <;> simp [h]

@[simp] theorem execEffectivePriorityRise_wf {s : State} (launch : Nat) (h : Memory.wf s.mem) : outWf (execEffectivePriorityRise launch s) := by
  unfold execEffectivePriorityRise
  (repeat' split) <;> simp [h]

@[simp] theorem execLaunchHold_wf {s : State} (launch die : Nat) (h : Memory.wf s.mem) : outWf (execLaunchHold launch die s) := by
  unfold execLaunchHold
  (repeat' split) <;> simp [h]

@[simp] theorem execRetirement_wf {s : State} (team : Nat) (h : Memory.wf s.mem) : outWf (execRetirement team s) := by
  unfold execRetirement
  (repeat' split) <;> simp [h]

@[simp] theorem execLaunchCompletion_wf {s : State} (launch : Nat) (h : Memory.wf s.mem) : outWf (execLaunchCompletion launch s) := by
  unfold execLaunchCompletion
  (repeat' split) <;> simp [h]

@[simp] theorem flushOut_wf {s : State} (n : Nat) (l : List (Nat × List Byte)) (h : Memory.wf s.mem) : Memory.wf (flushOut n s l).mem := by
  induction l generalizing s with
  | nil => exact h
  | cons e l ih =>
    unfold flushOut
    split
    · exact h
    · exact ih (by simp [h])

@[simp] theorem State.retryWrites_wf {s : State} (h : Memory.wf s.mem) : Memory.wf (State.retryWrites s).mem := by
  unfold State.retryWrites
  split
  · exact h
  · exact foldl_wf (fun s e h => by split <;> simp [h]) _ h

@[simp] theorem flushFaults_wf {s : State} (die : Nat) (l : List (List Byte)) (h : Memory.wf s.mem) : Memory.wf (flushFaults die s l).mem := by
  induction l generalizing s with
  | nil => exact h
  | cons e l ih =>
    unfold flushFaults
    split
    · exact h
    · exact ih (by simp [h])

@[simp] theorem flushNotes_wf {s : State} (die : Nat) (l : List (List Byte)) (h : Memory.wf s.mem) : Memory.wf (flushNotes die s l).mem := by
  induction l generalizing s with
  | nil => exact h
  | cons e l ih =>
    unfold flushNotes
    split
    · exact h
    · exact ih (by simp [h])

@[simp] theorem retryHeld_wf {s : State} (h : Memory.wf s.mem) : Memory.wf (retryHeld s).mem :=
  foldl_wf (fun _ _ h => flushNotes_wf _ _ h) _ (foldl_wf (fun _ _ h => flushFaults_wf _ _ h) _
    (foldl_wf (fun _ _ h => flushOut_wf _ _ h) _ (State.retryWrites_wf h)))

@[simp] theorem execSensorReading_wf {s : State} (reach quarters : Nat) (h : Memory.wf s.mem) : outWf (execSensorReading reach quarters s) := by
  simp only [execSensorReading]
  (repeat' split) <;> simp [h]

@[simp] theorem execChargeCounterTick_wf {s : State} (h : Memory.wf s.mem) : outWf (execChargeCounterTick s) := h

@[simp] theorem execMillpondRefill_wf {s : State} (reach : Nat) (h : Memory.wf s.mem) : outWf (execMillpondRefill reach s) := h

@[simp] theorem granted_mem (s : State) (reach tk id l : Nat) : (granted s reach tk id l).mem = s.mem := by
  unfold granted
  (repeat' split) <;> simp

@[simp] theorem grantAll_mem (s : State) (reach n : Nat) : (grantAll reach n s).mem = s.mem := by
  induction n generalizing s with
  | zero => rfl
  | succ n ih => unfold grantAll; split <;> simp [ih]

@[simp] theorem execWeirGrant_wf {s : State} (reach : Nat) (h : Memory.wf s.mem) : outWf (execWeirGrant reach s) := by simp [execWeirGrant, h]

@[simp] theorem execDroop_wf {s : State} (reach : Nat) (h : Memory.wf s.mem) : outWf (execDroop reach s) := by
  unfold execDroop
  split <;> simp [h]

@[simp] theorem execHopLock_wf {s : State} (reach : Nat) (h : Memory.wf s.mem) : outWf (execHopLock reach s) := by
  simp only [execHopLock]
  (repeat' split) <;> simp [h]

@[simp] theorem abortHop_wf {s : State} (reach : Nat) (r : Reach) (h : Memory.wf s.mem) : Memory.wf (abortHop s reach r).mem := by simp [abortHop, h]

@[simp] theorem execHopAbort_wf {s : State} (reach : Nat) (h : Memory.wf s.mem) : outWf (execHopAbort reach s) := by
  simp only [execHopAbort]
  (repeat' split) <;> simp [h]

@[simp] theorem execClkcfg_wf {s : State} (reach : Nat) (value : Word) (h : Memory.wf s.mem) : outWf (execClkcfg reach value s) := by
  simp only [execClkcfg]
  (repeat' split) <;> simp [h]

@[simp] theorem execMpfill_wf {s : State} (reach : Nat) (value : Word) (h : Memory.wf s.mem) : outWf (execMpfill reach value s) := by
  simp only [execMpfill]
  (repeat' split) <;> simp [h]

@[simp] theorem execSpslot_wf {s : State} (reach : Nat) (value : Word) (h : Memory.wf s.mem) : outWf (execSpslot reach value s) := by
  simp only [execSpslot]
  (repeat' split) <;> simp [h]

@[simp] theorem execVscarve_wf {s : State} (die : Nat) (value : Word) (h : Memory.wf s.mem) : outWf (execVscarve die value s) := by
  simp only [execVscarve]
  (repeat' split) <;> simp [h]

@[simp] theorem execVres_wf {s : State} (vault : Nat) (value : Word) (h : Memory.wf s.mem) : outWf (execVres vault value s) := by
  simp only [execVres]
  (repeat' split) <;> simp [h]

@[simp] theorem execDieLinkRetrain_wf {s : State} (a b : Nat) (h : Memory.wf s.mem) : outWf (execDieLinkRetrain a b s) := by
  simp only [execDieLinkRetrain]
  split <;> simp [h]

@[simp] theorem execCxlPortRetrain_wf {s : State} (port : Nat) (h : Memory.wf s.mem) : outWf (execCxlPortRetrain port s) := by
  simp only [execCxlPortRetrain]
  split <;> simp [h]

@[simp] theorem saveCmd_mem (s : State) (k : Command) : (saveCmd s k).mem = s.mem := by
  unfold saveCmd
  split <;> simp

@[simp] theorem dropWaits_mem (s : State) (ctx : Nat) : (dropWaits s ctx).mem = s.mem := rfl

@[simp] theorem leaveDevice_wf {s : State} (e : Nat × Team) (h : Memory.wf s.mem) : Memory.wf (leaveDevice s e).mem := by simp [leaveDevice, h]

@[simp] theorem saveContext_wf {s : State} (ctx : Nat) (c : Context) (since : Nat) (h : Memory.wf s.mem) :
    Memory.wf (saveContext s ctx c since).mem := by
  unfold saveContext
  extract_lets s₁ s₂ s₃ s₄ s₅ s₆
  have h₁ : Memory.wf s₁.mem := foldl_wf (fun s k h => by simp [h]) _ h
  have h₂ : Memory.wf s₂.mem := foldl_wf (fun s e h => foldl_wf (fun s m h => by simp [h]) _ h) _ h₁
  have h₄ : Memory.wf s₄.mem := by
    unfold s₄
    split
    · exact foldl_wf (fun s e h => by simp [h]) _ h₂
    · exact h₂
  have h₅ : Memory.wf s₅.mem := by simp [s₅, h₄]
  have h₆ : Memory.wf s₆.mem := foldl_wf (fun s p h => by simp [h]) _ h₅
  exact postEvent_wf _ _ _ h₆

@[simp] theorem awaitCommits_mem (s : State) (ctx since : Nat) (c : Context) : (awaitCommits s ctx since c).mem = s.mem := by
  unfold awaitCommits
  split <;> simp

@[simp] theorem execPreemptSaveComplete_wf {s : State} (ctx : Nat) (h : Memory.wf s.mem) : outWf (execPreemptSaveComplete ctx s) := by
  unfold execPreemptSaveComplete
  (repeat' split) <;> simp [h]

@[simp] theorem execQput_wf {s : State} (q : Nat) (value : Word) (h : Memory.wf s.mem) : outWf (execQput q value s) := by
  unfold execQput
  split <;> simp [h]

@[simp] theorem execPacketTakeUp_wf {s : State} (q : Nat) (h : Memory.wf s.mem) : outWf (execPacketTakeUp q s) := by
  simp only [execPacketTakeUp]
  (repeat' split) <;> simp [h]

@[simp] theorem effectOf_wf {s : State} (p : Packet) (h : Memory.wf s.mem) : (effectOf p s).wf := by
  unfold effectOf
  split <;> simp [h]

@[simp] theorem execPacketIssue_wf {s : State} (q : Nat) (h : Memory.wf s.mem) : outWf (execPacketIssue q s) := by
  unfold execPacketIssue
  split
  · exact h
  next p _ =>
  have hp : Memory.wf (runPacket p effectOf s).mem := runPacket_wf p (effectOf_wf p h) h
  split
  · exact h
  split
  · rw [outWf_next]
    split
    · exact finishResize_wf _ hp
    · exact hp
  · exact h

@[simp] theorem execTimelineAdvance_wf {s : State} (q : Nat) (h : Memory.wf s.mem) : outWf (execTimelineAdvance q s) := by
  simp only [execTimelineAdvance]
  (repeat' split) <;> simp [h]

@[simp] theorem execQctlRestart_wf {s : State} (q : Nat) (value : DWord) (h : Memory.wf s.mem) : outWf (execQctlRestart q value s) := by
  unfold execQctlRestart
  split <;> simp [h]

@[simp] theorem execQctlEnable_wf {s : State} (value : DWord) (h : Memory.wf s.mem) : outWf (execQctlEnable value s) := by
  simp only [execQctlEnable]
  split <;> simp [h]

@[simp] theorem linkError_wf {s : State} (pa : Nat) (read : Bool) (h : Memory.wf s.mem) :
    Memory.wf (linkError s pa read).mem := by simp [linkError, h]

@[simp] theorem execHostMemoryAccess_wf {s : State} (pa : Nat) (data : Option (List Byte)) (h : Memory.wf s.mem) :
    outWf (execHostMemoryAccess pa data s) := by
  unfold execHostMemoryAccess
  (repeat' split) <;> simp [h]

@[simp] theorem answered_wf {s : State} {o : Host.Outcome State Fault Refusal} (h : Memory.wf s.mem) (ho : outWf o) :
    Memory.wf (answered s o).mem := by
  unfold answered
  split
  · exact ho
  · exact h

@[simp] theorem ownWrite_wf {s : State} (off x : Nat) (h : Memory.wf s.mem) : ∀ y ∈ ownWrite s off x, Memory.wf y.mem := by
  unfold ownWrite
  (repeat' split) <;> simp [h]

@[simp] theorem writeHost_wf {s : State} (off : Nat) (f : DWord → DWord) (h : Memory.wf s.mem) : Memory.wf (writeHost s off f).mem := by
  simp only [writeHost]
  (repeat' split) <;> simp [h]

@[simp] theorem writeQueue_wf {s : State} (q k : Nat) (f : DWord → DWord) (x : Nat) (h : Memory.wf s.mem) : Memory.wf (writeQueue s q k f x).mem := by
  simp only [writeQueue]
  (repeat' split) <;> simp [h]

@[simp] theorem drainHeld_wf {s : State} (n : Nat) (l : List (Nat × List Byte)) (h : Memory.wf s.mem) : Memory.wf (drainHeld n s l).mem := by
  induction l generalizing s with
  | nil => exact h
  | cons e l ih =>
    unfold drainHeld
    split
    · exact h
    · exact ih (by simp [h])

@[simp] theorem drainRing_wf {s : State} (n : Nat) (h : Memory.wf s.mem) : Memory.wf (drainRing s n).mem := by simp [drainRing, h]

@[simp] theorem writeRing_wf {s : State} (n k : Nat) (f : DWord → DWord) (x : Nat) (h : Memory.wf s.mem) : Memory.wf (writeRing s n k f x).mem := by
  simp only [writeRing]
  (repeat' split) <;> simp [h]

@[simp] theorem writeUnit_mem (s : State) (d off : Nat) (f : DWord → DWord) (x : Nat) : (writeUnit s d off f x).mem = s.mem := by
  unfold writeUnit
  extract_lets u
  (repeat' split) <;> rfl

@[simp] theorem writeVault_mem (s : State) (d off : Nat) (f : DWord → DWord) (x : Nat) : (writeVault s d off f x).mem = s.mem := by
  unfold writeVault
  (repeat' split) <;> simp

@[simp] theorem writeReach_mem (s : State) (d off x : Nat) : (writeReach s d off x).mem = s.mem := by
  have set (n : Nat) (r : Reach) : (s.setReach n r).mem = s.mem := rfl
  simp only [writeReach, apply_ite State.mem, set, ite_self]

@[simp] theorem writeLine_mem (s : State) (n k : Nat) (f : DWord → DWord) : (writeLine s n k f).mem = s.mem := rfl

@[simp] theorem writeStream_mem (s : State) (n k x : Nat) : (writeStream s n k x).mem = s.mem := by
  unfold writeStream
  (repeat' split) <;> simp

@[simp] theorem writeReg_wf {s : State} (off : Nat) (f : DWord → DWord) (x : Nat) (h : Memory.wf s.mem) : Memory.wf (writeReg s off f x).mem := by
  unfold writeReg
  (repeat' split) <;> simp [h]

@[simp] theorem write32_wf {s : State} (off x : Nat) (h : Memory.wf s.mem) : Memory.wf (write32 s off x).mem := by
  unfold write32
  cases ho : ownWrite s off x with
  | none => exact writeReg_wf _ _ _ h
  | some y => exact ownWrite_wf off x h y ho

@[simp] theorem startLine_mem (s : State) (n : Nat) (cs vs : List Byte) (run : Run) : (startLine s n cs vs run).mem = s.mem := rfl

@[simp] theorem storeDrawn_mem (s : State) (lc : Nat) (k : LCmd) : (storeDrawn s lc k).mem = s.mem := rfl

@[simp] theorem touchCopy_mem (s : State) (lc : Nat) (k : LCmd) (write : Bool) : (touchCopy s lc k write).mem = s.mem := by
  unfold touchCopy
  split <;> simp

@[simp] theorem endStore_wf {s : State} (n : Nat) (h : Memory.wf s.mem) : Memory.wf (endStore s n).mem := by
  simp only [endStore]
  (repeat' split) <;> simp [h]

@[simp] theorem execLcgo_wf {s : State} (lc : Nat) (value : DWord) (h : Memory.wf s.mem) : outWf (execLcgo lc value s) := by
  simp only [execLcgo]
  (repeat' split) <;> simp [h]

@[simp] theorem execSumreq_wf {s : State} (pa : DWord) (h : Memory.wf s.mem) : outWf (execSumreq pa s) := by
  unfold execSumreq
  split <;> simp [h]

@[simp] theorem ownWide_wf {s : State} (off : Nat) (value : DWord) (h : Memory.wf s.mem) : ∀ y ∈ ownWide s off value, Memory.wf y.mem := by
  intro y hy
  unfold ownWide at hy
  split at hy
  · split at hy <;> cases hy
    exact answered_wf h (execSumreq_wf _ h)
  · split at hy <;> cases hy
    have hr (q : Nat) := answered_wf h (execQctlRestart_wf q value h)
    split
    · exact answered_wf (hr _) (execQctlEnable_wf _ (hr _))
    · exact hr _
  · (repeat' split at hy) <;> cases hy
    · exact answered_wf h (execFbreplay_wf _ _ h)
    · exact answered_wf h (execFbabort_wf _ _ h)
  · split at hy <;> cases hy
    exact answered_wf h (execLcgo_wf _ _ h)
  · cases hy

@[simp] theorem execRegisterWrite_wf {s : State} (off width : Nat) (value : DWord) (h : Memory.wf s.mem) :
    outWf (execRegisterWrite off width value s) := by
  unfold execRegisterWrite
  extract_lets x
  split
  · exact linkError_wf _ _ h
  split
  · exact write32_wf _ _ h
  split
  · next hy => exact ownWide_wf off value h _ hy
  split
  · exact writeReg_wf _ _ _ h
  · exact write32_wf _ _ (write32_wf _ _ h)

@[simp] theorem execFirmwareFailover_wf {s : State} (h : Memory.wf s.mem) : outWf (execFirmwareFailover s) := by
  simp only [execFirmwareFailover]
  split <;> simp [h]

@[simp] theorem boot_mem (s : State) : (boot s).mem = s.mem := by
  simp only [boot]
  (repeat' split) <;> simp

@[simp] theorem State.reset_wf : Memory.wf State.reset.mem := rfl

@[simp] theorem execDeviceReset_wf {s : State} (h : Memory.wf s.mem) : outWf (execDeviceReset s) := by simp [execDeviceReset, h]

@[simp] theorem releaseStream_wf {s : State} (stream : Nat) (p : PStream) (h : Memory.wf s.mem) : Memory.wf (releaseStream s stream p).mem := by
  unfold releaseStream
  extract_lets s₁ s₂ s₃
  have h₂ : Memory.wf s₂.mem := by simp [s₂, s₁, h]
  have h₃ : Memory.wf s₃.mem := foldl_wf (fun s n h => by
    split
    · split <;> simp [h]
    · exact h) _ h₂
  split
  · simp [h₃]
  · exact h₃

@[simp] theorem tryRelease_wf {s : State} (stream : Nat) (h : Memory.wf s.mem) : Memory.wf (tryRelease s stream).mem := by
  unfold tryRelease
  (repeat' split) <;> simp [h]

@[simp] theorem stopSlice_mem (s : State) (lc : Nat) : (stopSlice s lc).mem = s.mem := rfl

@[simp] theorem execFrameStart_wf {s : State} (stream : Nat) (h : Memory.wf s.mem) : outWf (execFrameStart stream s) := by
  unfold execFrameStart
  split
  · exact h
  split
  · exact tryRelease_wf _ h
  extract_lets f
  split
  · exact h
  split
  · exact h
  · exact tryRelease_wf _ (foldl_wf (fun s n h => by (repeat' split) <;> simp [h]) _ (by simp [h]))

@[simp] theorem execSliceLatch_wf {s : State} (stream frame slice : Nat) (h : Memory.wf s.mem) : outWf (execSliceLatch stream frame slice s) := by
  simp only [execSliceLatch]
  (repeat' split) <;> simp [h]

@[simp] theorem execSliceLaunch_wf {s : State} (lc : Nat) (h : Memory.wf s.mem) : outWf (execSliceLaunch lc s) := by
  unfold execSliceLaunch
  (repeat' split) <;> simp [h]

@[simp] theorem execSliceCompletion_wf {s : State} (lc : Nat) (h : Memory.wf s.mem) : outWf (execSliceCompletion lc s) := by
  unfold execSliceCompletion
  (repeat' split) <;> simp [h]

@[simp] theorem execSliceDeadline_wf {s : State} (stream frame slice : Nat) (h : Memory.wf s.mem) :
    outWf (execSliceDeadline stream frame slice s) := by
  simp only [execSliceDeadline]
  (repeat' split) <;> simp [h]

@[simp] theorem payOwed_wf {s : State} (stream : Nat) (p : PStream) (frame slice : Nat) (last : Option (Nat × Pose)) (ql : Pose)
    (h : Memory.wf s.mem) : Memory.wf (payOwed s stream p frame slice last ql).mem := by
  unfold payOwed
  (repeat' split) <;> simp [h]

@[simp] theorem execBackwaterCopy_wf {s : State} (stream frame slice : Nat) (h : Memory.wf s.mem) :
    outWf (execBackwaterCopy stream frame slice s) := by
  unfold execBackwaterCopy
  (repeat' split) <;> simp [h]

@[simp] theorem ringWrite_wf {s : State} (p : PStream) (bs : List Byte) (h : Memory.wf s.mem) :
    Memory.wf (ringWrite s p bs).mem := by simp [ringWrite, h]

@[simp] theorem execTileRowEncode_wf {s : State} (stream frame row : Nat) (h : Memory.wf s.mem) : outWf (execTileRowEncode stream frame row s) := by
  simp only [execTileRowEncode]
  (repeat' split) <;> simp [h]

@[simp] theorem execDpLineStart_wf {s : State} (stream start : Nat) (h : Memory.wf s.mem) : outWf (execDpLineStart stream start s) := by
  unfold execDpLineStart
  (repeat' split) <;> simp [h]

@[simp] theorem consume_mem (s : State) (n party : Nat) (k : LCmd) : (consume s n party k).mem = s.mem := by
  unfold consume
  (repeat' split) <;> simp

@[simp] theorem execCopyCommandStart_wf {s : State} (lc : Nat) (store : Bool) (h : Memory.wf s.mem) : outWf (execCopyCommandStart lc store s) := by
  simp only [execCopyCommandStart]
  (repeat' split) <;> simp [h]

@[simp] theorem finish_wf {s : State} (n party : Nat) (k : LCmd) (h : Memory.wf s.mem) : Memory.wf (finish s n party k).mem := by
  simp only [finish]
  (repeat' split) <;> simp [h]

@[simp] theorem execCopyCommandCompletion_wf {s : State} (lc : Nat) (store : Bool) (h : Memory.wf s.mem) :
    outWf (execCopyCommandCompletion lc store s) := by
  simp only [execCopyCommandCompletion]
  (repeat' split) <;> simp [h]

@[simp] theorem execMmcCompletion_wf {s : State} (lc : Nat) (h : Memory.wf s.mem) : outWf (execMmcCompletion lc s) := by
  simp only [execMmcCompletion]
  (repeat' split) <;> simp [h]

@[simp] theorem execDieLinkTrained_wf {s : State} (a b : Nat) (h : Memory.wf s.mem) : outWf (execDieLinkTrained a b s) := by
  simp only [execDieLinkTrained]
  split <;> simp [h]

@[simp] theorem execCxlPortTrained_wf {s : State} (port : Nat) (h : Memory.wf s.mem) : outWf (execCxlPortTrained port s) := by
  simp only [execCxlPortTrained]
  split <;> simp [h]

@[simp] theorem execRiseExpiry_wf {s : State} (team : Nat) (h : Memory.wf s.mem) : outWf (execRiseExpiry team s) := by
  unfold execRiseExpiry
  (repeat' split) <;> simp [h]

@[simp] theorem execStretchEnd_wf {s : State} (reach : Nat) (h : Memory.wf s.mem) : outWf (execStretchEnd reach s) := by
  simp only [execStretchEnd]
  (repeat' split) <;> simp [h]


/-! ### The instructions -/

theorem execIssueAsHeld_wf {s : State} (t : BitVec 6) (h : Memory.wf s.mem) : outWf (execIssueAsHeld t s) := by
  refine patch_wf (fun n vec st s h => ?_) h
  split
  · simp [h]
  · exact issueTpl_wf _ _ _ h h

theorem execAmendThenIssue_wf {s : State} (t : BitVec 6) (f : BitVec 8) (v : BitVec 16) (h : Memory.wf s.mem) :
    outWf (execAmendThenIssue t f v s) := by
  refine patch_wf (fun n vec st s h => ?_) h
  split
  · simp [h]
  split
  · simp [h]
  · exact issueTpl_wf _ _ _ h h

theorem execAmendAndHold_wf {s : State} (t : BitVec 6) (f : BitVec 8) (v : BitVec 16) (h : Memory.wf s.mem) :
    outWf (execAmendAndHold t f v s) := by
  refine patch_wf (fun n vec st s h => ?_) h
  (repeat' split) <;> simp [h]

theorem execTplLd_wf {s : State} (f : BitVec 8) (v : BitVec 16) (h : Memory.wf s.mem) : outWf (execTplLd f v s) := by
  refine patch_wf (fun n vec st s h => ?_) h
  (repeat' split) <;> simp [h]

theorem execEndS_wf {s : State} (h : Memory.wf s.mem) : outWf (execEndS s) :=
  patch_wf (fun n vec st s h => by simp [h]) h

theorem execQdrain_wf {s : State} (h : Memory.wf s.mem) : outWf (execQdrain s) :=
  patch_wf (fun n vec st s h => by split <;> simp [h]) h

theorem execStreamTrap_wf {s : State} (k : BitVec 16) (h : Memory.wf s.mem) : outWf (execStreamTrap k s) :=
  patch_wf (fun n vec st s h => by simp [h]) h

/-- A slot's instruction is the word of that one slot. -/
theorem exec_of_slotOf {i : Instr} {k : Slot} (h : slotOf i = some k) (s : State) : exec i s = oneSlot k s := by
  cases i
  all_goals cases h
  all_goals rfl

/-- Every instruction keeps memory canonical: the words and slots by their lemmas, and a row of Calud by its entry. -/
theorem exec_wf (i : Instr) {s : State} (h : Memory.wf s.mem) : outWf (exec i s) := by
  cases hk : slotOf i with
  | some k => exact exec_of_slotOf hk s ▸ oneSlot_wf (slotOf_keeps hk) h
  | none =>
  cases i
  case snop | sadd | ssub | smul | sand | sor | sxor | sshl | sshr | ssra | slt | sltu | saddi | slui | beqz | bnez | bru | lstart | loopS
      | srd | setshp | setlb | vmov | vadd | vsub | vmul | vfma | vmin | vmax | vlerp | vabs | vcmp | vsel | vand | vor | vxor | vshl | vshr
      | vcvt | vtrn | vbrow | vbcol | vrotc | vperm | vrsum | ldw | ldwr | ldx | stw | stwr | stx | qnop | semInit | semAdd | semSub | semRd
      | cqpush | cqpop | cpld | cpst | mmc =>
    cases hk
  case issueAsHeld => exact execIssueAsHeld_wf _ h
  case amendThenIssue => exact execAmendThenIssue_wf _ _ _ h
  case amendAndHold => exact execAmendAndHold_wf _ _ _ h
  case tplLd => exact execTplLd_wf _ _ h
  case endS => exact execEndS_wf h
  case qdrain => exact execQdrain_wf h
  case streamTrap => exact execStreamTrap_wf _ h
  case partResize p => exact finishResize_wf _ (runPacket_wf _ (resizePart_wf p h) h)
  case partCreate | partDestroy | queueCreate | queueDestroy | summaryP | fwUpdate | attestP | dieOffline | nopPacket
      | ctxCreate | ctxDestroy | launchP | preemptP | resumeP | tlbInv | springDecl | springUndecl | streamOpen | streamClose | passRelease
      | taskCtl =>
    exact runPacket_wf _ (by simp [h]) h
  case sumreq | resultWriteback | eddyBinDraw | issueAgeing | bankSwitch | trapEntry | budgetExpiry | faultHeldRetry | fbreplay | fbabort
      | backInvalidate | versionCommit | horizon | springMiss | generatorPlacement | frameAllocation | generatorFailure | evictionEnd
      | engineCommandStart | engineCommandCompletion | xsendLanding | arrivalGroupStart | collectiveCompletion | barrierCompletion
      | matrixEntryStart | matrixEntryCompletion | matrixReset | matrixResetEnd | beamCompletion | screenWriteDelivery | abandonment
      | uncorrectableError | teamPlacement | placementRecheck | effectivePriorityRise | launchHold | retirement | launchCompletion
      | sensorReading | chargeCounterTick | millpondRefill | weirGrant | droop | hopLock | hopAbort | clkcfg | mpfill | spslot | vscarve
      | vres | dieLinkRetrain | cxlPortRetrain | preemptSaveComplete | qput | packetTakeUp | packetIssue | timelineAdvance | qctlRestart
      | qctlEnable | hostMemoryAccess | registerWrite | firmwareFailover | deviceReset | lcgo | frameStart | sliceLatch | sliceLaunch
      | sliceCompletion | sliceDeadline | backwaterCopy | tileRowEncode | dpLineStart | copyCommandStart | copyCommandCompletion
      | mmcCompletion | dieLinkTrained | cxlPortTrained | riseExpiry | stretchEnd =>
    simp [exec, h]
  all_goals exact calud_wf (fun c hc => by simp [hc]) h

/-! ### The passing of time -/

theorem after_wf {f : State → Host.Outcome State Fault Refusal} {s : State} (hf : outWf (f s)) (h : Memory.wf s.mem) : Memory.wf (after f s).mem := by
  unfold after
  split
  · next hs =>
    rw [hs] at hf
    exact hf
  · exact h

@[simp] theorem refillAll_wf {s : State} (h : Memory.wf s.mem) : Memory.wf (refillAll s).mem :=
  foldl_wf (fun _ _ h => after_wf (execMillpondRefill_wf _ h) h) _ h

@[simp] theorem grantAtPhase_wf {s : State} (h : Memory.wf s.mem) : Memory.wf (grantAtPhase s).mem :=
  foldl_wf (fun _ _ h => after_wf (execWeirGrant_wf _ h) h) _ h

@[simp] theorem perMoment_wf {s : State} (h : Memory.wf s.mem) : Memory.wf (perMoment s).mem := by
  unfold perMoment
  extract_lets s₁ s₂
  have h₁ : Memory.wf s₁.mem := by
    unfold s₁
    split
    · exact after_wf (execChargeCounterTick_wf h) h
    · exact h
  have h₂ : Memory.wf s₂.mem := by
    unfold s₂
    split
    · exact refillAll_wf h₁
    · exact h₁
  split
  · exact grantAtPhase_wf h₂
  · exact h₂

@[simp] theorem tick_wf {s : State} (h : Memory.wf s.mem) : Memory.wf (tick s).mem := perMoment_wf (retryHeld_wf h)

@[simp] theorem elapse_wf {s : State} (n : Nat) (h : Memory.wf s.mem) : Memory.wf (elapse n s).mem := by
  induction n generalizing s with
  | zero => exact h
  | succ n ih => exact ih (tick_wf h)

@[simp] theorem hostRead_wf {s : State} (off width : Nat) (h : Memory.wf s.mem) : Memory.wf (hostRead s off width).1.mem := by
  unfold hostRead
  split
  · exact linkError_wf _ _ h
  · exact h

@[simp] theorem timeLock_mem (s : State) (on : Bool) (time : Nat) : (timeLock s on time).mem = s.mem := by
  unfold timeLock
  split <;> rfl

/-! ### The fetch of a member's word and of a stream's -/

@[simp] theorem parkMember_wf {s : State} (tk : Nat) (t : Team) (m : Member) (x : Reached) (h : Memory.wf s.mem) :
    Memory.wf (parkMember s tk t m x).mem := by
  simp [parkMember, h]

@[simp] theorem fetchCode_wf {s : State} (tk : Nat) (t : Team) (m : Member) (h : Memory.wf s.mem) : (fetchCode s tk t m).wf := by
  unfold fetchCode
  extract_lets y
  have hy : Memory.wf y.1.mem := (reachLines_mem ..).symm ▸ h
  split
  · simp [h]
  split
  · simp [h]
  refine Fetched.wf.ite hy ?_
  split
  · simp [hy]
  split
  · simp [hy]
  split
  · simp [hy]
  · exact hy

@[simp] theorem nextWord_wf {s : State} (tk : Nat) (t : Team) (m : Member) (h : Memory.wf s.mem) : (nextWord s tk t m).wf := by
  unfold nextWord
  split <;> simp [h]

@[simp] theorem attempt_wf {s : State} (tk mid : Nat) (h : Memory.wf s.mem) : (attempt tk mid s).wf := by
  unfold attempt
  (repeat' split) <;> simp [h]

@[simp] theorem takeTurn_wf {s : State} (tk mid : Nat) (h : Memory.wf s.mem) : (takeTurn tk mid s).wf := by
  have ha := attempt_wf tk mid h
  unfold takeTurn
  split
  · exact h
  split
  · exact h
  split
  · next hs => exact hs ▸ ha
  · next i s' hs =>
    rw [hs] at ha
    split
    · exact h
    · unfold withRivals
      split <;> exact ha

@[simp] theorem fetchMember_wf {s : State} (tk mid : Nat) (h : Memory.wf s.mem) : (fetchMember tk mid s).wf := by
  unfold fetchMember
  (repeat' split) <;> simp [h]

@[simp] theorem unblock_wf {s : State} (n : Nat) (vec : Bool) (h : Memory.wf s.mem) : Memory.wf (unblock s n vec).mem := by
  unfold unblock
  split
  · exact h
  split
  · exact h
  · next x _ _ =>
    extract_lets s₁ s₂
    have h₁ : Memory.wf s₁.mem := by simp [s₁, h]
    have h₂ : Memory.wf s₂.mem := by
      unfold s₂
      split <;> simp [h₁]
    split <;> simp [h₂]

@[simp] theorem fetchStream_wf {s : State} (n : Nat) (vec : Bool) (h : Memory.wf s.mem) : (fetchStream n vec s).wf := by
  unfold fetchStream
  extract_lets c st
  split
  · exact h
  split
  · exact unblock_wf n vec h
  split
  · exact h
  split
  · simp [h]
  split
  · simp [h]
  · exact h

@[simp] theorem fetchAgent_wf {s : State} (a : Agent) (h : Memory.wf s.mem) : (fetchAgent a s).wf := by
  cases a with
  | member tk mid => exact fetchMember_wf tk mid h
  | stream n vec => exact fetchStream_wf n vec h
  | event i => exact h
  | elapse n => exact elapse_wf n h
  | hostRead off width => exact hostRead_wf off width h
  | timeLock on time => exact by simpa [fetchAgent] using h

/-! ### The turns of the default order (R48, R85) -/

/-- An event keeps memory canonical. -/
def Event.Keeps (e : Event) : Prop := ∀ s, Memory.wf s.mem → outWf (e s)

theorem memberEvents_keep (s : State) (tk : Nat) (m : Member) : ∀ e ∈ memberEvents s tk m, Event.Keeps e := by
  intro e he s h
  simp only [memberEvents, List.mem_append, List.mem_map, List.mem_cons, List.not_mem_nil, or_false] at he
  obtain ((⟨i, -, rfl⟩ | rfl | rfl | rfl) | he) | he := he
  · simp [h]
  · simp [h]
  · simp [h]
  · simp [h]
  · split at he <;> simp_all
  · split at he <;> simp_all

theorem teamEvents_keep (s : State) (tk : Nat) (t : Team) : ∀ e ∈ teamEvents s tk t, Event.Keeps e := by
  intro e he
  simp only [teamEvents, List.mem_append, List.mem_flatMap, List.mem_map, List.mem_cons, List.not_mem_nil, or_false] at he
  obtain (((⟨m, -, he⟩ | ⟨b, -, rfl⟩) | ⟨a, -, rfl⟩) | rfl | rfl | rfl | rfl) | he := he
  · exact memberEvents_keep _ _ _ _ he
  · exact fun s h => by simp [h]
  · exact fun s h => by simp [h]
  · exact fun s h => by simp [h]
  · exact fun s h => by simp [h]
  · exact fun s h => by simp [h]
  · exact fun s h => by simp [h]
  · intro s h
    (repeat' split at he) <;> simp only [List.mem_cons, List.not_mem_nil, or_false] at he
    · obtain rfl | rfl := he <;> simp [h]
    · subst he; simp [h]
    · obtain rfl | rfl := he <;> simp [h]

theorem commandEvents_keep (s : State) (k : Command) : ∀ e ∈ commandEvents s k, Event.Keeps e := by
  intro e he s h
  unfold commandEvents at he
  (repeat' split at he) <;> simp only [List.mem_cons, List.mem_append, List.not_mem_nil, or_false] at he
  · obtain rfl | rfl | rfl := he <;> simp [h]
  · obtain (rfl | rfl) | rfl | rfl := he <;> simp [h]
  · obtain rfl | rfl | rfl := he <;> simp [h]

theorem springEvents_keep (p : Spring) : ∀ e ∈ springEvents p, Event.Keeps e := by
  intro e he s h
  simp only [springEvents, List.mem_append, List.mem_map] at he
  obtain ⟨x, -, rfl⟩ | he := he
  · simp [h]
  · split at he <;> simp_all

theorem generatorEvents_keep (s : State) : ∀ e ∈ generatorEvents s, Event.Keeps e := by
  intro e he s h
  simp only [generatorEvents, List.mem_flatMap, List.mem_filterMap] at he
  obtain ⟨g, -, n, -, c, -, b, -, he⟩ := he
  split at he <;> cases he
  simp [h]

theorem launchEvents_keep (k : Nat) : ∀ e ∈ launchEvents k, Event.Keeps e := by
  intro e he s h
  simp only [launchEvents, List.cons_append, List.mem_cons, List.mem_append, List.mem_map, List.not_mem_nil, or_false] at he
  obtain rfl | ⟨d, -, rfl⟩ | rfl := he <;> simp [h]

theorem lineEvents_keep (n : Nat) (c : LineCore) : ∀ e ∈ lineEvents n c, Event.Keeps e := by
  intro e he s h
  simp only [lineEvents, List.mem_append] at he
  obtain ((he | he) | he) | he := he
  all_goals split at he <;> simp only [List.mem_cons, List.not_mem_nil, or_false] at he
  · obtain rfl | rfl := he <;> simp [h]
  · obtain rfl | rfl := he <;> simp [h]
  · subst he; simp [h]
  · subst he; simp [h]

theorem presentEvents_keep (n : Nat) (p : PStream) : ∀ e ∈ presentEvents n p, Event.Keeps e := by
  intro e he s h
  simp only [presentEvents, List.mem_append, List.mem_flatMap, List.mem_cons, List.not_mem_nil, or_false] at he
  obtain ((rfl | rfl) | he) | ⟨x, -, k, -, rfl | rfl | rfl⟩ := he
  · simp [h]
  · simp [h]
  · split at he
    · cases he
    · obtain ⟨i, -, rfl⟩ := List.mem_map.mp he
      simp [h]
  · simp [h]
  · simp [h]
  · simp [h]

theorem queueEvents_keep (q : Nat) : ∀ e ∈ queueEvents q, Event.Keeps e := by
  intro e he s h
  simp only [queueEvents, List.mem_cons, List.not_mem_nil, or_false] at he
  obtain rfl | rfl | rfl := he <;> simp [h]

theorem unitEvents_keep (s : State) : ∀ e ∈ unitEvents s, Event.Keeps e := by
  intro e he
  simp only [unitEvents, List.mem_append, List.mem_flatMap, List.mem_map] at he
  obtain (((((((((((((((⟨x, -, he⟩ | ⟨x, -, he⟩) | ⟨x, -, he⟩) | ⟨x, -, rfl⟩) | ⟨x, -, rfl⟩) | ⟨x, -, rfl⟩) | ⟨x, -, he⟩) | he) | he) | he) |
    ⟨x, -, he⟩) | ⟨x, -, rfl⟩) | he) | ⟨x, -, he⟩) | ⟨x, -, he⟩) | ⟨x, -, he⟩) := he
  · exact queueEvents_keep _ _ he
  · exact teamEvents_keep _ _ _ _ he
  · exact commandEvents_keep _ _ _ he
  · exact fun s h => execCollectiveCompletion_wf _ h
  · exact fun s h => execScreenWriteDelivery_wf _ h
  · exact fun s h => execSpringMiss_wf _ h
  · exact springEvents_keep _ _ he
  · exact generatorEvents_keep _ _ he
  · intro s h
    split at he <;> simp_all
  · intro s h
    split at he
    · cases he
    · simp only [List.mem_append, List.mem_map] at he
      obtain ⟨d, -, rfl⟩ | ⟨d, -, rfl⟩ := he <;> simp [h]
  · exact launchEvents_keep _ _ he
  · exact fun s h => execPreemptSaveComplete_wf _ h
  · intro s h
    obtain ⟨x, -, hx⟩ := List.mem_filterMap.mp he
    split at hx <;> cases hx
    simp [h]
  · intro s h
    split at he <;> simp only [List.mem_cons, List.not_mem_nil, or_false] at he
    obtain rfl | rfl := he <;> simp [h]
  · exact lineEvents_keep _ _ _ he
  · exact presentEvents_keep _ _ _ he

/-- A turn of the default order keeps memory canonical. -/
theorem turns_wf (s : State) : ∀ f ∈ turns s, ∀ s', Memory.wf s'.mem → (f s').wf := by
  intro f hf s' h
  simp only [turns, List.mem_append, List.mem_map] at hf
  obtain hf | ⟨e, he, rfl⟩ := hf
  · simp only [streamTurns, List.mem_flatMap] at hf
    obtain ⟨x, -, hx⟩ := hf
    split at hx <;> simp only [List.mem_cons, List.not_mem_nil, or_false] at hx
    obtain rfl | rfl := hx <;> simp [h]
  · exact after_wf (unitEvents_keep s e he s' h) h

theorem fetch_wf {s : State} (h : Memory.wf s.mem) : (fetch s).wf := by
  unfold fetch
  split
  · exact fetchAgent_wf _ h
  · exact fetchMember_wf _ _ h
  · split
    · next f hf => exact turns_wf s f (List.mem_of_getElem? hf) _ h
    · exact elapse_wf 1 h

theorem step_wf {s : State} (h : Memory.wf s.mem) : outWf (step s) := by
  have hf := fetch_wf h
  unfold step
  split
  · next hs =>
    rw [hs] at hf
    exact hf
  · next hs =>
    rw [hs] at hf
    exact exec_wf _ hf

end Sys2Proof.Machine

namespace Sys2Proof.Proofs
open Sys2Proof Sys2Proof.Machine

/-- Settles O42: whatever a step finds to do, what it runs writes memory by writes of bytes alone, and each keeps the canonical form. -/
theorem stepsKeepMemoryCanonical : Obligations.StepsKeepMemoryCanonical := by
  intro s s' h hs
  have hw := step_wf (s := s) h
  rw [hs] at hw
  exact hw

end Sys2Proof.Proofs

/-! ### The checks before a word's entry (O24) -/

namespace Sys2Proof.Machine

/-- The row that an opcode names has that opcode. -/
theorem rowAt_op (op : Nat) : (rowAt op).op = op := by
  unfold rowAt
  cases hr : rowsCalud.find? (fun r => r.op == op) with
  | none => rfl
  | some r => simpa using List.find?_some hr

/-- The meaning of a Calud instruction is that of its row, with the entry of the word. -/
theorem exec_of_calRow {i : Instr} {r : CRow} {w : CWord} (h : calRow i = some (r, w)) : ∃ entry, ∀ s, exec i s = calud r entry w s := by
  cases i
  all_goals cases h
  all_goals exact ⟨_, fun _ => rfl⟩

section
variable {r : CRow} {w : CWord} {s : State} {c : Ctx}

/-- A word that fails check 1 (R65). -/
theorem issue_illegal (h : Attempts r w s c) (hl : r.legal w = false) (entry : Ctx → Res) :
    issue c r entry = c.draw (takeCause c.s c.tk c.m.id 0x01 0) := by
  simp [issue, h.word, hl, settle]

/-- A word that passes check 1 and fails check 2 (R65). -/
theorem issue_absent (h : Attempts r w s c) (hl : r.legal w = true) (hu : c.unitFails = true) (entry : Ctx → Res) :
    issue c r entry = c.draw (takeCause c.s c.tk c.m.id 0x02 0) := by
  simp [issue, h.word, hl, hu, settle]

/-- A word that passes checks 1 and 2 and meets check 3 or the check of R112. -/
theorem issue_early (h : Attempts r w s c) (hl : r.legal w = true) (hu : c.unitFails = false) (hg : neverGuard w = false) {k : Nat}
    (he : c.earlyCause r = some k) (entry : Ctx → Res) : issue c r entry = c.draw (takeCause c.s c.tk c.m.id k 0) := by
  simp [issue, h.word, hl, hu, hg, he, settle]

theorem earlyCause_allotment (h : Attempts r w s c) (ha : allotmentFails c.t c.m (c.row r) w = true) : c.earlyCause r = some 0x03 := by
  simp [Ctx.earlyCause, h.word, ha]

theorem earlyCause_pending (h : Attempts r w s c) (ha : allotmentFails c.t c.m (c.row r) w = false) (hp : c.t.prc = true)
    (ht : c.touchesPending r = true) : c.earlyCause r = some 0x30 := by
  simp [Ctx.earlyCause, h.word, ha, hp, ht]

/-- Check 2 is that of an XSEND, of TRET, of SYSWR, of SFILL and of SFAIL. -/
theorem op_of_unitFails (h : Attempts r w s c) (hu : c.unitFails = true) : r.op ∈ [0x1D1, 0x1F1, 0x1F5, 0x1C0, 0x1C1] := by
  rw [← h.opcode]
  by_contra hn
  simp only [List.mem_cons, List.not_mem_nil, or_false, not_or] at hn
  obtain ⟨h1, h2, h3, h4, h5⟩ := hn
  simp [Ctx.unitFails, h1, h2, h3, h4, h5] at hu

/-- A word whose outcome raises an enabled flag takes cause 0x24 with its flags set (R42). -/
theorem calud_flags {entry : Ctx → Res} {s1 : State} {o : Out} (h : Issues r w s c) (e : entry c = .done s1 o)
    (hf : trapsFp c.t o.flags = true) :
    calud r entry w s = .next (takeCause (c.draw (c.s.updMember c.tk c.m.id (fun m => m.raise o.flags))) c.tk c.m.id 0x24 0) := by
  rw [calud_attempts h.toAttempts, issue_entry h.toChecks, e, settle_done h.toChecks]
  simp [Ctx.ends, hf]

end

/-! ### The flags of a float word and the entries of integer words -/

/-- The flags that a word raises: what its element raises in a lane, in each lane that the lane's result stands for. -/
theorem perLane_flags (c : Ctx) (uniform : Bool) (rm n : Nat) (f : Nat → List Nat → List (Place × Nat) × BitVec 5) :
    (perLane c uniform rm n f).flags =
      (c.lanes uniform).flatMap (fun l => (flagLanes c uniform l).map (fun k => (k, (f l (draws rm (c.rng l) n).1).2))) := by
  have go (ls : List Nat) : ∀ acc : Acc, (ls.foldl (fun acc l =>
      { writes := acc.writes ++ (f l (draws rm (c.rng l) n).1).1
        flags := acc.flags ++ (flagLanes c uniform l).map (fun k => (k, (f l (draws rm (c.rng l) n).1).2))
        rng := if rm = 4 then acc.rng ++ [(l, (draws rm (c.rng l) n).2)] else acc.rng }) acc).flags =
      acc.flags ++ ls.flatMap (fun l => (flagLanes c uniform l).map (fun k => (k, (f l (draws rm (c.rng l) n).1).2))) := by
    induction ls with
    | nil => simp
    | cons l ls ih => intro acc; rw [List.foldl_cons, ih]; simp
  exact go _ Acc.nil

/-- A float word that rounds one element is done with its flags. -/
theorem floatWise_done (c : Ctx) (f : Nat → Nat → Rounded) : ∃ o, floatWise c f = .done c.s o ∧
    o.flags = (perLane c (selD c.w) (rmOf c.w) 1 (fun l rs => ([], (f l (rs.headD 0)).2))).flags :=
  ⟨_, rfl, by simp [Out.ofAcc, perLane_flags]⟩

/-- An entry that is done in every context, and raises no flag. -/
def Quiet (entry : Ctx → Res) : Prop := ∀ c, ∃ o, entry c = .done c.s o ∧ o.flags = []

/-- Every integer and bit word's entry is quiet. -/
theorem quiet_of_integer {i : Instr} {r : CRow} {w : CWord} (h : calRow i = some (r, w)) (hlo : 0x040 ≤ r.op) (hhi : r.op ≤ 0x055) :
    ∃ entry, Quiet entry ∧ ∀ s, exec i s = calud r entry w s := by
  cases i
  all_goals cases h
  case iadd | isub | imul | imulh | imad | imin | imax | iabs | shl | shr | fsh | bfe | bfi | popc | clz | brev | bfn | icmp | sel | mov | movi
      | smovi =>
    exact ⟨_, fun _ => ⟨_, rfl, rfl⟩, fun _ => rfl⟩
  case reformJoin => exact absurd hlo (by decide)
  case tstOrd => exact absurd hhi (by decide)
  all_goals
    rw [rowAt_op] at hlo hhi
    omega

/-- A quiet word whose charge would exceed its weir's limit takes cause 0x20 with no effect (R333). -/
theorem issue_overCharge {r : CRow} {w : CWord} {s : State} {c : Ctx} {entry : Ctx → Res} (h : Attempts r w s c) (hl : r.legal w = true)
    (hu : c.unitFails = false) (hg : neverGuard w = false) (ha : c.act ≠ []) (he : c.earlyCause r = none) (hq : Quiet entry)
    (hc : c.overCharge = true) : issue c r entry = takeCause (c.draw c.s) c.tk c.m.id 0x20 0 := by
  obtain ⟨o, ho, hf⟩ := hq c
  simp [issue, h.word, hl, hu, hg, he, ha, ho, settle, hf, trapsFp, hc]

/-- The result of an operation in FP32 under a word's rounding: the canonical NaN with IV where it has no value, and else its value
rounded (R124). -/
def Ctx.rounds (c : Ctx) (x : Option Ex) (k : Nat) : Rounded :=
  match x with
  | none => (0x7FC00000, flIV)
  | some x => encode f32 x (rmOf c.w) (ftzOf c.w) false k

theorem roundSum_rounds (c : Ctx) (k : Nat) (p q : Ex) : roundSum f32 (rmOf c.w) (ftzOf c.w) k p q = c.rounds (Ex.add? (rmOf c.w) p q) k := by
  unfold roundSum
  cases Ex.add? (rmOf c.w) p q <;> rfl

theorem fMul_rounds (c : Ctx) (k a b : Nat) : fMul f32 (rmOf c.w) (ftzOf c.w) k a b =
    c.rounds (Ex.mul? (decodeZ (ftzOf c.w) f32 a) (decodeZ (ftzOf c.w) f32 b)) k := by
  unfold fMul
  cases Ex.mul? (decodeZ (ftzOf c.w) f32 a) (decodeZ (ftzOf c.w) f32 b) <;> rfl

/-- A float word of two operands that raises an enabled flag takes cause 0x24 (R42). -/
theorem float2_flags {r : CRow} {w : CWord} {s : State} {c : Ctx}
    {f : Fmt32 → Nat → Bool → Nat → Nat → Nat → Rounded} {op : Nat → Option Ex}
    (h : Issues r w s c) (hg : ∀ l k, f f32 (rmOf c.w) (ftzOf c.w) k (c.a false l) (c.b false l) = c.rounds (op l) k)
    (hf : trapsFp c.t (perLane c (selD c.w) (rmOf c.w) 1 (fun l rs => ([], (c.rounds (op l) (rs.headD 0)).2))).flags = true) :
    calud r (float2 f) w s = .next (takeCause (c.draw (c.s.updMember c.tk c.m.id (fun m =>
      m.raise (perLane c (selD c.w) (rmOf c.w) 1 (fun l rs => ([], (c.rounds (op l) (rs.headD 0)).2))).flags))) c.tk c.m.id 0x24 0) := by
  obtain ⟨o, ho, hfl⟩ := floatWise_done c (fun l k => f f32 (rmOf c.w) (ftzOf c.w) k (c.a false l) (c.b false l))
  simp only [hg] at hfl
  rw [← hfl] at hf ⊢
  exact calud_flags h ho hf

end Sys2Proof.Machine

namespace Sys2Proof.Proofs
open Sys2Proof Sys2Proof.Machine

/-- Settles O24: the checks of a word stand in the order of R65 before its entry, and an outcome's flags and charge before its writes. -/
theorem checksFlagsAndLimitsTrapBeforeAnyWrite : Obligations.ChecksFlagsAndLimitsTrapBeforeAnyWrite := by
  refine ⟨?_, ?_, ?_⟩
  · intro i r w s c hr h
    obtain ⟨entry, hx⟩ := exec_of_calRow hr
    rw [hx, calud_attempts h]
    refine ⟨fun hl => ?_, fun hl hu => ?_, fun hl hu hg => ⟨fun ha => ?_, fun ha hp ht => ?_⟩, op_of_unitFails h⟩
    · rw [issue_illegal h hl]
    · rw [issue_absent h hl hu]
    · rw [issue_early h hl hu hg (earlyCause_allotment h ha)]
    · rw [issue_early h hl hu hg (earlyCause_pending h ha hp ht)]
  · refine trapsAtCheck2_of (entry := entryXsend) (fun _ _ => rfl) fun w s c h hc => ?_
    obtain ⟨p, hp, hgone⟩ := hc
    have hop : c.op = 0x1D1 := h.opcode.trans (rowAt_op _)
    have hp : physCore c.s c.t.ctx (bits (c.sc (fB c.w)) 10 0) = some p := by simpa [bits] using hp
    simpa [Ctx.unitFails, hop, absentCore, hp] using hgone
  · intro a b flags end_ word
    refine ⟨fun w s c h hf => ?_, fun w s c h hf => ?_, fun w s c h hf => ?_, ?_⟩
    · exact float2_flags (op := fun l => Ex.add? (rmOf c.w) (a c l) (b c l)) h (fun l k => roundSum_rounds ..) hf
    · exact float2_flags (op := fun l => Ex.add? (rmOf c.w) (a c l) (b c l).opp) h (fun l k => roundSum_rounds ..) hf
    · exact float2_flags (op := fun l => Ex.mul? (a c l) (b c l)) h (fun l k => fMul_rounds ..) hf
    · intro i r w s c hr hlo hhi h hl hg ha he hc
      obtain ⟨entry, hq, hx⟩ := quiet_of_integer hr hlo hhi
      have hu : c.unitFails = false := by
        by_contra hu
        have := op_of_unitFails h (by simpa using hu)
        simp only [List.mem_cons, List.not_mem_nil, or_false] at this
        omega
      rw [hx, calud_attempts h, issue_overCharge h hl hu hg ha he hq hc]

end Sys2Proof.Proofs

/-! ### The packets of queue 0 and NOP (O44) -/

namespace Sys2Proof.Machine

section
variable {typ : Nat} {i : Packet → Instr} {fn : Packet → State → PEnd} {pre : Packet → State → Prop} {eff : Packet → State → State}

/-- The form in which a packet's completed issue is proved: its instruction runs its effect, which is done and leaves its queue. -/
theorem issued_done (hx : ∀ p s, exec (i p) s = .next (runPacket p fn s))
    (he : ∀ p s, Admits typ p s → pre p s → fn p s = .done (eff p s) ∧ (eff p s).queue p.queue = s.queue p.queue) :
    Issued i typ true pre eff := by
  intro p s h hp
  obtain ⟨hd, hq⟩ := he p s h hp
  rw [hx, runPacket_done h hd (by rw [hq]; exact h.stays)]

/-- The form for a packet that goes on after its issue. -/
theorem issued_later (hx : ∀ p s, exec (i p) s = .next (runPacket p fn s))
    (he : ∀ p s, Admits typ p s → pre p s → fn p s = .later (eff p s) ∧ (eff p s).queue p.queue = s.queue p.queue) :
    Issued i typ false pre eff := by
  intro p s h hp
  obtain ⟨hd, hq⟩ := he p s h hp
  rw [hx, runPacket_later h hd (by rw [hq]; exact h.stays)]

end

/-- The low bits of a value. -/
theorem bits_low (x hi : Nat) : bits x hi 0 = x % 2 ^ (hi + 1) := by simp [bits]

/-- The partition that PART.CREATE makes (R434). -/
def newPart (p : Packet) : Partition :=
  { reaches := reachMask (pword p 1) (pword p 2), ways := BitVec.ofNat 64 (pword p 3), vshare := BitVec.ofNat 64 (pword p 4),
    vaults := reachMask (pword p 7) (pword p 8) ||| reachMask (pword p 1) (pword p 2), enc := pword p 6 / 2 ^ 32 % 2 ^ 5,
    streams := pword p 6 / 2 ^ 40 % 2 ^ 7, resize := none }

section
variable {p : Packet} {s : State}

/-! ### What each packet does where nothing stands against it -/

theorem createPart_done (hm : resizeMeets s (pword p 0) (reachMask (pword p 1) (pword p 2)) = false) (hn : look s.parts (pword p 0) = none)
    (hr : maskRefusal s (pword p 0) (reachMask (pword p 1) (pword p 2)) = none) (hs : sharesOver s (pword p 0) (pword p 4) = false)
    (hh : hostSpan s (pword p 5) (64 * (pword p 6 % 2 ^ 17)) = true) :
    createPart p s = .done (State.setRing { s with parts := set s.parts (pword p 0) (newPart p) } (pword p 0)
      { Ring.zero with base := BitVec.ofNat 64 (pword p 5), size := BitVec.ofNat 32 (pword p 6 % 2 ^ 17) }) := by
  rw [← bits_low] at hh ⊢
  simp only [createPart, hm, hn, hr, hs, hh]
  rfl

theorem destroyPart_done {x : Partition} (hx : look s.parts (pword p 0) = some x) (hr : x.resize = none)
    (hq : ∀ e ∈ s.queues, e.1 = 0 ∨ e.2.en = false ∨ e.2.part ≠ pword p 0) (hc : ∀ e ∈ s.ctxs, e.2.part ≠ pword p 0)
    (ht : ∀ e ∈ s.streams, e.2.part ≠ pword p 0) :
    destroyPart p s = .done ({ s with parts := del s.parts (pword p 0) }.setRing (pword p 0) Ring.zero) := by
  have hq : s.queues.any (fun e => e.1 ≠ 0 && e.2.en && e.2.part = pword p 0) = false :=
    List.any_eq_false.mpr fun e he => by rcases hq e he with h | h | h <;> simp [h]
  have hc : s.ctxs.any (fun e => e.2.part = pword p 0) = false := List.any_eq_false.mpr fun e he => by simpa using hc e he
  have ht : s.streams.any (fun e => e.2.part = pword p 0) = false := List.any_eq_false.mpr fun e he => by simpa using ht e he
  simp only [destroyPart, hx, hq, hc, ht, hr, Option.any_some]
  rfl

theorem createQueue_done (he : (s.queue (pword p 0 % 256)).en = false) (hn : look s.parts (pword p 0 / 256) ≠ none)
    (hb : hostSpan s (pword p 1) (pword p 2) = true) (ht : pword p 3 = 0 ∨ hostSpan s (pword p 3) 8 = true) :
    createQueue p s = .done (s.setQueue (pword p 0 % 256) { Queue.zero with
      base := BitVec.ofNat 64 (pword p 1), size := BitVec.ofNat 32 (pword p 2), en := true, part := pword p 0 / 256,
      tlmir := BitVec.ofNat 64 (pword p 3) }) := by
  have hn : (look s.parts (pword p 0 / 256)).isNone = false := by simpa [← Option.isSome_iff_ne_none] using hn
  have ht : (pword p 3 ≠ 0 && !hostSpan s (pword p 3) 8) = false := by rcases ht with h | h <;> simp [h]
  simp only [createQueue, he, hn, hb, ht]
  rfl

/-- A queue that is open and that nothing destroys can be destroyed. -/
theorem destroyQueue_open (h0 : pword p 0 ≠ 0) (he : (s.queue (pword p 0)).en = true) (hc : (s.queue (pword p 0)).closing = none) :
    destroyQueue p s = if (s.queue (pword p 0)).head.isNone && (s.queue (pword p 0)).flights = [] then .done (s.setQueue (pword p 0) Queue.zero)
      else .later (s.setQueue (pword p 0) { s.queue (pword p 0) with closing := some (s.queue p.queue).next }) := by
  simp [destroyQueue, h0, he, hc, pid]

theorem linkBlocked_open {pa n : Nat} (hl : linkHeld s pa n = false) (hw : s.heldWrites = []) : linkBlocked s pa n = false := by
  simp [linkBlocked, hl, hw]

theorem summaryPacket_done (hh : hostSpan s (pword p 0) 12416 = true) (hb : linkBlocked s (pword p 0) 12416 = false) :
    summaryPacket p s = .done (writeSummary s (pword p 0)) := by
  simp [summaryPacket, hh, hb]

theorem readN_length (m : Bytes) (a n : Nat) : (Mem.readN m a n).length = n := by simp [Mem.readN]

theorem bits_top (x : Word) : bits x.toNat 31 31 = x.toNat / 2 ^ 31 := by
  have := x.isLt
  simp only [bits]
  omega

theorem bit_getLsbD {n : Nat} (x : BitVec n) (i : Nat) : bit x.toNat i = x.getLsbD i := by
  simp only [bit, BitVec.getLsbD, Nat.testBit_eq_decide_div_mod_eq]

/-- The check of an image, as R439 gives it. -/
theorem imgVerifies_of {m : Bytes} {a n : Nat} (hn : 256 ≤ n)
    (hv : Config.ecdsaVerifies Config.waimusKey
      (Config.sha384 ((Mem.readN m a n).take 160 ++ List.replicate 96 0 ++ (Mem.readN m a n).drop 256))
      (((Mem.readN m a n).drop 160).take 48) (((Mem.readN m a n).drop 208).take 48) = true) : imgVerifies (Mem.readN m a n) = true := by
  simp only [imgVerifies, readN_length, hn, hv, decide_true, Bool.and_self]

theorem fwUpdate_done (hl : linkHeld s (pword p 0) (pword p 1) = false) (hn : 256 ≤ pword p 1)
    (hh : hostSpan s (pword p 0) (pword p 1) = true) (hv : imgVerifies (Mem.readN s.mem (pword p 0) (pword p 1)) = true)
    (hm : s.host.minSvn ≤ imgSvn (Mem.readN s.mem (pword p 0) (pword p 1)))
    (hf : imgField (Mem.readN s.mem (pword p 0) (pword p 1)) 12 2 ≤ bits s.host.fwstat.toNat 15 0) :
    fwUpdate p s =
      let img := Mem.readN s.mem (pword p 0) (pword p 1)
      .done (fwEvent { s with host := { s.host with
        fwstat := fwWord (1 - bits s.host.fwstat.toNat 31 31) 1 2 0 (imgSvn img) (imgStv img)
        fwver := BitVec.ofNat 32 (imgVersion img)
        digests := (Config.sha384 img, Config.sha384 img, s.host.digests.2.2) } } 1 (imgVersion img)) := by
  have h1 : (pword p 1 ≠ 0 && hostSpan s (pword p 0) (pword p 1)) = true := by
    have : pword p 1 ≠ 0 := by omega
    simp [hh, this]
  simp only [fwUpdate, hl, h1, hv, if_true, Nat.not_lt.mpr hm, Nat.not_lt.mpr hf]
  rfl

/-- The host block holds no queue. -/
theorem queue_of_host (s : State) (b : HostBlock) (q : Nat) : ({ s with host := b } : State).queue q = s.queue q := rfl

theorem attestPacket_done (hh : hostSpan s (pword p 6) 400 = true) (hl : linkHeld s (pword p 6) 400 = false) :
    attestPacket p s =
      let told := (p.body.take 6).flatMap (fun x => toBytes 8 x.toNat) ++ toBytes 8 s.now ++ toBytes 8 0 ++ toBytes 48 s.host.digests.1.toNat ++
        toBytes 48 (if bit s.host.fwstat.toNat 30 then s.host.digests.2.1.toNat else 0) ++ toBytes 48 s.host.digests.2.2.toNat ++
        fixLen 96 Config.identityKey
      .done (s.poke (pword p 6) (told ++ fixLen 96 (Config.ecdsaSign (toBytes 48 (Config.sha384 told).toNat)))) := by
  simp only [attestPacket, hh, hl]
  rfl

/-- An event that is posted leaves every queue. -/
theorem postEvent_queue (s : State) (n evt : Nat) (body : List Byte) (q : Nat) : (postEvent s n evt body).queue q = s.queue q := by
  have room (b : List Byte) : (giveRoom s n evt b).queue q = s.queue q := by
    unfold giveRoom writeEvent
    split
    · simp only
      split <;> rfl
    · rfl
  simp only [postEvent]
  (repeat' split)
  · exact room body
  · rfl
  · rfl

end

end Sys2Proof.Machine

/-! ### PART.RESIZE (R437) -/

namespace Sys2Proof.Machine

/-- A fold of what leaves a part of the state leaves it. -/
theorem foldl_keeps {α β : Type} {f : State → α → State} (g : State → β) (h : ∀ s x, g (f s x) = g s) (l : List α) (s : State) :
    g (l.foldl f s) = g s := by
  induction l generalizing s with
  | nil => rfl
  | cons x l ih => rw [List.foldl_cons, ih, h]

/-- A resize of a partition is under way. -/
def State.resizing (s : State) (part : Nat) (x : Partition) (r : Resize) : State :=
  { s with parts := set s.parts part { x with resize := some r } }

theorem look_resizing (s : State) (part : Nat) (x : Partition) (r : Resize) :
    look (s.resizing part x r).parts part = some { x with resize := some r } := look_set_same ..

theorem resizeOf_word (p : Packet) (s : State) (n : Nat) : (resizeOf p s).word n = pword p n := rfl

theorem resizeOf_reaches (p : Packet) (s : State) : (resizeOf p s).reaches = reachMask (pword p 1) (pword p 2) := by
  simp only [Resize.reaches, reachMask, resizeOf_word]

/-- What a resize makes of a partition's words, and what it leaves (R437). -/
theorem resized_words (x : Partition) (s : State) (r : Resize) :
    (x.resized s r).resize = none ∧ (x.resized s r).ways = BitVec.ofNat 64 (r.word 3) ∧
      (x.resized s r).vshare = BitVec.ofNat 64 (r.word 4) ∧ (x.resized s r).enc = x.enc ∧ (x.resized s r).streams = x.streams := by
  refine ⟨rfl, rfl, rfl, ?_, ?_⟩
  · unfold Partition.resized
    rfl
  · unfold Partition.resized
    rfl

theorem dieUp_setQueue (s : State) (q : Nat) (x : Queue) (d : Nat) : (s.setQueue q x).dieUp d = s.dieUp d := rfl

theorem dieUp_resizing (s : State) (part : Nat) (x : Partition) (r : Resize) (d : Nat) : (s.resizing part x r).dieUp d = s.dieUp d := rfl

theorem resizing_queue (s : State) (part : Nat) (x : Partition) (r : Resize) (q : Nat) : (s.resizing part x r).queue q = s.queue q := rfl

/-- A packet that completes: it is the last of its queue's packets taken up, and done. -/
theorem issues_completePacket (s : State) (p : Packet) : ∃ f,
    (((s.issues p false).completePacket (p.queue, (s.queue p.queue).next)).queue p.queue).flights.getLast? = some f ∧
      f.num = (s.queue p.queue).next ∧ f.done = true := by
  simp only [State.completePacket, State.issues, setQueue_queue, List.map_append, List.map_cons, List.map_nil, List.getLast?_concat, if_true]
  exact ⟨_, rfl, rfl, rfl⟩

/-- A save is requested of each context of a list. -/
def requests (s : State) (l : List (Nat × Context)) : State := l.foldl (fun s e => requestSave s e.1) s

@[simp] theorem requests_parts (s : State) (l : List (Nat × Context)) : (requests s l).parts = s.parts :=
  foldl_keeps (f := fun s (e : Nat × Context) => requestSave s e.1) State.parts (fun _ _ => rfl) l s

@[simp] theorem requests_queue (s : State) (l : List (Nat × Context)) (q : Nat) : (requests s l).queue q = s.queue q :=
  foldl_keeps (f := fun s (e : Nat × Context) => requestSave s e.1) (fun s => s.queue q) (fun _ _ => rfl) l s

theorem requests_ctxs (s : State) (l : List (Nat × Context)) : (requests s l).ctxs =
    s.ctxs.map (fun e => if e.1 ∈ l.map Prod.fst then (e.1, { e.2 with st := .preempting s.now }) else e) := by
  induction l generalizing s with
  | nil => simp [requests]
  | cons x l ih =>
    have hx : (requestSave s x.1).ctxs = s.ctxs.map (fun e => if e.1 = x.1 then (e.1, { e.2 with st := .preempting s.now }) else e) := rfl
    have hn : (requestSave s x.1).now = s.now := rfl
    have hc : requests s (x :: l) = requests (requestSave s x.1) l := rfl
    rw [hc, ih, hx, hn, List.map_map]
    refine List.map_congr_left fun e _ => ?_
    by_cases h1 : e.1 = x.1 <;> by_cases h2 : e.1 ∈ l.map Prod.fst <;> simp_all [Function.comp]

/-- The live contexts of a partition. -/
def liveOf (s : State) (part : Nat) : List (Nat × Context) := s.ctxs.filter (fun e => e.2.part = part && e.2.st = .live)

/-- After the requests no context of the partition is live. -/
theorem requests_not_live (s : State) (part : Nat) : ∀ e ∈ (requests s (liveOf s part)).ctxs, e.2.part = part → e.2.st ≠ .live := by
  intro e he hp hl
  rw [requests_ctxs, List.mem_map] at he
  obtain ⟨x, hx, rfl⟩ := he
  split at hl
  · cases hl
  · next hn =>
    rw [if_neg hn] at hp
    exact hn (List.mem_map_of_mem (List.mem_filter.mpr ⟨hx, by simp [hp, hl]⟩))

/-- After the requests a context of the partition that was live is to be saved. -/
theorem requests_preempts {s : State} {part : Nat} {c : Nat × Context} (hc : c ∈ s.ctxs) (hp : c.2.part = part) (hl : c.2.st = .live) :
    ∃ e ∈ (requests s (liveOf s part)).ctxs, e.2.part = part ∧ e.2.st = .preempting s.now := by
  refine ⟨(c.1, { c.2 with st := .preempting s.now }), ?_, hp, rfl⟩
  rw [requests_ctxs]
  refine List.mem_map.mpr ⟨c, hc, if_pos (List.mem_map_of_mem (List.mem_filter.mpr ⟨hc, by simp [hp, hl]⟩))⟩

/-- A resize stays under way while a context of its partition is to be saved. -/
theorem finishResize_waits {s : State} {part : Nat} {x : Partition} {r : Resize} {e : Nat × Context} {since : Nat}
    (hx : look s.parts part = some x) (hr : x.resize = some r) (he : e ∈ s.ctxs) (hp : e.2.part = part) (hs : e.2.st = .preempting since) :
    finishResize s part = s := by
  simp only [finishResize, hx, hr, Option.bind_some, Option.map_some]
  refine if_pos (List.any_eq_true.mpr ⟨e, List.mem_filter.mpr ⟨he, by simp [hp]⟩, ?_⟩)
  rw [hs]

/-- A resize of a partition with no context ends at once: the partition is resized, and the packet completes. -/
theorem finishResize_alone {s : State} {part : Nat} {x : Partition} {r : Resize} (hx : look s.parts part = some x) (hr : x.resize = some r)
    (hc : ∀ e ∈ s.ctxs, e.2.part ≠ part) :
    look (finishResize s part).parts part = some (x.resized s r) ∧
      (finishResize s part).queue = (s.completePacket r.packet).queue := by
  have hm : s.ctxs.filter (fun e => e.2.part = part) = [] := List.filter_eq_nil_iff.mpr fun e he => by simpa using hc e he
  simp only [finishResize, hx, hr, hm, Option.bind_some, Option.map_some]
  exact ⟨look_set_same .., rfl⟩

section
variable {p : Packet} {s : State} {x : Partition}

/-- A resize that nothing refuses asks every live context of its partition to stop. -/
theorem resizePart_later (hx : look s.parts (pword p 0) = some x) (hr : x.resize = none)
    (hm : resizeMeets s (pword p 0) (reachMask (pword p 1) (pword p 2)) = false)
    (hk : maskRefusal s (pword p 0) (reachMask (pword p 1) (pword p 2)) = none)
    (hc : ∀ e ∈ resizeMaps p s, partOf s e.1 = pword p 0 ∧ look s.ctxs e.1 ≠ none)
    (hf : mapsRefused s (pword p 0) x.reaches (resizeOf p s) = false) (ho : sharesOver s (pword p 0) (pword p 4) = false)
    (hu : ∀ d, d < 4 → shareUsed s (pword p 0) d ≤ 65536 * shareIn (pword p 4) d)
    (hl : millraceLost s (pword p 0) x.vaults (reachMask (pword p 6) (pword p 7) ||| reachMask (pword p 1) (pword p 2)) = false) :
    resizePart p s = .later (requests (s.resizing (pword p 0) x (resizeOf p s)) (liveOf s (pword p 0))) := by
  have hc : (resizeMaps p s).any (fun e => partOf s e.1 ≠ pword p 0 || (look s.ctxs e.1).isNone) = false :=
    List.any_eq_false.mpr fun e he => by
      obtain ⟨h1, h2⟩ := hc e he
      simpa [h1] using h2
  have hu : (List.range 4).any (fun d => decide (65536 * shareIn (pword p 4) d < shareUsed s (pword p 0) d)) = false :=
    List.any_eq_false.mpr fun d hd => by simpa using hu d (List.mem_range.mp hd)
  simp only [resizePart, hx, hr, hm, hk, hc, hf, ho, hu, hl]
  rfl

end

/-- The sum of 32 ones for each die of a set has its ones at the reaches of those dies. -/
theorem testBit_dies (b : Nat → Bool) {v : Nat} (hv : v < 128) :
    (sumNat ((List.range 4).map (fun d => if b d then (2 ^ 32 - 1) * 2 ^ (32 * d) else 0))).testBit v = b (v / 32) := by
  have ones (d i : Nat) (hi : i < 32) : (if b d then 2 ^ 32 - 1 else 0 : Nat).testBit i = b d := by
    cases b d
    · simp
    · simpa only [if_true, Nat.testBit_two_pow_sub_one, decide_eq_true_eq] using hi
  have low (d : Nat) : (if b d then 2 ^ 32 - 1 else 0 : Nat) < 2 ^ 32 := by split <;> omega
  have hs : sumNat ((List.range 4).map (fun d => if b d then (2 ^ 32 - 1) * 2 ^ (32 * d) else 0)) =
      2 ^ 32 * (2 ^ 32 * (2 ^ 32 * (if b 3 then 2 ^ 32 - 1 else 0) + (if b 2 then 2 ^ 32 - 1 else 0)) + (if b 1 then 2 ^ 32 - 1 else 0)) +
        (if b 0 then 2 ^ 32 - 1 else 0) := by
    simp only [sumNat, List.range, List.range.loop, List.map, List.foldl]
    split_ifs <;> rfl
  rw [hs, Nat.testBit_two_pow_mul_add _ (low 0)]
  split
  · rw [ones 0 v ‹_›, show v / 32 = 0 by omega]
  rw [Nat.testBit_two_pow_mul_add _ (low 1)]
  split
  · rw [ones 1 _ ‹_›, show v / 32 = 1 by omega]
  rw [Nat.testBit_two_pow_mul_add _ (low 2)]
  split
  · rw [ones 2 _ ‹_›, show v / 32 = 2 by omega]
  · rw [ones 3 _ (by omega), show v / 32 = 3 by omega]

theorem resized_reaches (x : Partition) (s : State) (r : Resize) {v : Nat} (hv : v < 128) :
    (x.resized s r).reaches.getLsbD v = (r.reaches.getLsbD v && s.dieUp (v / 32)) := by
  simp only [Partition.resized, BitVec.getLsbD_and, BitVec.getLsbD_ofNat, testBit_dies s.dieUp hv, hv, decide_true, Bool.true_and]

theorem resized_vaults (x : Partition) (s : State) (r : Resize) {v : Nat} (hv : v < 128) :
    (x.resized s r).vaults.getLsbD v = ((reachMask (r.word 6) (r.word 7) ||| r.reaches).getLsbD v && s.dieUp (v / 32)) := by
  simp only [Partition.resized, BitVec.getLsbD_and, BitVec.getLsbD_ofNat, testBit_dies s.dieUp hv, hv, decide_true, Bool.true_and, reachMask]

/-- Reaches that a mask check lets through are of dies that are up. -/
theorem dieUp_of_maskRefusal {s : State} {part : Nat} {m : BitVec 128} (h : maskRefusal s part m = none) {v : Nat} (hv : v < 128)
    (hm : m.getLsbD v = true) : s.dieUp (v / 32) = true := by
  simp only [maskRefusal] at h
  split at h
  · cases h
  split at h
  · cases h
  next h2 =>
  simp only [Bool.or_eq_true, not_or, Bool.not_eq_true, List.any_eq_false] at h2
  simpa using h2.1 (v / 32) (List.mem_map.mpr ⟨v, List.mem_filter.mpr ⟨List.mem_range.mpr hv, hm⟩, rfl⟩)

/-- A resize to reaches of dies that are up takes them all. -/
theorem resized_reaches_all {s : State} (x : Partition) {r : Resize}
    (h : ∀ v, v < 128 → r.reaches.getLsbD v = true → s.dieUp (v / 32) = true) : (x.resized s r).reaches = r.reaches := by
  refine BitVec.eq_of_getLsbD_eq fun v hv => ?_
  rw [resized_reaches x s r hv]
  cases hm : r.reaches.getLsbD v with
  | false => rfl
  | true => rw [h v hv hm, Bool.true_and]

/-- Without a map of its own and without a context, a resize's maps stand against nothing. -/
theorem mapsRefused_alone {s : State} {part : Nat} {old : BitVec 128} {r : Resize} (hr : r.maps = []) (hc : ∀ e ∈ s.ctxs, e.2.part ≠ part) :
    mapsRefused s part old r = false := by
  have h1 : (writeMaps s part old r).ctxs = s.ctxs := by
    refine (List.map_congr_left fun e he => ?_).trans (List.map_id _)
    rw [if_pos (hc e he), id]
  have h2 : s.ctxs.any (fun e => e.2.part = part && standBad (writeMaps s part old r) e.1 e.2.map) = false :=
    List.any_eq_false.mpr fun e he => by simp [hc e he]
  simp only [mapsRefused, hr, h1, h2, List.any_nil, Bool.or_false]

section
variable {p : Packet} {s : State} {x : Partition}

/-- PART.RESIZE with a context to save: the packet has issued, and is under way. -/
theorem partResize_saves {c : Nat × Context} (h : Admits 0x03 p s)
    (hd : resizePart p s = .later (requests (s.resizing (pword p 0) x (resizeOf p s)) (liveOf s (pword p 0))))
    (hc : c ∈ s.ctxs) (hp : c.2.part = pword p 0) (hl : c.2.st = .live) :
    ∃ t, exec (.partResize p) s = .next t ∧ look t.parts (pword p 0) = some { x with resize := some (resizeOf p s) } ∧
      (∀ e ∈ t.ctxs, e.2.part = pword p 0 → e.2.st ≠ .live) ∧ t.queue p.queue = (s.issues p false).queue p.queue := by
  have hq : (requests (s.resizing (pword p 0) x (resizeOf p s)) (liveOf s (pword p 0))).queue p.queue = s.queue p.queue := requests_queue ..
  have hrun := runPacket_later h hd (by rw [hq]; exact h.stays)
  have hlook : look (requests (s.resizing (pword p 0) x (resizeOf p s)) (liveOf s (pword p 0))).parts (pword p 0) =
      some { x with resize := some (resizeOf p s) } := by
    rw [requests_parts]
    exact look_resizing ..
  obtain ⟨e, he, hep, hes⟩ := requests_preempts (s := s.resizing (pword p 0) x (resizeOf p s)) hc hp hl
  refine ⟨_, rfl, ?_⟩
  rw [hrun, finishResize_waits (s := State.issues _ p false) hlook rfl he hep hes]
  refine ⟨hlook, requests_not_live (s.resizing (pword p 0) x (resizeOf p s)) (pword p 0), ?_⟩
  simp only [State.issues, setQueue_queue, hq]

/-- PART.RESIZE of a partition with no context is done with its issue. -/
theorem partResize_alone (h : Admits 0x03 p s) (hx : look s.parts (pword p 0) = some x) (hr : x.resize = none)
    (hm : resizeMeets s (pword p 0) (reachMask (pword p 1) (pword p 2)) = false)
    (hk : maskRefusal s (pword p 0) (reachMask (pword p 1) (pword p 2)) = none) (h5 : pword p 5 = 0)
    (ho : sharesOver s (pword p 0) (pword p 4) = false)
    (hu : ∀ d, d < 4 → shareUsed s (pword p 0) d ≤ 65536 * shareIn (pword p 4) d)
    (hl : millraceLost s (pword p 0) x.vaults (reachMask (pword p 6) (pword p 7) ||| reachMask (pword p 1) (pword p 2)) = false)
    (hc : ∀ e ∈ s.ctxs, e.2.part ≠ pword p 0) :
    ∃ t y, exec (.partResize p) s = .next t ∧ look t.parts (pword p 0) = some y ∧ y.resize = none ∧
      y.reaches = reachMask (pword p 1) (pword p 2) ∧ y.ways = BitVec.ofNat 64 (pword p 3) ∧ y.vshare = BitVec.ofNat 64 (pword p 4) ∧
      y.enc = x.enc ∧ y.streams = x.streams ∧
      (∀ v, v < 128 → s.dieUp (v / 32) = true →
        y.vaults.getLsbD v = (reachMask (pword p 6) (pword p 7) ||| reachMask (pword p 1) (pword p 2)).getLsbD v) ∧
      ∃ f, (t.queue p.queue).flights.getLast? = some f ∧ f.num = (s.queue p.queue).next ∧ f.done = true := by
  have hmaps : resizeMaps p s = [] := by
    have hw : (resizeOf p s).word 5 = 0 := h5
    simp [resizeMaps, Resize.maps, hw]
  have hlive : liveOf s (pword p 0) = [] := List.filter_eq_nil_iff.mpr fun e he => by simp [hc e he]
  have hd := resizePart_later hx hr hm hk (by simp [hmaps]) (mapsRefused_alone hmaps hc) ho hu hl
  rw [hlive] at hd
  have hrun : runPacket p resizePart s = (s.resizing (pword p 0) x (resizeOf p s)).issues p false := runPacket_later h hd h.stays
  obtain ⟨hparts, hqueue⟩ := finishResize_alone (s := (s.resizing (pword p 0) x (resizeOf p s)).issues p false)
    (look_resizing s (pword p 0) x (resizeOf p s)) rfl hc
  rw [← hrun] at hparts hqueue
  have hup (d : Nat) : (runPacket p resizePart s).dieUp d = s.dieUp d := by rw [hrun, State.issues, dieUp_setQueue, dieUp_resizing]
  obtain ⟨h1, h2, h3, h4, h6⟩ := resized_words { x with resize := some (resizeOf p s) } (runPacket p resizePart s) (resizeOf p s)
  refine ⟨_, _, rfl, hparts, h1, ?_, h2, h3, h4, h6, fun v hv hd => ?_, ?_⟩
  · rw [← resizeOf_reaches p s] at hk ⊢
    exact resized_reaches_all _ fun v hv hm => (hup _).trans (dieUp_of_maskRefusal hk hv hm)
  · rw [resized_vaults _ _ _ hv, hup, hd, Bool.and_true, resizeOf_reaches, resizeOf_word, resizeOf_word]
  · have hq : (finishResize (runPacket p resizePart s) (pword p 0)).queue p.queue = _ := congrFun hqueue p.queue
    have hpid : (resizeOf p s).packet = (p.queue, ((s.resizing (pword p 0) x (resizeOf p s)).queue p.queue).next) := by
      rw [resizing_queue]; rfl
    rw [hq, hrun, hpid]
    exact issues_completePacket (s.resizing (pword p 0) x (resizeOf p s)) p

end

end Sys2Proof.Machine

namespace Sys2Proof.Proofs
open Sys2Proof Sys2Proof.Machine

/-- Settles O44: each packet's effect, where none of its checks refuses it and nothing makes it wait, is the one that its issue leaves; a
resize stays under way while a context of its partition is to be saved, and ends with its issue where there is none. -/
theorem administrativePacketsTakeEffect : Obligations.AdministrativePacketsTakeEffect := by
  unfold Obligations.AdministrativePacketsTakeEffect
  intro w mask
  have hw : w = pword := rfl
  have hmask : mask = reachMask := rfl
  clear_value w mask
  subst hw hmask
  refine ⟨?_, ?_, ?_, ?_, ?_, ?_, ?_, ?_, ?_, ?_, ?_⟩
  · refine issued_done (fn := createPart) (fun _ _ => rfl) fun p s _ h => ?_
    obtain ⟨hm, hn, hr, hs, hh⟩ := h
    exact ⟨createPart_done hm hn hr hs hh, rfl⟩
  · refine issued_done (fn := destroyPart) (fun _ _ => rfl) fun p s _ h => ?_
    obtain ⟨⟨x, hx, hr⟩, hq, hc, ht⟩ := h
    exact ⟨destroyPart_done hx hr hq hc ht, rfl⟩
  · intro p s x c h hx hr hm hk hmaps hf ho hu hl hc hp hlive
    exact partResize_saves h (resizePart_later hx hr hm hk hmaps hf ho hu hl) hc hp hlive
  · intro p s x h hx hr hm hk h5 ho hu hl hc
    exact partResize_alone h hx hr hm hk h5 ho hu hl hc
  · refine issued_done (fn := createQueue) (fun _ _ => rfl) fun p s _ h => ?_
    obtain ⟨hq, he, hn, hb, ht⟩ := h
    exact ⟨createQueue_done he hn hb ht, setQueue_other _ _ hq.symm⟩
  · refine issued_done (fn := destroyQueue) (fun _ _ => rfl) fun p s _ h => ?_
    obtain ⟨h0, hq, he, hc, hh, hf⟩ := h
    exact ⟨by simp [destroyQueue_open h0 he hc, hh, hf], setQueue_other _ _ hq.symm⟩
  · refine issued_later (fn := destroyQueue) (fun _ _ => rfl) fun p s _ h => ?_
    obtain ⟨h0, hq, he, hc, hh⟩ := h
    have hn : ¬ ((s.queue (pword p 0)).head.isNone && (s.queue (pword p 0)).flights = []) = true := by
      rcases hh with h | h <;> simp [h]
    exact ⟨by rw [destroyQueue_open h0 he hc, if_neg hn], setQueue_other _ _ hq.symm⟩
  · refine issued_done (fn := summaryPacket) (fun _ _ => rfl) fun p s _ h => ?_
    obtain ⟨hh, hl, hw⟩ := h
    exact ⟨summaryPacket_done hh (linkBlocked_open hl hw), rfl⟩
  · refine issued_done (fn := fwUpdate) (fun _ _ => rfl) fun p s _ h => ?_
    obtain ⟨hl, hn, hh, hv, hm, hf⟩ := h
    rw [← bits_low _ 15] at hf
    refine ⟨?_, (postEvent_queue ..).trans (queue_of_host ..)⟩
    rw [fwUpdate_done hl hn hh (imgVerifies_of hn hv) hm hf, bits_top]
    rfl
  · refine issued_done (fn := attestPacket) (fun _ _ => rfl) fun p s _ h => ?_
    obtain ⟨hh, hl⟩ := h
    refine ⟨?_, rfl⟩
    rw [attestPacket_done hh hl, bit_getLsbD]
  · exact issued_done (fn := nopPacket) (fun _ _ => rfl) fun p s _ _ => ⟨rfl, rfl⟩

end Sys2Proof.Proofs

/-! ### SFILL, SFAIL, SEVICT and SQRY (O15) -/

namespace Sys2Proof.Machine

/-- In a team that fills no block, SFILL and SFAIL fail check 2 (R65). -/
theorem unitFails_of_filled {r : CRow} {w : CWord} {s : State} {c : Ctx} (h : Attempts r w s c) (hr : r.op = 0x1C0 ∨ r.op = 0x1C1)
    (hg : ∀ g, c.t.gen = some g → g.filled = true) : c.unitFails = true := by
  have hf : c.t.filling = false := by
    unfold Team.filling
    cases hgen : c.t.gen with
    | none => rfl
    | some g => simp [hg g hgen]
  rcases hr with hr | hr <;> simp [Ctx.unitFails, h.opcode, hr, hf]

/-- What SFILL's wait asks of its team: no other lane, no lane in a bin and no command (R240). -/
theorem sfill_alone {c : Ctx} (hm : ∀ m ∈ c.t.members, m.id ≠ c.m.id → m.lanes = []) (hb : c.t.bins = []) (hk : ∀ k ∈ c.s.cmds, k.team ≠ c.tk) :
    (c.t.members.any (fun m => m.id != c.m.id && m.lanes != []) || c.t.bins != [] || c.s.cmds.any (fun k => k.team = c.tk)) = false := by
  have h1 : c.t.members.any (fun m => m.id != c.m.id && m.lanes != []) = false := List.any_eq_false.mpr fun m h => by
    by_cases hi : m.id = c.m.id
    · simp [hi]
    · simp [hm m h hi]
  have h2 : c.s.cmds.any (fun k => k.team = c.tk) = false := List.any_eq_false.mpr fun k h => by simp [hk k h]
  rw [h1, h2, hb]
  rfl

/-! ### SEVICT -/

section
variable {c : Ctx} {p : Spring}

/-- The way of an SEVICT to its block's home is open: no link, port or vault holds it, and no earlier miss is on it (R21, R228). -/
def Ctx.wayOpen (c : Ctx) (p : Spring) : Prop :=
  let pa := p.entryPa (p.blockOf (recVa c.recA (c.sc (fB c.w))))
  pathHeld c.s (dieOf c.t.seat.core) pa = false ∧ linkHeld c.s pa 32 = false ∧ ∀ y ∈ c.s.misses, afterMiss c.s c.t.seat.core (homeDie c.s pa) y = false

/-- The operands of an SEVICT pass its checks. -/
structure Ctx.Evicts (c : Ctx) : Prop where
  /-- The record is not flat. -/
  deep : recFlat c.recA = false
  /-- It grants spring accesses. -/
  spring : recS c.recA = true
  /-- It grants writes. -/
  write : recW c.recA = true
  /-- The offset lies in it. -/
  inside : c.sc (fB c.w) < recExtent c.recA

/-- An SEVICT outside every spring is done. -/
theorem entrySevict_outside (h : c.Evicts) (hs : springAt c.s c.t.ctx (recVa c.recA (c.sc (fB c.w))) = none) :
    entrySevict c = .done c.s Out.none := by
  simp [entrySevict, h.deep, h.spring, h.write, Nat.not_le.mpr h.inside, hs]

/-- An SEVICT in a spring waits for its way, and then acts by the block's state. -/
theorem entrySevict_inside (h : c.Evicts) (hs : springAt c.s c.t.ctx (recVa c.recA (c.sc (fB c.w))) = some p) :
    entrySevict c =
      let b := p.blockOf (recVa c.recA (c.sc (fB c.w)))
      let st := entState (c.s.fillEntry p b)
      if pathHeld c.s (dieOf c.t.seat.core) (p.entryPa b) || entryHeldAt c.s p b ||
          c.s.misses.any (afterMiss c.s c.t.seat.core (homeDie c.s (p.entryPa b))) then .wait c.s
      else if st = 2 then .done (beginEviction c.s p b ((taOf c.w).map (fun t => (c.tk, c.m.id, t)))) { Out.none with keepTag := true }
      else if st = 3 then .done (putEntry c.s p b 0) Out.none
      else .done c.s Out.none := by
  simp only [entrySevict, h.deep, h.spring, h.write, Nat.not_le.mpr h.inside, hs]
  rfl

/-- What holds the way of an SEVICT, as its entry tests it. -/
theorem wayOpen_iff : c.wayOpen p ↔
    (let b := p.blockOf (recVa c.recA (c.sc (fB c.w)))
     pathHeld c.s (dieOf c.t.seat.core) (p.entryPa b) || entryHeldAt c.s p b ||
       c.s.misses.any (afterMiss c.s c.t.seat.core (homeDie c.s (p.entryPa b)))) = false := by
  simp [Ctx.wayOpen, entryHeldAt, and_assoc]

/-- An SEVICT whose way is held waits with none of its effect. -/
theorem entrySevict_waits (h : c.Evicts) (hs : springAt c.s c.t.ctx (recVa c.recA (c.sc (fB c.w))) = some p) (hw : ¬ c.wayOpen p) :
    entrySevict c = .wait c.s := by
  rw [entrySevict_inside h hs]
  exact if_pos (Bool.eq_true_of_not_eq_false (mt wayOpen_iff.mpr hw))

/-- An SEVICT whose way is open acts by the block's state. -/
theorem entrySevict_acts (h : c.Evicts) (hs : springAt c.s c.t.ctx (recVa c.recA (c.sc (fB c.w))) = some p) (hw : c.wayOpen p) {st : Nat}
    (hst : entState (c.s.fillEntry p (p.blockOf (recVa c.recA (c.sc (fB c.w))))) = st) :
    entrySevict c = .done
      (if st = 2 then beginEviction c.s p (p.blockOf (recVa c.recA (c.sc (fB c.w)))) ((taOf c.w).map (fun t => (c.tk, c.m.id, t)))
       else if st = 3 then putEntry c.s p (p.blockOf (recVa c.recA (c.sc (fB c.w)))) 0 else c.s)
      (if st = 2 then { Out.none with keepTag := true } else Out.none) := by
  rw [entrySevict_inside h hs]
  refine (if_neg (by simpa using wayOpen_iff.mp hw)).trans ?_
  rw [hst]
  split
  · rfl
  · split <;> rfl

end

end Sys2Proof.Machine

namespace Sys2Proof.Proofs
open Sys2Proof Sys2Proof.Machine

/-- Settles O15: each word's entry is done, or waits, as the state of its block and the way to the block's home say. -/
theorem springWords : Obligations.SpringWords := by
  unfold Obligations.SpringWords
  intro reaches
  refine ⟨fun p g => ?_, ?_, ?_, ?_, fun p st => ?_, ?_, ?_, ?_⟩
  · refine completesIn_of (entry := entrySfill) (fun _ _ => rfl) fun w s c _ hp => ?_
    obtain ⟨hf, hn, hm, hb, hk, hc, h1, h2, h3, h4⟩ := hp
    simp only [entrySfill, hf, Nat.not_lt.mpr hn, sfill_alone hm hb hk, afterWriteBack, writeBackAll_clean c _ hc, h1, h2, h3, h4]
    rfl
  · exact trapsAtCheck2_of (entry := entrySfill) (fun _ _ => rfl) fun w s c h hg => unitFails_of_filled h (.inl (rowAt_op _)) hg
  · refine completesIn_of (entry := entrySfail) (fun _ _ => rfl) fun w s c _ hp => ?_
    obtain ⟨x, hx⟩ := Option.ne_none_iff_exists'.mp hp
    simp only [entrySfail, hx]
    rfl
  · exact trapsAtCheck2_of (entry := entrySfail) (fun _ _ => rfl) fun w s c h hg => unitFails_of_filled h (.inr (rowAt_op _)) hg
  · refine completesIn_of (entry := entrySevict) (fun _ _ => rfl) fun w s c _ hp => ?_
    obtain ⟨hd, hs, hw, hi, hat, hway, hst⟩ := hp
    exact entrySevict_acts ⟨hd, hs, hw, hi⟩ hat hway hst
  · intro p w s c h hd hs hw hi hat hway
    exact calud_wait (entry := entrySevict) h (entrySevict_waits ⟨hd, hs, hw, hi⟩ hat hway)
  · refine completesIn_of (entry := entrySevict) (fun _ _ => rfl) fun w s c _ hp => ?_
    obtain ⟨hd, hs, hw, hi, hat⟩ := hp
    exact entrySevict_outside ⟨hd, hs, hw, hi⟩ hat
  · refine completesIn_of (entry := entrySqry) (fun _ _ => rfl) fun w s c _ hp => ?_
    simp only [entrySqry, hp]
    rfl

end Sys2Proof.Proofs

/-! ### Slices (O51): the start of a frame where a stream's number stands twice

A state lists its streams by number and does not ask that a number stand once. The start of a frame changes every entry of its number, and
takes each entry's TF from the frame that the entry has in scan-out; the statement takes every entry's frame for one that the new frame
follows. -/

namespace Sys2Proof.Machine

/-- A stream of a frame period of one p-cycle, whose last frame and TF are given. -/
def periodOne (frame : Option Nat) (tf : Nat) : PStream :=
  { part := 0, desc := 1#1024 <<< 331 ||| 1#1024 <<< 580, tf := tf, frame := frame, latch := (0, 0), pose := { time := 0, q := [] },
    index := 0, listed := [], frames := [], last := none, sbwcnt := 0, sevcnt := 0, slastbw := 0, sbsput := 0, sbsget := 0, sbsdrop := 0,
    sbadidx := 0, pipes := [], key := false, dropping := none, encoded := [], closing := none }

/-- A state in which number 0 stands twice: a stream before its first frame, and one that has frame 1 in scan-out. -/
def twoStreams : State := { State.reset with streams := [(0, periodOne none 0), (0, periodOne (some 1) 1)] }

/-- TF of the second entry after a step. -/
def secondTf (o : Host.Outcome State Fault Refusal) : Option Nat :=
  match o with
  | .next s => s.streams[1]?.map (fun e => e.2.tf)
  | _ => none

/-- The start of frame 0 takes a period off the TF of the entry that has frame 1 in scan-out. -/
theorem secondTf_frameStart : secondTf (exec (.frameStart 0) twoStreams) = some 0 := by decide +kernel

end Sys2Proof.Machine

namespace Sys2Proof.Proofs
open Sys2Proof Sys2Proof.Machine

/-- Refutes O51: where a stream's number stands twice, the start of a frame gives the second entry another TF than the statement's. -/
theorem not_slicesAreLatchedLaunchedAndEnded : ¬ Obligations.SlicesAreLatchedLaunchedAndEnded := by
  rintro ⟨hstart, -⟩
  have h := congrArg secondTf (hstart 0 (periodOne none 0) twoStreams 0 rfl rfl rfl (by decide +kernel))
  rw [secondTf_frameStart] at h
  exact absurd h (by decide +kernel)

end Sys2Proof.Proofs

/-! ### RAY, BEAM and screen writes (O20) -/

namespace Sys2Proof.Machine

/-! ### RAY -/

/-- What a RAY asks of memory for the lines of its lanes' paths. -/
def Ctx.rayAsk (c : Ctx) (ls : List LaneReq) : MemAsk := { r := c.recA, kind := 0, need := .read, requester := true, lanes := ls }

/-- The path of a lane's ray through the BVH, as the lane reads it. -/
def Ctx.rayPath (c : Ctx) (l : Nat) : Trav :=
  traverse (viewOf c.s c.t (wantOf c.t (c.rayAsk [])) c.recA (c.laneByte l)) (c.ray l)

/-- The reads of a RAY's lanes. -/
def Ctx.rayReads (c : Ctx) : List LaneReq := c.act.map (fun l => { lane := l, vas := (c.rayPath l).vas c.recA })

/-- The hit record of lane `e.1`, the `e.2`-th active lane: four free words where R301 states no result (log entry 13). -/
def Ctx.rayHit (c : Ctx) (e : Nat × Nat) : List Nat :=
  if rayOpen (c.ray e.1) (c.rayPath e.1).tris then (List.range 4).map (fun k => (Config.freeWord (c.s.free + 4 * e.2 + k)).toNat)
  else bestHit (c.ray e.1) (c.rayPath e.1).tris

/-- A RAY whose lanes all end their paths over a well formed BVH is done with a hit record in each lane. -/
theorem entryRay_done {c : Ctx} {s1 : State} {tr : List (Nat × Trans)} (hf : recFlat c.recA = false) (hx : 64 ≤ recExtent c.recA)
    (hr : recR c.recA = true) (hp : ∀ l ∈ c.act, (c.rayPath l).bad = none ∧ (c.rayPath l).stuck = false)
    (hm : Performs { c with s := c.s.freed (4 * c.act.length) } (c.rayAsk c.rayReads) s1 tr) :
    entryRay c = .done (c.sawLanes s1 tr c.rayReads)
      (Out.late (c.act.zipIdx.flatMap (fun e => (c.rayHit e).zipIdx.map (fun x => (Place.v e.1 (fD c.w + x.2), x.1))))) := by
  have hbad : (c.act.map (fun l => (l, c.rayPath l))).filter (fun e => e.2.bad.isSome) = [] := by
    simpa [List.filter_eq_nil_iff] using fun l hl => (hp l hl).1
  have hkept : (c.act.map (fun l => (l, c.rayPath l))).zipIdx.filter
      (fun e => c.rayReads.any (fun l => l.lane = e.1.1) && e.1.2.bad.isNone) = (c.act.map (fun l => (l, c.rayPath l))).zipIdx := by
    refine List.filter_eq_self.mpr fun e he => ?_
    obtain ⟨l, hl, hle⟩ := List.mem_map.mp (List.fst_mem_of_mem_zipIdx he)
    simp [← hle, (hp l hl).1, Ctx.rayReads, hl]
  have hrec : ¬ recExtent c.recA < 64 := Nat.not_lt.mpr hx
  unfold entryRay
  simp only [hf, hrec, permits, hr, Bool.false_eq_true, if_false, Bool.not_true]
  refine (if_neg fun h => h.1 (congrArg (fun t => maskOf (t.map (·.1))) hbad)).trans ?_
  simp only [List.length_map, List.map_map]
  refine (congrArg (withMalformed _ _) (memWord_done (a := c.rayAsk c.rayReads) hm _)).trans ?_
  refine congrArg (fun ws => Res.done (c.sawLanes s1 tr c.rayReads) (Out.late ws)) ?_
  refine (congrArg (List.flatMap _) hkept).trans ?_
  rw [List.zipIdx_map, List.flatMap_map]
  rfl

/-! ### BEAM -/

/-- A word none of whose checks names a cause goes on. -/
theorem checked_passes {c : Ctx} {l : List (Option Nat)} {k : Res} (h : ∀ x ∈ l, x = none) : checked c l k = k := by
  rw [checked, firstCause_none h]

/-- The width of a beam's rectangle. -/
def beamWidth (blk : List Word) : Nat := bits (bw blk 14) 5 0 + 1

/-- Its height. -/
def beamHeight (blk : List Word) : Nat := bits (bw blk 14) 13 8 + 1

/-- The ray of the `e`-th hit record of a beam. -/
def beamRayAt (blk : List Word) (e : Nat) : Ray := beamRay blk (e % beamWidth blk) (e / beamWidth blk)

/-- The access to memory of a beam's reads. -/
def beamWant (t : Team) (r : Rec) : Want :=
  { die := dieOf t.seat.core, core := none, ctx := t.ctx, need := .read, spring := recS r, requester := recS r }

/-- The path of that ray through the BVH. -/
def beamPath (s : State) (t : Team) (r : Rec) (blk : List Word) (e : Nat) : Trav :=
  traverse (viewOf s t (beamWant t r) r (Mem.read s.mem)) (beamRayAt blk e)

/-- What a beam reads: the lines of every path, each once. -/
def beamReads (s : State) (t : Team) (r : Rec) (blk : List Word) : List LaneReq :=
  [{ lane := 0, vas := ((List.range (beamWidth blk * beamHeight blk)).flatMap (fun e => (beamPath s t r blk e).vas r)).dedup }]

/-- The bytes of the hit records of a beam no ray of which leaves its record open. -/
def beamHits (s : State) (t : Team) (r : Rec) (blk : List Word) : List (Nat × Byte) :=
  (List.range (beamWidth blk * beamHeight blk)).flatMap (fun e =>
    ((bestHit (beamRayAt blk e) (beamPath s t r blk e).tris).flatMap (toBytes 4)).zipIdx.map (fun z => (16 * e + z.2, z.1)))

theorem zipIdx_range (n : Nat) : (List.range n).zipIdx = (List.range n).map (fun e => (e, e)) :=
  List.ext_getElem (by simp) (by simp)

section
variable {s s2 : State} {k : Command} {t : Team} {r : Rec} {blk : List Word} {dst : End} {x : List Byte}

/-- A command without a completion record leaves as it ends. -/
theorem endCmd_bare (s : State) (hk : k.ring = none) (st cause va n : Nat) :
    endCmd s k st cause va n = leaveCmd (uncount s k) k (if st = 0 then .complete else .error cause va) := by
  simp [endCmd, hk]

/-- A beam that reads a malformed BVH ends in ERROR with the address of the byte. -/
theorem runBeam_malformed (h : cmdReach s k false false r (beamReads s t r blk) (fun s _ _ => .ok s []) = .ok s2 x) {o : Nat}
    (hb : (List.range (beamWidth blk * beamHeight blk)).findSome? (fun e => (beamPath s t r blk e).bad) = some o) :
    runBeam s k t r blk dst = endCmd s2 k 1 0x05 (recVa r o) 0 := by
  unfold beamReads beamPath beamWant beamRayAt beamWidth beamHeight at h
  unfold beamPath beamWant beamRayAt beamWidth beamHeight at hb
  simp only [runBeam, List.flatMap_map, List.findSome?_map, Function.comp_def, h, hb]

/-- A beam over a well formed BVH, each of whose rays has a hit record, ends with these records written. -/
theorem runBeam_hits (h : cmdReach s k false false r (beamReads s t r blk) (fun s _ _ => .ok s []) = .ok s2 x)
    (hb : ∀ e, e < beamWidth blk * beamHeight blk →
      (beamPath s t r blk e).bad = none ∧ rayOpen (beamRayAt blk e) (beamPath s t r blk e).tris = false)
    {s3 : State} {y : List Byte} (hw : writeEnd (s2.freed (4 * (beamWidth blk * beamHeight blk))) k dst (beamHits s t r blk) = .ok s3 y) :
    runBeam s k t r blk dst = endCmd s3 k 0 0 0 (16 * beamWidth blk * beamHeight blk) := by
  have hn : (List.range (beamWidth blk * beamHeight blk)).findSome? (fun e => (beamPath s t r blk e).bad) = none :=
    List.findSome?_eq_none_iff.mpr fun e he => (hb e (List.mem_range.mp he)).1
  have hh : beamHits s t r blk = (List.range (beamWidth blk * beamHeight blk)).flatMap (fun e =>
      ((if rayOpen (beamRayAt blk e) (beamPath s t r blk e).tris then
        (List.range 4).map (fun j => (Config.freeWord (s2.free + 4 * e + j)).toNat)
        else bestHit (beamRayAt blk e) (beamPath s t r blk e).tris).flatMap (toBytes 4)).zipIdx.map (fun z => (16 * e + z.2, z.1))) :=
    List.flatMap_congr fun e he => by rw [(hb e (List.mem_range.mp he)).2]; rfl
  rw [hh] at hw
  unfold beamReads beamPath beamWant beamRayAt beamWidth beamHeight at h
  unfold beamPath beamWant beamRayAt beamWidth beamHeight at hn hw
  simp only [runBeam, List.flatMap_map, List.findSome?_map, Function.comp_def, h, hn, List.zipIdx_map, zipIdx_range, List.map_map,
    List.length_map, List.length_range, Prod.map_apply, id_eq, beamWidth, beamHeight,
    hw]

/-- The completion of a started beam whose team runs. -/
theorem execBeamCompletion_started {id : Nat} (hk : s.cmd id = some k) (hp : k.phase = .started) (hj : k.job = .beam r blk dst)
    (ht : look s.teams k.team = some t) (hr : runnable s k = true) :
    execBeamCompletion id s = .next (runBeam (s.updCmd id (fun k => { k with stop := .none })) k t r blk dst) := by
  simp only [execBeamCompletion, hk, hp, hj, ht, hr, if_true]

end

/-- The upper half of a word of a beam's block. -/
theorem bits_bw_upper (blk : List Word) (i : Nat) : bits (bw blk i) 31 16 = bw blk i / 2 ^ 16 := by
  have h : bw blk i < 2 ^ 32 := BitVec.isLt _
  simp only [bits]
  omega

/-! ### Screen writes -/

section
variable {s : State} {i : Nat} {x : Screen} {tk : Nat} {t : Team}

/-- A member of a team, after a change of teams that keeps their members. -/
theorem memberAt_updTeam (s : State) (k a b : Nat) (f : Team → Team) (hf : ∀ t, (f t).members = t.members) :
    (s.updTeam k f).memberAt a b = s.memberAt a b := by
  unfold State.memberAt
  by_cases ha : a = k
  · subst ha
    rw [updTeam_look]
    cases look s.teams a with
    | none => rfl
    | some t => simp [Team.member, hf]
  · rw [updTeam_other s f ha]

/-- A member after a change of it that keeps its name. -/
theorem memberAt_updMember (s : State) (k id : Nat) (f : Member → Member) (hf : ∀ m, (f m).id = m.id) :
    (s.updMember k id f).memberAt k id = (s.memberAt k id).map f := by
  have hid (ms : List Member) : (ms.map (fun m => if m.id = id then f m else m)).find? (fun m => m.id == id) =
      (ms.find? (fun m => m.id == id)).map f := by
    induction ms with
    | nil => rfl
    | cons m r ih => by_cases hm : m.id = id <;> simp [hm, hf, ih]
  unfold State.memberAt State.updMember
  rw [updTeam_look]
  cases look s.teams k with
  | none => rfl
  | some t => exact hid t.members

/-- Whether another screen write of the same word is still on its way. -/
def sameWord (s : State) (i : Nat) (x : Screen) : Prop := ∃ y ∈ s.screens.eraseIdx i, y.sender = x.sender ∧ y.mem = x.mem ∧ y.tag = x.tag

/-- A screen write that leaves is no longer on its way. -/
theorem leaveScreen_screens (s : State) (i : Nat) (x : Screen) : (leaveScreen s i x).screens = s.screens.eraseIdx i := by
  unfold leaveScreen
  dsimp only
  split <;> rfl

/-- The last of a word's screen writes releases the word's tag in its member, and no other changes a team. -/
theorem leaveScreen_teams (s : State) (i : Nat) (x : Screen) :
    sameWord s i x ∧ (leaveScreen s i x).teams = s.teams ∨
    ¬ sameWord s i x ∧
      (leaveScreen s i x).teams = (s.updMember x.sender x.mem (fun m => { m with tags := m.tags &&& ~~~ tagBit x.tag })).teams := by
  have h : (s.screens.eraseIdx i).any (fun y => y.sender = x.sender && y.mem = x.mem && y.tag == x.tag) = true ↔ sameWord s i x := by
    simp [sameWord, and_assoc]
  by_cases hw : sameWord s i x
  · exact .inl ⟨hw, by simp only [leaveScreen, h.mpr hw, if_true]⟩
  · exact .inr ⟨hw, by simp only [leaveScreen, mt h.mp hw]; rfl⟩

/-- A screen write that leaves changes neither the tile of a team nor the count of its dropped writes. -/
theorem leaveScreen_look (s : State) (i : Nat) (x : Screen) {k : Nat} (ht : look s.teams k = some t) :
    ∃ t', look (leaveScreen s i x).teams k = some t' ∧ t'.tdata = t.tdata ∧ t'.drop = t.drop := by
  obtain ⟨-, h⟩ | ⟨-, h⟩ := leaveScreen_teams s i x <;> rw [h]
  · exact ⟨t, ht, rfl, rfl⟩
  · unfold State.updMember
    by_cases hk : k = x.sender
    · subst hk
      exact ⟨_, (updTeam_look s x.sender _).trans (congrArg (Option.map _) ht), rfl, rfl⟩
    · exact ⟨t, by rw [updTeam_other s _ hk, ht], rfl, rfl⟩

/-- The tags of the issuing member as a screen write of its word leaves. -/
theorem leaveScreen_tags (i : Nat) {m : Member} (hm : s.memberAt x.sender x.mem = some m) :
    ∃ m', (leaveScreen s i x).memberAt x.sender x.mem = some m' ∧
      ((∀ y ∈ s.screens.eraseIdx i, ¬ (y.sender = x.sender ∧ y.mem = x.mem ∧ y.tag = x.tag)) → m'.tags = m.tags &&& ~~~ tagBit x.tag) ∧
      ((∃ y ∈ s.screens.eraseIdx i, y.sender = x.sender ∧ y.mem = x.mem ∧ y.tag = x.tag) → m'.tags = m.tags) := by
  obtain ⟨⟨y, hy, he⟩, h⟩ | ⟨hw, h⟩ := leaveScreen_teams s i x
  · exact ⟨m, by unfold State.memberAt at hm ⊢; rw [h, hm], fun h => absurd he (h y hy), fun _ => rfl⟩
  · refine ⟨{ m with tags := m.tags &&& ~~~ tagBit x.tag }, ?_, fun _ => rfl, fun h => absurd h hw⟩
    have hu := memberAt_updMember s x.sender x.mem (fun m => { m with tags := m.tags &&& ~~~ tagBit x.tag }) (fun _ => rfl)
    rw [hm] at hu
    unfold State.memberAt at hu ⊢
    rw [h, hu]
    rfl

/-- A dropped screen write is counted in its sender and changes no tile. -/
theorem dropScreen_look (x : Screen) {k : Nat} (ht : look s.teams k = some t) :
    ∃ t', look (dropScreen s x).teams k = some t' ∧ t'.tdata = t.tdata := by
  unfold dropScreen
  by_cases hk : k = x.sender
  · subst hk
    exact ⟨_, (updTeam_look s x.sender _).trans (congrArg (Option.map _) ht), rfl⟩
  · exact ⟨t, (updTeam_other s _ hk).trans ht, rfl⟩

theorem dropScreen_memberAt (s : State) (x : Screen) (a b : Nat) : (dropScreen s x).memberAt a b = s.memberAt a b :=
  memberAt_updTeam _ _ _ _ _ fun _ => rfl

/-- A write to a team's tile changes no member. -/
theorem memberAt_tdata (s : State) (k a b : Nat) (d : Bytes) :
    (s.updTeam k (fun t => { t with tdata := d })).memberAt a b = s.memberAt a b :=
  memberAt_updTeam _ _ _ _ _ fun _ => rfl

/-- A tile in the ordered mode that holds the pixel takes the write by the order of its key (R296). -/
theorem applyScreen_taken {g : Word} {hold : Nat} {d : Bytes} (ho : cfgOrd g = true) (hp : planeAt g x.x x.y (cfgP g) ≤ hold) :
    applyScreen x g hold d = some (putOrdered d g x.x x.y ((x.key.map (·.toNat)).getLastD 0) (x.key.map (·.toNat)).dropLast) := by
  simp [applyScreen, ho, hp]

/-- Any other tile does not take it. -/
theorem applyScreen_left {g : Word} {hold : Nat} {d : Bytes} (h : ¬ (cfgOrd g = true ∧ planeAt g x.x x.y (cfgP g) ≤ hold)) :
    applyScreen x g hold d = none := by
  simpa [applyScreen] using h

/-- A screen write to an unsaved owner is held by no retraining link and by no earlier write of its way (R20, R21). -/
theorem screenHeld_open (ho : ownerTeam s x = some (tk, t)) (hs : t.saved = false)
    (hl : dieOf t.seat.core ≠ x.die → (s.link x.die (dieOf t.seat.core)).retraining = false)
    (hf : ∀ y ∈ s.screens.take i, y.die = x.die → screenDest s y ≠ some (dieOf t.seat.core)) : screenHeld s i x = false := by
  have hd : screenDest s x = some (dieOf t.seat.core) := by simp [screenDest, ho, hs]
  have h1 : (dieOf t.seat.core != x.die && (s.link x.die (dieOf t.seat.core)).retraining) = false := by
    by_cases h : dieOf t.seat.core = x.die
    · simp [h]
    · simp [hl h]
  have h2 : (s.screens.take i).any (fun y => y.die = x.die && screenDest s y == some (dieOf t.seat.core)) = false :=
    List.any_eq_false.mpr fun y hy => by simpa using hf y hy
  simp only [screenHeld, hd, h1, h2, Bool.or_self]

/-- A screen write that its owner's tile takes. -/
theorem execScreen_applied {d : Bytes} (hx : s.screens[i]? = some x) (ho : ownerTeam s x = some (tk, t)) (hh : screenHeld s i x = false)
    (ha : applyScreen x t.tilecfg t.hold t.tdata = some d) :
    execScreenWriteDelivery i s = .next (leaveScreen (s.updTeam tk (fun t => { t with tdata := d })) i x) := by
  simp only [execScreenWriteDelivery, hx, ho, hh, ha, Bool.false_eq_true, if_false]

/-- A screen write that its owner's tile does not take. -/
theorem execScreen_dropped (hx : s.screens[i]? = some x) (ho : ownerTeam s x = some (tk, t)) (hh : screenHeld s i x = false)
    (ha : applyScreen x t.tilecfg t.hold t.tdata = none) : execScreenWriteDelivery i s = .next (leaveScreen (dropScreen s x) i x) := by
  simp only [execScreenWriteDelivery, hx, ho, hh, ha, Bool.false_eq_true, if_false]

end

end Sys2Proof.Machine

namespace Sys2Proof.Proofs
open Sys2Proof Sys2Proof.Machine

/-- RAY gives each lane its hit record. -/
theorem exec_ray_hits (s1 : State) (tr : List (Nat × Trans)) (w : CWord) (s : State) (c : Ctx) (h : Checks (rowAt 0x1CD) w s c)
    (hf : recFlat c.recA = false) (hx : 64 ≤ recExtent c.recA) (hr : recR c.recA = true)
    (hp : ∀ l ∈ c.act, (c.rayPath l).bad = none ∧ (c.rayPath l).stuck = false)
    (hm : Performs { c with s := c.s.freed (4 * c.act.length) } (c.rayAsk c.rayReads) s1 tr) :
    exec (.ray w) s = .next (c.ends (c.sawLanes s1 tr c.rayReads)
      (Out.late (c.act.zipIdx.flatMap (fun e => (c.rayHit e).zipIdx.map (fun x => (Place.v e.1 (fD c.w + x.2), x.1)))))) := by
  change calud (rowAt 0x1CD) entryRay w s = _
  rw [calud_attempts h.toAttempts, issue_entry h, entryRay_done hf hx hr hp hm, settle_done h]

/-- Settles O20: a RAY and a beam end with the hit records of their paths, and a screen write reaches its owner's tile or is dropped. -/
theorem raysBeamsAndScreenWrites : Obligations.RaysBeamsAndScreenWrites := by
  unfold Obligations.RaysBeamsAndScreenWrites
  refine ⟨⟨?_, ?_⟩, ?_, ?_⟩
  · exact exec_ray_hits
  · intro ctl size dst
    refine completesIn_of (entry := entryBeam) (fun _ _ => rfl) fun w s c _ hp => ?_
    exact (checked_passes hp.2).trans rfl
  · intro s k id t r blk dst s2 x hk hp hj ht hr hring b w h s1 q half dir ray tv reads hreach
    have hw : beamWidth blk = w := by rw [beamWidth, bits_low]; rfl
    have hh : beamHeight blk = h := rfl
    have hray (e : Nat) : beamRayAt blk e = ray e := by
      rw [beamRayAt, hw, beamRay, bits_low, bits_bw_upper]
      rfl
    have htv (e : Nat) : beamPath s1 t r blk e = tv e := by rw [beamPath, hray]; rfl
    have hreads : beamReads s1 t r blk = reads := by simp only [beamReads, hw, hh, htv]; rfl
    have hx : exec (.beamCompletion id) s = .next (runBeam s1 k t r blk dst) := execBeamCompletion_started hk hp hj ht hr
    rw [← hreads] at hreach
    refine ⟨fun hgood s3 y hwrite => ?_, fun o ho => ?_⟩
    · rw [hx, runBeam_hits hreach (by simpa only [hw, hh, htv, hray] using hgood)
        (by simpa only [beamHits, hw, hh, htv, hray] using hwrite), endCmd_bare _ hring]
      rfl
    · rw [hx, runBeam_malformed hreach (by simpa only [hw, hh, htv] using ho), endCmd_bare _ hring]
      rfl
  · intro s i x tk t hx ho ht hs hl hf
    have hh := screenHeld_open ho hs hl hf
    by_cases ha : cfgOrd t.tilecfg = true ∧ planeAt t.tilecfg x.x x.y (cfgP t.tilecfg) ≤ t.hold
    · obtain ⟨t', ht', hd, -⟩ := leaveScreen_look (s.updTeam tk (fun t => { t with tdata := _ })) i x
        ((updTeam_look s tk _).trans (congrArg (Option.map _) ht))
      refine ⟨_, t', execScreen_applied hx ho hh (applyScreen_taken ha.1 ha.2), leaveScreen_screens .., ht',
        fun _ _ => ⟨hd, fun u hu hne => ?_⟩, fun h => absurd h (by simp [ha.1, ha.2]), fun m hm => ?_⟩
      · obtain ⟨u', hu', -, hdrop⟩ := leaveScreen_look _ i x ((updTeam_other s _ hne).trans hu)
        exact ⟨u', hu', hdrop⟩
      · exact leaveScreen_tags i ((memberAt_tdata ..).trans hm)
    · obtain ⟨t1, ht1, hd1⟩ := dropScreen_look x ht
      obtain ⟨t', ht', hd, -⟩ := leaveScreen_look (dropScreen s x) i x ht1
      refine ⟨_, t', execScreen_dropped hx ho hh (applyScreen_left ha), leaveScreen_screens .., ht', fun h1 h2 => absurd ⟨h1, h2⟩ ha,
        fun _ => ⟨hd.trans hd1, fun u hu => ?_⟩, fun m hm => ?_⟩
      · obtain ⟨u', hu', -, hdrop⟩ := leaveScreen_look (dropScreen s x) i x ((updTeam_look s x.sender _).trans (congrArg (Option.map _) hu))
        exact ⟨u', hu', hdrop⟩
      · exact leaveScreen_tags i ((dropScreen_memberAt ..).trans hm)

end Sys2Proof.Proofs

namespace Sys2Proof.Machine

/-! ### Where a register stands (R426) -/

/-- An offset of the queue block. -/
theorem regBlock_queues (s : State) {o : Nat} (h : o < 0x10000) : regBlock s (0x10000 + o) = (.queues, o) := by
  simp only [regBlock]
  rw [if_neg (by omega), if_pos (by omega)]
  congr 1; omega

/-- An offset of a block of a die that is in service. -/
theorem regBlock_die {s : State} {d o : Nat} (hd : d < 4) (hu : s.dieUp d = true) (h : o < 0x100000) :
    regBlock s (0x1000000 + 0x100000 * d + o) =
      if o / 0x10000 = 0 then (.unit d, o % 0x10000) else if o / 0x10000 = 1 then (.vaults d, o % 0x10000)
      else if o / 0x10000 = 2 then (.reaches d, o % 0x10000) else (.none, 0x1000000 + 0x100000 * d + o) := by
  have h1 : (0x1000000 + 0x100000 * d + o - 0x1000000) / 0x100000 = d := by omega
  have h2 : (0x1000000 + 0x100000 * d + o) % 0x100000 = o := by omega
  have h3 : (0x1000000 + 0x100000 * d + o) % 0x10000 = o % 0x10000 := by omega
  simp only [regBlock, h1, h2, h3, hu, Bool.not_true, Bool.false_eq_true, if_false]
  rw [if_neg (by omega), if_neg (by omega), if_neg (by omega), if_pos (by omega)]

/-- An offset of the E-die's block. -/
theorem regBlock_edie {s : State} {o : Nat} (he : s.edie = true) (h : o < 0x10000) : regBlock s (0x2000000 + o) = (.edie, o) := by
  simp only [regBlock, he, and_true]
  rw [if_neg (by omega), if_neg (by omega), if_neg (by omega), if_neg (by omega), if_pos (by omega)]
  congr 1; omega

/-- Every die is in service after reset. -/
theorem reset_dieUp {d : Nat} (h : d < 4) : State.reset.dieUp d = true := by
  interval_cases d <;> rfl

/-- Every vault holds its reset values after reset. -/
theorem reset_vault (v : Nat) : State.reset.vault v = Vault.zero := rfl

/-- Every queue holds its reset values after reset. -/
theorem reset_queue (q : Nat) : State.reset.queue q = Queue.zero := rfl

/-- Every line core holds its reset values after reset. -/
theorem reset_lc (n : Nat) : State.reset.lc n = LineCore.zero := rfl

/-- Every reach holds its reset values after reset. -/
theorem reset_reach (n : Nat) : State.reset.reach n = Reach.zero := rfl

/-- FBSTAT, NQSTAT and VSCARVE of a memory unit with its reset values. -/
theorem readUnit_zero : readUnit MemUnit.zero 0x10 = 0 ∧ readUnit MemUnit.zero 0x54 = 0 ∧ readUnit MemUnit.zero 0x5C = 4 := by decide

/-- With no team, TPRED is the latest reading. -/
theorem reset_tpred8 (v : Nat) : tpred8 State.reset v = 0 := rfl

/-- VSTAT of every vault reads 0 after reset. -/
theorem readVault_reset_vstat (d : Nat) {r : Nat} (h : r < 32) : readVault State.reset d (0x10 * r) = 0 := by
  simp only [readVault, show 0x10 * r % 16 = 0 by omega]
  rw [if_neg (by omega), if_neg (by omega), reset_vault, reset_tpred8]
  decide

/-- CLKCFG and SPSLOT of every reach after reset. -/
theorem readReach_reset (d : Nat) {r : Nat} (h : r < 32) :
    readReach State.reset d (0x40 * r) = 0x00500100 ∧ readReach State.reset d (0x40 * r + 0x3C) = 2 := by
  simp only [readReach, show 0x40 * r % 0x40 = 0 by omega, show (0x40 * r + 0x3C) % 0x40 = 0x3C by omega]
  constructor <;> rw [if_neg (by omega), if_neg (by omega), if_neg (by omega), reset_reach] <;> decide

/-- A register of the memory unit of a die in service. -/
theorem readReg_unit {s : State} {d o : Nat} (hd : d < 4) (hu : s.dieUp d = true) (h : o < 0x10000) :
    readReg s (0x1000000 + 0x100000 * d + o) = readUnit (s.unit d) o := by
  rw [readReg, regBlock_die hd hu (by omega), if_pos (by omega), Nat.mod_eq_of_lt h]

/-- A register of the vault block of a die in service. -/
theorem readReg_vaults {s : State} {d o : Nat} (hd : d < 4) (hu : s.dieUp d = true) (h : o < 0x10000) :
    readReg s (0x1010000 + 0x100000 * d + o) = readVault s d o := by
  rw [readReg, show 0x1010000 + 0x100000 * d + o = 0x1000000 + 0x100000 * d + (0x10000 + o) by omega, regBlock_die hd hu (by omega),
    if_neg (by omega), if_pos (by omega), Nat.add_mod_left, Nat.mod_eq_of_lt h]

/-- A register of the reach-power block of a die in service. -/
theorem readReg_reaches {s : State} {d o : Nat} (hd : d < 4) (hu : s.dieUp d = true) (h : o < 0x10000) :
    readReg s (0x1020000 + 0x100000 * d + o) = readReach s d o := by
  rw [readReg, show 0x1020000 + 0x100000 * d + o = 0x1000000 + 0x100000 * d + (0x20000 + o) by omega, regBlock_die hd hu (by omega),
    if_neg (by omega), if_neg (by omega), if_pos (by omega), show (0x20000 + o) % 0x10000 = o by omega]

/-- The reset capability words leave every line core. -/
theorem reset_lcores : State.reset.lcores = 32 := by decide

/-- QSTAT of every queue reads 0 after reset. -/
theorem readReg_reset_qstat {q : Nat} (h : q < 256) : readReg State.reset (0x10000 + 0x40 * q + 0x14) = 0 := by
  rw [readReg, Nat.add_assoc, regBlock_queues _ (by omega)]
  simp only [show (0x40 * q + 0x14) % 0x40 = 0x14 by omega]
  rw [if_pos (by omega), reset_queue]
  decide

/-- LCSTAT of every line core reads 0 after reset. -/
theorem readReg_reset_lcstat {n : Nat} (h : n < 32) : readReg State.reset (0x2000000 + 0x400 * n) = 0 := by
  rw [readReg, regBlock_edie rfl (by omega)]
  simp only [show 0x400 * n % 0x400 = 0 by omega]
  rw [if_pos (by omega), if_pos (show 0x400 * n / 0x400 < State.reset.lcores from lt_of_lt_of_eq (by omega) reset_lcores.symm), reset_lc]
  decide

end Sys2Proof.Machine

namespace Sys2Proof.Proofs

open Sys2Proof Sys2Proof.Machine

/-- Settles O43: each offset is placed in its block (`regBlock_queues`, `regBlock_die`, `regBlock_edie`), where the tables of the reset
state are empty and every entry holds its reset value. -/
theorem resetLeavesWhatTheRegisterMapsGive : Obligations.ResetLeavesWhatTheRegisterMapsGive := by
  refine ⟨reset_canonical, rfl, rfl, rfl, rfl, rfl, rfl, rfl, rfl, fun q => ⟨rfl, rfl, rfl⟩, rfl, fun q hq => readReg_reset_qstat hq,
    fun d hd => ?units, fun d r hd hr => ?reaches, fun n hn => readReg_reset_lcstat hn⟩
  case units =>
    have hu := reset_dieUp hd
    rw [readReg_unit hd hu (by omega), readReg_unit hd hu (by omega), readReg_unit hd hu (by omega)]
    exact readUnit_zero
  case reaches =>
    have hu := reset_dieUp hd
    obtain ⟨hclk, hslot⟩ := readReach_reset d hr
    refine ⟨(readReg_reaches hd hu (by omega)).trans hclk, ?_, (readReg_vaults hd hu (by omega)).trans (readVault_reset_vstat d hr)⟩
    rw [Nat.add_assoc]
    exact (readReg_reaches hd hu (by omega)).trans hslot

end Sys2Proof.Proofs

/-! ### Integer, shift and bit words (O1) -/

namespace Sys2Proof.Machine

theorem bit_eq_testBit (x i : Nat) : bit x i = x.testBit i := by
  simp only [bit, Nat.testBit_eq_decide_div_mod_eq]

theorem sumNat_eq_sum (l : List Nat) : sumNat l = l.sum := List.sum_eq_foldl.symm

theorem ones_eq_filter (n x : Nat) : ones n x = (List.range n).filter (fun i => x.testBit i) := by
  simp only [ones, bit_eq_testBit]

/-- IABS takes the absolute value (R115). -/
theorem arith_natAbs : arith (fun a _ _ => (a.natAbs : Int)) = arith (fun a _ _ => |a|) := by
  simp only [Int.natCast_natAbs]

/-- FSH takes the high or the low word of the shifted pair (R117). -/
theorem entryFsh_done (c : Ctx) : entryFsh c = .done c.s (eachLane c false (fun l =>
    let k := if mBit c.w 10 then c.c' false l % 32 else min (c.c' false l) 32
    let t := c.a false l * 2 ^ 32 + c.b false l
    if mBit c.w 11 then t * 2 ^ k / 2 ^ 32 % 2 ^ 32 else t / 2 ^ k % 2 ^ 32)) := by
  simp only [entryFsh, laneWise, eachLane, apply_ite (· % 2 ^ 32)]

/-- BFI reads its position and its length from two bytes of operand C (R118). -/
theorem entryBfi_done (c : Ctx) : entryBfi c = .done c.s (eachLane c false (fun l =>
    let pos := min (c.c' false l % 256) 32
    let len := min (c.c' false l / 256 % 256) (32 - pos)
    c.b false l % 2 ^ pos + c.a false l % 2 ^ len * 2 ^ pos + c.b false l / 2 ^ (pos + len) * 2 ^ (pos + len))) := by
  simp only [entryBfi, laneWise, eachLane, bits, pow_zero, Nat.div_one, Nat.sub_zero, Nat.reduceAdd, Nat.reduceSub, Nat.reducePow]

/-- The bit that a split function gives stands in one of its tables (R120). -/
theorem splitBit_eq_testBit (h g : Nat) (k a b : Bool) : splitBit h g k a b = (if k then h else g).testBit (2 * b2n a + b2n b) :=
  bit_eq_testBit ..

end Sys2Proof.Machine

namespace Sys2Proof.Proofs
open Sys2Proof Sys2Proof.Machine

/-- Settles O1: each word's entry is done with the value of its rule in each lane; the entries that count, reverse or look up bits read a
bit as `Nat.testBit` does. -/
theorem integerShiftAndBitWords : Obligations.IntegerShiftAndBitWords := by
  refine ⟨?arith, ?bits⟩
  case arith =>
    refine ⟨?_, ?_, ?_, ?_, ?_, ?_, ?_, ?iabs⟩
    case iabs => exact completes_of (fun w s => congrArg (calud _ · w s) arith_natAbs) (fun _ => rfl)
    all_goals exact completes_of (fun _ _ => rfl) (fun _ => rfl)
  case bits =>
    refine ⟨?shl, ?shr, ?fsh, ?bfe, ?bfi, ?popc, ?clz, ?brev, ?bfn⟩
    case shl | shr | bfe | clz => exact completes_of (fun _ _ => rfl) (fun _ => rfl)
    case fsh => exact completes_of (fun _ _ => rfl) entryFsh_done
    case bfi => exact completes_of (fun _ _ => rfl) entryBfi_done
    case popc =>
      refine completes_of (entry := entryPopc) (fun _ _ => rfl) (fun c => ?_)
      simp only [entryPopc, laneWise, eachLane, ones_eq_filter]
    case brev =>
      refine completes_of (entry := entryBrev) (fun _ _ => rfl) (fun c => ?_)
      simp only [entryBrev, laneWise, eachLane, ones_eq_filter, sumNat_eq_sum]
      rfl
    case bfn =>
      refine completes_of (entry := entryBfn) (fun _ _ => rfl) (fun c => ?_)
      simp only [entryBfn, laneWise, eachLane, splitBit_eq_testBit, bit_eq_testBit, sumNat_eq_sum]

end Sys2Proof.Proofs

/-! ### Cross-lane words (O3) -/

namespace Sys2Proof.Machine

/-- A cross-lane result of a word that acts in some lane: the scalar destination once, or every active lane's register (R95, R97). -/
theorem toY_of_active {c : Ctx} (h : c.act ≠ []) (x : Nat) :
    toY c x = if selD c.w then [(.s (fD c.w), x)] else c.act.map (fun l => (Place.v l (fD c.w), x)) := if_neg h

/-- A shuffle takes its source lane's value where that lane is active (R94). -/
theorem shuffle_done (src : Nat → Nat → Int) (c : Ctx) : shuffle src c = .done c.s (eachV c (fun l =>
    if 0 ≤ src l (c.b false l) ∧ src l (c.b false l) ≤ 31 ∧ (src l (c.b false l)).toNat ∈ c.act then
      c.v (src l (c.b false l)).toNat (fA c.w) else c.v l (fA c.w))) := by
  simp only [shuffle, eachV, List.contains_iff_mem]

/-- The root of GRED's tree over the active lanes (R97). -/
def Ctx.reduction (c : Ctx) : Option Rounded := treeRoot (combine2 (mBits c.w 10 8) (mBits c.w 4 0) (rmOf c.w)) 5 c.leaves

theorem entryGred_of_none {c : Ctx} (h : c.reduction = none) : entryGred c = .done c.s Out.none := by
  unfold Ctx.reduction at h
  simp only [entryGred, h]

theorem entryGred_of_some {c : Ctx} (ha : c.act ≠ []) {r : Rounded} (h : c.reduction = some r) : entryGred c = .done c.s
    { Out.late (if selD c.w then [(.s (fD c.w), r.1)] else c.act.map (fun l => (Place.v l (fD c.w), r.1))) with
      flags := c.act.map (fun l => (l, r.2)), queue := some 1 } := by
  unfold Ctx.reduction at h
  simp only [entryGred, h, toY_of_active ha, everyLane]

end Sys2Proof.Machine

namespace Sys2Proof.Proofs
open Sys2Proof Sys2Proof.Machine

/-- Settles O3: a word that issues acts in some lane, and there each entry is done with the combination of the active lanes. -/
theorem crossLaneWordsCombineTheActiveLanes : Obligations.CrossLaneWordsCombineTheActiveLanes := by
  refine ⟨?bc, ?xor, ?up, ?dn, ?vote, ?gred, ?gscan⟩
  case bc | xor | up | dn => exact completes_of (fun _ _ => rfl) (shuffle_done _)
  case vote =>
    refine completesIn_of (entry := entryVote) (fun _ _ => rfl) (fun _ _ c h _ => ?_)
    simp only [entryVote, toY_of_active h.active, sumNat_eq_sum]
    generalize mBits c.w 11 10 = k
    match k with
    | 0 | 1 | 2 | _ + 3 => rfl
  case gred =>
    refine completesIn_of (entry := entryGred) (fun _ _ => rfl) (fun _ _ c h _ => ?_)
    cases hr : c.reduction with
    | none => exact (entryGred_of_none hr).trans (by unfold Ctx.reduction Ctx.leaves at hr; simp only [hr])
    | some r => exact (entryGred_of_some h.active hr).trans (by unfold Ctx.reduction Ctx.leaves at hr; simp only [hr])
  case gscan => exact completes_of (entry := entryGscan) (fun _ _ => rfl) (fun _ => rfl)

end Sys2Proof.Proofs

/-! ### Dot, codebook and special-function words (O6) -/

namespace Sys2Proof.Machine

theorem foldl_add_eq_sum (f : Nat → Int) (l : List Nat) (a : Int) : l.foldl (fun s i => s + f i) a = a + (l.map f).sum := by
  rw [List.sum_eq_foldl, ← List.foldl_assoc (op := (· + · : Int → Int → Int)), add_zero, List.foldl_map]

/-- A dot word over integers wraps or clamps the accumulator plus the exact sum of the products (R133). -/
theorem dotInts_done (c : Ctx) (n : Nat) : dotInts c n = .done c.s (eachV c (fun l =>
    let ty := mBits c.w 4 0
    let e (x i : Nat) : Int := intVal ty (bits x (n * i + n - 1) (n * i))
    let sum : Int := (if intSigned ty then sgn 32 (c.v l (fC c.w)) else (c.v l (fC c.w) : Int)) +
      ((List.range (32 / n)).map (fun i => e (c.v l (fA c.w)) i * e (c.v l (fB c.w)) i)).sum
    if satOf c.w then (if intSigned ty then satS 32 sum else satU 32 sum) else wrapI 32 sum)) := by
  simp only [dotInts, eachV, foldl_add_eq_sum]

end Sys2Proof.Machine

namespace Sys2Proof.Proofs
open Sys2Proof Sys2Proof.Machine

/-- Settles O6: over floats a dot word's entry is its block (`dotBlock`) rounded and added once, over integers the exact sum; the other
entries are done with their rule's values as they stand. -/
theorem dotCodebookAndSpecialFunctionWords : Obligations.DotCodebookAndSpecialFunctionWords := by
  refine ⟨⟨?dot2, ?dot4, ?dot8, ?dotsc, ?cbLd, ?cbRd⟩, ?_, ?_, ?_, ?_, ?_, ?_, ?_, ?_⟩
  case dot2 =>
    refine completes_of (entry := entryDot2) (fun _ _ => rfl) (fun c => ?_)
    rw [entryDot2, dotInts_done]
    exact (apply_ite (Res.done c.s) ..).symm
  case dot4 =>
    refine completes_of (entry := entryDot4) (fun _ _ => rfl) (fun c => ?_)
    rw [entryDot4, dotInts_done]
    exact (apply_ite (Res.done c.s) ..).symm
  all_goals exact completes_of (fun _ _ => rfl) (fun _ => rfl)

end Sys2Proof.Proofs

/-! ### Special registers (O22) -/

namespace Sys2Proof.Machine

/-- A number that the table does not list reads 0 (R348). -/
theorem srRead_unlisted {n : Nat} (h : n ∉ srNumbers) (c : Ctx) (l : Nat) : c.srRead n l = 0 := by
  simp only [srNumbers, List.mem_cons, List.not_mem_nil, or_false, not_or] at h
  have hc : ¬(0x10 ≤ n ∧ n ≤ 0x13) := by omega
  simp [Ctx.srRead, srValue, h, hc]

/-- A word whose special register is none of those that SYSWR may write fails check 2 (R349). -/
theorem unitFails_syswr {c : Ctx} (hop : c.op = 0x1F5) (hn : fA c.w ∉ [0x18, 0x19, 0x1A, 0x20, 0x30, 0x34]) : c.unitFails = true := by
  have hw : srWritable (fA c.w) = false := by simpa [srWritable] using hn
  simp [Ctx.unitFails, hop, hw]

/-- The operand of SYSWR in a lane (R349). -/
def Ctx.srOperand (c : Ctx) (l : Nat) : Nat := c.x (selB c.w) l (fB c.w)

/-- SYSWR of %fpflags gives each present lane its own operand (R41). -/
theorem entrySyswr_flags {c : Ctx} (h : fA c.w = 0x19) : entrySyswr c = .done (c.s.updMember c.tk c.m.id (fun m =>
    { m with lanes := m.lanes.map (fun e => (e.1, { e.2 with flags := BitVec.ofNat 5 (c.srOperand e.1) })) })) Out.none := by
  simp only [entrySyswr, h, if_true, Ctx.srOperand]

/-- SYSWR of an illegal %tilecfg takes cause 0x1C (R294). -/
theorem entrySyswr_illegal {c : Ctx} (h : fA c.w = 0x30) (hx : tilecfgOk (c.srOperand c.m.low) = false) :
    entrySyswr c = .cause c.s 0x1C 0 := by
  simp only [Ctx.srOperand] at hx
  simp [entrySyswr, h, hx]

/-- SYSWR of a register of the team writes it from the operand of the lowest present lane (R349). -/
theorem entrySyswr_team {c : Ctx} {n : Nat} (h : fA c.w = n) (hf : n ≠ 0x19) (hx : n ≠ 0x30 ∨ tilecfgOk (c.srOperand c.m.low) = true) :
    entrySyswr c = .done (c.s.updTeam c.tk (fun t => t.srWrite n (c.srOperand c.m.low))) Out.none := by
  have hc : ¬(n = 0x30 ∧ (!tilecfgOk (c.srOperand c.m.low)) = true) := by simpa only [not_and_or, Bool.not_eq_true', Bool.not_eq_false] using hx
  rw [Ctx.srOperand] at hc
  simp only [entrySyswr, h, hf, hc, if_false, Ctx.srOperand]

/-- The form in which SYSWR of a register of the team is proved: `f` is what writing the register does. -/
theorem syswr_completes {n : Nat} {pre : Ctx → Prop} {f : Ctx → Team → Team} (hf : n ≠ 0x19)
    (hx : n ≠ 0x30 ∨ ∀ c, pre c → tilecfgOk (c.srOperand c.m.low) = true)
    (hw : ∀ (c : Ctx) (t : Team), t.srWrite n (c.srOperand c.m.low) = f c t) :
    CompletesIn (rowAt 0x1F5) .syswr (fun c => fA c.w = n ∧ pre c) (fun c => c.s.updTeam c.tk (f c)) (fun _ => Out.none) :=
  completesIn_of (entry := entrySyswr) (fun _ _ => rfl) (fun _ _ c _ ⟨hn, hp⟩ => by
    rw [entrySyswr_team hn hf (hx.imp_right (· c hp)), funext (hw c)])

end Sys2Proof.Machine

namespace Sys2Proof.Proofs
open Sys2Proof Sys2Proof.Machine

/-- Settles O22: SYSRD reads by the numbers of the table (`Ctx.srRead`), and SYSWR writes a register of the team (`syswr_completes`) or the
flags of the present lanes, or fails its check. -/
theorem specialRegistersAreReadAndWritten : Obligations.SpecialRegistersAreReadAndWritten := by
  refine ⟨?read, ?prc, ?fpenable, ?arrmiss, ?tilecfg, ?tvec, ?flags, ?readOnly, ?illegal⟩
  case read =>
    refine completes_of (entry := entrySysrd) (fun _ _ => rfl) (fun c => ?_)
    simp only [entrySysrd, eachLane]
    congr! 4 with l
    generalize fA c.w = n
    split
    case h_32 => rw [srRead_unlisted (by simp_all [srNumbers])]
    all_goals rfl
  case prc => exact syswr_completes (by decide) (.inl (by decide)) (fun _ t => congrArg (fun b => { t with prc := b }) (bit_eq_testBit _ 0))
  case fpenable => exact syswr_completes (by decide) (.inl (by decide)) (fun c t => rfl)
  case arrmiss => exact syswr_completes (by decide) (.inl (by decide)) (fun c t => rfl)
  case tilecfg => exact syswr_completes (by decide) (.inr fun _ h => h) (fun c t => rfl)
  case tvec => exact syswr_completes (by decide) (.inl (by decide)) (fun c t => rfl)
  case flags => exact completesIn_of (entry := entrySyswr) (fun _ _ => rfl) (fun _ _ _ _ h => entrySyswr_flags h)
  case readOnly => exact trapsAtCheck2_of (entry := entrySyswr) (fun _ _ => rfl) (fun _ _ _ h hn => unitFails_syswr (h.opcode.trans (rowAt_op _)) hn)
  case illegal => exact traps_of (entry := entrySyswr) (fun _ _ => rfl) (fun _ _ _ _ ⟨h, hx⟩ => entrySyswr_illegal h hx)

end Sys2Proof.Proofs

/-! ### A member's registers, lanes and windows (O26)

What a result does to its member: the register file after a write, what a result leaves alone (`Member.bare`), and the windows under which
a place reads an old value. -/

namespace Sys2Proof.Machine

/-- A function that every step of a fold over a member leaves alone. -/
theorem Member.foldl_keeps {α β : Type} {f : Member → α → Member} (φ : Member → β) (h : ∀ m x, φ (f m x) = φ m) (l : List α)
    (m : Member) : φ (l.foldl f m) = φ m := by
  induction l generalizing m with
  | nil => rfl
  | cons x l ih => rw [List.foldl_cons, ih, h]

/-- A property of a member that one step of a fold brings about and that every step keeps, under an invariant. -/
theorem Member.foldl_reaches {α : Type} {f : Member → α → Member} {J U : Member → Prop} {hit : α → Prop} (hJ : ∀ m x, J m → J (f m x))
    (keep : ∀ m x, U m → U (f m x)) (make : ∀ m x, J m → hit x → U (f m x)) {l : List α} (hl : ∃ x ∈ l, hit x)
    {m : Member} (hm : J m) : U (l.foldl f m) := by
  have kept (l : List α) : ∀ m, U m → U (l.foldl f m) := by
    induction l with
    | nil => exact fun _ h => h
    | cons x l ih => exact fun m h => ih _ (keep m x h)
  induction l generalizing m with
  | nil => simp at hl
  | cons x l ih =>
    obtain ⟨y, hy, hh⟩ := hl
    rcases List.mem_cons.mp hy with rfl | hy
    · exact kept l _ (make m y hm hh)
    · exact ih ⟨y, hy, hh⟩ (hJ m x hm)

/-! #### The register file after a write -/

theorem look_isSome_iff {α : Type} (t : Sparse α) (k : Nat) : (look t k).isSome = true ↔ k ∈ t.map (·.1) := by
  induction t with
  | nil => simp [look]
  | cons e t ih => by_cases h : e.1 = k <;> simp [look, h, ih, eq_comm (a := k)]

theorem look_mapVal {α : Type} (g : Nat → α → α) (t : Sparse α) (k : Nat) :
    look (t.map (fun e => (e.1, g e.1 e.2))) k = (look t k).map (g k) := by
  induction t with
  | nil => rfl
  | cons e t ih => by_cases h : e.1 = k <;> simp_all [look]

/-- A lane is listed where it is present. -/
theorem Member.lane_of_present {m : Member} {l : Nat} (h : l ∈ m.present) : ∃ x, m.lane l = some x :=
  Option.isSome_iff_exists.mp ((look_isSome_iff m.lanes l).mpr h)

theorem getLsbD_setBit (y : BitVec 48) {r : Nat} (hr : r < 48) (x k : Nat) :
    (if x % 2 = 1 then y ||| 1#48 <<< r else y &&& ~~~(1#48 <<< r)).getLsbD k = if r = k then decide (x % 2 = 1) else y.getLsbD k := by
  have hbit : (1#48 <<< r).getLsbD k = decide (r = k) := by
    rw [← BitVec.twoPow_eq, BitVec.getLsbD_twoPow]
    simp [hr]
  by_cases h : r = k
  · subst h
    split <;> simp_all
  · have hy : y.getLsbD k = true → k < 48 := BitVec.lt_of_getLsbD
    split
    · simp [hbit, h]
    · simpa [hbit, h] using hy

theorem get_setD {α : Type} [DecidableEq α] (d : α) (t : Sparse α) (k k' : Nat) (x : α) :
    get d (setD d t k x) k' = if k = k' then x else get d t k' := by
  split
  · next h => rw [h, get_setD_same]
  · next h => exact get_setD_other d t x (Ne.symm h)

theorem Member.file_v (m : Member) (l r : Nat) : m.file (.v l r) = (m.lane l).elim 0 (fun x => (get 0 x.v r).toNat) := by
  cases h : m.lane l <;> simp [Member.file, h]

theorem Member.file_p (m : Member) (l r : Nat) : m.file (.p l r) = (m.lane l).elim 0 (fun x => b2n (x.p.getLsbD r)) := by
  cases h : m.lane l <;> simp [Member.file, h]

theorem Member.put_v_lane (m : Member) (l r x l' : Nat) : (m.put (.v l r) x).lane l' =
    if l' = l then (m.lane l').map (fun y => { y with v := setD 0 y.v r (BitVec.ofNat 32 x) }) else m.lane l' := by
  simp only [Member.put, Member.lane, look_upd]

theorem Member.put_p_lane (m : Member) (l r x l' : Nat) : (m.put (.p l r) x).lane l' =
    if l' = l then (m.lane l').map (fun y => { y with p := if x % 2 = 1 then y.p ||| (1#48 <<< r) else y.p &&& ~~~(1#48 <<< r) })
    else m.lane l' := by
  simp only [Member.put, Member.lane, look_upd]

theorem Member.put_file {m : Member} {p : Place} (h : m.has p) (x : Nat) (p' : Place) :
    (m.put p x).file p' = if p = p' then p'.cut x else m.file p' := by
  cases p with
  | s r | cb r | d r =>
    cases p' <;> simp [Member.put, Member.file, Member.lane, Place.cut, get_setD, apply_ite BitVec.toNat]
  | v l r =>
    obtain ⟨y, hy⟩ := lane_of_present h
    cases p' with
    | s | cb | d => rfl
    | v l' r' =>
      rcases eq_or_ne l' l with rfl | hl
      · simp [file_v, put_v_lane, hy, Place.cut, get_setD, apply_ite BitVec.toNat]
      · simp [file_v, put_v_lane, hl, hl.symm]
    | p l' r' => rcases eq_or_ne l' l with rfl | hl <;> simp [file_p, put_v_lane, *]
  | p l r =>
    obtain ⟨hl, hr⟩ := h
    obtain ⟨y, hy⟩ := lane_of_present hl
    cases p' with
    | s | cb | d => rfl
    | v l' r' => rcases eq_or_ne l' l with rfl | hl <;> simp [file_v, put_p_lane, *]
    | p l' r' =>
      rcases eq_or_ne l' l with rfl | hl
      · simp only [file_p, put_p_lane, hy, if_true, Option.map_some, Option.elim_some, getLsbD_setBit _ hr]
        rcases eq_or_ne r r' with rfl | hk
        · rcases Nat.mod_two_eq_zero_or_one x with hx | hx <;> simp [Place.cut, b2n, hx]
        · simp [hk]
      · simp [file_p, put_p_lane, hl, hl.symm]

/-! #### What a result leaves alone -/

/-- A member without its registers, windows, pending results and tags: what no result touches. -/
def Member.bare (m : Member) : Member :=
  { m with lanes := m.lanes.map (fun e => (e.1, { e.2 with v := [], p := 0 })), s := [], d := [], cb := [], windows := [], pend := [], tags := 0 }

theorem Member.present_of_bare {m m' : Member} (h : m'.bare = m.bare) : m'.present = m.present := by
  have hb (m : Member) : m.bare.present = m.present := by simp [Member.bare, Member.present]
  rw [← hb m', h, hb]

theorem Member.lane_of_bare {m m' : Member} (h : m'.bare = m.bare) (l : Nat) :
    (m'.lane l).map (fun x => (x.flags, x.rng)) = (m.lane l).map (fun x => (x.flags, x.rng)) := by
  have hb (m : Member) : m.bare.lane l = (m.lane l).map (fun x => { x with v := [], p := 0 }) :=
    look_mapVal (fun _ (x : Lane) => { x with v := [], p := 0 }) m.lanes l
  have hl := congrArg (Option.map (fun x : Lane => (x.flags, x.rng))) ((hb m').symm.trans ((congrArg (·.lane l) h).trans (hb m)))
  simpa only [Option.map_map, Function.comp_def] using hl

theorem Member.id_of_bare {m m' : Member} (h : m'.bare = m.bare) : m'.id = m.id := show m'.bare.id = m.bare.id by rw [h]
theorem Member.pc_of_bare {m m' : Member} (h : m'.bare = m.bare) : m'.pc = m.pc := show m'.bare.pc = m.bare.pc by rw [h]
theorem Member.trap_of_bare {m m' : Member} (h : m'.bare = m.bare) : m'.trap = m.trap := show m'.bare.trap = m.bare.trap by rw [h]

theorem Member.has_of_present {m m' : Member} (h : m'.present = m.present) (p : Place) : m'.has p ↔ m.has p := by
  cases p <;> simp [Member.has, h]

@[simp] theorem Member.put_bare (m : Member) (p : Place) (x : Nat) : (m.put p x).bare = m.bare := by
  cases p with
  | s | cb | d => rfl
  | v l r | p l r =>
    simp only [Member.put, Member.bare, upd, List.map_map]
    congr 2
    funext e
    by_cases h : e.1 = l <;> simp [h]

@[simp] theorem Member.writeNow_bare (m : Member) (ws : List (Place × Nat)) : (m.writeNow ws).bare = m.bare :=
  foldl_keeps (f := fun m (e : Place × Nat) => (m.unshadow e.1).put e.1 e.2) bare (fun m e => put_bare (m.unshadow e.1) e.1 e.2) ws m

@[simp] theorem Member.writeUnder_bare (m : Member) (n : Nat) (ws : List (Place × Nat)) : (m.writeUnder n ws).bare = m.bare :=
  foldl_keeps (f := fun m (e : Place × Nat) => m.put e.1 e.2) bare (fun m e => put_bare m e.1 e.2) ws m

/-! #### Writes of several places -/

@[simp] theorem lastWrite_nil (p : Place) : lastWrite [] p = none := rfl

theorem lastWrite_cons (e : Place × Nat) (ws : List (Place × Nat)) (p : Place) :
    lastWrite (e :: ws) p = (lastWrite ws p).or (if e.1 = p then some e.2 else none) := by
  simp only [lastWrite, List.reverse_cons, List.find?_append, Option.map_or]
  by_cases h : e.1 = p <;> simp [h]

/-- A place with a last write is written. -/
theorem exists_of_lastWrite {ws : List (Place × Nat)} {p : Place} {x : Nat} (h : lastWrite ws p = some x) : ∃ e ∈ ws, e.1 = p := by
  obtain ⟨e, he, -⟩ := Option.map_eq_some_iff.mp h
  exact ⟨e, List.mem_reverse.mp (List.mem_of_find?_eq_some he), by simpa using List.find?_some he⟩

namespace Member

/-- The register file after a fold of writes that stand at some places: the last write of such a place is what it holds. -/
theorem foldl_file {g : Member → Place × Nat → Member} {st : Place → Bool} (hb : ∀ m e, (g m e).bare = m.bare) {p : Place}
    (hf : ∀ m e, m.has e.1 → (g m e).file p = if e.1 = p ∧ st p = true then p.cut e.2 else m.file p) {ws : List (Place × Nat)} {m : Member}
    (h : ∀ e ∈ ws, m.has e.1) :
    (ws.foldl g m).file p = if st p = true then ((lastWrite ws p).map p.cut).getD (m.file p) else m.file p := by
  induction ws generalizing m with
  | nil => simp
  | cons e ws ih =>
    obtain ⟨he, hws⟩ := List.forall_mem_cons.mp h
    rw [List.foldl_cons, ih (fun x hx => (has_of_present (present_of_bare (hb m e)) x.1).mpr (hws x hx)), hf m e he, lastWrite_cons]
    by_cases hs : st p = true <;> by_cases hp : e.1 = p <;> cases lastWrite ws p <;> simp [hs, hp]

theorem writeNow_file {m : Member} {ws : List (Place × Nat)} (h : ∀ e ∈ ws, m.has e.1) (p : Place) :
    (m.writeNow ws).file p = ((lastWrite ws p).map p.cut).getD (m.file p) :=
  foldl_file (st := fun _ => true) (fun m e => put_bare (m.unshadow e.1) e.1 e.2)
    (fun _ e he => (put_file (m := Member.unshadow _ e.1) he e.2 p).trans (by simp only [and_true]; rfl)) h

theorem writeUnder_file {m : Member} {ws : List (Place × Nat)} (h : ∀ e ∈ ws, m.has e.1) (n : Nat) (p : Place) :
    (m.writeUnder n ws).file p = ((lastWrite ws p).map p.cut).getD (m.file p) :=
  foldl_file (st := fun _ => true) (fun m e => put_bare m e.1 e.2) (fun m e he => (put_file he e.2 p).trans (by simp only [and_true])) h

/-! #### Windows -/

@[simp] theorem put_windows (m : Member) (p : Place) (x : Nat) : (m.put p x).windows = m.windows := by cases p <;> rfl

/-- No open window holds an old value of a place. -/
def Clear (m : Member) (p : Place) : Prop := ∀ v ∈ m.windows, ∀ e ∈ v.old, e.1 ≠ p

/-- A place of which no window holds an old value is read from the file (R106). -/
theorem windowed_of_clear {m : Member} {p : Place} (h : m.Clear p) : m.windowed p = m.file p := by
  have hn : (m.windows.filter (fun w => !m.trap.inh || w.handler)).findSome? (fun w => (w.old.find? (fun e => e.1 == p)).map (·.2)) = none := by
    rw [List.findSome?_eq_none_iff]
    intro v hv
    rw [Option.map_eq_none_iff, List.find?_eq_none]
    exact fun e he => by simpa using h v (List.mem_of_mem_filter hv) e he
  rw [windowed, hn]

/-- A place of which the one open window holds an old value is read from the window, where the member's state lets it see that window
(R106, R108). -/
theorem windowed_of_window {m : Member} {p : Place} {v : Window} {e : Place × Nat} (hw : m.windows = [v])
    (hh : m.trap.inh = false ∨ v.handler = true) (he : v.old.find? (fun e => e.1 == p) = some e) : m.windowed p = e.2 := by
  have hs : (!m.trap.inh || v.handler) = true := by simpa using hh
  simp [windowed, hw, hs, he]

theorem unshadow_clear (m : Member) (p : Place) : (m.unshadow p).Clear p := by
  intro v hv e he
  obtain ⟨u, -, rfl⟩ := List.mem_map.mp hv
  simpa using (List.mem_filter.mp he).2

theorem Clear.unshadow {m : Member} {p : Place} (h : m.Clear p) (p' : Place) : (m.unshadow p').Clear p := by
  intro v hv e he
  obtain ⟨u, hu, rfl⟩ := List.mem_map.mp hv
  exact h u hu e (List.mem_filter.mp he).1

theorem clear_put {m : Member} {p : Place} (p' : Place) (x : Nat) : (m.put p' x).Clear p ↔ m.Clear p := by simp [Clear]

/-- A place that is written at once is read from the file (R104, R106). -/
theorem writeNow_clear (m : Member) {ws : List (Place × Nat)} {p : Place} (h : ∃ e ∈ ws, e.1 = p) : (m.writeNow ws).Clear p :=
  foldl_reaches (f := fun m (e : Place × Nat) => (m.unshadow e.1).put e.1 e.2) (J := fun _ => True) (U := fun m => m.Clear p)
    (hit := fun e => e.1 = p) (fun _ _ _ => trivial) (fun _ e hm => (clear_put e.1 e.2).mpr (hm.unshadow e.1))
    (fun m e _ he => (clear_put e.1 e.2).mpr (he ▸ m.unshadow_clear e.1)) h trivial

end Member

/-! #### The landing of a pending result -/

/-- A window that stands for an earlier one: of the same word, with old values of no further place. -/
def Window.Narrows (v u : Window) : Prop := v.word = u.word ∧ ∀ x ∈ v.old, ∃ y ∈ u.old, y.1 = x.1

theorem Window.Narrows.refl (u : Window) : u.Narrows u := ⟨rfl, fun x hx => ⟨x, hx, rfl⟩⟩

theorem Window.Narrows.filter (u : Window) (f : Place × Nat → Bool) : Window.Narrows { u with old := u.old.filter f } u :=
  ⟨rfl, fun x hx => ⟨x, List.mem_of_mem_filter hx, rfl⟩⟩

namespace Member

variable {m : Member} {q : Pending} {p : Place}

/-- What the landing of one write does: the windows narrow, and the write stands in the file or leaves it as it is (R106, R111). -/
theorem landOne_shape (m : Member) (q : Pending) (e : Place × Nat) : ∃ ws : List Window,
    (∀ v ∈ ws, ∃ u ∈ m.windows, v.Narrows u) ∧
    m.landOne q e = if q.stands e.1 = true then ({ m with windows := ws } : Member).put e.1 e.2 else { m with windows := ws } := by
  unfold landOne
  split
  · split
    · refine ⟨(m.unshadow e.1).windows, fun v hv => ?_, rfl⟩
      obtain ⟨u, hu, rfl⟩ := List.mem_map.mp hv
      exact ⟨u, hu, .filter u _⟩
    · exact ⟨m.windows, fun v hv => ⟨v, hv, .refl v⟩, rfl⟩
  · refine ⟨_, fun v hv => ?_, rfl⟩
    obtain ⟨u, hu, rfl⟩ := List.mem_map.mp hv
    refine ⟨u, hu, ?_⟩
    split_ifs
    · exact .filter u _
    · refine ⟨rfl, fun x hx => ?_⟩
      obtain ⟨y, hy, rfl⟩ := List.mem_map.mp hx
      exact ⟨y, hy, by split <;> rfl⟩
    · exact .refl u

@[simp] theorem landOne_bare (m : Member) (q : Pending) (e : Place × Nat) : (m.landOne q e).bare = m.bare := by
  obtain ⟨ws, -, h⟩ := landOne_shape m q e
  rw [h]
  split
  · rw [put_bare]; rfl
  · rfl

theorem landOne_file {e : Place × Nat} (he : m.has e.1) (p : Place) :
    (m.landOne q e).file p = if e.1 = p ∧ q.stands p = true then p.cut e.2 else m.file p := by
  obtain ⟨ws, -, h⟩ := landOne_shape m q e
  have hp : (({ m with windows := ws } : Member).put e.1 e.2).file p = if e.1 = p then p.cut e.2 else m.file p :=
    put_file (m := { m with windows := ws }) he e.2 p
  have hn : ({ m with windows := ws } : Member).file p = m.file p := rfl
  rw [h]
  by_cases hep : e.1 = p
  · subst hep
    split <;> simp_all
  · split <;> simp_all

theorem landOne_windows {e : Place × Nat} {v : Window} (hv : v ∈ (m.landOne q e).windows) : ∃ u ∈ m.windows, v.Narrows u := by
  obtain ⟨ws, hws, h⟩ := landOne_shape m q e
  rw [h] at hv
  refine hws v ?_
  split at hv
  · rwa [put_windows] at hv
  · exact hv

@[simp] theorem land_bare (m : Member) (q : Pending) : (m.land q).bare = m.bare :=
  foldl_keeps bare (fun m e => landOne_bare m q e) q.writes m

/-- Where a result stands, its last write of a place is what the place holds (R111). -/
theorem land_file (h : ∀ e ∈ q.writes, m.has e.1) (p : Place) :
    (m.land q).file p = if q.stands p = true then ((lastWrite q.writes p).map p.cut).getD (m.file p) else m.file p :=
  foldl_file (fun m e => landOne_bare m q e) (fun _ _ he => landOne_file he p) h

/-- No window of a word after a result's own holds an old value of a place. -/
def ClearAfter (m : Member) (q : Pending) (p : Place) : Prop := ∀ v ∈ m.windows, q.word < v.word → ∀ e ∈ v.old, e.1 ≠ p

theorem ClearAfter.landOne (h : m.ClearAfter q p) (e : Place × Nat) : (m.landOne q e).ClearAfter q p := by
  intro v hv hw x hx
  obtain ⟨u, hu, hword, hold⟩ := landOne_windows hv
  obtain ⟨y, hy, hyx⟩ := hold x hx
  exact hyx ▸ h u hu (hword ▸ hw) y hy

theorem Clear.landOne (h : m.Clear p) (q : Pending) (e : Place × Nat) : (m.landOne q e).Clear p := by
  intro v hv x hx
  obtain ⟨u, hu, -, hold⟩ := landOne_windows hv
  obtain ⟨y, hy, hyx⟩ := hold x hx
  exact hyx ▸ h u hu y hy

/-- A write that stands, where no later window holds its place, is the value that the place is read as. -/
theorem ClearAfter.landOne_clear {e : Place × Nat} (h : m.ClearAfter q e.1) (hs : q.stands e.1 = true) : (m.landOne q e).Clear e.1 := by
  have hf : m.windows.find? (fun w => decide (q.word < w.word) && w.old.any (fun x => x.1 == e.1)) = none := by
    rw [List.find?_eq_none]
    intro v hv
    simpa using fun hw x hx => h v hv hw (e.1, x) hx rfl
  simp only [Member.landOne, hf, hs, if_true]
  exact (clear_put e.1 e.2).mpr (m.unshadow_clear e.1)

theorem land_clear (h : m.ClearAfter q p) (hs : q.stands p = true) (hw : ∃ e ∈ q.writes, e.1 = p) : (m.land q).Clear p :=
  foldl_reaches (f := fun m e => m.landOne q e) (J := fun m => m.ClearAfter q p) (U := fun m => m.Clear p) (hit := fun e => e.1 = p)
    (fun _ e hm => hm.landOne e) (fun _ e hm => hm.landOne q e) (fun _ _ hm he => by subst he; exact hm.landOne_clear hs) hw h

/-- A later word's window that holds one place takes the landed value for it, and no other landing touches it (R106, log entry 94). -/
theorem landOne_window {v : Window} {o : Nat} (hw : m.windows = [{ v with old := [(p, o)] }]) (hq : q.word < v.word) (e : Place × Nat) :
    (m.landOne q e).windows = [{ v with old := [(p, if e.1 = p then p.cut e.2 else o)] }] := by
  by_cases he : e.1 = p
  · subst he
    have hn : ¬ v.word ≤ q.word := by omega
    have hf : m.windows.find? (fun w => decide (q.word < w.word) && w.old.any (fun x => x.1 == e.1)) = some { v with old := [(e.1, o)] } := by
      simp [hw, hq]
    simp only [Member.landOne, hf]
    split <;> simp [hw, hn]
  · have hf : m.windows.find? (fun w => decide (q.word < w.word) && w.old.any (fun x => x.1 == e.1)) = none := by
      simp [hw, Ne.symm he]
    simp only [Member.landOne, hf]
    split <;> simp [Member.unshadow, hw, Ne.symm he]

theorem foldl_landOne_window {v : Window} (hq : q.word < v.word) (ws : List (Place × Nat)) {m : Member} {o : Nat}
    (hw : m.windows = [{ v with old := [(p, o)] }]) :
    (ws.foldl (fun m e => m.landOne q e) m).windows = [{ v with old := [(p, ((lastWrite ws p).map p.cut).getD o)] }] := by
  induction ws generalizing m o with
  | nil => simpa using hw
  | cons e ws ih =>
    rw [List.foldl_cons, ih (landOne_window hw hq e), lastWrite_cons]
    by_cases he : e.1 = p <;> cases lastWrite ws p <;> simp [he]

end Member
/-! #### A word that completes -/
namespace Member

variable (m : Member) (w : CWord) (free now : Nat) (o : Out)

theorem handlerWrites_shape (ws : List (Place × Nat)) :
    ∃ vs : List Window, m.handlerWrites ws = { m with windows := vs } ∧ (m.windows = [] → vs = []) := by
  unfold handlerWrites
  split
  · exact ⟨_, rfl, fun h => by rw [h]; rfl⟩
  · exact ⟨m.windows, rfl, fun h => h⟩

/-- One more word changes windows and the word counts of pending results, and opens no window. -/
theorem counted_shape (ws : List (Place × Nat)) : ∃ (vs : List Window) (ps : List Pending),
    (m.handlerWrites ws).countWord = { m with windows := vs, pend := ps } ∧ (m.windows = [] → vs = []) ∧ ps.length = m.pend.length := by
  obtain ⟨vs, h, hvs⟩ := m.handlerWrites_shape ws
  rw [h]
  exact ⟨_, _, rfl, fun hm => by rw [hvs hm]; rfl, List.length_map _⟩

/-- A fixed-latency result is written at once, or under its window (R104, R105). -/
theorem result_fixed {o : Out} (hv : o.var = false) : ∃ (vs : List Window) (ps : List Pending) (ts : BitVec 6),
    (m.windows = [] → vs = []) ∧ m.result w free now o =
      if o.writes = [] ∨ w.common.pd = 0 then ({ m with windows := vs, pend := ps, tags := ts } : Member).writeNow o.writes
      else ({ m with windows := vs, pend := ps, tags := ts } : Member).writeUnder w.common.pd.toNat o.writes := by
  obtain ⟨vs, ps, h, hvs, -⟩ := m.counted_shape o.writes
  by_cases hw : o.writes = []
  · rw [hw] at h
    exact ⟨vs, ps, _, hvs, by simp only [result, hw, h, if_true, true_or]; rfl⟩
  · refine ⟨vs, ps.map (·.mark o.writes), m.tags &&& ~~~ tagBit (m.wordTag w), hvs, ?_⟩
    simp only [result, h, hw, hv, overPending, if_false, false_or, Bool.false_eq_true]

/-- A variable-latency result stands last among the pending results, its tag pending (R109, R111). -/
theorem result_late {o : Out} (hv : o.var = true) (hw : o.writes ≠ []) : ∃ (vs : List Window) (ps : List Pending) (q : Pending),
    m.result w free now o = { m with windows := vs, pend := ps ++ [q], tags := m.tags ||| tagBit (m.wordTag w) } ∧
    ps.length = m.pend.length ∧ q.writes = o.writes ∧ q.queue = o.queue ∧ q.tag = m.wordTag w ∧ ∀ x ∈ q.loads, x ∈ o.loads := by
  obtain ⟨vs, ps, h, -, hps⟩ := m.counted_shape o.writes
  refine ⟨vs, ps, _, by simp only [result, h, hw, hv, if_false, if_true]; rfl, hps, rfl, rfl, rfl, fun x hx => ?_⟩
  obtain ⟨e, he, rfl⟩ := List.mem_map.mp hx
  exact List.fst_mem_of_mem_zipIdx (List.mem_of_mem_filter he)

@[simp] theorem result_bare : (m.result w free now o).bare = m.bare := by
  cases hv : o.var with
  | false =>
    obtain ⟨vs, ps, ts, -, h⟩ := m.result_fixed w free now hv
    rw [h]
    split
    · exact writeNow_bare _ _
    · exact writeUnder_bare _ _ _
  | true =>
    by_cases hw : o.writes = []
    · obtain ⟨vs, ps, h, -⟩ := m.counted_shape []
      simp only [result, hw, h, if_true]
      rfl
    · obtain ⟨vs, ps, q, h, -⟩ := m.result_late w free now hv hw
      rw [h]
      rfl

/-! #### Flags and generators -/

/-- A change of lanes that leaves their registers leaves the register file. -/
theorem mapLanes_file {g : Nat → Lane → Lane} (hv : ∀ k x, (g k x).v = x.v) (hp : ∀ k x, (g k x).p = x.p) (p : Place) :
    ({ m with lanes := m.lanes.map (fun e => (e.1, g e.1 e.2)) } : Member).file p = m.file p := by
  have hl (l : Nat) : ({ m with lanes := m.lanes.map (fun e => (e.1, g e.1 e.2)) } : Member).lane l = (m.lane l).map (g l) := look_mapVal g m.lanes l
  cases p with
  | s | cb | d => rfl
  | v l r => rw [file_v, file_v, hl]; cases m.lane l <;> simp [hv]
  | p l r => rw [file_p, file_p, hl]; cases m.lane l <;> simp [hp]

theorem raise_lane (fl : List (Nat × BitVec 5)) (l : Nat) : (m.raise fl).lane l = (m.lane l).map (fun x =>
    { x with flags := (fl.filter (fun e => e.1 = l)).foldl (fun acc e => acc ||| e.2) x.flags }) :=
  look_mapVal (fun l (x : Lane) => { x with flags := (fl.filter (fun e => e.1 = l)).foldl (fun acc e => acc ||| e.2) x.flags }) m.lanes l

theorem foldl_rng (rs : List (Nat × Word)) (x : Lane) :
    rs.foldl (fun acc e => { acc with rng := e.2 }) x = { x with rng := (rs.getLast?.map (·.2)).getD x.rng } := by
  induction rs generalizing x with
  | nil => rfl
  | cons e rs ih => rw [List.foldl_cons, ih]; cases h : rs.getLast? <;> simp [List.getLast?_cons, h]

theorem reseed_eq (rs : List (Nat × Word)) : m.reseed rs = { m with lanes := m.lanes.map (fun e =>
    (e.1, { e.2 with rng := ((rs.filter (fun x => x.1 = e.1)).getLast?.map (·.2)).getD e.2.rng })) } := by
  simp only [reseed, foldl_rng]

theorem reseed_lane (rs : List (Nat × Word)) (l : Nat) : (m.reseed rs).lane l = (m.lane l).map (fun x =>
    { x with rng := ((rs.filter (fun e => e.1 = l)).getLast?.map (·.2)).getD x.rng }) := by
  rw [reseed_eq]
  exact look_mapVal (fun l (x : Lane) => { x with rng := ((rs.filter (fun e => e.1 = l)).getLast?.map (·.2)).getD x.rng }) m.lanes l

@[simp] theorem raise_file (fl : List (Nat × BitVec 5)) (p : Place) : (m.raise fl).file p = m.file p :=
  m.mapLanes_file (g := fun l x => { x with flags := (fl.filter (fun e => e.1 = l)).foldl (fun acc e => acc ||| e.2) x.flags })
    (fun _ _ => rfl) (fun _ _ => rfl) p

@[simp] theorem reseed_file (rs : List (Nat × Word)) (p : Place) : (m.reseed rs).file p = m.file p := by
  rw [reseed_eq]
  exact m.mapLanes_file (g := fun l x => { x with rng := ((rs.filter (fun e => e.1 = l)).getLast?.map (·.2)).getD x.rng })
    (fun _ _ => rfl) (fun _ _ => rfl) p

@[simp] theorem raise_present (fl : List (Nat × BitVec 5)) : (m.raise fl).present = m.present := by simp [raise, present]
@[simp] theorem reseed_present (rs : List (Nat × Word)) : (m.reseed rs).present = m.present := by simp [reseed, present]

end Member

/-- A flag is set once it stands before or is raised. -/
theorem getLsbD_foldl_or (fl : List (Nat × BitVec 5)) (l i : Nat) (x : BitVec 5) :
    ((fl.filter (fun e => e.1 = l)).foldl (fun acc e => acc ||| e.2) x).getLsbD i =
      (x.getLsbD i || fl.any (fun e => decide (e.1 = l) && e.2.getLsbD i)) := by
  induction fl generalizing x with
  | nil => simp
  | cons e fl ih => by_cases h : e.1 = l <;> simp [h, ih, Bool.or_assoc]

/-! #### The member after a word that goes straight on -/

/-- The lanes of a member that all go on at one PC. -/
theorem distinctPcs_same {l : List (Nat × Word)} {pc : Word} (hl : l ≠ []) (h : ∀ e ∈ l, e.2 = pc) : distinctPcs l = [pc] := by
  have stays (l : List (Nat × Word)) (h : ∀ e ∈ l, e.2 = pc) :
      l.foldl (fun acc e => if acc.contains e.2 then acc else acc ++ [e.2]) [pc] = [pc] := by
    induction l with
    | nil => rfl
    | cons e l ih =>
      obtain ⟨he, hl⟩ := List.forall_mem_cons.mp h
      simpa [he] using ih hl
  cases l with
  | nil => exact absurd rfl hl
  | cons e l =>
    obtain ⟨he, hl⟩ := List.forall_mem_cons.mp h
    simpa [distinctPcs, he] using stays l hl

theorem distinctPcs_straight {m : Member} (h : m.present ≠ []) : distinctPcs (nextPcs m []) = [m.pc + 1] := by
  refine distinctPcs_same (by simpa [nextPcs] using h) (fun e he => ?_)
  obtain ⟨l, -, rfl⟩ := List.mem_map.mp he
  rfl

/-- A word without a target moves its member on by one (R76). -/
theorem advance_straight {s : State} {tk mid : Nat} {m : Member} (hm : s.memberAt tk mid = some m) (hp : m.present ≠ []) :
    (advance s tk mid []).memberAt tk mid = some { m with pc := m.pc + 1 } := by
  have hu := memberAt_updMember s tk mid (fun x => { x with pc := m.pc + 1 }) (fun _ => rfl)
  rw [hm] at hu
  refine Eq.trans ?_ hu
  obtain ⟨t, ht, htm⟩ := Option.bind_eq_some_iff.mp hm
  simp [advance, State.memberAt, State.updMember, ht, htm, distinctPcs_straight hp]

section
variable {r : CRow} {w : CWord} {s : State} {c : Ctx}

theorem Attempts.memberAt (h : Attempts r w s c) : c.s.memberAt c.tk c.m.id = some c.m := by
  obtain ⟨ht, id, hm⟩ := issuer_finds h.who
  have hid : c.m.id = id := by simpa using List.find?_some hm
  rw [h.state, hid]
  exact Option.bind_eq_some_iff.mpr ⟨c.t, ht, hm⟩

theorem ctxOf_act_present {s : State} {tk : Nat} {t : Team} {m : Member} {op : Nat} {w : CWord} {l : Nat}
    (h : l ∈ (ctxOf s tk t m op w).act) : l ∈ m.present := by
  simp only [ctxOf] at h
  split at h <;> simp_all only [List.mem_filter]

theorem Checks.present_ne_nil (h : Checks r w s c) : c.m.present ≠ [] := by
  obtain ⟨l, hl⟩ := List.exists_mem_of_ne_nil _ h.active
  rw [h.ctx] at hl
  exact List.ne_nil_of_mem (ctxOf_act_present hl)

/-- A member with a word's flags, draws and charge, before its result. -/
def Ctx.flagged (c : Ctx) (o : Out) (m : Member) : Member :=
  { (m.raise o.flags).reseed o.rng with weir := c.chargedWeir ((m.raise o.flags).reseed o.rng) }

/-- A member with all that a word leaves in it but its next PC. -/
def Ctx.finished (c : Ctx) (o : Out) (m : Member) : Member :=
  { (((c.flagged o m).result c.w c.s.free c.s.now o).stamp c.s.now c.w.common.y) with pcmask := 0, cont := none, park := none, queued := none }

@[simp] theorem Ctx.flagged_file (c : Ctx) (o : Out) (m : Member) (p : Place) : (c.flagged o m).file p = m.file p :=
  (Member.reseed_file _ _ p).trans (Member.raise_file _ _ p)

@[simp] theorem Ctx.flagged_present (c : Ctx) (o : Out) (m : Member) : (c.flagged o m).present = m.present :=
  (Member.reseed_present _ _).trans (Member.raise_present _ _)

theorem Ctx.finished_present (c : Ctx) (o : Out) (m : Member) : (c.finished o m).present = m.present :=
  (Member.present_of_bare ((c.flagged o m).result_bare ..)).trans (c.flagged_present o m)

theorem Ctx.finished_pc (c : Ctx) (o : Out) (m : Member) : (c.finished o m).pc = m.pc :=
  (Member.pc_of_bare ((c.flagged o m).result_bare ..)).trans rfl

theorem Ctx.finished_id (c : Ctx) (o : Out) (m : Member) : (c.finished o m).id = m.id :=
  (Member.id_of_bare ((c.flagged o m).result_bare ..)).trans rfl

theorem complete_eq (c : Ctx) (o : Out) : complete c c.s o = advance (c.draw ((c.s.updMember c.tk c.m.id (c.finished o)).freed
    (if o.var then o.writes.length + o.loads.length else 0))) c.tk c.m.id o.next := rfl

theorem Ctx.draw_teams (c : Ctx) (s : State) : (c.draw s).teams = s.teams := by
  unfold Ctx.draw
  split <;> rfl

theorem memberAt_of_teams {s s' : State} (h : s'.teams = s.teams) (tk mid : Nat) : s'.memberAt tk mid = s.memberAt tk mid := by
  rw [State.memberAt, State.memberAt, h]

/-- The member after a word that completes and goes straight on. -/
theorem complete_member (h : Issues r w s c) {o : Out} (hn : o.next = []) :
    (complete c c.s o).memberAt c.tk c.m.id = some { c.finished o c.m with pc := c.m.pc + 1 } := by
  have hm := memberAt_updMember c.s c.tk c.m.id (c.finished o) (c.finished_id o)
  rw [h.memberAt] at hm
  rw [complete_eq, hn, ← c.finished_pc o]
  exact advance_straight ((memberAt_of_teams (c.draw_teams _) _ _).trans hm) (c.finished_present o c.m ▸ h.present_ne_nil)

end

/-! #### A window of producer distance -/
namespace Member

variable {m : Member} {v : Window} {p : Place}

theorem writeUnder_windows (m : Member) (n : Nat) (ws : List (Place × Nat)) : (m.writeUnder n ws).windows =
    m.windows ++ [{ left := n, handler := m.trap.inh, word := m.words, dest := ws.map (·.1), old := ws.map (fun e => (e.1, m.file e.1)) }] := by
  have hw : (ws.foldl (fun m e => m.put e.1 e.2) m).windows = m.windows := foldl_keeps (·.windows) (fun m e => put_windows m e.1 e.2) ws m
  have hb : (ws.foldl (fun m e => m.put e.1 e.2) m).bare = m.bare := foldl_keeps bare (fun m e => put_bare m e.1 e.2) ws m
  have hwords : (ws.foldl (fun m e => m.put e.1 e.2) m).words = m.words :=
    show (ws.foldl (fun m e => m.put e.1 e.2) m).bare.words = m.bare.words by rw [hb]
  simp only [writeUnder, hw, trap_of_bare hb, hwords]

/-- The old value that a window holds of a place that its word writes. -/
theorem find?_old {ws : List (Place × Nat)} (f : Place → Nat) (h : ∃ e ∈ ws, e.1 = p) :
    (ws.map (fun e => (e.1, f e.1))).find? (fun e => e.1 == p) = some (p, f p) := by
  induction ws with
  | nil => simp at h
  | cons e ws ih =>
    by_cases he : e.1 = p
    · simp [he]
    · simpa [he] using ih (by simpa [he] using h)

theorem countWord_window (hw : m.windows = [v]) (hh : v.handler = m.trap.inh) :
    m.countWord.windows = if v.left - 1 = 0 then [] else [{ v with left := v.left - 1 }] := by
  simp [countWord, closeWindows, keepWindows, hw, hh]

theorem iterate_countWord_file (m : Member) (k : Nat) (p : Place) : (countWord^[k] m).file p = m.file p := by
  induction k generalizing m with
  | zero => rfl
  | succ k ih => rw [Function.iterate_succ_apply, ih]; rfl

theorem iterate_countWord_trap (m : Member) (k : Nat) : (countWord^[k] m).trap = m.trap := by
  induction k generalizing m with
  | zero => rfl
  | succ k ih => rw [Function.iterate_succ_apply, ih]; rfl

/-- A window stays open for the words that it contains (R105). -/
theorem iterate_countWord_windows (hw : m.windows = [v]) (hh : v.handler = m.trap.inh) {k : Nat} (hk : k < v.left) :
    (countWord^[k] m).windows = [{ v with left := v.left - k }] := by
  induction k with
  | zero => exact hw
  | succ k ih =>
    have hs := ih (by omega)
    rw [Function.iterate_succ_apply', countWord_window hs (by rw [iterate_countWord_trap]; exact hh), if_neg (by simp only; omega)]
    simp only [Nat.sub_sub]

/-- The word after a window closes it (R105). -/
theorem iterate_countWord_closed (hw : m.windows = [v]) (hh : v.handler = m.trap.inh) (h0 : v.left ≠ 0) :
    (countWord^[v.left] m).windows = [] := by
  obtain ⟨k, hk⟩ := Nat.exists_eq_succ_of_ne_zero h0
  have hs := iterate_countWord_windows (k := k) hw hh (by omega)
  rw [hk, Function.iterate_succ_apply', countWord_window hs (by rw [iterate_countWord_trap]; exact hh), if_pos (by simp only; omega)]

/-- Inside its window a place reads the window's old value (R105, R106). -/
theorem windowed_inside {e : Place × Nat} (hw : m.windows = [v]) (hh : v.handler = m.trap.inh) (he : v.old.find? (fun e => e.1 == p) = some e)
    {k : Nat} (hk : k < v.left) : (countWord^[k] m).windowed p = e.2 := by
  refine windowed_of_window (iterate_countWord_windows hw hh hk) ?_ he
  rw [iterate_countWord_trap, hh]
  cases m.trap.inh <;> simp

/-- After its window a place reads the file (R105, R106). -/
theorem windowed_past (hw : m.windows = [v]) (hh : v.handler = m.trap.inh) (h0 : v.left ≠ 0) (p : Place) :
    (countWord^[v.left] m).windowed p = m.file p := by
  rw [windowed_of_clear (by simp [Clear, iterate_countWord_closed hw hh h0]), iterate_countWord_file]

end Member

/-! #### The write-back of a pending result -/

theorem performed_keys (q : Pending) (s : State) (t : Team) : (q.performed s t).writes.map (·.1) = q.writes.map (·.1) := by
  simp only [Pending.performed, List.map_map]
  refine List.map_congr_left (fun e _ => ?_)
  simp only [Function.comp_apply]
  split <;> rfl

/-- A result whose loads have all been performed is written as it stands. -/
theorem performed_of_no_loads {q : Pending} (h : q.loads = []) (s : State) (t : Team) : q.performed s t = q := by
  cases q
  cases h
  simp [Pending.performed]

theorem forall_key {ws ws' : List (Place × Nat)} (h : ws'.map (·.1) = ws.map (·.1)) (P : Place → Prop) :
    (∀ e ∈ ws', P e.1) ↔ ∀ e ∈ ws, P e.1 := by
  have := congrArg (fun l : List Place => ∀ p ∈ l, P p) h
  simpa only [List.forall_mem_map, eq_iff_iff] using this

theorem lastWrite_eq_none {ws : List (Place × Nat)} {p : Place} : lastWrite ws p = none ↔ ∀ e ∈ ws, e.1 ≠ p := by
  simp [lastWrite]

theorem mark_keys {ws ws' : List (Place × Nat)} (h : ws'.map (·.1) = ws.map (·.1)) (x : Pending) : x.mark ws' = x.mark ws := by
  have hany (p : Place) : ws'.any (fun e => e.1 == p) = ws.any (fun e => e.1 == p) := by
    have := congrArg (fun l : List Place => l.any (· == p)) h
    simpa only [List.any_map, Function.comp_def] using this
  simp only [Pending.mark, hany]

theorem tagBit_getLsbD {g : Nat} (h : g < 6) : (tagBit (some g)).getLsbD g = true := by simp [tagBit, h]

theorem pendTags_one (q : Pending) : pendTags [q] = tagBit q.tag := by
  cases h : q.tag <;> simp [pendTags, tagBit, h]

section
variable {s : State} {u : Team} {m : Member} {tk mid k : Nat} {q : Pending}

theorem inTurn_iff (hq : m.pend[k]? = some q) : inTurn s u m k = true ↔ ∀ n, q.queue = some n →
    (∀ x ∈ m.pend.take k, x.queue ≠ some n) ∧ ∀ x ∈ queueWords s u.seat.core (portOf m.slot) n, q.since ≤ x.since := by
  cases h : q.queue <;> simp [inTurn, hq, h]

/-- A member whose pending result at an index is written, with the values that its loads have read (R99, R109). -/
def Member.written (m : Member) (k : Nat) (q : Pending) : Member := ({ m with pend := m.pend.set k q } : Member).writeBack k

theorem written_eq (hq : m.pend[k]? = some q) (q' : Pending) : m.written k q' =
    { ({ m with pend := m.pend.set k q' } : Member).land q' with
      pend := (m.pend.eraseIdx k).map (·.mark q'.writes), tags := m.tags &&& ~~~ tagBit q'.tag } := by
  obtain ⟨hk, -⟩ := List.getElem?_eq_some_iff.mp hq
  simp [Member.written, Member.writeBack, hk, pendTags_one, List.eraseIdx_set_eq]

theorem written_id (m : Member) (k : Nat) (q : Pending) : (m.written k q).id = m.id := by
  unfold Member.written Member.writeBack
  split
  · rfl
  · exact Member.id_of_bare (Member.land_bare _ _)

/-- What a place holds after a write-back: the last write of the result where it stands, and else what it held (R109, R111). -/
theorem written_file (hq : m.pend[k]? = some q) {q' : Pending} (hh : ∀ e ∈ q'.writes, m.has e.1) (p : Place) :
    (m.written k q').file p = if q'.stands p = true then ((lastWrite q'.writes p).map p.cut).getD (m.file p) else m.file p := by
  rw [written_eq hq]
  exact Member.land_file (m := { m with pend := m.pend.set k q' }) hh p

/-- A result stands where no other has been written over its place (R111). -/
theorem stands_of_not_over {p : Place} (h : p ∉ q.overs) : q.stands p = true := by simp [Pending.stands, h]

/-- A result that stands where no later word's window holds its place is read at once (R106). -/
theorem written_windowed (hq : m.pend[k]? = some q) {q' : Pending} {p : Place} (hh : ∀ e ∈ q'.writes, m.has e.1)
    (hc : m.ClearAfter q' p) (hs : q'.stands p = true) {x : Nat} (hx : lastWrite q'.writes p = some x) :
    (m.written k q').windowed p = p.cut x := by
  have hcl : (m.written k q').Clear p := by
    rw [written_eq hq]
    exact Member.land_clear (m := { m with pend := m.pend.set k q' }) hc hs (exists_of_lastWrite hx)
  rw [Member.windowed_of_clear hcl, written_file hq hh, hs, hx]
  rfl

/-- A landing under a later word's window of its place is read inside that window (R106, log entry 94). -/
theorem written_inside (hq : m.pend[k]? = some q) {q' : Pending} {p : Place} {v : Window} {o x : Nat} (hv : m.windows = [v])
    (hw : q'.word < v.word) (ho : v.old = [(p, o)]) (hi : m.trap.inh = false ∨ v.handler = true) (hx : lastWrite q'.writes p = some x) :
    (m.written k q').windowed p = p.cut x := by
  have hv' : ({ m with pend := m.pend.set k q' } : Member).windows = [{ v with old := [(p, o)] }] := by rw [← ho]; exact hv
  have hl : (m.written k q').windows = [{ v with old := [(p, p.cut x)] }] := by
    rw [written_eq hq]
    refine (Member.foldl_landOne_window hw q'.writes hv').trans ?_
    rw [hx]; rfl
  have ht : (m.written k q').trap = m.trap := by
    rw [written_eq hq]
    exact Member.trap_of_bare (Member.land_bare { m with pend := m.pend.set k q' } q')
  exact Member.windowed_of_window (e := (p, p.cut x)) hl (ht ▸ hi) (by simp)

/-- The pending results that remain note the places that the written one shares with them (R111). -/
theorem written_pend (hq : m.pend[k]? = some q) (s : State) (u : Team) :
    (m.written k (q.performed s u)).pend = (m.pend.eraseIdx k).map (·.mark q.writes) := by
  simp only [written_eq hq, mark_keys (performed_keys q s u)]

theorem written_frees (hq : m.pend[k]? = some q) {q' : Pending} {g : Nat} (hg : q'.tag = some g) (h : g < 6) :
    (m.written k q').tags.getLsbD g = false := by
  simp [written_eq hq, hg, tagBit_getLsbD h]

theorem written_untagged (hq : m.pend[k]? = some q) {q' : Pending} (hg : q'.tag = none) : (m.written k q').tags = m.tags := by
  rw [written_eq hq, hg]
  exact BitVec.and_allOnes

/-- Either of two results of one place stands (R111). -/
theorem written_either (hq : m.pend[k]? = some q) {q' : Pending} (hh : ∀ e ∈ q'.writes, m.has e.1) {p : Place} {x : Nat}
    (hx : lastWrite q'.writes p = some x) :
    (m.written k q').file p = p.cut x ∨ p ∈ q'.overs ∧ (m.written k q').file p = m.file p := by
  rw [written_file hq hh, hx]
  by_cases hs : q'.stands p = true
  · exact .inl (if_pos hs)
  · exact .inr ⟨by_contra fun ho => hs (stands_of_not_over ho), if_neg hs⟩

theorem written_frame (hq : m.pend[k]? = some q) {q' : Pending} (hh : ∀ e ∈ q'.writes, m.has e.1) {p : Place}
    (hp : lastWrite q'.writes p = none) : (m.written k q').file p = m.file p := by
  rw [written_file hq hh, hp]
  exact ite_self _

/-- A load that had not been performed reads its bytes as its team sees them now (R99). -/
theorem written_load (hq : m.pend[k]? = some q) {p : Place} {x : Nat} {ld : LateLoad} (hh : m.has p) (hw : q.writes = [(p, x)])
    (hl : q.loads = [ld]) (hp : ld.place = p) (ho : q.overs = []) (s : State) (u : Team) :
    (m.written k (q.performed s u)).file p = p.cut (loaded ld.ty (ld.pas.map (readByte s u)) % 2 ^ 32) := by
  have hw' : (q.performed s u).writes = [(p, loaded ld.ty (ld.pas.map (readByte s u)) % 2 ^ 32)] := by simp [Pending.performed, hw, hl, hp]
  have hs : (q.performed s u).stands p = true := stands_of_not_over (by simp [Pending.performed, ho])
  rw [written_file hq (by simpa [hw'] using hh), if_pos hs, hw']
  simp [lastWrite]

end

/-! #### What each kind of result leaves -/

theorem Ctx.flagged_lane (c : Ctx) (o : Out) (m : Member) (l : Nat) : (c.flagged o m).lane l = (m.lane l).map (fun x =>
    { x with
      flags := (o.flags.filter (fun e => e.1 = l)).foldl (fun acc e => acc ||| e.2) x.flags
      rng := ((o.rng.filter (fun e => e.1 = l)).getLast?.map (·.2)).getD x.rng }) := by
  have h : (c.flagged o m).lane l = ((m.raise o.flags).reseed o.rng).lane l := rfl
  rw [h, Member.reseed_lane, Member.raise_lane, Option.map_map]
  rfl

/-- The flags and the generator of a lane after a word (R39, R41). -/
theorem Ctx.finished_lane {c : Ctx} {l : Nat} (o : Out) (hl : l ∈ c.m.present) :
    (∀ i, ((c.finished o c.m).laneFlags l).getLsbD i =
      ((c.m.laneFlags l).getLsbD i || o.flags.any (fun e => decide (e.1 = l) && e.2.getLsbD i))) ∧
    ((c.finished o c.m).lane l).map (·.rng) = some (((o.rng.filter (fun e => e.1 = l)).getLast?.map (·.2)).getD (c.rng l)) := by
  obtain ⟨x, hx⟩ := Member.lane_of_present hl
  have h := Member.lane_of_bare ((c.flagged o c.m).result_bare c.w c.s.free c.s.now o) l
  rw [c.flagged_lane, hx] at h
  obtain ⟨y, hy, hyx⟩ := Option.map_eq_some_iff.mp h
  obtain ⟨hf, hr⟩ := Prod.mk.inj hyx
  have hy' : (c.finished o c.m).lane l = some y := hy
  simp only [Member.laneFlags, Ctx.rng, hy', hx, Option.map_some, Option.getD_some, hf, hr, getLsbD_foldl_or, implies_true, and_self]

section
variable {r : CRow} {w : CWord} {s : State} {c : Ctx} {o : Out}

/-- A fixed-latency result without a window stands in the register file at once, and is read from it (R104, R106). -/
theorem Ctx.finished_now (hv : o.var = false) (hpd : c.w.common.pd = 0) (hh : ∀ e ∈ o.writes, c.m.has e.1) (p : Place) :
    (c.finished o c.m).file p = ((lastWrite o.writes p).map p.cut).getD (c.m.file p) ∧
    ((∃ e ∈ o.writes, e.1 = p) → (c.finished o c.m).windowed p = (c.finished o c.m).file p) := by
  obtain ⟨vs, ps, ts, -, h⟩ := (c.flagged o c.m).result_fixed c.w c.s.free c.s.now hv
  rw [if_pos (.inr hpd)] at h
  have hh' : ∀ e ∈ o.writes, ({ c.flagged o c.m with windows := vs, pend := ps, tags := ts } : Member).has e.1 :=
    fun e he => (Member.has_of_present (c.flagged_present o c.m) e.1).mpr (hh e he)
  have hf := (Member.writeNow_file hh' p).trans (congrArg _ (c.flagged_file o c.m p))
  constructor
  · rw [← hf, ← h]; rfl
  · intro hp
    refine Member.windowed_of_clear (?_ : ((c.flagged o c.m).result c.w c.s.free c.s.now o).Clear p)
    rw [h]
    exact Member.writeNow_clear _ hp

/-- A fixed-latency result under a window: the file holds it, and the window its old values (R105). -/
theorem Ctx.finished_under (hv : o.var = false) (hpd : c.w.common.pd ≠ 0) (hh : ∀ e ∈ o.writes, c.m.has e.1) (hw : o.writes ≠ [])
    (hm : c.m.windows = []) :
    (∀ p, (c.finished o c.m).file p = ((lastWrite o.writes p).map p.cut).getD (c.m.file p)) ∧
    ∃ v : Window, (c.finished o c.m).windows = [v] ∧ v.left = c.w.common.pd.toNat ∧ v.handler = (c.finished o c.m).trap.inh ∧
      v.old = o.writes.map (fun e => (e.1, c.m.file e.1)) := by
  obtain ⟨vs, ps, ts, hvs, h⟩ := (c.flagged o c.m).result_fixed c.w c.s.free c.s.now hv
  rw [if_neg (not_or.mpr ⟨hw, hpd⟩), hvs hm] at h
  have hh' : ∀ e ∈ o.writes, ({ c.flagged o c.m with windows := [], pend := ps, tags := ts } : Member).has e.1 :=
    fun e he => (Member.has_of_present (c.flagged_present o c.m) e.1).mpr (hh e he)
  constructor
  · intro p
    rw [← c.flagged_file o c.m p]
    exact (congrArg (·.file p) h).trans (Member.writeUnder_file hh' _ p)
  · refine ⟨_, (congrArg (·.windows) h).trans (Member.writeUnder_windows ..), rfl, ?_, ?_⟩
    · exact congrArg (·.inh) (Member.trap_of_bare ((c.flagged o c.m).result_bare ..)).symm
    · exact List.map_congr_left (fun e _ => congrArg (Prod.mk e.1) (c.flagged_file o c.m e.1))

/-- A variable-latency result leaves the registers and stands last among the pending results (R109, R111). -/
theorem Ctx.finished_late (hv : o.var = true) (hw : o.writes ≠ []) (hc : c.m.cont = none) : ∃ q : Pending,
    (∀ p, (c.finished o c.m).file p = c.m.file p) ∧ (∃ ps, (c.finished o c.m).pend = ps ++ [q] ∧ ps.length = c.m.pend.length) ∧
    (c.finished o c.m).tags = c.m.tags ||| tagBit (taOf c.w) ∧ q.writes = o.writes ∧ q.queue = o.queue ∧ q.tag = taOf c.w ∧
    ∀ x ∈ q.loads, x ∈ o.loads := by
  obtain ⟨vs, ps, q, h, hps, hqw, hqq, hqt, hql⟩ := (c.flagged o c.m).result_late c.w c.s.free c.s.now hv hw
  have ht : (c.flagged o c.m).wordTag c.w = taOf c.w := by
    have hc' : (c.flagged o c.m).cont = none := hc
    simp only [Member.wordTag, hc']
  rw [ht] at h hqt
  refine ⟨q, fun p => ?_, ⟨ps, congrArg (·.pend) h, hps⟩, congrArg (·.tags) h, hqw, hqq, hqt, hql⟩
  exact (congrArg (·.file p) h).trans (c.flagged_file o c.m p)

end

/-! #### The event RESULT_WRITEBACK -/

section
variable {s : State} {u : Team} {m : Member} {tk mid k : Nat} {q : Pending}

/-- A result behind another of its queue waits (R103). -/
theorem resultWriteback_waits (hu : look s.teams tk = some u) (hm : u.member mid = some m) (hq : m.pend[k]? = some q)
    (hb : ¬∀ n, q.queue = some n →
      (∀ x ∈ m.pend.take k, x.queue ≠ some n) ∧ ∀ x ∈ queueWords s u.seat.core (portOf m.slot) n, q.since ≤ x.since) :
    exec (.resultWriteback tk mid k) s = .next s := by
  have ht : ¬inTurn s u m k = true := fun h => hb ((inTurn_iff hq).mp h)
  show execResultWriteback tk mid k s = .next s
  simp [execResultWriteback, hu, hm, hq, ht]

/-- A result in its turn is written, its loads performed (R99, R103, R109). -/
theorem resultWriteback_writes (hu : look s.teams tk = some u) (hm : u.member mid = some m) (hq : m.pend[k]? = some q)
    (ht : ∀ n, q.queue = some n →
      (∀ x ∈ m.pend.take k, x.queue ≠ some n) ∧ ∀ x ∈ queueWords s u.seat.core (portOf m.slot) n, q.since ≤ x.since) :
    ∃ s', exec (.resultWriteback tk mid k) s = .next s' ∧ s'.memberAt tk mid = some (m.written k (q.performed s u)) ∧ s'.mem = s.mem := by
  have hin := (inTurn_iff hq).mpr ht
  refine ⟨(s.sawLoads tk q).updMember tk mid (·.written k (q.performed s u)), ?_, ?_, rfl⟩
  · show execResultWriteback tk mid k s = _
    simp only [execResultWriteback, hu, hm, hq, hin, if_true, Member.written]
  · have hs : (s.sawLoads tk q).memberAt tk mid = some m := Option.bind_eq_some_iff.mpr ⟨u, hu, hm⟩
    rw [memberAt_updMember _ _ _ _ (fun m => written_id m k _), hs, Option.map_some]

end

end Sys2Proof.Machine

namespace Sys2Proof.Proofs
open Sys2Proof Sys2Proof.Machine

/-- Settles O26: a word that completes leaves its member `Ctx.finished`, whose flags, registers and windows are read off lane by lane and
place by place; a pending result is written by a fold of landings, each of which narrows the windows (`landOne_shape`). -/
theorem resultsStandByTheirDistanceOrTheirWriteback : Obligations.ResultsStandByTheirDistanceOrTheirWriteback := by
  refine ⟨?flags, ?now, ?window, ?late, ?waits, ?writes⟩
  case flags =>
    intro r w s c o l h hn hl
    obtain ⟨hf, hr⟩ := c.finished_lane o hl
    exact ⟨_, complete_member h hn, fun i _ => hf i, hr⟩
  case now =>
    intro r w s c o h hv hn hpd hh
    refine ⟨_, complete_member h hn, rfl, c.finished_present o c.m, fun p x hx => ?_, fun p hp => ?_⟩
    all_goals obtain ⟨hf, hw⟩ := Ctx.finished_now hv (h.word ▸ hpd) hh p
    · have hfx : (c.finished o c.m).file p = p.cut x := by rw [hf, hx]; rfl
      exact ⟨hfx, (hw (exists_of_lastWrite hx)).trans hfx⟩
    · exact hf.trans (by rw [hp]; rfl)
  case window =>
    intro r w s c o h hv hn hpd hh hw hm
    obtain rfl := h.word
    obtain ⟨hf, v, hwin, hleft, hinh, hold⟩ := Ctx.finished_under hv hpd hh hw hm
    have h0 : v.left ≠ 0 := fun h0 => hpd (BitVec.eq_of_toNat_eq (hleft.symm.trans h0))
    refine ⟨_, complete_member h hn, rfl, fun p x hx => ?_⟩
    rw [← hleft]
    constructor
    · intro k hk
      have he : v.old.find? (fun e => e.1 == p) = some (p, c.m.file p) := hold ▸ Member.find?_old _ (exists_of_lastWrite hx)
      exact Member.windowed_inside (m := { c.finished o c.m with pc := c.m.pc + 1 }) hwin hinh he hk
    · refine (Member.windowed_past (m := { c.finished o c.m with pc := c.m.pc + 1 }) hwin hinh h0 p).trans ((hf p).trans ?_)
      rw [hx]; rfl
  case late =>
    intro r w s c o h hv hn hw hc
    obtain ⟨q, hf, ⟨ps, hps, hlen⟩, htags, hqw, hqq, hqt, hql⟩ := Ctx.finished_late hv hw hc
    rw [h.word] at htags hqt
    refine ⟨_, q, complete_member h hn, hf, ?_, hqw, hqq, hql, ?_, fun ht => ?_, fun ht => ?_⟩
    · exact (congrArg List.getLast? hps).trans List.getLast?_concat
    · exact (congrArg List.length hps).trans (by rw [List.length_append, hlen]; rfl)
    · have hta : taOf w = some w.common.ta.toNat := if_pos ht
      have htags' : (c.finished o c.m).tags.getLsbD w.common.ta.toNat = true := by
        rw [htags, hta, BitVec.getLsbD_or, tagBit_getLsbD (by omega), Bool.or_true]
      exact ⟨hqt.trans hta, htags'⟩
    · have hta : taOf w = none := if_neg (by omega)
      exact ⟨hqt.trans hta, htags.trans (by rw [hta]; exact BitVec.or_zero)⟩
  case waits =>
    intro s tk mid k u m q hu hm hq hbefore hn
    obtain ⟨n, hqn⟩ := Option.ne_none_iff_exists'.mp hn
    refine resultWriteback_waits hu hm hq (fun hturn => ?_)
    obtain ⟨hown, hport⟩ := hturn n hqn
    rcases hbefore n hqn with ⟨x, hx, hxn⟩ | ⟨x, hx, hlt⟩
    · exact hown x hx hxn
    · exact absurd (hport x hx) (by omega)
  case writes =>
    intro s tk mid k u m q hu hm hq hh hturn
    obtain ⟨s', hx, hm', hmem⟩ := resultWriteback_writes hu hm hq hturn
    have hkeys := performed_keys q s u
    refine ⟨s', _, hx, hm', hmem, written_pend hq s u, fun p hp => ?frame, fun g hg h6 => written_frees hq hg h6,
      written_untagged (q' := q.performed s u) hq, fun hl p x hx => ?_,
      fun p x ld hw hl hp ho _ => written_load hq (hh (p, x) (by simp [hw])) hw hl hp ho s u⟩
    case frame =>
      exact written_frame hq ((forall_key hkeys m.has).mpr hh) (lastWrite_eq_none.mpr ((forall_key hkeys (· ≠ p)).mpr (lastWrite_eq_none.mp hp)))
    rw [performed_of_no_loads hl]
    exact ⟨written_either hq hh hx, fun hc ho => written_windowed hq hh hc (stands_of_not_over ho) hx,
      fun v o hv hw ho hi => written_inside hq hv hw ho hi hx⟩

end Sys2Proof.Proofs

/-! ### The bits of a Calud word (O37) -/

namespace Sys2Proof.Machine

theorem field_toNat {w : Nat} (x : BitVec w) (lo n : Nat) : (field x lo n).toNat = x.toNat / 2 ^ lo % 2 ^ n := by
  simp [field, Nat.shiftRight_eq_div_pow]

theorem getLsbD_toNat {w : Nat} (x : BitVec w) (i : Nat) : (x.getLsbD i).toNat = x.toNat / 2 ^ i % 2 := by
  rw [← BitVec.testBit_toNat, Nat.toNat_testBit]

theorem bool_eq_iff_toNat (a b : Bool) : a = b ↔ a.toNat = b.toNat := by
  cases a <;> cases b <;> decide

/-- The common fields of a word as its lowest 21 bits (R51). -/
def commonBits (m : Common) : Nat :=
  m.pd.toNat + 2 ^ 3 * m.ta.toNat + 2 ^ 6 * m.tw.toNat + 2 ^ 12 * m.ru.toNat + 2 ^ 13 * m.y.toNat + 2 ^ 14 * m.g.toNat + 2 ^ 20 * m.gn.toNat

theorem commonBits_lt (m : Common) : commonBits m < 2 ^ 21 := by
  have := m.gn.toNat_le; have := m.y.toNat_le; have := m.ru.toNat_le
  simp only [commonBits]
  omega

theorem commonOf_eq_iff (b : BitVec 80) (m : Common) : commonOf b = m ↔ b.toNat % 2 ^ 21 = commonBits m := by
  obtain ⟨gn, g, y, ru, tw, ta, pd⟩ := m
  have := gn.toNat_le; have := y.toNat_le; have := ru.toNat_le
  simp only [commonOf, commonBits, Common.mk.injEq, ← BitVec.toNat_inj, bool_eq_iff_toNat, field_toNat, getLsbD_toNat]
  omega

theorem tokenBits_lt (k : Option (BitVec 6)) : tokenBits k < 128 := by
  cases k with
  | none => decide
  | some t => simp only [tokenBits]; omega

theorem tokenOf_eq_some_iff (b : BitVec 80) (lo valid : Nat) (k : Option (BitVec 6)) :
    tokenOf b lo valid = some k ↔ b.toNat / 2 ^ lo % 2 ^ 6 + 2 ^ 6 * (b.toNat / 2 ^ valid % 2) = tokenBits k := by
  rw [← getLsbD_toNat b valid, ← field_toNat b lo 6, tokenOf]
  cases b.getLsbD valid <;> cases k <;> simp [tokenBits, ← BitVec.toNat_inj] <;> omega

theorem bodyBits_lt (body : Body) : bodyBits body < 2 ^ 48 := by
  cases body with
  | r d a b c m => simp only [bodyBits]; omega
  | i d a imm => simp only [bodyBits]; omega
  | b d a off => simp only [bodyBits]; omega
  | e d a b k1 k2 k3 crq sub =>
    have := tokenBits_lt k1; have := tokenBits_lt k2; have := tokenBits_lt k3; have := crq.toNat_le
    simp only [bodyBits]; omega

theorem div_above (x m k : Nat) : x / 2 ^ (m + k) = x / 2 ^ m / 2 ^ k := by rw [Nat.div_div_eq_div_mul, ← Nat.pow_add]

/-- The digits of the upper half of a format-E word: the second and third token, their valid bits, and SUB (R58). -/
theorem tail_digits_iff {R k2 k3 s : Nat} (h2 : k2 < 128) (h3 : k3 < 128) :
    R = k2 % 64 + 64 * (k3 % 64) + 2 ^ 12 * (k2 / 64) + 2 ^ 13 * (k3 / 64) + 2 ^ 14 * s ↔
      R % 2 ^ 6 + 2 ^ 6 * (R / 2 ^ 12 % 2) = k2 ∧ R / 2 ^ 6 % 2 ^ 6 + 2 ^ 6 * (R / 2 ^ 13 % 2) = k3 ∧ R / 2 ^ 14 = s := by
  obtain ⟨v2, hv2⟩ : ∃ v, k2 / 64 = v := ⟨_, rfl⟩
  obtain ⟨v3, hv3⟩ : ∃ v, k3 / 64 = v := ⟨_, rfl⟩
  rw [hv2, hv3]
  constructor
  · intro h
    have h6 : R / 2 ^ 6 = k3 % 64 + 2 ^ 6 * v2 + 2 ^ 7 * v3 + 2 ^ 8 * s := by omega
    have h12 : R / 2 ^ 12 = v2 + 2 * v3 + 4 * s := by omega
    have h13 : R / 2 ^ 13 = v3 + 2 * s := by omega
    have h14 : R / 2 ^ 14 = s := by omega
    rw [h6, h12, h13, h14]
    omega
  · rintro ⟨a, b, c⟩
    have h13 : R / 2 ^ 12 / 2 = R / 2 ^ 13 := Nat.div_div_eq_div_mul R (2 ^ 12) 2
    have h14 : R / 2 ^ 13 / 2 = R / 2 ^ 14 := Nat.div_div_eq_div_mul R (2 ^ 13) 2
    have h12 : R / 2 ^ 6 / 2 ^ 6 = R / 2 ^ 12 := Nat.div_div_eq_div_mul R (2 ^ 6) (2 ^ 6)
    omega

/-- The digits of a format-E word above its common fields (R55, R58). -/
theorem engine_digits {x d a y k q R : Nat} (h : x / 2 ^ 32 = d + 2 ^ 8 * a + 2 ^ 16 * y + 2 ^ 24 * (k + 128 * q) + 2 ^ 32 * R)
    (hd : d < 2 ^ 6) (ha : a < 2 ^ 8) (hy : y < 2 ^ 8) (hk : k < 128) (hq : q ≤ 1) :
    x / 2 ^ 32 % 2 ^ 6 = d ∧ x / 2 ^ 38 % 2 ^ 2 = 0 ∧ x / 2 ^ 40 % 2 ^ 8 = a ∧ x / 2 ^ 48 % 2 ^ 8 = y ∧
      x / 2 ^ 56 % 2 ^ 6 + 2 ^ 6 * (x / 2 ^ 62 % 2) = k ∧ x / 2 ^ 63 % 2 = q ∧ x / 2 ^ 64 = R := by
  have h56 : x / 2 ^ 56 = k + 128 * q + 2 ^ 8 * R := by omega
  refine ⟨by omega, by omega, by omega, by omega, ?_, ?_, by omega⟩
  · rw [div_above x 56 6, h56]
    clear h h56
    omega
  · rw [div_above x 56 7, h56]
    clear h h56
    omega

theorem field_eq_iff {w : Nat} (x : BitVec w) (lo n : Nat) (y : BitVec n) : field x lo n = y ↔ x.toNat / 2 ^ lo % 2 ^ n = y.toNat := by
  rw [← field_toNat, BitVec.toNat_inj]

theorem field_eq_ofNat_iff {w : Nat} (x : BitVec w) (lo n k : Nat) (hk : k < 2 ^ n) :
    field x lo n = BitVec.ofNat n k ↔ x.toNat / 2 ^ lo % 2 ^ n = k := by
  rw [← field_toNat, ← BitVec.toNat_inj, BitVec.toNat_ofNat, Nat.mod_eq_of_lt hk]

section
variable {b : BitVec 80}

/-- FMT of a word's bits (R51). -/
def fmtBits (b : BitVec 80) : Nat := b.toNat / 2 ^ 21 % 2 ^ 2

theorem bodyOf_eq (b : BitVec 80) : bodyOf b =
    if fmtBits b = 0 then some (.r (field b 32 8) (field b 40 8) (field b 48 8) (field b 56 8) (field b 64 16))
    else if fmtBits b = 1 then some (.i (field b 32 8) (field b 40 8) (field b 48 32))
    else if fmtBits b = 2 then some (.b (field b 32 8) (field b 40 8) (field b 48 32))
    else if b.toNat / 2 ^ 38 % 2 ^ 2 ≠ 0 then none
    else
      match tokenOf b 56 62, tokenOf b 64 76, tokenOf b 70 77 with
      | some k1, some k2, some k3 => some (.e (field b 32 6) (field b 40 8) (field b 48 8) k1 k2 k3 (b.getLsbD 63) (field b 78 2))
      | _, _, _ => none := by
  simp only [bodyOf, fmtBits, Ne, ← field_eq_ofNat_iff b 21 2 _ (by decide : 0 < 2 ^ 2), ← field_eq_ofNat_iff b 21 2 _ (by decide : 1 < 2 ^ 2),
    ← field_eq_ofNat_iff b 21 2 _ (by decide : 2 < 2 ^ 2), ← field_eq_ofNat_iff b 38 2 _ (by decide : 0 < 2 ^ 2)]
  rfl

/-- A word whose format and operand bits are a body's decodes to it. -/
theorem bodyOf_of_bits {body : Body} (hf : fmtBits b = fmtCode body) (hb : b.toNat / 2 ^ 32 = bodyBits body) : bodyOf b = some body := by
  rw [bodyOf_eq, hf]
  cases body with
  | r d a x y m =>
    simp only [bodyBits] at hb
    simp [fmtCode, ← BitVec.toNat_inj, field_toNat]
    omega
  | i d a imm =>
    simp only [bodyBits] at hb
    simp [fmtCode, ← BitVec.toNat_inj, field_toNat]
    omega
  | b d a off =>
    simp only [bodyBits] at hb
    simp [fmtCode, ← BitVec.toNat_inj, field_toNat]
    omega
  | e d a x k1 k2 k3 crq sub =>
    simp only [bodyBits] at hb
    obtain ⟨R, hR⟩ : ∃ R, R = tokenBits k2 % 64 + 64 * (tokenBits k3 % 64) + 2 ^ 12 * (tokenBits k2 / 64) + 2 ^ 13 * (tokenBits k3 / 64)
      + 2 ^ 14 * sub.toNat := ⟨_, rfl⟩
    rw [← hR] at hb
    obtain ⟨h2, h3, hs⟩ := (tail_digits_iff (tokenBits_lt k2) (tokenBits_lt k3)).mp hR
    obtain ⟨hd, hr, ha, hx, h1, hq, h64⟩ := engine_digits hb d.isLt a.isLt x.isLt (tokenBits_lt k1) crq.toNat_le
    rw [← h64, ← div_above] at h2 h3 hs
    rw [← div_above] at h3
    have h78 : b.toNat / 2 ^ 78 % 2 ^ 2 = sub.toNat := by rw [hs, Nat.mod_eq_of_lt sub.isLt]
    rw [← getLsbD_toNat, ← bool_eq_iff_toNat] at hq
    rw [← field_eq_iff] at hd ha hx h78
    rw [← tokenOf_eq_some_iff] at h1 h2 h3
    simp only [fmtCode, h1, h2, h3, hr, hq, hd, ha, hx, h78]
    simp

/-- A word that decodes has the format and the operand bits of its body: none of them is dropped. -/
theorem bits_of_bodyOf {body : Body} (h : bodyOf b = some body) : fmtBits b = fmtCode body ∧ b.toNat / 2 ^ 32 = bodyBits body := by
  have hlt : b.toNat < 2 ^ 80 := b.isLt
  have hf : fmtBits b < 4 := Nat.mod_lt _ (by decide)
  rw [bodyOf_eq] at h
  split at h
  · next h0 => cases h; simp only [fmtCode, bodyBits, field_toNat]; omega
  split at h
  · next h1 => cases h; simp only [fmtCode, bodyBits, field_toNat]; omega
  split at h
  · next h2 => cases h; simp only [fmtCode, bodyBits, field_toNat]; omega
  split at h
  · cases h
  split at h
  · next k1 k2 k3 t1 t2 t3 =>
    cases h
    rw [tokenOf_eq_some_iff] at t1 t2 t3
    refine ⟨by simp only [fmtCode]; omega, ?_⟩
    have h78 : b.toNat / 2 ^ 78 % 2 ^ 2 = b.toNat / 2 ^ 64 / 2 ^ 14 := by rw [← div_above]; omega
    rw [div_above b.toNat 64 12] at t2
    rw [div_above b.toNat 64 6, div_above b.toNat 64 13] at t3
    have hk := (tail_digits_iff (tokenBits_lt k2) (tokenBits_lt k3)).mpr ⟨t2, t3, h78.symm⟩
    simp only [bodyBits, field_toNat, getLsbD_toNat, ← hk, ← t1]
    omega
  · cases h

end

/-- A word's lowest 32 bits: the common fields, FMT and OP (R51). -/
theorem encodeWord_toNat {op : Nat} (hop : op < 2 ^ 9) (w : CWord) :
    (encodeWord op w).toNat = commonBits w.common + 2 ^ 21 * fmtCode w.body + 2 ^ 23 * op + 2 ^ 32 * bodyBits w.body := by
  have hf : fmtCode w.body < 4 := by cases w.body <;> simp [fmtCode]
  have := bodyBits_lt w.body
  have := commonBits_lt w.common
  simp only [commonBits] at *
  rw [encodeWord, BitVec.toNat_ofNat, Nat.mod_eq_of_lt (by omega)]

/-- A word's bits are the encoding of an opcode and fields exactly where they decode to them. -/
theorem eq_encodeWord_iff {op : Nat} (hop : op < 2 ^ 9) (w : CWord) (b : BitVec 80) :
    b = encodeWord op w ↔ commonOf b = w.common ∧ bodyOf b = some w.body ∧ (field b 23 9 : BitVec 9).toNat = op := by
  have hf : fmtCode w.body < 4 := by cases w.body <;> simp [fmtCode]
  have := commonBits_lt w.common
  rw [← BitVec.toNat_inj, encodeWord_toNat hop, commonOf_eq_iff, field_toNat]
  constructor
  · intro h
    exact ⟨by omega, bodyOf_of_bits (by unfold fmtBits; omega) (by omega), by omega⟩
  · rintro ⟨hc, hb, ho⟩
    obtain ⟨hf, hb⟩ := bits_of_bodyOf hb
    unfold fmtBits at hf
    omega

/-- Every row's instruction has the row's opcode and keeps its word. -/
theorem caludOf_con {r : CRow} {op : Nat} {w : CWord} (h : rowOfOp op w = some r) (x : CWord) : caludOf (r.con x) = some (op, x) := by
  have hall : ∀ r ∈ rowsCalud, caludOf (r.con x) = some (r.op, x) := by
    simp only [rowsCalud, rowsControl, rowsInt, rowsFloat, rowsMemory, rowsSystem, List.cons_append, List.nil_append, List.forall_mem_cons]
    repeat' constructor
    simp
  unfold rowOfOp at h
  split at h
  · next hj => cases h; rw [hj.1]; rfl
  split at h
  · next hj => cases h; rw [hj.1]; rfl
  · have hop : r.op = op := by simpa using List.find?_some h
    rw [hall r (List.mem_of_find?_eq_some h), hop]

theorem op_lt_of_caludOf {i : Instr} {op : Nat} {w : CWord} (h : caludOf i = some (op, w)) : op < 2 ^ 9 := by
  cases i
  all_goals cases h
  all_goals decide

theorem op_lt_of_rowOfOp {op : Nat} {w : CWord} {r : CRow} (h : rowOfOp op w = some r) : op < 2 ^ 9 := op_lt_of_caludOf (caludOf_con h w)

/-- A word decodes to an instruction exactly where it is the encoding of an opcode and of fields whose row makes them that instruction and
finds them legal. -/
theorem decodeCalud_eq_ok_iff (b : BitVec 80) (i : Instr) : decodeCalud b = .ok i ↔
    ∃ op w r, b = encodeWord op w ∧ rowOfOp op w = some r ∧ r.legal w = true ∧ r.con w = i := by
  unfold decodeCalud
  constructor
  · intro h
    split at h
    · cases h
    next body hb =>
    extract_lets w at h
    split at h
    · cases h
    next r hr =>
    split at h
    · next hl =>
      cases h
      exact ⟨_, w, r, (eq_encodeWord_iff (op_lt_of_rowOfOp hr) w b).mpr ⟨rfl, hb, rfl⟩, hr, hl, rfl⟩
    · cases h
  · rintro ⟨op, w, r, hb, hr, hl, hi⟩
    obtain ⟨hc, hbody, hop⟩ := (eq_encodeWord_iff (op_lt_of_rowOfOp hr) w b).mp hb
    simp only [hbody, hc, hop, hr, hl, hi, if_true]

/-- An instruction is well formed exactly where its row makes it of its word and finds the word legal. -/
theorem wellFormed_of_caludOf {i : Instr} {op : Nat} {w : CWord} (h : caludOf i = some (op, w)) :
    wellFormed i = true ↔ ∃ r, rowOfOp op w = some r ∧ r.legal w = true ∧ r.con w = i := by
  simp only [wellFormed, h]
  cases rowOfOp op w with
  | none => simp
  | some r => simp [and_comm]

end Sys2Proof.Machine

namespace Sys2Proof.Proofs
open Sys2Proof Sys2Proof.Machine

/-- Settles O37: to decode is to be the encoding of an opcode and of fields that its row allows (`decodeCalud_eq_ok_iff`), and to be well
formed is to be of such a row. -/
theorem caludEncodingsRoundTrip : Obligations.CaludEncodingsRoundTrip := by
  refine ⟨fun i b hw he => ?_, fun b i hd => ?_⟩
  · obtain ⟨⟨op, w⟩, hc, rfl⟩ := Option.map_eq_some_iff.mp he
    obtain ⟨r, hr, hl, hi⟩ := (wellFormed_of_caludOf hc).mp hw
    exact (decodeCalud_eq_ok_iff _ i).mpr ⟨op, w, r, rfl, hr, hl, hi⟩
  · obtain ⟨op, w, r, rfl, hr, hl, rfl⟩ := (decodeCalud_eq_ok_iff b i).mp hd
    have hc := caludOf_con hr w
    exact ⟨(wellFormed_of_caludOf hc).mpr ⟨r, hr, hl, rfl⟩, by rw [encodeCalud, hc]; rfl⟩

/-- Settles O36: each word is a closed bit pattern, and its decoding is computed. -/
theorem wordsDecodeAsTheSpecWritesThem : Obligations.WordsDecodeAsTheSpecWritesThem := by
  unfold Obligations.WordsDecodeAsTheSpecWritesThem
  decide +kernel

end Sys2Proof.Proofs

/-! ### What check 1 reads of a word (O39) -/

namespace Sys2Proof.Machine

/-- A Calud instruction's row is one of the opcode map, or one of the two that share an opcode with another (R87, R296). -/
theorem calRow_mem {i : Instr} {r : CRow} {w : CWord} (h : calRow i = some (r, w)) : r ∈ rowReformJoin :: rowTstOrd :: rowsCalud := by
  have mapped {op : Nat} (hop : (rowsCalud.find? (fun r => r.op == op)).isSome = true) : rowAt op ∈ rowsCalud := by
    obtain ⟨r, hr⟩ := Option.isSome_iff_exists.mp hop
    simpa [rowAt, hr] using List.mem_of_find?_eq_some hr
  cases i
  case reformJoin => cases h; exact List.mem_cons_self
  case tstOrd => cases h; exact List.mem_cons_of_mem _ List.mem_cons_self
  all_goals cases h
  all_goals exact List.mem_cons_of_mem _ (List.mem_cons_of_mem _ (mapped rfl))

/-- A word with other values of PD, TW and Y. -/
def paced (w : CWord) (pd : BitVec 3) (tw : BitVec 6) (y : Bool) : CWord := { w with common := { w.common with pd := pd, tw := tw, y := y } }

/-- What a row adds to check 1 reads none of PD, TW and Y. -/
def CRow.Unpaced (r : CRow) : Prop := ∀ w pd tw y, r.ent (paced w pd tw y) = r.ent w ∧ r.span (paced w pd tw y) = r.span w ∧
  r.pair (paced w pd tw y) = r.pair w

theorem unpaced_of_calRow {i : Instr} {r : CRow} {w : CWord} (h : calRow i = some (r, w)) : r.Unpaced := by
  have hall : ∀ r ∈ rowReformJoin :: rowTstOrd :: rowsCalud, r.Unpaced := by
    simp only [rowsCalud, rowsControl, rowsInt, rowsFloat, rowsMemory, rowsSystem, List.cons_append, List.nil_append, List.forall_mem_cons,
      List.not_mem_nil, false_imp_iff, implies_true, and_true]
    repeat' apply And.intro
    all_goals exact fun _ _ _ _ => ⟨rfl, rfl, rfl⟩
  exact hall r (calRow_mem h)

theorem legal_paced {r : CRow} (h : r.Unpaced) (w : CWord) (pd : BitVec 3) (tw : BitVec 6) (y : Bool) : r.legal (paced w pd tw y) = r.legal w := by
  obtain ⟨he, hs, hp⟩ := h w pd tw y
  simp only [CRow.legal, CRow.fieldsOk, CRow.evenOk, he, hs, hp]
  rfl

theorem illegal_of_ta {r : CRow} {w : CWord} (h : w.common.ta = 6) : r.legal w = false := by simp [CRow.legal, h]

theorem illegal_of_ru {r : CRow} {w : CWord} (h : w.common.ru = true) (h1 : r.op ≠ 0x1E1) (h2 : r.op ≠ 0x1E2) : r.legal w = false := by
  simp [CRow.legal, ruLegal, h, h1, h2]

/-- A format-E word under the plain guard, with its fields 0 and RU set. -/
def reusing : CWord :=
  { common := { gn := false, g := 63, y := false, ru := true, tw := 0, ta := 7, pd := 0 }, body := .e 0 0 0 none none none false 0 }

end Sys2Proof.Machine

namespace Sys2Proof.Proofs
open Sys2Proof Sys2Proof.Machine

/-- Settles O39: check 1 tests TA and RU by themselves, and no row reads PD, TW or Y (`legal_paced`); `reusing` is legal on MMA and MMAS. -/
theorem everyPdTwAndYIsLegal : Obligations.EveryPdTwAndYIsLegal := by
  refine ⟨fun i r w hr h => ?_, fun i r w pd tw y hr => legal_paced (unpaced_of_calRow hr) w pd tw y, ⟨reusing, ?_, rfl⟩, ⟨reusing, ?_, rfl⟩⟩
  · have hl : r.legal w = false := by
      obtain h | ⟨h, h1, h2⟩ := h
      · exact illegal_of_ta h
      · exact illegal_of_ru h h1 h2
    obtain ⟨entry, hx⟩ := exec_of_calRow hr
    exact ⟨hl, fun s c ha => by rw [hx, calud_attempts ha, issue_illegal ha hl]⟩
  · decide +kernel
  · decide +kernel

end Sys2Proof.Proofs

/-! ### What a step runs (O40) -/

namespace Sys2Proof.Machine

/-- What a step makes of what it finds to do. -/
def Fetched.outcome : Fetched → Host.Outcome State Fault Refusal
  | .stop s => .next s
  | .go i s => exec i s

theorem step_eq (s : State) : step s = (fetch s).outcome := by
  unfold step
  cases fetch s <;> rfl

theorem fetch_of_agenda {s : State} {a : Agent} {rest : List Agent} (h : s.agenda = a :: rest) :
    fetch s = fetchAgent a { s with agenda := rest } := by
  unfold fetch
  rw [h]

theorem member_id {t : Team} {mid : Nat} {m : Member} (h : t.member mid = some m) : m.id = mid := by
  simpa using List.find?_some h

theorem portBusy_portTaken (s : State) (t : Team) (m : Member) : portBusy (portTaken s t m) t m = true := by
  have hm (l : Sparse Nat) (k x : Nat) : (k, x) ∈ set l k x := mem_of_look (look_set_same l k x)
  simp only [portBusy, portTaken, setCore_core, setCore_now, List.any_eq_true]
  exact ⟨_, hm _ _ _, by simp⟩

theorem withRivals_of_not_yield (s s1 : State) (core tk mid : Nat) {i : Instr} (h : ∀ w, i ≠ .yieldW w) : withRivals s core tk mid i s1 = s1 := by
  unfold withRivals
  split
  · next w => exact absurd rfl (h w)
  · rfl

/-! ### A member's next word -/

/-- A member that may take its turn: no wait of R83, R88, R184 or R188 holds it. -/
structure MayTurn (s : State) (tk mid : Nat) (t : Team) (m : Member) : Prop where
  team : look s.teams tk = some t
  member : t.member mid = some m
  awake : ∀ l, m.wait ≠ .yield l
  lanes : m.lanes ≠ []
  free : held s t m = false
  bank : offBank s t = false
  unparked : m.park = none

section
variable {s s' : State} {tk mid : Nat} {t : Team} {m : Member} {i : Instr}

theorem fetchMember_turn (h : MayTurn s tk mid t m) : fetchMember tk mid s = takeTurn tk mid s := by
  simp only [fetchMember, h.team, h.member, Option.bind_some]
  split
  · next l hl => exact absurd hl (h.awake l)
  · rfl

theorem attempt_turn (h : MayTurn s tk mid t m) : attempt tk mid s = nextWord s tk t m := by
  simp [attempt, h.team, h.member, h.lanes, h.free, bankHeld, h.bank, h.unparked]

theorem takeTurn_busy (h : MayTurn s tk mid t m) (hp : portBusy s t m = true) : takeTurn tk mid s = .stop s := by
  simp [takeTurn, h.team, h.member, hp]

theorem takeTurn_stop (h : MayTurn s tk mid t m) (hp : portBusy s t m = false) (hw : nextWord s tk t m = .stop s') :
    takeTurn tk mid s = .stop s' := by
  simp [takeTurn, h.team, h.member, hp, attempt_turn h, hw]

/-- A word that groups inside a weir go before (R330). -/
theorem takeTurn_behind (h : MayTurn s tk mid t m) (hp : portBusy s t m = false) (hw : nextWord s tk t m = .go i s')
    (hb : behindWeirs s tk t m i = true) : takeTurn tk mid s = .stop s := by
  simp [takeTurn, h.team, h.member, hp, attempt_turn h, hw, hb]

theorem takeTurn_go (h : MayTurn s tk mid t m) (hp : portBusy s t m = false) (hw : nextWord s tk t m = .go i s')
    (hb : behindWeirs s tk t m i = false) : takeTurn tk mid s = .go i (portTaken (withRivals s t.seat.core tk mid i s') t m) := by
  simp [takeTurn, h.team, h.member, hp, attempt_turn h, hw, hb]

theorem nextWord_fetched (hc : m.cont = none) : nextWord s tk t m = fetchCode s tk t m := by simp [nextWord, hc]

theorem nextWord_again {k : Cont} {r : CRow} (hc : m.cont = some k) (hk : k.pc = m.pc) (hr : rowOfOp k.op k.w = some r) :
    nextWord s tk t m = .go (r.con k.w) { s with cur := some (tk, m.id) } := by
  simp [nextWord, hc, hk, Cont.instr, hr]

/-- The word at the PC lies beyond the code record (R182). -/
theorem fetchCode_beyond (h : recExtent t.spec.code < 10 * m.pc.toNat + 10) : fetchCode s tk t m = .stop (takeCause s tk m.id 0x05 0) := by
  rw [fetchCode, if_pos h]

/-- The code record lacks X (R182). -/
theorem fetchCode_unexecutable (h : 10 * m.pc.toNat + 10 ≤ recExtent t.spec.code) (hx : recX t.spec.code = false) :
    fetchCode s tk t m = .stop (takeCause s tk m.id 0x06 0) := by
  rw [fetchCode, if_neg (by omega), hx]
  rfl

/-- The fetch of a member's word: the state that its translations leave, and what they meet (R182). -/
def fetchReach (s : State) (t : Team) (m : Member) : State × Reached := reachLines s t (fetchWant t) (fetchReqs t m)

/-- The ten bytes at a member's PC, once translated. -/
def wordBytes (s : State) (t : Team) (m : Member) : List Byte :=
  codeBytes (fetchReach s t m).1 (fetchReach s t m).2.tr (codeVas t m.pc)

/-- The word at the PC may be executed, and its bytes translate (R50, R182). -/
structure WordReached (s : State) (t : Team) (m : Member) : Prop where
  within : 10 * m.pc.toNat + 10 ≤ recExtent t.spec.code
  executable : recX t.spec.code = true
  path : linesHeld (fetchReach s t m).1 t (fetchReach s t m).2.tr = false
  noCause : (fetchReach s t m).2.cause = none
  every : (fetchReach s t m).2.bad = []

theorem fetchCode_rejected (h : WordReached s t m) {e : Reject} (he : decodeBytes (wordBytes s t m) = .error e) :
    fetchCode s tk t m = .stop (takeCause (fetchReach s t m).1 tk m.id 0x01 0) := by
  obtain ⟨hw, hx, hp, hc, hb⟩ := h
  unfold wordBytes fetchReach at *
  simp [fetchCode, Nat.not_lt.mpr hw, hx, hp, hc, hb, he]

theorem fetchCode_decoded (h : WordReached s t m) {more : List Byte} (he : decodeBytes (wordBytes s t m) = .ok (i, more)) :
    fetchCode s tk t m =
      .go i { (fetchReach s t m).1.updMember tk m.id (fun m => { m with park := none }) with cur := some (tk, m.id) } := by
  obtain ⟨hw, hx, hp, hc, hb⟩ := h
  unfold wordBytes fetchReach at *
  simp only [fetchCode, Nat.not_lt.mpr hw, if_false, hx, Bool.not_true, Bool.false_eq_true, hp, hc, hb, bne_self_eq_false, he]

end

/-! ### A stream's next word -/

section
variable {s : State} {n : Nat} {vec : Bool}

theorem fetch_beyond {st : LStream} (h : st.len < 4 * st.pc + 4) : st.fetch = none := if_neg (by omega)

theorem fetch_within {st : LStream} (h : 4 * st.pc + 4 ≤ st.len) : st.fetch =
    some (BitVec.ofNat 32 (leVal ((List.range 4).map (fun k => Mem.read st.code (4 * st.pc + k))))) := if_pos h

/-- A stream that runs, and that no LD slot blocks (R362, R389). -/
structure Streams (s : State) (n : Nat) (vec : Bool) : Prop where
  runs : (s.lc n).halt = false
  goes : (s.lc n).stopped = false
  on : ((s.lc n).stream vec).on = true
  unblocked : ((s.lc n).stream vec).blocked = none

theorem fetchStream_beyond (h : Streams s n vec) (hw : ((s.lc n).stream vec).fetch = none) :
    fetchStream n vec s = .stop (haltLc s n 0x05 (partyOf vec) 0 0 ((s.lc n).stream vec).pc 0) := by
  simp [fetchStream, h.runs, h.goes, h.on, h.unblocked, hw]

theorem fetchStream_rejected (h : Streams s n vec) {w : BitVec 32} {e : Reject} (hw : ((s.lc n).stream vec).fetch = some w)
    (he : decodePatch w = .error e) : fetchStream n vec s = .stop (haltLc s n 0x01 (partyOf vec) 0 0 ((s.lc n).stream vec).pc 0) := by
  simp [fetchStream, h.runs, h.goes, h.on, h.unblocked, hw, he]

theorem fetchStream_decoded (h : Streams s n vec) {w : BitVec 32} {i : Instr} (hw : ((s.lc n).stream vec).fetch = some w)
    (he : decodePatch w = .ok i) : fetchStream n vec s = .go i { s with curLc := some (n, vec) } := by
  simp [fetchStream, h.runs, h.goes, h.on, h.unblocked, hw, he]

end

end Sys2Proof.Machine

namespace Sys2Proof.Proofs
open Sys2Proof Sys2Proof.Machine

/-- Settles O40: a step is the outcome of what its fetch finds (`step_eq`); a member's fetch stops or goes as its word is reached and
decodes (`fetchCode_decoded`, `takeTurn_go`), and so does a stream's. -/
theorem aStepRunsTheDecodedInstruction : Obligations.AStepRunsTheDecodedInstruction := by
  refine ⟨?member, ?stream, ?event⟩
  case member =>
    intro s rest tk mid t m ha s0 ht hm hy hl hf hb hk
    have ho : MayTurn s0 tk mid t m := ⟨ht, hm, hy, hl, hf, hb, hk⟩
    have hs : step s = (takeTurn tk mid s0).outcome := by rw [step_eq, fetch_of_agenda ha, fetchAgent, fetchMember_turn ho]
    obtain rfl := member_id hm
    refine ⟨?busy, ?fetches, ?again, fun s1 _ => portBusy_portTaken s1 t m, fun s1 i h => withRivals_of_not_yield s0 s1 _ tk _ h⟩
    case busy =>
      intro hp
      rw [hs, takeTurn_busy ho hp]
      rfl
    case fetches =>
      intro hp hc vas y
      refine ⟨fun hx => ?_, fun hx hw => ?_, ?_⟩
      · rw [hs, takeTurn_stop ho hp ((nextWord_fetched hc).trans (fetchCode_beyond hx))]
        rfl
      · rw [hs, takeTurn_stop ho hp ((nextWord_fetched hc).trans (fetchCode_unexecutable hx hw))]
        rfl
      intro hx hw hh hcause hbad word
      have hr : WordReached s0 t m := ⟨hx, hw, hh, hcause, hbad⟩
      have hword : word = decodeBytes (wordBytes s0 t m) := by
        simp only [word, wordBytes, codeBytes]
        rfl
      refine ⟨fun i more he => ?_, fun e he => ?_⟩
      · have hgo := (nextWord_fetched hc).trans (fetchCode_decoded (tk := tk) hr (hword ▸ he))
        refine ⟨fun hw => ?_, fun hw => ?_⟩
        · rw [hs, takeTurn_behind ho hp hgo hw]
          rfl
        · rw [hs, takeTurn_go ho hp hgo hw]
          rfl
      · rw [hs, takeTurn_stop ho hp ((nextWord_fetched hc).trans (fetchCode_rejected hr (hword ▸ he)))]
        rfl
    case again =>
      intro k r i hp hc hk hr hi hw
      subst hi
      rw [hs, takeTurn_go ho hp (nextWord_again hc hk hr) hw]
      rfl
  case stream =>
    intro s rest n vec st ha s0 h1 h2 hst h3 h4
    subst hst
    have ho : Streams s0 n vec := ⟨h1, h2, h3, h4⟩
    have hs : step s = (fetchStream n vec s0).outcome := by rw [step_eq, fetch_of_agenda ha, fetchAgent]
    rw [hs]
    refine ⟨fun h => ?_, fun h => ⟨fun i hi => ?_, fun e he => ?_⟩⟩
    · rw [fetchStream_beyond ho (fetch_beyond h)]
      rfl
    · rw [fetchStream_decoded ho (fetch_within h) hi]
      rfl
    · rw [fetchStream_rejected ho (fetch_within h) he]
      rfl
  case event =>
    intro s rest i ha
    rw [step_eq, fetch_of_agenda ha]
    rfl

end Sys2Proof.Proofs

/-! ### Texture and record words (O12) -/

namespace Sys2Proof.Machine

/-! #### The field that RECSET changes, bit by bit (R175) -/

theorem testBit_bits (x hi lo j : Nat) : (bits x hi lo).testBit j = (decide (j < hi + 1 - lo) && x.testBit (j + lo)) := by
  rw [bits, Nat.testBit_mod_two_pow, Nat.testBit_div_two_pow]

/-- The digits of a number with one field replaced. -/
theorem replaced_digits (x y lo n : Nat) : x - x / 2 ^ lo % 2 ^ n * 2 ^ lo + y % 2 ^ n * 2 ^ lo =
    2 ^ lo * (2 ^ n * (x / 2 ^ (lo + n)) + y % 2 ^ n) + x % 2 ^ lo := by
  have h1 := Nat.div_add_mod x (2 ^ lo)
  have h2 := Nat.div_add_mod (x / 2 ^ lo) (2 ^ n)
  rw [Nat.div_div_eq_div_mul, ← Nat.pow_add] at h2
  generalize x / 2 ^ lo % 2 ^ n = a at *
  rw [← h2, Nat.mul_add] at h1
  rw [Nat.mul_add, Nat.mul_comm a, Nat.mul_comm (y % 2 ^ n)]
  omega

theorem getLsbD_setBits (r : Rec) {hi lo : Nat} (x : Nat) (hlo : lo ≤ hi) {i : Nat} (h : i < 256) :
    (setBits r hi lo x).getLsbD i = if lo ≤ i ∧ i ≤ hi then x.testBit (i - lo) else r.getLsbD i := by
  have hm := Nat.mod_lt x (Nat.two_pow_pos (hi + 1 - lo))
  rw [setBits, rbits, bits, replaced_digits, BitVec.getLsbD_ofNat, Nat.testBit_two_pow_mul_add _ (Nat.mod_lt _ (Nat.two_pow_pos lo)),
    Nat.testBit_two_pow_mul_add _ hm, Nat.testBit_mod_two_pow, Nat.testBit_mod_two_pow, Nat.testBit_div_two_pow, ← BitVec.testBit_toNat]
  have hsum : i - lo - (hi + 1 - lo) + (lo + (hi + 1 - lo)) = i ∨ i ≤ hi := by omega
  by_cases h1 : i < lo
  · simp [h, h1, Nat.not_le.mpr h1]
  · by_cases h2 : i ≤ hi
    · have : i - lo < hi + 1 - lo := by omega
      simp [h, h1, h2, this, Nat.le_of_not_lt h1]
    · have h3 : ¬ i - lo < hi + 1 - lo := by omega
      simp [h, h1, h2, h3, hsum.resolve_right h2]

section
variable (r : Rec) (x : Nat) {i : Nat} (h : i < 256)
include h

/-- The access bits: R, W and X stay where they are named, and bit 237 is given. -/
theorem getLsbD_rights : (setBits (setBits r 236 234 (rbits r 236 234 &&& bits x 2 0)) 237 237 (bits x 3 3)).getLsbD i =
    if i = 237 then x.testBit 3 else if 234 ≤ i ∧ i ≤ 236 then r.getLsbD i && x.testBit (i - 234) else r.getLsbD i := by
  simp (disch := omega) only [getLsbD_setBits, rbits, testBit_bits, Nat.testBit_and, BitVec.testBit_toNat]
  grind

/-- The slice: BASE rises by the operand, and EXTENT falls. -/
theorem getLsbD_slice : (setBits (setBits r 56 0 (recBase r + x)) 111 64 (recExtent r - x)).getLsbD i =
    if i ≤ 56 then (recBase r + x).testBit i else if 64 ≤ i ∧ i ≤ 111 then (recExtent r - x).testBit (i - 64) else r.getLsbD i := by
  simp (disch := omega) only [getLsbD_setBits]
  grind

/-- ESZ, SWZ and SFMT. -/
theorem getLsbD_formats : (setBits (setBits (setBits r 243 241 (bits x 2 0)) 247 244 (bits x 7 4)) 255 248 (bits x 15 8)).getLsbD i =
    if 243 < i then (if 244 ≤ i ∧ i ≤ 255 then (x / 2 ^ 4).testBit (i - 244) else r.getLsbD i)
    else if 241 ≤ i ∧ i ≤ 243 then x.testBit (i - 241) else r.getLsbD i := by
  simp (disch := omega) only [getLsbD_setBits, testBit_bits, Nat.testBit_div_two_pow]
  by_cases h8 : 248 ≤ i
  · have hbit : i - 248 + 8 = i - 244 + 4 := by omega
    have hlo : 243 < i ∧ 244 ≤ i := by omega
    have hin : i - 248 < 15 + 1 - 8 := by omega
    simp [h8, hlo, hbit, hin, Nat.le_of_lt_succ h]
  · grind

end

end Sys2Proof.Machine

namespace Sys2Proof.Proofs
open Sys2Proof Sys2Proof.Machine

/-- Settles O12: where its checks pass, SAMPLE and RECLD are a memory word that performs (`memWord_done`); RECSET replaces bits of a record
(`getLsbD_setBits`), and the other words' entries are done. -/
theorem textureAndRecordWords : Obligations.TextureAndRecordWords := by
  refine ⟨completes_of (fun _ _ => rfl) fun _ => rfl, ?sample, ?recld, ?recset, ?flat, ?beyond, ?invalid, ?fields, ?recqry⟩
  case sample =>
    intro s1 tr w s c h r f t off ask hflat hf ht hw hh hs hr hp
    refine (calud_attempts h.toAttempts entrySample).trans (congrArg _ ((issue_entry h _).trans ?_))
    refine (congrArg (settle c _) ?_).trans (settle_done h)
    have h1 : ¬ (recFlat r || decide (f = 0)) = true := by simp [hflat, hf]
    have h2 : ¬ (texWidth r = 0 ∨ texHeight r = 0 ∨ recStride r < texWidth r * t) := by omega
    unfold entrySample
    rw [if_neg h1, if_neg (not_not_intro ht), if_neg h2, if_neg (by simp [hr, r])]
    exact memWord_done hp _
  case recld =>
    intro s1 tr w s c h o ask hflat hc hp
    refine (calud_attempts h.toAttempts entryRecld).trans (congrArg _ ((issue_entry h _).trans ?_))
    refine (congrArg (settle c _) ?_).trans (settle_done h)
    unfold entryRecld
    rw [if_neg (by simp [hflat]), hc]
    exact memWord_done hp _
  case recset =>
    intro r
    refine completesIn_of (fun _ _ => rfl) fun w s c h ⟨hf, hr, hp⟩ => ?_
    simp [entryRecset, hf, hr, hp]
  case flat =>
    refine traps_of (fun _ _ => rfl) fun w s c h hf => ?_
    simp [entryRecset, hf]
  case beyond =>
    refine traps_of (fun _ _ => rfl) fun w s c h ⟨hf, hr⟩ => ?_
    simp [entryRecset, hf, hr]
  case invalid =>
    intro r
    refine traps_of (fun _ _ => rfl) fun w s c h ⟨hf, hr, hp⟩ => ?_
    simp [entryRecset, hf, hr, hp]
  case fields =>
    intro r x changes field
    refine ⟨⟨_, rfl, fun i hi => ?_⟩, ⟨_, rfl, fun i hi => ?_⟩, ⟨_, rfl, fun i hi => ?_⟩, ⟨_, rfl, fun i hi => ?_⟩, ?_, ⟨_, rfl, fun i hi => ?_⟩⟩
    · exact getLsbD_setBits r _ (by decide) hi
    · exact getLsbD_setBits r _ (by decide) hi
    · exact getLsbD_setBits r _ (by decide) hi
    · exact getLsbD_rights r x hi
    · split
      · next hx => exact ⟨_, if_pos hx, fun i hi => getLsbD_slice r x hi⟩
      · next hx => exact if_neg hx
    · exact getLsbD_formats r x hi
  case recqry =>
    refine completes_of (fun _ _ => rfl) fun c => ?_
    refine congrArg (fun x => Res.done c.s (oneS c x)) ?_
    match fB c.w with
    | 0 | 1 | 2 | 3 | 4 | 5 | 6 => rfl
    | n + 7 => simp [recqry]

end Sys2Proof.Proofs

/-! ### What a word leaves alone (O23, O29) -/

namespace Sys2Proof.Machine

/-! #### The rest of the state -/

theorem OnlyTeams.refl (s : State) : OnlyTeams s s := ⟨rfl, fun _ => rfl, fun _ => rfl⟩

theorem OnlyTeams.trans {s s' s'' : State} (h : OnlyTeams s s') (h' : OnlyTeams s' s'') : OnlyTeams s s'' where
  rest := (congrArg (fun x : State => { x with teams := s.teams, free := s.free, reaches := s.reaches }) h'.rest).trans h.rest
  bytes a := (h'.bytes a).trans (h.bytes a)
  ponds n := (congrArg (fun x : Reach => { x with level := (s.reach n).level }) (h'.ponds n)).trans (h.ponds n)

theorem settleQueues_onlyTeams (s : State) (tk mid : Nat) : OnlyTeams s (s.settleQueues tk mid) := by
  have h := settleQueues_rest s tk mid
  refine ⟨?_, fun a => by rw [settleQueues_mem], fun n => ?_⟩
  · exact congrArg (fun x : State => { x with free := s.free, reaches := s.reaches }) h
  · have hr : ({ s.settleQueues tk mid with teams := s.teams } : State).reach n = s.reach n := congrArg (State.reach · n) h
    exact congrArg (fun x : Reach => { x with level := (s.reach n).level }) hr

/-- A word draws from its reach's millpond alone (R330). -/
theorem Ctx.draw_onlyTeams (c : Ctx) (s : State) : OnlyTeams s (c.draw s) := by
  unfold Ctx.draw
  split
  · exact .refl s
  · refine ⟨rfl, fun _ => rfl, fun n => ?_⟩
    by_cases hn : n = reachOf c.t.seat.core
    · rw [hn]; simp
    · simp [setReach_other _ _ hn]

/-! #### The other teams and members -/

/-- What a word of one member leaves of the other teams, of its own team and of the team's other members. `Q` says when
no queue is settled for it. -/
structure TeamFrame (Q : Prop) (tk mid : Nat) (s s' : State) : Prop extends OnlyTeams s s' where
  /-- The other teams. -/
  others : Q → ∀ k, k ≠ tk → look s'.teams k = look s.teams k
  /-- The team's own state, but for its members and an abandonment. -/
  team : ∀ t, look s.teams tk = some t → ∃ t', look s'.teams tk = some t' ∧ { t' with members := t.members, doom := t.doom } = t
  /-- The other members. -/
  members : Q → ∀ id, id ≠ mid → s'.memberAt tk id = s.memberAt tk id

namespace TeamFrame

variable {Q : Prop} {tk mid : Nat} {s s' s'' : State}

theorem of_teams (h : OnlyTeams s s') (ht : s'.teams = s.teams) : TeamFrame Q tk mid s s' where
  toOnlyTeams := h
  others _ k _ := by rw [ht]
  team t hl := ⟨t, by rw [ht, hl], rfl⟩
  members _ id _ := memberAt_of_teams ht tk id

theorem refl (s : State) : TeamFrame Q tk mid s s := of_teams (.refl s) rfl

theorem trans (h : TeamFrame Q tk mid s s') (h' : TeamFrame Q tk mid s' s'') : TeamFrame Q tk mid s s'' where
  toOnlyTeams := h.toOnlyTeams.trans h'.toOnlyTeams
  others hq k hk := (h'.others hq k hk).trans (h.others hq k hk)
  team t hl := by
    obtain ⟨t', hl', ht'⟩ := h.team t hl
    obtain ⟨t'', hl'', ht''⟩ := h'.team t' hl'
    exact ⟨t'', hl'', (congrArg (fun x : Team => { x with members := t.members, doom := t.doom }) ht'').trans ht'⟩
  members hq id hid := (h'.members hq id hid).trans (h.members hq id hid)

theorem freed (s : State) (n : Nat) : TeamFrame Q tk mid s (s.freed n) := of_teams ⟨rfl, fun _ => rfl, fun _ => rfl⟩ rfl

theorem draw (c : Ctx) (s : State) : TeamFrame Q tk mid s (c.draw s) := of_teams (c.draw_onlyTeams s) (c.draw_teams s)

/-- A change of the team that keeps all but its members and its doom, and its other members. -/
theorem updTeam (s : State) {f : Team → Team} (hf : ∀ t, { f t with members := t.members, doom := t.doom } = t)
    (hm : ∀ t id, id ≠ mid → (f t).member id = t.member id) : TeamFrame Q tk mid s (s.updTeam tk f) where
  toOnlyTeams := ⟨rfl, fun _ => rfl, fun _ => rfl⟩
  others _ _ hk := updTeam_other s f hk
  team t hl := ⟨f t, by rw [updTeam_look, hl, Option.map_some], hf t⟩
  members _ id hid := by
    simp only [State.memberAt, updTeam_look]
    cases look s.teams tk <;> simp [hm _ _ hid]

end TeamFrame

/-- The other members of a team, after a change of one. -/
theorem Team.member_updMember_other (t : Team) {mid id : Nat} (hid : id ≠ mid) {f : Member → Member} (hf : ∀ m, (f m).id = m.id) :
    (t.updMember mid f).member id = t.member id := by
  simp only [Team.member, Team.updMember]
  induction t.members with
  | nil => rfl
  | cons m ms ih =>
    by_cases hm : m.id = mid
    · have hne : m.id ≠ id := fun h => hid (h ▸ hm)
      simpa [hm, hf, hid.symm] using ih
    · by_cases hi : m.id = id <;> simp [hm, hi, hid]
      simpa using ih

theorem TeamFrame.updMember {Q : Prop} {tk mid : Nat} (s : State) {f : Member → Member} (hf : ∀ m, (f m).id = m.id) :
    TeamFrame Q tk mid s (s.updMember tk mid f) :=
  .updTeam s (fun _ => rfl) (fun t _ hid => t.member_updMember_other hid hf)

/-! #### The next PC of a word without a target -/

/-- A member goes on at the next word, or ends where no lane of it is present (R76, R89). -/
def Team.goOn (t : Team) (mid : Nat) : Team :=
  match t.member mid with
  | none => t
  | some m =>
    if m.present = [] then { t with members := t.members.filter (fun x => x.id != mid) }
    else t.updMember mid (fun x => { x with pc := m.pc + 1 })

theorem distinctPcs_empty {m : Member} (h : m.present = []) : distinctPcs (nextPcs m []) = [] := by simp [nextPcs, distinctPcs, h]

theorem advance_nil (s : State) (tk mid : Nat) : advance s tk mid [] = s.updTeam tk (fun t => t.goOn mid) := by
  have hs : ((look s.teams tk).bind (fun t => t.member mid)).any (fun m => decide (1 < (distinctPcs (nextPcs m [])).length)) = false := by
    cases (look s.teams tk).bind (fun t => t.member mid) with
    | none => rfl
    | some m => by_cases h : m.present = [] <;> simp [h, distinctPcs_empty, distinctPcs_straight]
  simp only [advance, hs, Bool.false_eq_true, if_false]
  congr 1
  funext t
  unfold Team.goOn
  cases t.member mid with
  | none => rfl
  | some m => by_cases h : m.present = [] <;> simp [h, distinctPcs_empty, distinctPcs_straight]

theorem Team.goOn_frame (t : Team) (mid : Nat) : { t.goOn mid with members := t.members, doom := t.doom } = t := by
  unfold Team.goOn
  split
  · rfl
  · split <;> rfl

theorem Team.goOn_other (t : Team) {mid id : Nat} (hid : id ≠ mid) : (t.goOn mid).member id = t.member id := by
  unfold Team.goOn
  split
  · rfl
  · split
    · simp only [Team.member, List.find?_filter]
      congr 1
      funext m
      by_cases hm : m.id = id <;> simp [hm, hid]
    · exact t.member_updMember_other hid (fun _ => rfl)

theorem TeamFrame.advance {Q : Prop} (s : State) (tk mid : Nat) : TeamFrame Q tk mid s (advance s tk mid []) := by
  rw [advance_nil]
  exact .updTeam s (fun t => t.goOn_frame mid) (fun t _ => t.goOn_other)

/-- A member that is there after a word without a target is the one before it, at the next word (R76). -/
theorem memberAt_advance {s : State} {tk mid : Nat} {m m' : Member} (hm : s.memberAt tk mid = some m)
    (h : (advance s tk mid []).memberAt tk mid = some m') : m' = { m with pc := m.pc + 1 } := by
  by_cases hp : m.present = []
  · obtain ⟨t, ht, htm⟩ := Option.bind_eq_some_iff.mp hm
    have hn : (t.goOn mid).member mid = none := by
      simp only [Team.goOn, htm, hp, if_true]
      simp [Team.member]
    simp [advance_nil, State.memberAt, ht, hn] at h
  · rw [advance_straight hm hp] at h
    exact (Option.some.inj h).symm

/-! #### A word that completes -/

/-- What a word that completes in any state leaves: its member as the word finishes it in that state. -/
theorem complete_from (c : Ctx) (s : State) (o : Out) : complete c s o =
    advance (c.draw ((s.updMember c.tk c.m.id (({ c with s := s } : Ctx).finished o)).freed
      (if o.var then o.writes.length + o.loads.length else 0))) c.tk c.m.id o.next := rfl

theorem TeamFrame.complete {Q : Prop} (c : Ctx) (s : State) {o : Out} (h : o.next = []) :
    TeamFrame Q c.tk c.m.id s (complete c s o) := by
  rw [complete_from, h]
  exact ((TeamFrame.updMember s (({ c with s := s } : Ctx).finished_id o)).trans (.freed _ _)).trans
    ((TeamFrame.draw c _).trans (.advance _ c.tk c.m.id))

/-- The member after a word that completes without a target (R76, R89). -/
theorem memberAt_complete {c : Ctx} {o : Out} {m' : Member} (hm : c.s.memberAt c.tk c.m.id = some c.m) (h : o.next = [])
    (h' : (complete c c.s o).memberAt c.tk c.m.id = some m') : m' = { c.finished o c.m with pc := c.m.pc + 1 } := by
  have hf := memberAt_updMember c.s c.tk c.m.id (c.finished o) (c.finished_id o)
  rw [hm] at hf
  rw [complete_eq, h] at h'
  rw [← c.finished_pc o c.m]
  refine memberAt_advance ?_ h'
  exact (memberAt_of_teams (c.draw_teams _) _ _).trans hf

/-! #### The registers and lanes of a member after a result -/

/-- A predicate write of one bit leaves every other, and one beyond the last predicate leaves all. -/
theorem getLsbD_setBit_other (y : BitVec 48) {r k : Nat} (h : r ≠ k) (x : Nat) :
    (if x % 2 = 1 then y ||| 1#48 <<< r else y &&& ~~~(1#48 <<< r)).getLsbD k = y.getLsbD k := by
  by_cases hr : r < 48
  · rw [getLsbD_setBit y hr, if_neg h]
  · have h0 : 1#48 <<< r = 0#48 := BitVec.shiftLeft_eq_zero (by omega)
    rw [h0, BitVec.or_zero, BitVec.not_zero, BitVec.and_allOnes, ite_self]

namespace Member

variable {m : Member} {p : Place}

/-- A write of one place leaves every other place as it is. -/
theorem put_file_other {p' : Place} (h : p ≠ p') (x : Nat) : (m.put p x).file p' = m.file p' := by
  cases p with
  | s r | cb r | d r =>
    cases p' with
    | s r' | cb r' | d r' => simp_all [put, file, get_setD]
    | v | p => rfl
  | v l r =>
    cases p' with
    | s | cb | d => rfl
    | v l' r' =>
      by_cases hl : l' = l
      · have hr : r ≠ r' := fun hr => h (by rw [hl, hr])
        cases hm : m.lane l' <;> simp [file_v, put_v_lane, hl ▸ hm, hl, get_setD, hr]
      · simp [file_v, put_v_lane, hl]
    | p l' r' => by_cases hl : l' = l <;> cases hm : m.lane l' <;> simp_all [file_p, put_v_lane]
  | p l r =>
    cases p' with
    | s | cb | d => rfl
    | v l' r' => by_cases hl : l' = l <;> cases hm : m.lane l' <;> simp_all [file_v, put_p_lane]
    | p l' r' =>
      by_cases hl : l' = l
      · have hr : r ≠ r' := fun hr => h (by rw [hl, hr])
        cases hm : m.lane l' <;> simp [file_p, put_p_lane, hl ▸ hm, hl, getLsbD_setBit_other _ hr]
      · simp [file_p, put_p_lane, hl]

/-- A fold of writes leaves a place that none of them names. -/
theorem foldl_file_other {g : Member → Place × Nat → Member} (hg : ∀ m e, e.1 ≠ p → (g m e).file p = m.file p) {ws : List (Place × Nat)}
    (h : ∀ e ∈ ws, e.1 ≠ p) (m : Member) : (ws.foldl g m).file p = m.file p := by
  induction ws generalizing m with
  | nil => rfl
  | cons e ws ih =>
    obtain ⟨he, hws⟩ := List.forall_mem_cons.mp h
    rw [List.foldl_cons, ih hws, hg m e he]

theorem writeNow_file_other {ws : List (Place × Nat)} (h : ∀ e ∈ ws, e.1 ≠ p) (m : Member) : (m.writeNow ws).file p = m.file p :=
  foldl_file_other (fun m e he => put_file_other (m := m.unshadow e.1) he e.2) h m

theorem writeUnder_file_other {ws : List (Place × Nat)} (h : ∀ e ∈ ws, e.1 ≠ p) (n : Nat) (m : Member) :
    (m.writeUnder n ws).file p = m.file p :=
  foldl_file_other (fun _ e he => put_file_other he e.2) h m

theorem land_file_other {q : Pending} (h : ∀ e ∈ q.writes, e.1 ≠ p) (m : Member) : (m.land q).file p = m.file p := by
  refine foldl_file_other (fun m e he => ?_) h m
  obtain ⟨ws, -, hs⟩ := landOne_shape m q e
  rw [hs]
  split
  · exact put_file_other (m := { m with windows := ws }) he e.2
  · rfl

/-- A drain changes no place but those of the pending results. -/
theorem drain_file_other (h : p ∉ m.pendPlaces) : m.drain.file p = m.file p := by
  have landed (qs : List Pending) (h : ∀ q ∈ qs, ∀ e ∈ q.writes, e.1 ≠ p) (m : Member) : (qs.foldl land m).file p = m.file p := by
    induction qs generalizing m with
    | nil => rfl
    | cons q qs ih =>
      obtain ⟨hq, hqs⟩ := List.forall_mem_cons.mp h
      rw [List.foldl_cons, ih hqs, land_file_other hq]
  refine landed m.pend (fun q hq e he hp => h ?_) m
  exact List.mem_map.mpr ⟨e, List.mem_flatMap.mpr ⟨q, hq, he⟩, hp⟩

@[simp] theorem drain_bare (m : Member) : m.drain.bare = m.bare :=
  foldl_keeps (f := land) bare (fun m q => land_bare m q) m.pend m

/-- A result writes no place but those that its word names. -/
theorem result_file_other {w : CWord} {free now : Nat} {o : Out} (h : ∀ e ∈ o.writes, e.1 ≠ p) :
    (m.result w free now o).file p = m.file p := by
  cases hv : o.var with
  | false =>
    obtain ⟨vs, ps, ts, -, hr⟩ := m.result_fixed w free now hv
    rw [hr]
    split
    · exact writeNow_file_other h _
    · exact writeUnder_file_other h _ _
  | true =>
    by_cases hw : o.writes = []
    · obtain ⟨vs, ps, hc, -⟩ := m.counted_shape []
      simp only [result, hw, hc, if_true]
      rfl
    · obtain ⟨vs, ps, q, hr, -⟩ := m.result_late w free now hv hw
      rw [hr]
      rfl

end Member

/-- A word that completes changes no register but those that it writes. -/
theorem Ctx.finished_file_other (c : Ctx) {o : Out} {p : Place} (h : ∀ e ∈ o.writes, e.1 ≠ p) (m : Member) :
    (c.finished o m).file p = m.file p :=
  (Member.result_file_other (m := c.flagged o m) h).trans (c.flagged_file o m p)

/-- The flags and generators of the lanes of a member once its word completes, whether the lane is present or not (R39, R41). -/
theorem Ctx.finished_lane_state (c : Ctx) (o : Out) (m : Member) (l : Nat) :
    ((c.finished o m).lane l).map (fun x => (x.flags, x.rng)) = (m.lane l).map (fun x =>
      ((o.flags.filter (fun e => e.1 = l)).foldl (fun acc e => acc ||| e.2) x.flags,
        ((o.rng.filter (fun e => e.1 = l)).getLast?.map (·.2)).getD x.rng)) := by
  have h := Member.lane_of_bare ((c.flagged o m).result_bare c.w c.s.free c.s.now o) l
  rw [c.flagged_lane, Option.map_map] at h
  exact h

end Sys2Proof.Machine

/-! ### A word that acts in no lane, or waits (O23) -/

namespace Sys2Proof.Machine

section
variable {r : CRow} {w : CWord} {s : State} {c : Ctx}

/-- A word that acts in no lane completes without an outcome of its own (R53, R65). -/
theorem issue_idle (h : Attempts r w s c) (hl : r.legal w = true) (hu : c.unitFails = false)
    (hi : neverGuard w = true ∨ c.act = [] ∧ c.earlyCause r = none) (hc : c.overCharge = false)
    (hw : (r.uniform w || c.others (maskOf c.act) == 0) = true) (entry : Ctx → Res) : issue c r entry = complete c c.s Out.none := by
  have ho : (!r.uniform w && c.others (maskOf c.act) != 0) = false := by
    cases hr : r.uniform w <;> simp_all
  have hs : settle c r (.done c.s Out.none) = complete c c.s Out.none := by
    have hf : trapsFp c.t Out.none.flags = false := rfl
    simp only [settle, hf, hc, h.word, ho, Bool.false_eq_true, if_false]
  rw [← hs]
  rcases hi with hg | ⟨ha, he⟩
  · simp only [issue, h.word, hl, hu, hg, Bool.not_true, Bool.false_eq_true, if_false, if_true]
  · simp only [issue, h.word, hl, hu, he, ha, Bool.not_true, Bool.false_eq_true, if_false, if_true, ite_self]

theorem Attempts.freed_frame (h : Attempts r w s c) {Q : Prop} : TeamFrame Q c.tk c.m.id s c.s := by
  rw [h.state]
  exact .freed s _

/-- A word without an outcome touches one team and its reach's millpond. -/
theorem Attempts.idle_onlyTeam (h : Attempts r w s c) : OnlyTeam s (complete c c.s Out.none) c.tk := by
  have hf : TeamFrame True c.tk c.m.id s (complete c c.s Out.none) := h.freed_frame.trans (.complete c c.s rfl)
  exact ⟨hf.toOnlyTeams, hf.others trivial⟩

end

/-- Without an outcome, the lanes keep their flags and generators. -/
theorem Ctx.idle_lane (c : Ctx) (m : Member) (l : Nat) : (c.finished Out.none m).laneFlags l = m.laneFlags l ∧
    ((c.finished Out.none m).lane l).map (·.rng) = (m.lane l).map (·.rng) := by
  have h : ((c.finished Out.none m).lane l).map (fun x => (x.flags, x.rng)) = (m.lane l).map (fun x => (x.flags, x.rng)) :=
    c.finished_lane_state Out.none m l
  constructor
  · have hf := congrArg (fun x => (x.map Prod.fst).getD (0 : BitVec 5)) h
    simpa only [Option.map_map, Function.comp_def, Member.laneFlags] using hf
  · have hr := congrArg (Option.map Prod.snd) h
    simpa only [Option.map_map, Function.comp_def] using hr

theorem Ctx.finished_trap (c : Ctx) (o : Out) (m : Member) : (c.finished o m).trap = m.trap :=
  (Member.trap_of_bare ((c.flagged o m).result_bare ..)).trans rfl

/-- A member that is held, whose bank does not issue, whose tags are pending or whose units have no room leaves the state as it is. -/
theorem calud_held {r : CRow} {w : CWord} {s : State} {tk : Nat} {t : Team} {m : Member} (hi : issuer s = some (tk, t, m))
    (h : held s t m = true ∨ bankHeld s t m = true ∨ tagBlocked m w = true ∨ (ctxOf s tk t m r.op w).unitBusy = true)
    (entry : Ctx → Res) : calud r entry w s = .next s := by
  have hb : (held s t m || bankHeld s t m || tagBlocked m w || (ctxOf s tk t m r.op w).unitBusy) = true := by
    simpa only [Bool.or_eq_true, or_assoc] using h
  simp only [calud, hi, hb, if_true]

end Sys2Proof.Machine

namespace Sys2Proof.Proofs
open Sys2Proof Sys2Proof.Machine

/-- Settles O23: a word that acts in no lane completes with the empty outcome, whose flags, generators and writes are none; a word that
waits is turned away before its checks. -/
theorem wordsThatActInNoLaneOrWaitChangeNothingElse : Obligations.WordsThatActInNoLaneOrWaitChangeNothingElse := by
  refine ⟨?idle, ?waits, ?faults⟩
  case idle =>
    intro i r w s c hi h hl hu hidle hc hw
    obtain ⟨entry, hx⟩ := exec_of_calRow hi
    refine ⟨?_, h.idle_onlyTeam, fun m' hm' => ?_⟩
    · rw [hx, calud_attempts h, issue_idle h hl hu hidle hc hw]
    · obtain rfl := memberAt_complete h.memberAt rfl hm'
      exact ⟨rfl, fun p => c.finished_file_other (fun e he => absurd he List.not_mem_nil) c.m, c.finished_trap Out.none c.m, c.idle_lane c.m⟩
  case waits =>
    intro i r w s tk t m hi hs hb
    obtain ⟨entry, hx⟩ := exec_of_calRow hi
    rw [hx, calud_held hs hb]
  case faults =>
    intro i r w s hi hs
    obtain ⟨entry, hx⟩ := exec_of_calRow hi
    simp only [hx, calud, hs]

end Sys2Proof.Proofs

/-! ### What a performing memory word leaves of memory (O29) -/

namespace Sys2Proof.Machine

/-! #### The accesses themselves -/

/-- A line whose leaf does not count its access is touched without a byte of memory. -/
theorem touchLine_mem {s : State} {die part : Nat} {write : Bool} {x : Nat × Trans} (h : countsLine die x = false) :
    (touchLine s die part write x).mem = s.mem := by
  obtain ⟨va, tr⟩ := x
  cases tr with
  | ok pa sl leaf leafPa =>
    have hc : countsAccess die pa leaf = false := h
    simp only [touchLine, hc, Bool.false_eq_true, if_false]
    split
    · rfl
    · exact touchPool_mem ..
  | _ => rfl

theorem touchLines_mem {s : State} {t : Team} {write : Bool} {tr : List (Nat × Trans)} {ls : List LaneReq}
    (h : ∀ e ∈ tr, countsLine (dieOf t.seat.core) e = false) : (touchLines s t write tr ls).mem = s.mem := by
  have touched (l : List (Nat × Trans)) (h : ∀ e ∈ l, countsLine (dieOf t.seat.core) e = false) (s : State) :
      (l.foldl (fun s e => touchLine s (dieOf t.seat.core) t.part write e) s).mem = s.mem := by
    induction l generalizing s with
    | nil => rfl
    | cons e l ih =>
      obtain ⟨he, hl⟩ := List.forall_mem_cons.mp h
      rw [List.foldl_cons, ih hl, touchLine_mem he]
  exact touched _ (fun e he => h e (List.mem_of_mem_filter he)) s

theorem Performs.mem {c : Ctx} {a : MemAsk} {s1 : State} {tr : List (Nat × Trans)} (h : Performs c a s1 tr)
    (hn : ∀ e ∈ tr, countsLine (dieOf c.t.seat.core) e = false) : s1.mem = c.s.mem := by
  obtain ⟨s0, hs0, rfl⟩ := h.marks
  have h0 : s0.mem = c.s.mem := by
    rw [← congrArg (fun x => x.1.mem) hs0, ite_versionWord_mem, reachLines_mem]
  rw [Ctx.accessAgain_mem, touchLines_mem hn, h0]

/-! #### The cells of a store -/

theorem lastCell_none {cells : List Host.Cell} {a : Nat} (h : ∀ x ∈ cells, x.1 ≠ a) : lastCell cells a = none := by
  rw [lastCell, Option.map_eq_none_iff, List.find?_eq_none]
  exact fun x hx => by simpa using h x (List.mem_reverse.mp hx)

/-- Cells at other addresses leave a byte of memory, whether they are written there or to a version. -/
theorem writeCells_mem_other {s : State} {tk : Nat} {v : Bool} {cells : List Host.Cell} {a : Nat} (h : ∀ x ∈ cells, x.1 ≠ a) :
    Mem.read (writeCells s tk v cells).mem a = Mem.read s.mem a := by
  cases v with
  | true => rw [writeCells_versioned_mem]
  | false => rw [writeCells_direct_mem, lastCell_none h, Option.getD_none]

/-- One word of a lane's bytes writes the given cells, or those of them that no racing write covers. -/
theorem storeWord_mem_other {s : State} {tk slot : Nat} {tid : Word} {words : Nat} {v : Bool} {upto : Nat} {done : List Word} {w : Nat}
    {cells : List Host.Cell} {a : Nat} (h : ∀ x ∈ cells, x.1 ≠ a) :
    Mem.read (s.storeWord tk slot tid words v upto done w cells).mem a = Mem.read s.mem a := by
  unfold State.storeWord
  split
  · rfl
  · dsimp only
    split
    · exact writeCells_mem_other h
    · exact writeCells_mem_other (fun x hx => h x (List.mem_of_mem_filter hx))

theorem Ctx.storeFrom_mem_other (c : Ctx) {v : Bool} {upto : Nat} {cs : List (Nat × List Host.Cell)} {a : Nat}
    (h : ∀ e ∈ cs, ∀ x ∈ e.2, x.1 ≠ a) (done : List (Nat × List Host.Cell)) (s : State) :
    Mem.read (c.storeFrom v upto done s cs).mem a = Mem.read s.mem a := by
  induction cs generalizing done s with
  | nil => rfl
  | cons e cs ih =>
    obtain ⟨he, hcs⟩ := List.forall_mem_cons.mp h
    refine (ih hcs _ _).trans ?_
    induction wordsIn (e.2.map (·.1)) generalizing s with
    | nil => rfl
    | cons w ws ihw => exact (ihw _).trans (storeWord_mem_other (fun x hx => he x (List.mem_of_mem_filter hx)))

/-! #### The completion -/

theorem updTeam_onlyTeams (s : State) (tk : Nat) (f : Team → Team) : OnlyTeams s (s.updTeam tk f) :=
  ⟨rfl, fun _ => rfl, fun _ => rfl⟩

theorem advance_onlyTeams (s : State) (tk mid : Nat) (next : List (Nat × Word)) : OnlyTeams s (advance s tk mid next) := by
  unfold advance
  dsimp only
  split
  · exact (settleQueues_onlyTeams s tk mid).trans (updTeam_onlyTeams ..)
  · exact updTeam_onlyTeams ..

theorem complete_onlyTeams (c : Ctx) (s : State) (o : Out) : OnlyTeams s (complete c s o) := by
  rw [complete_from]
  refine OnlyTeams.trans ?_ ((c.draw_onlyTeams _).trans (advance_onlyTeams ..))
  exact ⟨rfl, fun _ => rfl, fun _ => rfl⟩

end Sys2Proof.Machine

/-! ### The register words (O29) -/

namespace Sys2Proof.Machine

/-! #### The places that a destination field names -/

/-- Every place of a list of writes is one that the row's destination names. -/
def Ctx.Names (c : Ctx) (r : CRow) (ws : List (Place × Nat)) : Prop := ∀ e ∈ ws, c.mayWrite r e.1 = true

section
variable {c : Ctx} {r : CRow}

theorem Ctx.names_nil : c.Names r [] := fun _ he => absurd he List.not_mem_nil

theorem Ctx.names_one {p : Place} (x : Nat) (h : c.mayWrite r p = true) : c.Names r [(p, x)] := by
  rintro e he
  rw [List.mem_singleton.mp he]
  exact h

theorem Ctx.names_map {α : Type} {ls : List α} {p : α → Place} {f : α → Nat} (h : ∀ l, c.mayWrite r (p l) = true) :
    c.Names r (ls.map (fun l => (p l, f l))) := by
  intro e he
  obtain ⟨l, -, rfl⟩ := List.mem_map.mp he
  exact h l

theorem Ctx.names_flatMap {α : Type} {ls : List α} {f : α → List (Place × Nat)} (h : ∀ l, c.Names r (f l)) : c.Names r (ls.flatMap f) := by
  intro e he
  obtain ⟨l, -, hl⟩ := List.mem_flatMap.mp he
  exact h l e hl

theorem Ctx.mayWrite_v {l x : Nat} (h : r.sig.1 = .v ∨ r.sig.1.selectable = true ∧ selD c.w = false) (hl : fD c.w ≤ x)
    (hu : x < fD c.w + (r.span c.w).1) : c.mayWrite r (.v l x) = true := by
  simpa [Ctx.mayWrite, hl, hu] using h

theorem Ctx.mayWrite_s {x : Nat} (h : r.sig.1 = .s ∨ r.sig.1.selectable = true ∧ selD c.w = true) (hl : fD c.w ≤ x)
    (hu : x < fD c.w + (r.span c.w).1) : c.mayWrite r (.s x) = true := by
  simpa [Ctx.mayWrite, hl, hu] using h

theorem Ctx.mayWrite_p {l x : Nat} (h : r.sig.1 = .p) (hl : fD c.w ≤ x) (hu : x < fD c.w + (r.span c.w).1) :
    c.mayWrite r (.p l x) = true := by
  simp [Ctx.mayWrite, h, hl, hu]

/-- A class-x destination names its register, and the next one where it is a pair (R29, R60). -/
theorem Ctx.names_dstX {wide : Bool} (hs : r.sig.1.selectable = true) (hn : spanOf wide ≤ (r.span c.w).1) (l x : Nat) :
    c.Names r (dstX c wide l x) := by
  have hd (y : Nat) (hl : fD c.w ≤ y) (hu : y < fD c.w + (r.span c.w).1) :
      c.mayWrite r (if selD c.w then .s y else .v l y) = true := by
    cases h : selD c.w with
    | true => exact Ctx.mayWrite_s (.inr ⟨hs, h⟩) hl hu
    | false => exact Ctx.mayWrite_v (.inr ⟨hs, h⟩) hl hu
  intro e he
  cases wide with
  | true =>
    have h2 : 2 ≤ (r.span c.w).1 := hn
    obtain rfl | rfl : e = _ ∨ e = _ := by simpa [dstX] using he
    · exact hd _ le_rfl (by omega)
    · exact hd _ (by omega) (by omega)
  | false =>
    have h1 : 1 ≤ (r.span c.w).1 := hn
    obtain rfl : e = _ := by simpa [dstX] using he
    exact hd _ le_rfl (by omega)

/-- A class-y destination names its register (R60). -/
theorem Ctx.names_toY (hs : r.sig.1.selectable = true) (hn : 1 ≤ (r.span c.w).1) (x : Nat) : c.Names r (toY c x) := by
  unfold toY
  split
  · exact Ctx.names_nil
  · cases h : selD c.w with
    | true => exact Ctx.names_one x (Ctx.mayWrite_s (.inr ⟨hs, h⟩) le_rfl (by omega))
    | false => exact Ctx.names_map (fun l => Ctx.mayWrite_v (.inr ⟨hs, h⟩) le_rfl (by omega))

theorem Ctx.names_perLane {u : Bool} {rm n : Nat} {f : Nat → List Nat → List (Place × Nat) × BitVec 5} (h : ∀ l rs, c.Names r (f l rs).1) :
    c.Names r (perLane c u rm n f).writes := by
  unfold perLane
  refine List.foldlRecOn (motive := fun acc : Acc => c.Names r acc.writes) _ _ Ctx.names_nil (fun acc hacc l _ => ?_)
  intro e he
  rcases List.mem_append.mp he with he | he
  · exact hacc e he
  · exact h _ _ e he

/-! #### What the entry of a register word comes to -/

/-- The rows whose words raise floating-point flags: GRED, GSCAN, the float words and the special functions (R41). -/
def raisesFlags (op : Nat) : Bool :=
  op = 0x015 || op = 0x016 || decide (0x0C0 ≤ op ∧ op ≤ 0x0D1) || decide (0x140 ≤ op ∧ op ≤ 0x147)

/-- The entry of a word that touches registers alone takes a cause, waits, or names what it writes, in the state as it is. -/
inductive RegRes (c : Ctx) (r : CRow) : Res → Prop
  | cause (k arg : Nat) : RegRes c r (.cause c.s k arg)
  | wait : RegRes c r (.wait c.s)
  | done {o : Out} (next : o.next = []) (names : c.Names r o.writes) (flags : raisesFlags r.op = false → o.flags = []) :
      RegRes c r (.done c.s o)

theorem RegRes.idle : RegRes c r (.done c.s Out.none) := .done rfl Ctx.names_nil (fun _ => rfl)

theorem RegRes.fixed {ws : List (Place × Nat)} (h : c.Names r ws) : RegRes c r (.done c.s (Out.fixed ws)) := .done rfl h (fun _ => rfl)

theorem RegRes.late {ws : List (Place × Nat)} (h : c.Names r ws) : RegRes c r (.done c.s (Out.late ws)) := .done rfl h (fun _ => rfl)

/-- A word that a row with flags gathers lane by lane. -/
theorem RegRes.acc {u : Bool} {rm n : Nat} {f : Nat → List Nat → List (Place × Nat) × BitVec 5} (hf : raisesFlags r.op = true)
    (h : ∀ l rs, c.Names r (f l rs).1) : RegRes c r (.done c.s (Out.ofAcc (perLane c u rm n f))) :=
  .done rfl (Ctx.names_perLane h) (fun h => absurd h (by simp [hf]))

theorem RegRes.laneWise {wide : Bool} (hs : r.sig.1.selectable = true) (hn : spanOf wide ≤ (r.span c.w).1) (f : Nat → Nat) :
    RegRes c r (laneWise c wide f) := .fixed (Ctx.names_flatMap (fun _ => Ctx.names_dstX hs hn _ _))

theorem RegRes.predWise (hs : r.sig.1 = .p) (hn : 1 ≤ (r.span c.w).1) (f : Nat → Bool) : RegRes c r (predWise c f) :=
  .fixed (Ctx.names_map (fun _ => Ctx.mayWrite_p hs le_rfl (by omega)))

theorem RegRes.floatWise (hs : r.sig.1.selectable = true) (hn : 1 ≤ (r.span c.w).1) (hf : raisesFlags r.op = true)
    (f : Nat → Nat → Rounded) : RegRes c r (floatWise c f) := .acc hf (fun _ _ => Ctx.names_dstX (wide := false) hs hn _ _)

theorem Ctx.names_vOne (hs : r.sig.1 = .v) (hn : 1 ≤ (r.span c.w).1) (l x : Nat) : c.Names r [(.v l (fD c.w), x)] :=
  Ctx.names_one x (Ctx.mayWrite_v (.inl hs) le_rfl (by omega))

/-- A result in one vector register of each lane. -/
theorem Ctx.names_vEach (hs : r.sig.1 = .v) (hn : 1 ≤ (r.span c.w).1) (ls : List Nat) (f : Nat → Nat) :
    c.Names r (ls.map (fun l => (Place.v l (fD c.w), f l))) :=
  Ctx.names_map (fun _ => Ctx.mayWrite_v (.inl hs) le_rfl (by omega))

/-- A result in the scalar register. -/
theorem RegRes.scalar (hs : r.sig.1 = .s) (hn : 1 ≤ (r.span c.w).1) (x : Nat) : RegRes c r (.done c.s (Out.fixed [(.s (fD c.w), x)])) :=
  .fixed (Ctx.names_one x (Ctx.mayWrite_s (.inl hs) le_rfl (by omega)))

theorem RegRes.dotInts (hs : r.sig.1 = .v) (hn : 1 ≤ (r.span c.w).1) (n : Nat) : RegRes c r (dotInts c n) :=
  .fixed (Ctx.names_vEach hs hn _ _)

theorem RegRes.dotFloats (hs : r.sig.1 = .v) (hn : 1 ≤ (r.span c.w).1) (hf : raisesFlags r.op = true) (n : Nat) (acc : Nat → Nat)
    (val : Nat → Nat → Ex) (sa sb : Ex) : RegRes c r (dotFloats c n acc val sa sb) :=
  .acc hf (fun _ _ => Ctx.names_vOne hs hn _ _)

theorem RegRes.float16x2 (hs : r.sig.1 = .v) (hn : 1 ≤ (r.span c.w).1) (hf : raisesFlags r.op = true)
    (f : Fmt32 → Nat → Nat → Nat → Nat → Rounded) : RegRes c r (float16x2 c f) :=
  .acc hf (fun _ _ => Ctx.names_vOne hs hn _ _)

theorem RegRes.sfu (hs : r.sig.1.selectable = true) (hn : 1 ≤ (r.span c.w).1) (hf : raisesFlags r.op = true) (fn : Fun) :
    RegRes c r (entrySfu fn c) :=
  .done rfl (Ctx.names_perLane (fun _ _ => Ctx.names_dstX (wide := false) hs hn _ _)) (fun h => absurd h (by simp [hf]))

theorem RegRes.shuffle (hs : r.sig.1 = .v) (hn : 1 ≤ (r.span c.w).1) (src : Nat → Nat → Int) : RegRes c r (shuffle src c) :=
  .fixed (Ctx.names_vEach hs hn _ _)

end

/-! #### The entries one by one -/

section
variable (c : Ctx)

theorem entryPwr_reg : RegRes c (rowAt 0x00A) (entryPwr c) :=
  .fixed (Ctx.names_flatMap (fun l e he => by
    obtain ⟨i, hi, rfl⟩ := List.mem_map.mp he
    have hlt := List.mem_range.mp hi
    exact Ctx.mayWrite_p rfl (by omega) (show fD c.w + i < fD c.w + (mBits c.w 4 0 + 1) by omega)))

theorem entryGred_reg : RegRes c (rowAt 0x015) (entryGred c) := by
  unfold entryGred
  split
  · exact .idle
  · exact .done rfl (Ctx.names_toY rfl le_rfl _) (fun h => absurd h (by decide))

theorem entryGscan_reg : RegRes c (rowAt 0x016) (entryGscan c) :=
  .done rfl (Ctx.names_vEach rfl le_rfl _ _) (fun h => absurd h (by decide))

theorem entryDot2_reg : RegRes c (rowAt 0x0CE) (entryDot2 c) := by
  unfold entryDot2
  dsimp only
  split
  · exact .dotInts rfl le_rfl _
  · exact .dotFloats rfl le_rfl rfl _ _ _ _ _

theorem entryDot4_reg : RegRes c (rowAt 0x0CF) (entryDot4 c) := by
  unfold entryDot4
  dsimp only
  split
  · exact .dotInts rfl le_rfl _
  · exact .dotFloats rfl le_rfl rfl _ _ _ _ _

/-- CB.LD writes the codebook, which its destination does not name. -/
theorem entryCbLd_reg : RegRes c (rowAt 0x0D2) (entryCbLd c) := by
  have htwo (e x : Nat) : c.Names (rowAt 0x0D2) [(.cb e, bits x 15 0), (.cb (e + 1), bits x 31 16)] := by
    intro y hy
    obtain rfl | rfl : y = _ ∨ y = _ := by simpa using hy
    all_goals rfl
  refine .fixed ?_
  split
  · exact htwo _ _
  · exact Ctx.names_flatMap (fun j => htwo _ _)

theorem entryBufStat_reg : RegRes c (rowAt 0x168) (entryBufStat c) := by
  unfold entryBufStat
  split
  · exact .cause _ _
  · exact .scalar rfl le_rfl _

theorem entryRecset_reg : RegRes c (rowAt 0x178) (entryRecset c) := by
  unfold entryRecset
  split
  · exact .cause _ _
  split
  · exact .cause _ _
  split
  · exact .fixed (Ctx.names_one _ (by simp [Ctx.mayWrite]; rfl))
  · exact .cause _ _

theorem entrySqry_reg : RegRes c (rowAt 0x1C3) (entrySqry c) := by
  unfold entrySqry
  dsimp only
  split
  · exact .cause _ _
  · exact .late (Ctx.names_flatMap (fun l => Ctx.names_dstX rfl le_rfl _ _))

theorem entryTld_reg : RegRes c (rowAt 0x1CA) (entryTld c) := by
  unfold entryTld
  split
  · exact .cause _ _
  split
  · exact .wait
  · refine .late (Ctx.names_flatMap (fun l e he => ?_))
    obtain ⟨i, hi, rfl⟩ := List.mem_map.mp he
    have hlt := List.mem_range.mp hi
    exact Ctx.mayWrite_v (.inl rfl) (by omega) (show fD c.w + i < fD c.w + c.cnt by omega)

theorem entryKtest_reg : RegRes c (rowAt 0x1D7) (entryKtest c) := by
  unfold entryKtest
  dsimp only
  split
  · exact .cause _ _
  · exact .fixed (Ctx.names_map (fun _ => Ctx.mayWrite_p rfl le_rfl (Nat.lt_succ_self _)))

theorem entryAccRd_reg : RegRes c (rowAt 0x1E4) (entryAccRd c) := by
  unfold entryAccRd
  dsimp only
  split
  · exact .cause _ _
  split
  · exact .cause _ _
  split
  · exact .wait
  · refine .late (Ctx.names_flatMap (fun l e he => ?_))
    obtain ⟨i, hi, rfl⟩ := List.mem_map.mp he
    have hlt := List.mem_range.mp hi
    exact Ctx.mayWrite_v (.inl rfl) (by omega) (show fD c.w + i < fD c.w + (mBits c.w 4 0 + 1) by omega)

end

/-! #### The rows of the register words -/

/-- The rows whose words touch registers alone. -/
def RegisterRow (op : Nat) : Prop :=
  op ∈ [0x000, 0x008, 0x009, 0x00A, 0x168, 0x175, 0x178, 0x179, 0x1A9, 0x1C3, 0x1CA, 0x1D7, 0x1E4, 0x1F4, 0x1FA] ∨
    0x010 ≤ op ∧ op ≤ 0x016 ∨ 0x040 ≤ op ∧ op ≤ 0x055 ∨ 0x0C0 ≤ op ∧ op ≤ 0x0D3 ∨ 0x140 ≤ op ∧ op ≤ 0x147

theorem one_le_spanOf (b : Bool) : 1 ≤ spanOf b := by cases b <;> decide

/-- A 64-bit move names a pair. -/
theorem spanOf_raw64 (t : Nat) : spanOf (decide (t = 11)) ≤ spanOf (is64 t) := by
  by_cases h : t = 11
  · subst h; rfl
  · simpa [h, spanOf] using one_le_spanOf (is64 t)

/-- A format-I word has no selector (R56). -/
theorem selD_of_fmt_i {w : CWord} (h : fmtOf w = .i) : selD w = false := by
  cases hb : w.body <;> simp_all [fmtOf, selD, mBit, fM]

theorem fmt_of_legal {r : CRow} {w : CWord} (h : r.legal w = true) : r.fmts.contains (fmtOf w) = true := by
  cases hf : r.fmts.contains (fmtOf w) with
  | true => rfl
  | false => simp only [CRow.legal, hf, Bool.false_and, Bool.false_eq_true] at h

/-- MOVI has a vector destination: its format has no selector that could turn it to a scalar. -/
theorem entryMovi_reg {c : Ctx} (h : (rowAt 0x054).legal c.w = true) : RegRes c (rowAt 0x054) (entryMovi c) := by
  have hf : fmtOf c.w = .i := by simpa [show (rowAt 0x054).fmts = [.i] from rfl] using fmt_of_legal h
  refine .fixed (Ctx.names_flatMap (fun l => ?_))
  simp only [dstX, selD_of_fmt_i hf, Bool.false_eq_true, if_false]
  exact Ctx.names_vOne rfl le_rfl l _

/-- The meaning of a register word is that of its row, with an entry that names what a legal word writes. -/
theorem exec_of_registerRow {i : Instr} {r : CRow} {w : CWord} (h : calRow i = some (r, w)) (hr : RegisterRow r.op) :
    ∃ entry, (∀ s, exec i s = calud r entry w s) ∧ ∀ c, r.legal c.w = true → RegRes c r (entry c) := by
  cases i
  all_goals cases h
  case nop | pref => exact ⟨_, fun _ => rfl, fun _ _ => .idle⟩
  case plog | icmp => exact ⟨_, fun _ => rfl, fun _ _ => .predWise rfl le_rfl _⟩
  case prd => exact ⟨_, fun _ => rfl, fun _ _ => .fixed (Ctx.names_vEach rfl le_rfl _ _)⟩
  case pwr => exact ⟨_, fun _ => rfl, fun c _ => entryPwr_reg c⟩
  case shflBc | shflXor | shflUp | shflDn => exact ⟨_, fun _ => rfl, fun _ _ => .shuffle rfl le_rfl _⟩
  case vote => exact ⟨_, fun _ => rfl, fun _ _ => .fixed (Ctx.names_toY rfl le_rfl _)⟩
  case gred => exact ⟨_, fun _ => rfl, fun c _ => entryGred_reg c⟩
  case gscan => exact ⟨_, fun _ => rfl, fun c _ => entryGscan_reg c⟩
  -- the integer and bit words
  case iadd | isub | imul | imulh | imad | imin | imax | iabs | shl | shr | brev | sel =>
    exact ⟨_, fun _ => rfl, fun _ _ => .laneWise rfl le_rfl _⟩
  case fsh | bfe | bfi => exact ⟨_, fun _ => rfl, fun _ _ => .laneWise rfl (by exact one_le_spanOf _) _⟩
  case popc | clz | bfn => exact ⟨_, fun _ => rfl, fun _ _ => .laneWise rfl le_rfl _⟩
  case mov => exact ⟨_, fun _ => rfl, fun _ _ => .laneWise rfl (spanOf_raw64 _) _⟩
  case movi => exact ⟨_, fun _ => rfl, fun _ => entryMovi_reg⟩
  case smovi => exact ⟨_, fun _ => rfl, fun _ _ => .scalar rfl le_rfl _⟩
  -- the float, narrow, dot, codebook and special-function words
  case fadd | fsub | fmul | ffma | frnd => exact ⟨_, fun _ => rfl, fun _ _ => .floatWise rfl le_rfl rfl _⟩
  case fmin | fmax | cbRd => exact ⟨_, fun _ => rfl, fun _ _ => .laneWise rfl le_rfl _⟩
  case fcmp => exact ⟨_, fun _ => rfl, fun _ _ => .acc rfl (fun _ _ => Ctx.names_one _ (Ctx.mayWrite_p rfl le_rfl (Nat.lt_succ_self _)))⟩
  case hadd2 | hmul2 | hfma2 => exact ⟨_, fun _ => rfl, fun _ _ => .float16x2 rfl le_rfl rfl _⟩
  case cvt => exact ⟨_, fun _ => rfl, fun _ _ => .acc rfl (fun _ _ => Ctx.names_dstX rfl le_rfl _ _)⟩
  case npack | nunpk => exact ⟨_, fun _ => rfl, fun _ _ => .acc rfl (fun _ _ => Ctx.names_vOne rfl le_rfl _ _)⟩
  case dot2 => exact ⟨_, fun _ => rfl, fun c _ => entryDot2_reg c⟩
  case dot4 => exact ⟨_, fun _ => rfl, fun c _ => entryDot4_reg c⟩
  case dot8 | dotsc => exact ⟨_, fun _ => rfl, fun _ _ => .dotFloats rfl le_rfl rfl _ _ _ _ _⟩
  case cbLd => exact ⟨_, fun _ => rfl, fun c _ => entryCbLd_reg c⟩
  case rcp | rsq | sqrtW | exp2 | log2 | sinW | cosW | tanhW => exact ⟨_, fun _ => rfl, fun _ _ => .sfu rfl le_rfl rfl _⟩
  -- the words that read the team's and the device's state
  case bufStat => exact ⟨_, fun _ => rfl, fun c _ => entryBufStat_reg c⟩
  case recset => exact ⟨_, fun _ => rfl, fun c _ => entryRecset_reg c⟩
  case recqry | vqry | weirQry => exact ⟨_, fun _ => rfl, fun _ _ => .scalar rfl le_rfl _⟩
  case sqry => exact ⟨_, fun _ => rfl, fun c _ => entrySqry_reg c⟩
  case tld => exact ⟨_, fun _ => rfl, fun c _ => entryTld_reg c⟩
  case ktest => exact ⟨_, fun _ => rfl, fun c _ => entryKtest_reg c⟩
  case accRd => exact ⟨_, fun _ => rfl, fun c _ => entryAccRd_reg c⟩
  case sysrd => exact ⟨_, fun _ => rfl, fun _ _ => .fixed (Ctx.names_flatMap (fun _ => Ctx.names_dstX rfl le_rfl _ _))⟩
  all_goals exact absurd hr (by simp [RegisterRow, rowAt_op, rowReformJoin, rowTstOrd])

end Sys2Proof.Machine

/-! ### What a register word ends in (O29) -/

namespace Sys2Proof.Machine

/-! #### The queues that a drain settles -/

theorem Member.writeBack_id (m : Member) (i : Nat) : (m.writeBack i).id = m.id := by
  unfold Member.writeBack
  split
  · rfl
  · exact Member.id_of_bare (Member.land_bare _ _)

theorem Member.landWhere_id (f : Pending → Bool) (n : Nat) (m : Member) : (Member.landWhere f n m).id = m.id := by
  induction n generalizing m with
  | zero => rfl
  | succ n ih =>
    unfold Member.landWhere
    split
    · rw [ih, Member.writeBack_id]
    · rfl

/-- Settling queues changes members alone, each under its name, and not the one that it is for (R103). -/
theorem settleQueues_shape (s : State) (tk mid : Nat) : ∃ g : Nat → Team → Member → Member, (∀ k t x, (g k t x).id = x.id) ∧
    (∀ t x, x.id = mid → g tk t x = x) ∧
    (s.settleQueues tk mid).teams = s.teams.map (fun e => (e.1, { e.2 with members := e.2.members.map (g e.1 e.2) })) := by
  have hid : s.teams = s.teams.map (fun e => (e.1, { e.2 with members := e.2.members.map id })) := by simp
  unfold State.settleQueues
  split
  · exact ⟨fun _ _ x => x, fun _ _ _ => rfl, fun _ _ _ => rfl, hid⟩
  next t m _ =>
    dsimp only
    split
    · exact ⟨fun _ _ x => x, fun _ _ _ => rfl, fun _ _ _ => rfl, hid⟩
    · refine ⟨fun k u x => if u.seat.core = t.seat.core then
        (if (k = tk && x.id = mid) || portOf x.slot ≠ portOf m.slot then x else Member.landWhere (queuedBefore m.pend) x.pend.length x)
        else x, fun k u x => ?_, fun u x hx => by simp [hx], ?_⟩
      · dsimp only
        split_ifs
        · rfl
        · exact Member.landWhere_id _ _ _
        · rfl
      · refine List.map_congr_left (fun e _ => ?_)
        dsimp only
        split
        · rfl
        · simp

/-- A member of a team, after a change of members that keeps every name and the member itself. -/
theorem find?_map_keeping {ms : List Member} {mid : Nat} {g : Member → Member} (hid : ∀ x, (g x).id = x.id) (hk : ∀ x, x.id = mid → g x = x) :
    (ms.map g).find? (fun m => m.id == mid) = ms.find? (fun m => m.id == mid) := by
  induction ms with
  | nil => rfl
  | cons x ms ih =>
    by_cases hx : x.id = mid
    · simp [hk x hx, hx]
    · simp [hid, hx, ih]

theorem memberAt_settleQueues (s : State) (tk mid : Nat) : (s.settleQueues tk mid).memberAt tk mid = s.memberAt tk mid := by
  obtain ⟨g, hid, hk, ht⟩ := settleQueues_shape s tk mid
  simp only [State.memberAt, ht, look_mapVal (fun k (t : Team) => { t with members := t.members.map (g k t) })]
  cases look s.teams tk with
  | none => rfl
  | some t => exact find?_map_keeping (hid tk t) (hk t)

theorem TeamFrame.settleQueues {Q : Prop} {s : State} {tk mid : Nat} (h : Q → s.settleQueues tk mid = s) :
    TeamFrame Q tk mid s (s.settleQueues tk mid) where
  toOnlyTeams := settleQueues_onlyTeams s tk mid
  others hq k _ := by rw [h hq]
  team t hl := by
    obtain ⟨g, -, -, ht⟩ := settleQueues_shape s tk mid
    refine ⟨{ t with members := t.members.map (g tk t) }, ?_, rfl⟩
    rw [ht, look_mapVal (fun k (t : Team) => { t with members := t.members.map (g k t) }), hl]
    rfl
  members hq id _ := by rw [h hq]

/-! #### What a register word keeps of its member -/

/-- A member keeps its registers but those of `W`, its place in the team and its special registers; its flags only rise, and only where `fp`
says so. -/
structure Member.Kept (W : Place → Prop) (fp : Bool) (m m' : Member) : Prop where
  /-- The registers. -/
  file : ∀ p, ¬ W p → m'.file p = m.file p
  /-- The lanes. -/
  present : m'.present = m.present
  /-- The group slot. -/
  slot : m'.slot = m.slot
  /-- The role. -/
  role : m'.role = m.role
  /-- The arrival that it serves. -/
  arrival : m'.arrival = m.arrival
  /-- The reuse latch. -/
  latch : m'.latch = m.latch
  /-- The flags. -/
  flags : ∀ l, m.laneFlags l &&& ~~~ m'.laneFlags l = 0 ∧ (fp = false → m'.laneFlags l = m.laneFlags l)

namespace Member

variable {W : Place → Prop} {fp : Bool} {m m' m'' : Member}

theorem laneFlags_of_bare (h : m'.bare = m.bare) (l : Nat) : m'.laneFlags l = m.laneFlags l := by
  have hf := congrArg (fun x => (x.map Prod.fst).getD (0 : BitVec 5)) (lane_of_bare h l)
  simpa only [Option.map_map, Function.comp_def, laneFlags] using hf

/-- No flag of one set is missing from another. -/
theorem flags_within {x y : BitVec 5} : x &&& ~~~ y = 0 ↔ ∀ i, x.getLsbD i = true → y.getLsbD i = true := by
  constructor
  · intro h i hi
    have hb := congrArg (·.getLsbD i) h
    simpa [hi, BitVec.lt_of_getLsbD hi] using hb
  · intro h
    refine BitVec.eq_of_getLsbD_eq (fun i _ => ?_)
    have hb := h i
    cases hx : x.getLsbD i <;> simp_all

/-- Flags that are ORed in only rise. -/
theorem laneFlags_raised {fl : List (Nat × BitVec 5)} {l : Nat}
    (h : (m'.lane l).map (·.flags) = (m.lane l).map (fun x => (fl.filter (fun e => e.1 = l)).foldl (fun acc e => acc ||| e.2) x.flags)) :
    m.laneFlags l &&& ~~~ m'.laneFlags l = 0 ∧ (fl = [] → m'.laneFlags l = m.laneFlags l) := by
  unfold laneFlags
  rw [h]
  cases m.lane l with
  | none => exact ⟨BitVec.zero_and, fun _ => rfl⟩
  | some x => exact ⟨flags_within.mpr (fun i hi => (getLsbD_foldl_or fl l i x.flags).trans (by rw [show x.flags.getLsbD i = true from hi]; rfl)),
      fun hf => by rw [hf]; rfl⟩

namespace Kept

theorem of_bare (h : m'.bare = m.bare) (hf : ∀ p, ¬ W p → m'.file p = m.file p) : Kept W fp m m' where
  file := hf
  present := present_of_bare h
  slot := show m'.bare.slot = m.bare.slot by rw [h]
  role := show m'.bare.role = m.bare.role by rw [h]
  arrival := show m'.bare.arrival = m.bare.arrival by rw [h]
  latch := show m'.bare.latch = m.bare.latch by rw [h]
  flags l := by
    rw [laneFlags_of_bare h]
    exact ⟨BitVec.and_not_self _, fun _ => rfl⟩

theorem refl (m : Member) : Kept W fp m m := of_bare rfl (fun _ _ => rfl)

theorem trans (h : Kept W fp m m') (h' : Kept W fp m' m'') : Kept W fp m m'' where
  file p hp := (h'.file p hp).trans (h.file p hp)
  present := h'.present.trans h.present
  slot := h'.slot.trans h.slot
  role := h'.role.trans h.role
  arrival := h'.arrival.trans h.arrival
  latch := h'.latch.trans h.latch
  flags l := by
    obtain ⟨h1, e1⟩ := h.flags l
    obtain ⟨h2, e2⟩ := h'.flags l
    exact ⟨flags_within.mpr (fun i hi => flags_within.mp h2 i (flags_within.mp h1 i hi)), fun hf => (e2 hf).trans (e1 hf)⟩

theorem raise {fl : List (Nat × BitVec 5)} (h : fp = false → fl = []) (m : Member) : Kept W fp m (m.raise fl) where
  file p _ := raise_file m fl p
  present := raise_present m fl
  slot := rfl
  role := rfl
  arrival := rfl
  latch := rfl
  flags l := by
    have hl := congrArg (Option.map Lane.flags) (m.raise_lane fl l)
    rw [Option.map_map] at hl
    obtain ⟨hr, hn⟩ := laneFlags_raised hl
    exact ⟨hr, fun hf => hn (h hf)⟩

theorem drain (h : ∀ p ∈ m.pendPlaces, W p) : Kept W fp m m.drain :=
  of_bare m.drain_bare (fun p hp => drain_file_other (fun hin => hp (h p hin)))

/-- The entry of a handler drains the member, and leaves its registers else (R339). -/
theorem enter (h : ∀ p ∈ m.pendPlaces, W p) (tvec : Word) (k arg : Nat) (epc : Word) : Kept W fp m (m.enter tvec k arg epc) :=
  have hd : Kept W fp m m.drain := drain h
  ⟨hd.file, hd.present, hd.slot, hd.role, hd.arrival, hd.latch, hd.flags⟩

/-- A word that completes. -/
theorem finished {c : Ctx} {o : Out} (hw : ∀ e ∈ o.writes, W e.1) (hf : fp = false → o.flags = []) (m : Member) (pc : Word) :
    Kept W fp m { c.finished o m with pc := pc } :=
  have hb : ((c.flagged o m).result c.w c.s.free c.s.now o).bare = (c.flagged o m).bare := result_bare ..
  { file := fun p hp => c.finished_file_other (p := p) (fun e he h => hp (h ▸ hw e he)) m
    present := c.finished_present o m
    slot := (congrArg Member.slot hb :)
    role := (congrArg Member.role hb :)
    arrival := (congrArg Member.arrival hb :)
    latch := (congrArg Member.latch hb :)
    flags := fun l => by
      have hl := congrArg (Option.map Prod.fst) (c.finished_lane_state o m l)
      rw [Option.map_map, Option.map_map] at hl
      obtain ⟨hr, hn⟩ := laneFlags_raised hl
      exact ⟨hr, fun h => hn (hf h)⟩ }

end Kept
end Member

/-- The member of a word some of whose lanes wait: its results are drained, and the word's own are written (R183). -/
def Ctx.parked (c : Ctx) (s : State) (o : Out) (fin : BitVec 32) (park : Park) (m : Member) : Member :=
  let m := { m with weir := c.chargedWeir m }
  let tag := m.wordTag c.w
  let m := (m.drain.handlerWrites o.writes).writeNow o.writes
  { (m.stamp s.now c.w.common.y) with
    pcmask := m.pcmask ||| fin
    tags := m.tags ||| tagBit tag
    cont := some { pc := m.pc, op := c.op, w := c.w, tag := tag, charged := true }
    park := some park }

theorem stay_parked (c : Ctx) (s : State) (o : Out) (fin : BitVec 32) (park : Park) : stay c s o fin (some park) =
    c.draw ((s.settleQueues c.tk c.m.id).updMember c.tk c.m.id (c.parked s o fin park)) := rfl

/-- The results of a parked word's member, before the word's own state. -/
theorem parked_bare (m : Member) (ws : List (Place × Nat)) : ((m.drain.handlerWrites ws).writeNow ws).bare = m.bare := by
  obtain ⟨vs, h, -⟩ := m.drain.handlerWrites_shape ws
  rw [Member.writeNow_bare, h]
  exact m.drain_bare

theorem parked_file {m : Member} {ws : List (Place × Nat)} {p : Place} (hw : ∀ e ∈ ws, e.1 ≠ p) (hp : p ∉ m.pendPlaces) :
    ((m.drain.handlerWrites ws).writeNow ws).file p = m.file p := by
  obtain ⟨vs, h, -⟩ := m.drain.handlerWrites_shape ws
  rw [Member.writeNow_file_other hw, h]
  exact Member.drain_file_other hp

section
variable {c : Ctx} {s : State} {o : Out} {fin : BitVec 32} {park : Park}

theorem Ctx.parked_id (m : Member) : (c.parked s o fin park m).id = m.id :=
  (Member.id_of_bare (parked_bare { m with weir := c.chargedWeir m } o.writes) :)

theorem Ctx.parked_trap (m : Member) : (c.parked s o fin park m).trap = m.trap :=
  (Member.trap_of_bare (parked_bare { m with weir := c.chargedWeir m } o.writes) :)

theorem Ctx.parked_kept {W : Place → Prop} {fp : Bool} {m : Member} (hw : ∀ e ∈ o.writes, W e.1) (hp : ∀ p ∈ m.pendPlaces, W p) :
    Member.Kept W fp m (c.parked s o fin park m) :=
  have hk : Member.Kept W fp { m with weir := c.chargedWeir m } _ := .of_bare (parked_bare { m with weir := c.chargedWeir m } o.writes)
    (fun p hn => parked_file (fun e he h => hn (h ▸ hw e he)) (fun hin => hn (hp p hin)))
  ⟨hk.file, hk.present, hk.slot, hk.role, hk.arrival, hk.latch, hk.flags⟩

end

/-! #### Every end of a register word -/

/-- No pending result of the member stands in a queue. -/
def Ctx.unqueued (c : Ctx) : Prop := ∀ q ∈ c.m.pend, q.queue = none

/-- The places that a word of a row may write, by its destination or by a drain. -/
def Ctx.touched (c : Ctx) (r : CRow) (p : Place) : Prop := c.mayWrite r p = true ∨ p ∈ c.m.pendPlaces

/-- The member's exception registers are as they were, or it has entered its handler (R339). -/
def Ctx.trapKept (c : Ctx) (m' : Member) : Prop :=
  m'.trap = c.m.trap ∨ c.m.trap.inh = false ∧ m'.trap.inh = true ∧ m'.trap.mask = c.m.trap.mask ∧ m'.pc = c.t.tvec

/-- What a register word's end leaves: the frame of its team, and a member that keeps what the word does not name, in a handler if the word
entered it. -/
structure Ends (c : Ctx) (r : CRow) (s' : State) : Prop where
  /-- The other teams and members. -/
  frame : TeamFrame c.unqueued c.tk c.m.id c.s s'
  /-- The member. -/
  member : ∀ m', s'.memberAt c.tk c.m.id = some m' → c.m.Kept (c.touched r) (raisesFlags r.op) m' ∧ c.trapKept m'

/-- A state in which a cause meets the word's member `m`: no more than flags and the millpond's level have changed. -/
structure Stopped (c : Ctx) (r : CRow) (s : State) (m : Member) : Prop where
  /-- The team as the word found it. -/
  team : look c.s.teams c.tk = some c.t
  /-- The other teams and members. -/
  frame : TeamFrame c.unqueued c.tk c.m.id c.s s
  /-- The member. -/
  found : s.memberAt c.tk c.m.id = some m
  /-- What it keeps. -/
  kept : c.m.Kept (c.touched r) (raisesFlags r.op) m
  /-- Its name. -/
  id : m.id = c.m.id
  /-- Its exception registers. -/
  trap : m.trap = c.m.trap
  /-- Its pending results. -/
  pend : m.pend = c.m.pend

namespace Ends

variable {c : Ctx} {r : CRow} {s' : State}

theorem draw (h : Ends c r s') : Ends c r (c.draw s') where
  frame := h.frame.trans (.draw c s')
  member m' hm := h.member m' ((memberAt_of_teams (c.draw_teams s') _ _).symm.trans hm)

theorem idle (hm : c.s.memberAt c.tk c.m.id = some c.m) : Ends c r c.s where
  frame := .refl c.s
  member m' h := by
    obtain rfl := Option.some.inj (hm.symm.trans h)
    exact ⟨.refl _, .inl rfl⟩

theorem complete (hm : c.s.memberAt c.tk c.m.id = some c.m) {o : Out} (hn : o.next = []) (hw : c.Names r o.writes)
    (hf : raisesFlags r.op = false → o.flags = []) : Ends c r (complete c c.s o) where
  frame := .complete c c.s hn
  member m' h := by
    obtain rfl := memberAt_complete hm hn h
    exact ⟨.finished (fun e he => .inl (hw e he)) hf c.m _, .inl (c.finished_trap o c.m)⟩

/-- A drain settles no queue for a member without a result in one (R103). -/
theorem settled_of_unqueued {s : State} {tk : Nat} {m : Member} (hm : s.memberAt tk m.id = some m) (h : ∀ q ∈ m.pend, q.queue = none) :
    s.settleQueues tk m.id = s := by
  obtain ⟨t, ht, htm⟩ := Option.bind_eq_some_iff.mp hm
  exact settleQueues_none ht htm h

theorem park (hm : c.s.memberAt c.tk c.m.id = some c.m) {o : Out} (hw : c.Names r o.writes) (fin : BitVec 32) (p : Park) :
    Ends c r (stay c c.s o fin (some p)) := by
  rw [stay_parked]
  refine draw ⟨(TeamFrame.settleQueues (settled_of_unqueued hm)).trans (.updMember _ (fun _ => Ctx.parked_id _)), fun m' h => ?_⟩
  rw [memberAt_updMember _ _ _ _ (fun _ => Ctx.parked_id _), memberAt_settleQueues, hm] at h
  obtain rfl := Option.some.inj h
  exact ⟨Ctx.parked_kept (fun e he => .inl (hw e he)) (fun p hp => .inr hp), .inl (Ctx.parked_trap _)⟩

/-- The team is doomed, and its members stay (R338). -/
theorem doom {s : State} {m : Member} (h : Stopped c r s m) (d : Doom) : Ends c r (s.updTeam c.tk (fun t => { t with doom := some d })) where
  frame := h.frame.trans (.updTeam s (fun _ => rfl) (fun _ _ _ => rfl))
  member m' hm := by
    have hd := memberAt_updTeam s c.tk c.tk c.m.id (fun t => { t with doom := some d }) (fun _ => rfl)
    obtain rfl : m' = m := Option.some.inj (hm.symm.trans (hd.trans h.found))
    exact ⟨h.kept, .inl h.trap⟩

/-- The member enters its handler, once its queues have settled (R339). -/
theorem enter {s : State} {m : Member} (h : Stopped c r s m) (hin : m.trap.inh = false) {tvec : Word} (htvec : tvec = c.t.tvec) (k arg : Nat)
    (epc : Word) : Ends c r ((s.settleQueues c.tk c.m.id).updMember c.tk c.m.id (fun m => m.enter tvec k arg epc)) := by
  have hq : c.unqueued → s.settleQueues c.tk c.m.id = s := fun hu => h.id ▸ settled_of_unqueued (h.id ▸ h.found) (h.pend ▸ hu)
  have hid (m : Member) : (m.enter tvec k arg epc).id = m.id := (Member.id_of_bare m.drain_bare :)
  refine ⟨(h.frame.trans (.settleQueues hq)).trans (.updMember _ hid), fun m' hm => ?_⟩
  rw [memberAt_updMember _ _ _ _ hid, memberAt_settleQueues, h.found] at hm
  obtain rfl := Option.some.inj hm
  have hplaces : m.pendPlaces = c.m.pendPlaces := by simp only [Member.pendPlaces, Member.pendWrites, h.pend]
  have hmask : m.drain.trap.mask = c.m.trap.mask := congrArg Trap.mask ((Member.trap_of_bare m.drain_bare).trans h.trap)
  exact ⟨h.kept.trans (.enter (fun p hp => .inr (hplaces ▸ hp)) _ _ _ _), .inr ⟨h.trap ▸ hin, rfl, hmask, htvec⟩⟩

/-- A cause leaves the member, dooms its team or enters its handler (R338). -/
theorem takeCause {s : State} {m : Member} (h : Stopped c r s m) (k arg : Nat) : Ends c r (takeCause s c.tk c.m.id k arg) := by
  obtain ⟨epc, he⟩ : ∃ epc, Machine.takeCause s c.tk c.m.id k arg = takeCauseAt s c.tk c.m.id k arg epc := by
    unfold Machine.takeCause
    rw [show (look s.teams c.tk).bind (fun t => t.member c.m.id) = some m from h.found]
    exact ⟨_, rfl⟩
  rw [he]
  rcases takeCauseAt_cases s c.tk c.m.id k arg epc with hs | ⟨_, _, d, _, _, _, _, hs⟩ | ⟨t, m1, hl, hm1, ha, hs⟩
  all_goals rw [hs]
  · refine ⟨h.frame, fun m' hm => ?_⟩
    obtain rfl := Option.some.inj (h.found.symm.trans hm)
    exact ⟨h.kept, .inl h.trap⟩
  · exact doom h d
  · obtain rfl : m1 = m := Option.some.inj (hm1.symm.trans (by simpa [State.memberAt, hl] using h.found))
    have hin : m1.trap.inh = false := by
      cases hi : m1.trap.inh with
      | false => rfl
      | true => simp [abandons, hi] at ha
    have htvec : t.tvec = c.t.tvec := by
      obtain ⟨t', hl', hfr⟩ := h.frame.team c.t h.team
      obtain rfl := Option.some.inj (hl.symm.trans hl')
      exact (congrArg Team.tvec hfr :)
    exact enter h hin htvec k arg epc

/-- What the outcome of a register word's entry comes to. -/
theorem settle (ht : look c.s.teams c.tk = some c.t) (hm : c.s.memberAt c.tk c.m.id = some c.m) {x : Res} (hx : RegRes c r x) :
    Ends c r (settle c r x) := by
  cases hx with
  | cause k arg => exact (takeCause ⟨ht, .refl c.s, hm, .refl c.m, rfl, rfl, rfl⟩ k arg).draw
  | wait => exact idle hm
  | @done o hn hw hf =>
    have hd {s : State} {m : Member} (h : s.memberAt c.tk c.m.id = some m) : (c.draw s).memberAt c.tk c.m.id = some m :=
      (memberAt_of_teams (c.draw_teams s) _ _).trans h
    unfold Machine.settle
    dsimp only
    split
    · have hr : (c.s.updMember c.tk c.m.id (fun m => m.raise o.flags)).memberAt c.tk c.m.id = some (c.m.raise o.flags) := by
        rw [memberAt_updMember c.s _ _ (fun m => m.raise o.flags) (fun _ => rfl), hm, Option.map_some]
      have hfr : TeamFrame c.unqueued c.tk c.m.id c.s (c.draw (c.s.updMember c.tk c.m.id (fun m => m.raise o.flags))) :=
        .trans (.updMember (f := fun m => m.raise o.flags) c.s (fun _ => rfl)) (.draw c _)
      exact takeCause ⟨ht, hfr, hd hr, .raise hf c.m, rfl, rfl, rfl⟩ _ _
    split
    · exact takeCause ⟨ht, .draw c c.s, hd hm, .refl c.m, rfl, rfl, rfl⟩ _ _
    split
    · exact park hm hw _ _
    · exact complete hm hn hw hf

/-- A register word that goes through its checks. -/
theorem issue (ht : look c.s.teams c.tk = some c.t) (hm : c.s.memberAt c.tk c.m.id = some c.m) {entry : Ctx → Res}
    (he : r.legal c.w = true → RegRes c r (entry c)) : Ends c r (issue c r entry) := by
  unfold Machine.issue
  split
  · exact settle ht hm (.cause _ _)
  next hl =>
    split
    · exact settle ht hm (.cause _ _)
    split
    · exact settle ht hm .idle
    split
    · exact settle ht hm (.cause _ _)
    split
    · exact settle ht hm .idle
    · exact settle ht hm (he (by simpa using hl))

end Ends

/-- The frame of a register word, from that of its team and from what its member keeps. -/
theorem regFrame_of_kept {c : Ctx} {r : CRow} {fp : Bool} {s s' : State} (ht : look s.teams c.tk = some c.t)
    (hf : TeamFrame c.unqueued c.tk c.m.id s s') (h : ∀ m', s'.memberAt c.tk c.m.id = some m' → c.m.Kept (c.touched r) fp m' ∧ c.trapKept m') :
    RegFrame s s' c r fp := by
  refine ⟨hf.toOnlyTeams, hf.others, hf.team c.t ht, hf.members, fun m' hm => ?_, fun m' l hm => (h m' hm).1.flags l⟩
  obtain ⟨hk, htrap⟩ := h m' hm
  refine ⟨fun p hw hp => hk.file p (fun hx => ?_), hk.present, hk.slot, hk.role, hk.arrival, hk.latch, htrap⟩
  rcases hx with hx | hx
  · exact absurd hx (by simp [hw])
  · exact hp hx

/-- A register word leaves all else alone, whatever it comes to. -/
theorem exec_regFrame {i : Instr} {r : CRow} {w : CWord} {s s' : State} {c : Ctx} (hi : calRow i = some (r, w)) (hr : RegisterRow r.op)
    (hs : issuer s = some (c.tk, c.t, c.m)) (hc : c = ctxOf s c.tk c.t c.m r.op w) (hx : exec i s = .next s') :
    RegFrame s s' c r (raisesFlags r.op) := by
  obtain ⟨entry, he, hreg⟩ := exec_of_registerRow hi hr
  obtain ⟨ht, id, htm⟩ := issuer_finds hs
  obtain rfl : c.m.id = id := by simpa using List.find?_some htm
  have hm : s.memberAt c.tk c.m.id = some c.m := Option.bind_eq_some_iff.mpr ⟨c.t, ht, htm⟩
  have hcs : c.s = s.freed (32 * c.m.pendWrites.length) := by rw [hc]; rfl
  rw [he] at hx
  rcases calud_cases r entry w s with ⟨h, -⟩ | ⟨tk, t, m, h, hd⟩
  · rw [hs] at h
    cases h
  · obtain ⟨rfl, rfl, rfl⟩ : c.tk = tk ∧ c.t = t ∧ c.m = m := by simpa using hs.symm.trans h
    rw [← hc, hx] at hd
    rcases hd with hd | hd
    · obtain rfl : s' = s := by simpa using hd
      refine regFrame_of_kept ht (.refl s') (fun m' hm' => ?_)
      obtain rfl := Option.some.inj (hm.symm.trans hm')
      exact ⟨.refl _, .inl rfl⟩
    · obtain rfl : s' = issue c r entry := by simpa using hd
      have hend : Ends c r (issue c r entry) := .issue (hcs ▸ ht) (hcs ▸ hm) (hreg c)
      exact regFrame_of_kept ht (.trans (hcs ▸ .freed s _) hend.frame) hend.member

end Sys2Proof.Machine

namespace Sys2Proof.Proofs
open Sys2Proof Sys2Proof.Machine

/-- Settles O29: the entry of a register word names what it writes (`exec_of_registerRow`), and every end of such a word is a frame of its
team with a member that keeps the rest (`Ends`); of memory, the accesses, the cells and the completion are followed byte by byte. -/
theorem registerAndMemoryWordsLeaveAllElseAlone : Obligations.RegisterAndMemoryWordsLeaveAllElseAlone := by
  refine ⟨?registers, ?accesses, writeCells_direct_mem, writeCells_versioned_mem, ?stores, ?completes⟩
  case registers =>
    intro i r w s s' c hi hr hs hc hx
    exact exec_regFrame hi hr hs hc hx
  case accesses =>
    intro c a s1 tr h hn x
    rw [h.mem hn]
  case stores =>
    intro c s v upto cs a h
    exact c.storeFrom_mem_other h [] s
  case completes =>
    intro c s o
    exact ⟨complete_mem c s o, fun hn => (TeamFrame.complete (Q := True) c s hn).others trivial, (complete_onlyTeams c s o).rest⟩

end Sys2Proof.Proofs

/-! ### Compare, select, move and predicate words (O2) -/

namespace Sys2Proof.Machine

/-- The relation that a CMP code of three bits names between two integers (R121). -/
theorem cmpHolds_sub (code : Nat) (a b : Int) : cmpHolds code (a - b) = match code with
    | 0 => decide (a = b)
    | 1 => decide (a ≠ b)
    | 2 => decide (a < b)
    | 3 => decide (a ≤ b)
    | 4 => decide (b < a)
    | _ => decide (b ≤ a) := by
  match code with
  | 0 | 1 | 2 | 3 | 4 => simp [cmpHolds, Int.sub_eq_zero]
  | _ + 5 => simp [cmpHolds]

/-- PLOG looks a bit of one of its two tables up (R91). -/
theorem entryPlog_done (c : Ctx) : entryPlog c = .done c.s (eachPred c (fun l =>
    (if c.p l (fC c.w) then mBits c.w 7 4 else mBits c.w 3 0).testBit (2 * b2n (c.p l (fA c.w)) + b2n (c.p l (fB c.w))))) := by
  simp only [entryPlog, predWise, eachPred, splitBit_eq_testBit]

/-- PRD packs consecutive predicates of a lane into the low bits of its register (R92). -/
theorem entryPrd_done (c : Ctx) : entryPrd c = .done c.s (eachV c (fun l =>
    ((List.range (mBits c.w 4 0 + 1)).map (fun i => b2n (c.p l (fA c.w + i)) * 2 ^ i)).sum)) := by
  simp only [entryPrd, eachV, sumNat_eq_sum]

/-- PWR unpacks the low bits of a lane's operand into consecutive predicates (R92). -/
theorem entryPwr_done (c : Ctx) : entryPwr c = .done c.s (Out.fixed (c.act.flatMap (fun l => (List.range (mBits c.w 4 0 + 1)).map (fun i =>
    (Place.p l (fD c.w + i), b2n ((c.a false l).testBit i)))))) := by
  simp only [entryPwr, bit_eq_testBit]

end Sys2Proof.Machine

namespace Sys2Proof.Proofs
open Sys2Proof Sys2Proof.Machine

/-- Settles O2: ICMP reads its relation off the sign of the difference (`cmpHolds_sub`), and the other words' entries are done with their
rule's values. -/
theorem compareSelectMoveAndPredicateWords : Obligations.CompareSelectMoveAndPredicateWords := by
  refine ⟨?icmp, ?sel, ?mov, ?movi, ?smovi, ?plog, ?prd, ?pwr⟩
  case icmp =>
    refine completes_of (entry := entryIcmp) (fun _ _ => rfl) (fun c => ?_)
    simp only [entryIcmp, predWise, eachPred, cmpHolds_sub] <;> rfl
  case sel =>
    refine completes_of (entry := entrySel) (fun _ _ => rfl) (fun c => ?_)
    simp only [entrySel, laneWise, eachLane]
  case mov | movi | smovi => exact completes_of (fun _ _ => rfl) (fun _ => rfl)
  case plog => exact completes_of (fun _ _ => rfl) entryPlog_done
  case prd => exact completes_of (fun _ _ => rfl) entryPrd_done
  case pwr => exact completes_of (fun _ _ => rfl) entryPwr_done

end Sys2Proof.Proofs

/-! ### Float words of one element (O4) -/

namespace Sys2Proof.Machine

/-- FFMA rounds the exact product and sum once (R124). -/
theorem fFma_rounds (c : Ctx) (k x y z : Nat) : fFma f32 (rmOf c.w) (ftzOf c.w) k x y z =
    c.rounds ((Ex.mul? (decodeZ (ftzOf c.w) f32 x) (decodeZ (ftzOf c.w) f32 y)).bind
      (fun p => Ex.add? (rmOf c.w) p (decodeZ (ftzOf c.w) f32 z))) k := by
  unfold fFma
  cases Ex.mul? (decodeZ (ftzOf c.w) f32 x) (decodeZ (ftzOf c.w) f32 y) with
  | none => rfl
  | some p => exact roundSum_rounds c k p _

/-- A float word of two operands whose operation rounds an exact result is done with that result rounded in each lane. -/
theorem float2_rounds {f : Fmt32 → Nat → Bool → Nat → Nat → Nat → Rounded} {op : Nat → Option Ex} {c : Ctx}
    (h : ∀ l k, f f32 (rmOf c.w) (ftzOf c.w) k (c.a false l) (c.b false l) = c.rounds (op l) k) :
    float2 f c = floatWise c (fun l k => c.rounds (op l) k) := by
  simp only [float2, h]

end Sys2Proof.Machine

namespace Sys2Proof.Proofs
open Sys2Proof Sys2Proof.Machine

/-- Settles O4: the arithmetic words are done with `Ctx.rounds` of their exact result, and the other entries with their rule's values as
they stand. -/
theorem floatWordsRoundTheExactResultOnce : Obligations.FloatWordsRoundTheExactResultOnce := by
  refine ⟨?fadd, ?fsub, ?fmul, ?ffma, ?fmin, ?fmax, ?fcmp, ?frnd⟩
  case fadd => exact completes_of (fun _ _ => rfl) (fun c => float2_rounds (fun _ _ => roundSum_rounds ..))
  case fsub => exact completes_of (fun _ _ => rfl) (fun c => float2_rounds (fun _ _ => roundSum_rounds ..))
  case fmul => exact completes_of (fun _ _ => rfl) (fun c => float2_rounds (fun _ _ => fMul_rounds ..))
  case ffma =>
    refine completes_of (entry := entryFfma) (fun _ _ => rfl) (fun c => ?_)
    simp only [entryFfma, fFma_rounds]
    rfl
  case fmin | fmax | fcmp => exact completes_of (fun _ _ => rfl) (fun _ => rfl)
  case frnd => exact completes_of (entry := entryFrnd) (fun _ _ => rfl) (fun _ => rfl)

end Sys2Proof.Proofs

/-! ### Words that complete (O27) -/

namespace Sys2Proof.Machine

/-- The PC at which a lane goes on (R76). -/
def nextPc (m : Member) (next : List (Nat × Word)) (l : Nat) : Word := ((next.find? (fun e => e.1 = l)).map (·.2)).getD (m.pc + 1)

theorem mem_nextPcs {m : Member} {next : List (Nat × Word)} {l : Nat} (h : l ∈ m.present) : (l, nextPc m next l) ∈ nextPcs m next :=
  List.mem_map.mpr ⟨l, h, rfl⟩

/-- Every next PC stands among the distinct ones. -/
theorem mem_distinctPcs {l : List (Nat × Word)} {e : Nat × Word} (h : e ∈ l) : e.2 ∈ distinctPcs l := by
  have go (l : List (Nat × Word)) : ∀ acc : List Word, (e ∈ l ∨ e.2 ∈ acc) →
      e.2 ∈ l.foldl (fun acc e => if acc.contains e.2 then acc else acc ++ [e.2]) acc := by
    induction l with
    | nil => exact fun acc h => by simpa using h
    | cons x l ih =>
      intro acc h
      rw [List.foldl_cons]
      refine ih _ ?_
      rcases h with h | h
      · rcases List.mem_cons.mp h with rfl | h
        · right
          split
          · next hc => simpa using hc
          · simp
        · exact .inl h
      · right
        split <;> simp [h]
  exact go l [] (.inl h)

theorem mem_of_member {t : Team} {mid : Nat} {m : Member} (h : t.member mid = some m) : m ∈ t.members := List.mem_of_find?_eq_some h

/-- The split groups of a member, one for each PC that its lanes go on at (R77). -/
def Team.splitGroups (t : Team) (m : Member) (next : List (Nat × Word)) (pcs : List Word) : List Member :=
  pcs.zipIdx.map (fun e => ((m.drain).closeWindows (fun _ => true)).splitTo (nextPcs m next) e.1 (t.fresh + e.2))

/-- A lane stands in the split group of its next PC, which has its member's slot (R77). -/
theorem splitGroups_lane {m : Member} {next : List (Nat × Word)} {pcs : List Word} {l : Nat} (t : Team) (hl : l ∈ m.present)
    (hp : nextPc m next l ∈ pcs) : ∃ m' ∈ t.splitGroups m next pcs, m'.slot = m.slot ∧ l ∈ m'.present ∧ m'.pc = nextPc m next l := by
  obtain ⟨k, hk⟩ := List.mem_iff_getElem?.mp hp
  have hz : (nextPc m next l, k) ∈ pcs.zipIdx := List.mk_mem_zipIdx_iff_getElem?.mpr hk
  have hb : ((m.drain).closeWindows (fun _ => true)).bare = m.bare := m.drain_bare
  have hl' : l ∈ ((m.drain).closeWindows (fun _ => true)).present := Member.present_of_bare hb ▸ hl
  obtain ⟨e, he, rfl⟩ := List.mem_map.mp hl'
  refine ⟨_, List.mem_map.mpr ⟨_, hz, rfl⟩, (congrArg Member.slot hb :), List.mem_map.mpr ⟨e, List.mem_filter.mpr ⟨he, ?_⟩, rfl⟩, rfl⟩
  exact List.any_eq_true.mpr ⟨_, mem_nextPcs hl, by simp⟩

/-- A team whose member goes on at its lanes' next PCs (R76, R77, R89). -/
def Team.moveOn (t : Team) (mid : Nat) (next : List (Nat × Word)) : Team :=
  match t.member mid with
  | none => t
  | some m => match distinctPcs (nextPcs m next) with
    | [] => { t with members := t.members.filter (fun x => x.id != mid) }
    | [pc] => t.updMember mid (fun m => { m with pc := pc })
    | pcs => { t with members := t.members.flatMap (fun x => if x.id = mid then t.splitGroups m next pcs else [x])
                      fresh := t.fresh + pcs.length }

/-- Whether the lanes of a member go on at several PCs. -/
def State.splits (s : State) (tk mid : Nat) (next : List (Nat × Word)) : Bool :=
  (s.memberAt tk mid).any (fun m => decide (1 < (distinctPcs (nextPcs m next)).length))

theorem advance_moveOn (s : State) (tk mid : Nat) (next : List (Nat × Word)) : advance s tk mid next =
    (if s.splits tk mid next then s.settleQueues tk mid else s).updTeam tk (fun t => t.moveOn mid next) := by
  unfold advance Team.moveOn
  rfl

/-- A lane of a member that moves on stands in a member of the same slot at its next PC. -/
theorem moveOn_lane {t : Team} {mid : Nat} {m : Member} {l : Nat} (next : List (Nat × Word)) (hm : t.member mid = some m)
    (hl : l ∈ m.present) : ∃ m' ∈ (t.moveOn mid next).members, m'.slot = m.slot ∧ l ∈ m'.present ∧ m'.pc = nextPc m next l := by
  have hpc := mem_distinctPcs (mem_nextPcs (next := next) hl)
  have hid := member_id hm
  simp only [Team.moveOn, hm]
  match hd : distinctPcs (nextPcs m next) with
  | [] => simp [hd] at hpc
  | [pc] =>
    obtain rfl : nextPc m next l = pc := by simpa [hd] using hpc
    exact ⟨_, List.mem_map.mpr ⟨m, mem_of_member hm, if_pos hid⟩, rfl, hl, rfl⟩
  | pc :: pc' :: pcs =>
    obtain ⟨m', hm', h⟩ := splitGroups_lane t hl (hd ▸ hpc)
    exact ⟨m', List.mem_flatMap.mpr ⟨m, mem_of_member hm, by rwa [if_pos hid]⟩, h⟩

/-- After a member has moved on, each of its lanes stands in a member of its slot at the lane's next PC (R76, R77). -/
theorem advance_lane {s : State} {tk mid : Nat} {m : Member} {l : Nat} (next : List (Nat × Word)) (hm : s.memberAt tk mid = some m)
    (hl : l ∈ m.present) : ∃ t' m', look (advance s tk mid next).teams tk = some t' ∧ m' ∈ t'.members ∧ m'.slot = m.slot ∧
      l ∈ m'.present ∧ m'.pc = nextPc m next l := by
  have hm' : (if s.splits tk mid next then s.settleQueues tk mid else s).memberAt tk mid = some m := by
    split
    · rw [memberAt_settleQueues, hm]
    · exact hm
  obtain ⟨t, ht, htm⟩ := Option.bind_eq_some_iff.mp hm'
  obtain ⟨m', hmem, h⟩ := moveOn_lane next htm hl
  exact ⟨t.moveOn mid next, m', by rw [advance_moveOn, updTeam_look, ht, Option.map_some], hmem, h⟩

section
variable {r : CRow} {w : CWord} {s : State} {c : Ctx}

/-- The member of a word that completes, before it moves on. -/
theorem finished_memberAt (h : Issues r w s c) (o : Out) :
    (c.draw ((c.s.updMember c.tk c.m.id (c.finished o)).freed (if o.var then o.writes.length + o.loads.length else 0))).memberAt c.tk c.m.id =
      some (c.finished o c.m) := by
  rw [memberAt_of_teams (c.draw_teams _), memberAt_of_teams (freed_teams _ _),
    memberAt_updMember c.s c.tk c.m.id (c.finished o) (c.finished_id o), h.memberAt, Option.map_some]

theorem Ctx.finished_slot (c : Ctx) (o : Out) (m : Member) : (c.finished o m).slot = m.slot :=
  (congrArg Member.slot ((c.flagged o m).result_bare c.w c.s.free c.s.now o) :)

theorem Ctx.finished_weir (c : Ctx) (o : Out) (m : Member) : (c.finished o m).weir = c.chargedWeir ((m.raise o.flags).reseed o.rng) :=
  (congrArg Member.weir ((c.flagged o m).result_bare c.w c.s.free c.s.now o) :)

/-- Outside a handler a word that does not act again enters its weight into the window of its weir, which keeps 32 words (R333). -/
theorem chargedWeir_charges {m : Member} (hg : neverGuard c.w = false) (hc : c.m.cont = none) (hi : m.trap.inh = false) :
    c.chargedWeir m = m.weir.map (fun x => { x with window := (weightIn x.weights c.opClass :: x.window).take 32 }) := by
  simp [Ctx.chargedWeir, hg, hc, hi]

theorem chargedWeir_handler {m : Member} (hi : m.trap.inh = true) : c.chargedWeir m = m.weir := by
  simp [Ctx.chargedWeir, hi]

/-- A word that does not act again draws its weight (R330). -/
theorem draw_level (hc : c.m.cont = none) (s : State) :
    ((c.draw s).reach (reachOf c.t.seat.core)).level = (s.reach (reachOf c.t.seat.core)).level - c.millWeight := by
  have ha : c.m.again = false := by simp [Member.again, hc]
  by_cases h0 : c.millWeight = 0
  · simp [Ctx.draw, h0]
  · simp [Ctx.draw, ha, h0]

end

end Sys2Proof.Machine

namespace Sys2Proof.Proofs
open Sys2Proof Sys2Proof.Machine

/-- Settles O27: a word leaves its member `Ctx.finished`, which keeps lanes and slot and whose weir is charged, and then moves it on
(`advance_lane`); what it draws is `Ctx.draw`. -/
theorem completedWordsGoOnDrawAndCharge : Obligations.CompletedWordsGoOnDrawAndCharge := by
  refine ⟨?goesOn, ?charges⟩
  case goesOn =>
    intro r w s c o l x h _ _ _ hl
    have hp : l ∈ (c.finished o c.m).present := c.finished_present o c.m ▸ List.mem_map.mpr ⟨_, hl, rfl⟩
    obtain ⟨t', m', ht, hm, hslot, hpres, hpc⟩ := advance_lane o.next (finished_memberAt h o) hp
    refine ⟨t', m', ht, hm, hslot.trans (c.finished_slot o c.m), hpres, hpc.trans ?_⟩
    rw [nextPc, c.finished_pc]
  case charges =>
    intro r w s c o h hc hn
    have hs : s.reach = c.s.reach := by rw [h.state]; rfl
    refine ⟨?_, _, complete_member h hn, fun hi => ?_, fun hi => ?_⟩
    · rw [complete_eq, hn, advance_nil, hs]
      exact draw_level hc _
    · exact (c.finished_weir o c.m).trans (chargedWeir_charges (h.word ▸ h.guarded) hc hi)
    · exact (c.finished_weir o c.m).trans (chargedWeir_handler hi)

end Sys2Proof.Proofs

/-! ### Control flow and the last EXIT (O7) -/

namespace Sys2Proof.Machine

/-- Check 1 holds M to the bits that the row uses, and each field to its class (R59, R60). -/
theorem fields_of_legal {r : CRow} {w : CWord} (h : r.legal w = true) :
    fM w &&& ~~~ BitVec.ofNat 16 (r.selMask ||| r.mMask) = 0 ∧ r.fieldsOk w = true := by
  simp only [CRow.legal, Bool.and_eq_true, decide_eq_true_eq] at h
  obtain ⟨⟨⟨⟨⟨-, hm⟩, -⟩, hf⟩, -⟩, -⟩ := h
  exact ⟨hm, hf⟩

/-- NOP has format R with every field and M zero (R90). -/
theorem nop_body {w : CWord} (h : (rowAt 0x000).legal w = true) : w.body = .r 0 0 0 0 0 := by
  obtain ⟨hm, hf⟩ := fields_of_legal h
  have hfmt := fmt_of_legal h
  obtain ⟨g, body⟩ := w
  cases body with
  | r d a b c m =>
    have hm' : m &&& BitVec.allOnes 16 = 0 := hm
    rw [BitVec.and_allOnes] at hm'
    have hf' : (decide (d.toNat = 0) && decide (a.toNat = 0) && decide (b.toNat = 0) && decide (c.toNat = 0)) = true := hf
    simp only [Bool.and_eq_true, decide_eq_true_eq] at hf'
    obtain ⟨⟨⟨hd, ha⟩, hb⟩, hc⟩ := hf'
    simp only [hm', BitVec.eq_of_toNat_eq (y := 0#8) hd, BitVec.eq_of_toNat_eq (y := 0#8) ha, BitVec.eq_of_toNat_eq (y := 0#8) hb,
      BitVec.eq_of_toNat_eq (y := 0#8) hc]
    rfl
  | i | b | e => exact Bool.noConfusion hfmt

section
variable {r : CRow} {w : CWord} {s : State} {c : Ctx}

/-- A word without an outcome leaves the registers, the exception registers, the flags and the generators of its member. -/
theorem complete_none_member (h : Issues r w s c) {m' : Member} (hm : (complete c c.s Out.none).memberAt c.tk c.m.id = some m') :
    m'.pc = c.m.pc + 1 ∧ (∀ p, m'.file p = c.m.file p) ∧ m'.trap = c.m.trap ∧
      ∀ l, m'.laneFlags l = c.m.laneFlags l ∧ (m'.lane l).map (·.rng) = (c.m.lane l).map (·.rng) := by
  obtain rfl := memberAt_complete h.memberAt rfl hm
  exact ⟨rfl, fun p => c.finished_file_other (fun e he => absurd he List.not_mem_nil) c.m, c.finished_trap Out.none c.m, c.idle_lane c.m⟩

end

/-! #### The EXIT that carries an arrival -/

theorem markHeld_updTeam (s : State) (tk : Nat) {f : Team → Team} (hf : ∀ t, (f t).ver = t.ver) (k : Marks) :
    markHeld (s.updTeam tk f) k = markHeld s k := by
  simp only [markHeld, State.updTeam, upd, List.any_map]
  congr 1
  funext e
  by_cases he : e.1 = tk <;> simp [he, hf]

/-- A change of a team that leaves its version does not change which commits fit (R212). -/
theorem commitFits_updTeam (s : State) (k tk : Nat) {f : Team → Team} (hf : ∀ t, (f t).ver = t.ver) (t : Team) :
    commitFits (s.updTeam k f) tk t = commitFits s tk t := by
  have hs : shareLines (s.updTeam k f) tk = shareLines s tk := by
    simp only [shareLines, markHeld_updTeam s k hf]
    rfl
  simp only [commitFits, hs]
  rfl

/-- A team whose member's present lanes have performed their loads (R195). -/
def Ctx.firmed (c : Ctx) (t : Team) : Team :=
  { t with members := t.members.map (fun m =>
      { m with pend := m.pend.map (fun q => { q with loads := q.loads.filter (fun x => !(c.m.present.map c.tid).contains x.lane) }) }) }

theorem released_teams (c : Ctx) (scope : Nat) : (c.released scope).s.teams = (c.s.updTeam c.tk c.firmed).teams := rfl

theorem commitFits_released (c : Ctx) (scope tk : Nat) (t : Team) : commitFits (c.released scope).s tk t = commitFits c.s tk t :=
  (commitFits_updTeam c.s c.tk tk (f := c.firmed) (fun _ => rfl) t :)

/-- A commit leaves its team in the state's table (R205). -/
theorem look_commitVersion {s : State} {tk : Nat} {u : Team} (t : Team) (h : look s.teams tk = some u) :
    ∃ u', look (commitVersion s tk t).teams tk = some u' := by
  by_cases hv : t.ver.reads = [] ∧ t.ver.writes = []
  · exact ⟨u.committed, by rw [commitVersion, if_pos hv, updTeam_look, h, Option.map_some]⟩
  · obtain ⟨sn, hsn⟩ := foldl_touchPool_frame s (some t.part) ((t.ver.cells.map (fun x => x.1 / 64 * 64)).dedup) true
    rw [commitVersion, if_neg hv, hsn, updTeam_look]
    exact ⟨u.committed, congrArg (Option.map Team.committed) h⟩

theorem reread_shape (c : Ctx) (s : State) : ∃ s' t, c.reread s = { c with s := s', t := t } := by
  unfold Ctx.reread
  split
  · exact ⟨_, _, rfl⟩
  · exact ⟨c.s, c.t, rfl⟩

/-- A commit that fits is performed, and its word goes on (R205, R212). -/
theorem commitPoint_fits {c : Ctx} {u : Team} (hu : look c.s.teams c.tk = some u) (hf : commitFits c.s c.tk c.t = true) (bad : Bool)
    (k : Ctx → Res) : commitPoint c bad k =
      k (c.reread ((commitVersion c.s c.tk c.t).updMember c.tk c.m.id (fun m => { m with wait := .committed }))) := by
  obtain ⟨u', hu'⟩ := look_commitVersion c.t hu
  have hl : look ((commitVersion c.s c.tk c.t).updMember c.tk c.m.id (fun m => { m with wait := .committed })).teams c.tk =
      some (u'.updMember c.m.id (fun m => { m with wait := .committed })) := by
    rw [State.updMember, updTeam_look, hu', Option.map_some]
  simp only [commitPoint, hf, if_true, hl, Ctx.reread]

theorem look_released {c : Ctx} {u : Team} (hu : look c.s.teams c.tk = some u) (scope : Nat) :
    look (c.released scope).s.teams c.tk = some (c.firmed u) := by
  rw [released_teams, updTeam_look, hu, Option.map_some]

/-- A release that waits for nothing performs, commits and goes on, and its region ends with it (R150, R205, R212). -/
theorem boundary_passes {c : Ctx} {u : Team} (hu : look c.s.teams c.tk = some u) (h : Passes c 2 true) {k : Ctx → Res}
    {st : State → State} (hk : ∀ s t, k { c with s := s, t := t } = .done (st s) Out.none) :
    boundary c 2 true false k = .done (c.regionEnds 2 true false (st (c.passed 2 true).s)) Out.none := by
  obtain ⟨hw, hs, hc, hf⟩ := h
  have hs' : c.screensOut = false := hs
  have hc' : c.t.clean = true := hc
  have hf' : commitFits c.s c.tk c.t = true := hf
  have hp : commitPoint (c.released 2) false k = k (c.passed 2 true) :=
    commitPoint_fits (look_released hu 2) ((commitFits_released c 2 c.tk c.t).trans hf') false k
  obtain ⟨s', t', hst⟩ : ∃ s' t', c.passed 2 true = { c with s := s', t := t' } := reread_shape (c.released 2) _
  have hd : k (c.passed 2 true) = .done (st (c.passed 2 true).s) Out.none := by rw [hst]; exact hk s' t'
  simp [boundary, hs', hw, hf', afterWriteBack, writeBackAll_clean c _ hc', hp, hd, Res.atBoundary, Ctx.regionEnds, boundaryState]

end Sys2Proof.Machine

namespace Sys2Proof.Proofs
open Sys2Proof Sys2Proof.Machine

/-- Settles O7: NOP completes without an outcome (`complete_none_member`), the branches and YIELD are done as their rules say, and an EXIT
ends its lanes here, after the clean windows' write-back (`writeBackAll_clean`), or once its release has passed (`boundary_passes`). -/
theorem controlFlowWordsAndTheLastExit : Obligations.ControlFlowWordsAndTheLastExit := by
  refine ⟨⟨?fields, ?nop, ?bra, ?brx, ?call, ?ret, ?yield, ?rivals, ?here⟩, ?ends, ?arrives⟩
  case fields => exact fun w h => nop_body h
  case nop =>
    intro w s c h
    have hx : exec (.nop w) s = .next (complete c c.s Out.none) := calud_done (entry := entryNop) h rfl rfl
    exact ⟨hx, h.idle_onlyTeam, fun m' hm => complete_none_member h hm⟩
  case bra | brx | call | ret => exact completes_of (fun _ _ => rfl) (fun _ => rfl)
  case yield => exact completesIn_of (entry := entryYield) (fun _ _ => rfl) (fun _ _ _ _ _ => rfl)
  case rivals => exact fun _ _ _ _ _ _ => by simp only [withRivals]
  case here =>
    refine completesIn_of (entry := entryExit) (fun _ _ => rfl) (fun w s c _ ⟨hi, ha⟩ => ?_)
    simp only [entryExit, hi, ha, Bool.false_eq_true, if_false]
  case ends =>
    refine completesIn_of (entry := entryExit) (fun _ _ => rfl) (fun w s c _ ⟨hi, hc⟩ => ?_)
    simp only [entryExit, hi, hc, if_true, Bool.not_true, Bool.false_and, Bool.false_eq_true, if_false, afterWriteBack,
      writeBackAll_clean c _ hc]
  case arrives =>
    intro n
    refine completesIn_of (entry := entryExit) (fun _ _ => rfl) (fun w s c h ⟨hi, ha, hp⟩ => ?_)
    obtain ⟨u, hu, -⟩ := Option.bind_eq_some_iff.mp h.memberAt
    simp only [entryExit, hi, ha, Bool.false_eq_true, if_false]
    exact boundary_passes (st := fun s => (s.updTeam c.tk (fun t => { t with arrived := insertNat n t.arrived })).updTeam c.tk (fun t =>
      (t.updMember c.m.id (fun m => { m with lanes := m.lanes.filter (fun e => !c.act.contains e.1) })).endArrivals)) hu hp (fun _ _ => rfl)

end Sys2Proof.Proofs

/-! ### REFORM and REFORM.join (O8) -/

namespace Sys2Proof.Machine

/-- The weight of class 0 is the low byte of the weights (R326). -/
theorem weightIn_zero (x : Reach) : weightIn x.classWeights 0 = x.weights.toNat % 256 := by
  simp [weightIn, Reach.classWeights, bits]

theorem reach_settleQueues (s : State) (tk mid n : Nat) : (s.settleQueues tk mid).reach n = s.reach n :=
  (congrArg (State.reach · n) (settleQueues_rest s tk mid) :)

/-- The context of a REFORM.join once the queues of its port have written what they accepted before its results (R103). -/
def Ctx.queuesSettled (c : Ctx) : Ctx := { c with s := c.s.settleQueues c.tk c.m.id }

theorem queuesSettled_millWeight (c : Ctx) : c.queuesSettled.millWeight = c.millWeight := by
  simp only [Ctx.millWeight, Ctx.queuesSettled, reach_settleQueues]
  rfl

/-- The millpond does not hold the weights of a REFORM.join and of its siblings (R330). -/
theorem joinsWait_iff (c : Ctx) : c.queuesSettled.joinsWait = true ↔ (c.s.reach (reachOf c.t.seat.core)).level <
    (if c.m.again then 0 else c.millWeight) + c.siblings.length * ((c.s.reach (reachOf c.t.seat.core)).weights.toNat % 256) := by
  simp only [Ctx.joinsWait, decide_eq_true_eq, queuesSettled_millWeight, weightIn_zero]
  simp only [Ctx.queuesSettled, reach_settleQueues]
  rfl

/-- Every sibling waits at its own REFORM.join, outside a handler (R82, R87). -/
def Ctx.siblingsCome (c : Ctx) : Bool := c.siblings.all (fun x => x.wait = .join && !x.trap.inh)

theorem siblingsCome_iff (c : Ctx) : c.siblingsCome = true ↔
    ∀ x : Member, x ∈ c.t.members → x.slot = c.m.slot → x.id ≠ c.m.id → x.wait = .join ∧ x.trap.inh = false := by
  simp only [Ctx.siblingsCome, Ctx.siblings, List.all_eq_true, List.mem_filter, Bool.and_eq_true, decide_eq_true_eq, bne_iff_ne, Bool.not_eq_true']
  exact ⟨fun h x hx hs hi => h x ⟨hx, hs, hi⟩, fun h x ⟨hx, hs, hi⟩ => h x hx hs hi⟩

section
variable {c : Ctx}

/-- A REFORM.join over its weir's limit takes cause 0x20 before any effect (R333). -/
theorem entryReformJoin_over (ht : c.m.settled.tags = 0) (hi : c.m.trap.inh = false) (hc : c.overCharge = true) :
    entryReformJoin c = .cause c.s 0x20 0 := by
  simp [entryReformJoin, ht, hi, hc]

/-- A REFORM.join whose member holds a tag waits, its port's queues settled (R87, R103). -/
theorem entryReformJoin_tagged (ht : c.m.settled.tags ≠ 0) : entryReformJoin c = .wait (c.s.settleQueues c.tk c.m.id) := by
  have ht' : ¬ c.m.settled.tags = 0#6 := ht
  simp [entryReformJoin, ht']

/-- In a handler a REFORM.join only settles (R82). -/
theorem entryReformJoin_handler (ht : c.m.settled.tags = 0) (hi : c.m.trap.inh = true) : entryReformJoin c =
    .done ((c.s.settleQueues c.tk c.m.id).updMember c.tk c.m.id (fun _ => { c.m.settled with wait := .none })) Out.none := by
  simp [entryReformJoin, ht, hi]

section
variable (ht : c.m.settled.tags = 0) (hi : c.m.trap.inh = false) (hc : c.overCharge = false)
include ht hi hc

/-- Outside a handler a REFORM.join within its weir's limit merges its family where it has come, waits for weights or waits (R87, R330). -/
theorem entryReformJoin_outside : entryReformJoin c =
    if c.siblingsCome then
      if c.queuesSettled.joinsWait then .wait c.queuesSettled.s else
      .done ((c.queuesSettled.drawJoins c.siblings.length).updTeam c.tk (fun t => { t with
        members := t.members.filter (fun x => x.slot != c.m.settled.slot) ++
          joined c.m.settled.id ((c.m.settled :: c.siblings).map Member.settled) })) Out.none
    else .wait (c.queuesSettled.s.updMember c.tk c.m.id (fun _ => { c.m.settled with wait := .join, latch := none })) := by
  simp only [entryReformJoin, ht, hi, hc, Bool.and_false, Bool.false_eq_true, if_false]
  rfl

end

end

theorem takeCause_reach (s : State) (tk mid k arg n : Nat) : (takeCause s tk mid k arg).reach n = s.reach n := by
  unfold takeCause
  split
  · rfl
  next m _ =>
    obtain h | ⟨_, _, _, _, _, _, _, h⟩ | ⟨_, _, _, _, _, h⟩ := takeCauseAt_cases s tk mid k arg (if k = 0x28 then m.pc + 1 else m.pc)
    all_goals rw [h]
    · rfl
    · exact reach_settleQueues s tk mid n

/-- Whether a word draws before or after its cause makes no difference. -/
theorem draw_takeCause (c : Ctx) (s : State) (tk mid k arg : Nat) : c.draw (takeCause s tk mid k arg) = takeCause (c.draw s) tk mid k arg := by
  unfold Ctx.draw
  split
  · rfl
  · simp only [takeCause_setReach, takeCause_reach]

/-- A cause of its weir's limit that an entry takes is the one that the outcome of an idle word would take. -/
theorem ends_overCharge {c : Ctx} {r : CRow} (hc : c.overCharge = true) (s1 : State) :
    settle c r (.cause c.s 0x20 0) = c.ends s1 Out.none := by
  have hf : trapsFp c.t Out.none.flags = false := rfl
  simp only [settle, Ctx.ends, hf, hc, draw_takeCause, Bool.false_eq_true, if_false, if_true]

end Sys2Proof.Machine

namespace Sys2Proof.Proofs
open Sys2Proof Sys2Proof.Machine

/-- Settles O8: REFORM's entry files, settles, waits or takes its cause as its conditions stand; that of REFORM.join is said once
(`entryReformJoin_outside`), and over the weir's limit its cause is the one that `Ctx.ends` gives (`ends_overCharge`). -/
theorem reformFilesAndJoinMergesLanes : Obligations.ReformFilesAndJoinMergesLanes := by
  refine ⟨?files, ?handler, ?weir, ?tagged, ?merges, ?joinHandler, ?joinTagged, ?weights, ?sibling⟩
  case files =>
    refine completesIn_of (entry := entryReform) (fun _ _ => rfl) (fun w s c _ ⟨hw, ht, hi⟩ => ?_)
    simp only [entryReform, hw, ht, hi]
    rfl
  case handler =>
    refine completesIn_of (entry := entryReform) (fun _ _ => rfl) (fun w s c _ ⟨hw, ht, hi⟩ => ?_)
    simp only [entryReform, hw, ht, hi]
    rfl
  case weir =>
    refine traps_of (entry := entryReform) (fun _ _ => rfl) (fun w s c _ hw => ?_)
    rw [entryReform, if_pos (Option.isSome_iff_ne_none.mpr hw)]
  case tagged =>
    intro w s c h hw ht
    refine calud_wait (entry := entryReform) h ?_
    rw [entryReform, if_neg (by simp [hw]), if_pos (bne_iff_ne.mpr ht)]
  case merges =>
    intro w s c h ⟨ht, hi, hs, hl⟩
    refine (calud_attempts h.toAttempts entryReformJoin).trans (congrArg _ ((issue_entry h _).trans ?_))
    cases hc : c.overCharge with
    | true => rw [entryReformJoin_over ht hi hc, ends_overCharge hc]
    | false =>
      have hw : ¬ c.queuesSettled.joinsWait = true := fun hw => Nat.not_lt.mpr hl ((joinsWait_iff c).mp hw)
      rw [entryReformJoin_outside ht hi hc, if_pos ((siblingsCome_iff c).mpr hs), if_neg hw, settle_done h]
      rfl
  case joinHandler =>
    exact completesIn_of (entry := entryReformJoin) (fun _ _ => rfl) (fun w s c _ ⟨ht, hi⟩ => entryReformJoin_handler ht hi)
  case joinTagged => exact fun w s c h ht => calud_wait (entry := entryReformJoin) h (entryReformJoin_tagged ht)
  case weights =>
    intro w s c h ht hi hs hl
    refine calud_wait (entry := entryReformJoin) h ?_
    rw [entryReformJoin_outside ht hi h.charge, if_pos ((siblingsCome_iff c).mpr hs), if_pos ((joinsWait_iff c).mpr hl)]
    rfl
  case sibling =>
    intro w s c h ht hi ⟨x, hx, hslot, hid, hn⟩
    refine calud_wait (entry := entryReformJoin) h ?_
    rw [entryReformJoin_outside ht hi h.charge, if_neg fun hs => ?_]
    · rfl
    · obtain ⟨hj, hh⟩ := (siblingsCome_iff c).mp hs x hx hslot hid
      rcases hn with hn | hn
      · exact hn hj
      · simp [hn] at hh

end Sys2Proof.Proofs

/-! ### Bins, banks, parks, replays, aborts and arrivals (O53) -/

namespace Sys2Proof.Machine

/-! #### Bins (R81) -/

theorem leastBy_cons_cons {α : Type} (f : α → Nat) (a b : α) (l : List α) :
    leastBy f (a :: b :: l) = if f b < f a then leastBy f (b :: l) else leastBy f (a :: l) := by
  simp only [leastBy, List.foldl_cons]
  split <;> rfl

/-- A list that is not empty has a least element. -/
theorem leastBy_cons {α : Type} (f : α → Nat) (a : α) (l : List α) :
    ∃ x, leastBy f (a :: l) = some x ∧ x ∈ a :: l ∧ ∀ y ∈ a :: l, f x ≤ f y := by
  induction l generalizing a with
  | nil => exact ⟨a, rfl, by simp, by simp⟩
  | cons b l ih =>
    rw [leastBy_cons_cons]
    split
    · next hlt =>
      obtain ⟨x, hx, hmem, hle⟩ := ih b
      have hb := hle b List.mem_cons_self
      exact ⟨x, hx, List.mem_cons_of_mem a hmem, List.forall_mem_cons.mpr ⟨by omega, hle⟩⟩
    · next hge =>
      obtain ⟨x, hx, hmem, hle⟩ := ih a
      obtain ⟨ha, hl⟩ := List.forall_mem_cons.mp hle
      refine ⟨x, hx, ?_, List.forall_mem_cons.mpr ⟨ha, List.forall_mem_cons.mpr ⟨by omega, hl⟩⟩⟩
      rcases List.mem_cons.mp hmem with rfl | hmem <;> simp [*]

/-- The least of a list is one of it, and no other has a lesser key. -/
theorem leastBy_spec {α : Type} {f : α → Nat} {l : List α} {x : α} (h : leastBy f l = some x) : x ∈ l ∧ ∀ y ∈ l, f x ≤ f y := by
  cases l with
  | nil => simp [leastBy] at h
  | cons a l =>
    obtain ⟨y, hy, hl⟩ := leastBy_cons f a l
    obtain rfl : y = x := Option.some.inj (hy.symm.trans h)
    exact hl

theorem leastBy_ne_none {α : Type} {f : α → Nat} {l : List α} {x : α} (hx : x ∈ l) : leastBy f l ≠ none := by
  cases l with
  | nil => simp at hx
  | cons a l =>
    obtain ⟨y, hy, -⟩ := leastBy_cons f a l
    simp [hy]

/-- The next bin of a role may be drawn, and is the first filed of the full ones where one is full (R81). -/
theorem nextBin_spec {t : Team} {now role : Nat} {b : Bin} (h : nextBin t now role = some b) :
    b ∈ t.bins ∧ b.role = role ∧ binEligible t now b = true ∧
    ∀ x ∈ t.bins, x.role = role → x.isFull = true → b.isFull = true ∧ b.since ≤ x.since := by
  have hin {b : Bin} (h : b ∈ t.bins.filter (fun b => b.role = role && binEligible t now b)) :
      b ∈ t.bins ∧ b.role = role ∧ binEligible t now b = true := by
    simpa using h
  have hfull {x : Bin} (hx : x ∈ t.bins) (hr : x.role = role) (hf : x.isFull = true) :
      x ∈ (t.bins.filter (fun b => b.role = role && binEligible t now b)).filter Bin.isFull := by
    simp [hx, hr, hf, binEligible]
  rcases Option.or_eq_some_iff.mp h with h | ⟨hn, h⟩
  · obtain ⟨hb, hl⟩ := leastBy_spec h
    obtain ⟨hb, hbf⟩ := List.mem_filter.mp hb
    obtain ⟨hmem, hrole, hel⟩ := hin hb
    exact ⟨hmem, hrole, hel, fun x hx hr hf => ⟨hbf, hl x (hfull hx hr hf)⟩⟩
  · obtain ⟨hmem, hrole, hel⟩ := hin (leastBy_spec h).1
    exact ⟨hmem, hrole, hel, fun x hx hr hf => absurd hn (leastBy_ne_none (hfull hx hr hf))⟩

/-- The group that a drawn bin becomes (R81). -/
def Team.drawn (s : State) (t : Team) (b : Bin) (g : Nat) : Member :=
  startGroup t (seedRecs s t.ctx t.spec t.gen) s.now g b.role none (b.lanes.zipIdx.map (fun e => (e.2, e.1))) b.pc t.indices b.cb

theorem eddyBinDraw_next {tk n : Nat} {s : State} {t : Team} {b b' : Bin} {g : Nat} (ht : look s.teams tk = some t)
    (hb : t.bins.find? (fun b => b.num = n) = some b) (hg : t.freeSlot b.role = some g) (hn : nextBin t s.now b.role = some b')
    (hnum : b'.num = n) (hsaved : t.saved = false) (hdoom : t.doom = none) : exec (.eddyBinDraw tk n) s =
      .next (s.updTeam tk (fun u => { u with bins := u.bins.filter (fun x => x.num ≠ n) }.addGroup (Team.drawn s t b g))) := by
  have hx : exec (.eddyBinDraw tk n) s = execEddyBinDraw tk n s := rfl
  simp [hx, execEddyBinDraw, ht, hb, hg, hn, hnum, hsaved, hdoom, Team.drawn]

/-! #### Parked words (R183, R231, R235) -/

theorem parked_iff (m : Member) : m.parked = true ↔ ∃ p, m.park = some p ∧ (p.retry = 0 ∨ p.unrecorded = true) := by
  cases h : m.park <;> simp [Member.parked, h]

/-- A parked word of which one failed block is left posts its record, sets the registers of R235 and takes the block's cause. -/
theorem failedWord_one {s : State} {tk : Nat} {t : Team} {m : Member} {p : Park} {f : Failed} (hf : p.failed = [f])
    (hy : (postFaults s (dieOf t.seat.core) [failedRec s t m p f]).2 = true) : failedWord s tk t m p =
      takeCause ((postFaults s (dieOf t.seat.core) [failedRec s t m p f]).1.updMember tk m.id (·.springRegs f)) tk m.id f.cause 0 := by
  have hs : sortBy (·.base) p.failed = [f] := by rw [hf]; rfl
  have hl : leastBy (fun f : Failed => (lanesOf f.lanes).headD 32) [f] = some f := rfl
  simp only [failedWord, hs, List.map_cons, List.map_nil, hy, hl, Bool.not_true, Bool.false_eq_true, if_false]

/-- The lanes that a replay tries again (R188, R231). -/
theorem replay_retry (p : Park) {l : Nat} (hl : l < 32) : p.replay.retry.getLsbD l = true ↔ p.failedLanes.getLsbD l = false ∧
    (p.retry.getLsbD l = true ∨ p.faults.getLsbD l = true ∨
      p.along.getLsbD l = true ∧ ∃ k, k < 32 ∧ p.faults.getLsbD k = true ∧ p.failedLanes.getLsbD k = false) := by
  have hagain : p.faults &&& ~~~ p.failedLanes = 0 ↔ ¬∃ k, k < 32 ∧ p.faults.getLsbD k = true ∧ p.failedLanes.getLsbD k = false := by
    constructor
    · rintro h ⟨k, hk, hf, hn⟩
      have hb : (p.faults &&& ~~~ p.failedLanes).getLsbD k = false := by rw [h]; exact BitVec.getLsbD_zero
      rw [BitVec.getLsbD_and, BitVec.getLsbD_not, hf, hn] at hb
      simp [hk] at hb
    · intro h
      refine BitVec.eq_of_getLsbD_eq fun k hk => ?_
      by_contra hb
      exact h ⟨k, hk, by simpa [hk] using hb⟩
  have hbit (x : BitVec 32) : (x &&& ~~~ p.failedLanes).getLsbD l = (x.getLsbD l && !p.failedLanes.getLsbD l) := by
    simp [hl]
  by_cases h : p.faults &&& ~~~ p.failedLanes = 0
  · have hn := hagain.mp h
    have hl' : p.failedLanes.getLsbD l = false → p.faults.getLsbD l = false := fun hf => by
      by_contra hb
      exact hn ⟨l, hl, by simpa using hb, hf⟩
    simp only [Park.replay, h, if_true, hbit, hn, and_false, or_false, Bool.and_eq_true, Bool.not_eq_true']
    constructor
    · exact fun ⟨hr, hf⟩ => ⟨hf, .inl hr⟩
    · rintro ⟨hf, hr | hr⟩
      · exact ⟨hr, hf⟩
      · exact absurd hr (by simp [hl' hf])
  · have hk := not_not.mp (mt hagain.mpr h)
    simp only [Park.replay, h, if_false, hbit, hk, and_true, BitVec.getLsbD_or, Bool.and_eq_true, Bool.or_eq_true, Bool.not_eq_true']
    tauto

/-! #### Replays and aborts (R188) -/

/-- A team of a table after a change of the teams that a test picks. -/
theorem look_mapIf (on : Team → Bool) (f : Team → Team) (ts : Sparse Team) (k : Nat) :
    look (ts.map (fun e => if on e.2 then (e.1, f e.2) else e)) k = (look ts k).map (fun t => if on t then f t else t) := by
  have hm : ts.map (fun e => if on e.2 then (e.1, f e.2) else e) = ts.map (fun e => (e.1, if on e.2 then f e.2 else e.2)) :=
    List.map_congr_left fun e _ => by split <;> rfl
  rw [hm, look_mapVal (fun _ t => if on t then f t else t)]

/-- The teams that a write of FBREPLAY names (R188). -/
def replayOn (die : Nat) (v : DWord) (t : Team) : Bool :=
  t.ctx = bits v.toNat 31 0 && t.part = bits v.toNat 37 32 && dieOf t.seat.core = die && !t.saved

theorem replayOn_iff (die : Nat) (v : DWord) (t : Team) : replayOn die v t = true ↔
    t.ctx = v.toNat % 2 ^ 32 ∧ t.part = v.toNat / 2 ^ 32 % 2 ^ 6 ∧ dieOf t.seat.core = die ∧ t.saved = false := by
  simp only [replayOn, Bool.and_eq_true, decide_eq_true_eq, Bool.not_eq_true', and_assoc]
  simp only [bits, Nat.pow_zero, Nat.div_one]

/-- A team whose parked words are all tried again. -/
def Team.replayed (t : Team) : Team := { t with members := t.members.map (fun m => { m with park := m.park.map Park.replay }) }

/-- A parked command of a replayed team is tried again (R261). -/
def replayedCmd (s : State) (die : Nat) (v : DWord) (k : Command) : Command :=
  match look s.teams k.team with
  | some t => if replayOn die v t && (k.stop = .fault || k.stop = .unrecorded) then { k with stop := .none } else k
  | none => k

theorem fbreplay_next (die : Nat) (v : DWord) (s : State) : exec (.fbreplay die v) s = .next { s with
    teams := s.teams.map (fun e => if replayOn die v e.2 then (e.1, e.2.replayed) else e)
    cmds := s.cmds.map (replayedCmd s die v) } := rfl

/-- No command of a replayed team stays parked on a translation fault. -/
theorem replayedCmd_stop {s : State} {die : Nat} {v : DWord} {k : Command} {t : Team} (ht : look s.teams (replayedCmd s die v k).team = some t)
    (hon : replayOn die v t = true) : (replayedCmd s die v k).stop ≠ .fault ∧ (replayedCmd s die v k).stop ≠ .unrecorded := by
  have hteam : (replayedCmd s die v k).team = k.team := by
    unfold replayedCmd
    split
    · split <;> rfl
    · rfl
  rw [hteam] at ht
  simp only [replayedCmd, ht, hon, Bool.true_and]
  by_cases hs : k.stop = .fault ∨ k.stop = .unrecorded
  · simp [hs]
  · obtain ⟨h1, h2⟩ := not_or.mp hs
    simp [h1, h2]

/-- The teams that a write of FBABORT names (R186, R188). -/
def abortOn (die : Nat) (v : DWord) (t : Team) : Bool :=
  t.ctx = bits v.toNat 63 32 && t.seat.vcore = bits v.toNat 10 0 && t.seat.bank = bits v.toNat 11 11 && dieOf t.seat.core = die && !t.saved

theorem abortOn_iff (die : Nat) (v : DWord) (t : Team) : abortOn die v t = true ↔
    t.ctx = v.toNat / 2 ^ 32 ∧ t.seat.vcore = v.toNat % 2 ^ 11 ∧ t.seat.bank = v.toNat / 2 ^ 11 % 2 ∧ dieOf t.seat.core = die ∧
      t.saved = false := by
  have hctx : bits v.toNat 63 32 = v.toNat / 2 ^ 32 := Nat.mod_eq_of_lt (Nat.div_lt_of_lt_mul v.isLt)
  simp only [abortOn, Bool.and_eq_true, decide_eq_true_eq, Bool.not_eq_true', and_assoc, hctx]
  simp only [bits, Nat.pow_zero, Nat.div_one, Nat.reduceAdd, Nat.reduceSub, pow_one]

/-- A team whose parked members of the named slot have cause 0x08 due. -/
def Team.aborted (v : DWord) (t : Team) : Team :=
  { t with members := t.members.map (fun m =>
      if m.slot = bits v.toNat 20 16 && m.park.isSome then { m with due := some (0x08, 0) } else m) }

theorem fbabort_next (die : Nat) (v : DWord) (s : State) : exec (.fbabort die v) s =
    .next { s with teams := s.teams.map (fun e => if abortOn die v e.2 then (e.1, e.2.aborted v) else e) } := rfl

theorem aborted_members (v : DWord) (t : Team) : t.aborted v = { t with members := t.members.map (fun m =>
    if m.slot = v.toNat / 2 ^ 16 % 2 ^ 5 ∧ m.park ≠ none then { m with due := some (0x08, 0) } else m) } := by
  have hslot : bits v.toNat 20 16 = v.toNat / 2 ^ 16 % 2 ^ 5 := rfl
  simp only [Team.aborted, Bool.and_eq_true, decide_eq_true_eq, Option.isSome_iff_ne_none, hslot]

/-! #### Arrivals (R156) -/

/-- The group that an arrival starts: its scalars name the object, the entry and the sender (R156). -/
def Team.arrivalGroup (t : Team) (s : State) (slot role obj n sender g : Nat) (pc : Word) : Member :=
  startGroup t (seedRecs s t.ctx t.spec t.gen) s.now g role (some slot)
    ((List.range 32).map (fun i => (i, freshLane t.task (1024 + 32 * slot + i)))) pc
    (setD 0 (setD 0 (setD 0 t.indices 4 (BitVec.ofNat 32 obj)) 5 (BitVec.ofNat 32 n)) 6 (BitVec.ofNat 32 sender)) []

theorem arrivalGroupStart_next {tk slot : Nat} {s : State} {t : Team} {pc : Word} {role obj n sender : Nat} {rest : List (Nat × Nat × Nat)}
    {g : Nat} (ht : look s.teams tk = some t) (ha : (get ArrSlot.zero t.arrivals slot).armed = some (pc, role))
    (hst : (get ArrSlot.zero t.arrivals slot).starts = (obj, n, sender) :: rest) (hr : (get ArrSlot.zero t.arrivals slot).running = none)
    (hg : t.freeSlot role = some g) (hsaved : t.saved = false) (hdoom : t.doom = none) : exec (.arrivalGroupStart tk slot) s =
      .next (s.updTeam tk (fun u =>
        { u with arrivals := upd u.arrivals slot (fun a => { a with starts := rest, running := some u.fresh }) }.addGroup
          (t.arrivalGroup s slot role obj n sender g pc))) := by
  have hx : exec (.arrivalGroupStart tk slot) s = execArrivalGroupStart tk slot s := rfl
  simp [hx, execArrivalGroupStart, ht, ha, hst, hr, hg, hsaved, hdoom, Team.arrivalGroup]

end Sys2Proof.Machine

namespace Sys2Proof.Proofs
open Sys2Proof Sys2Proof.Machine

/-- Settles O53: each event of a core under its conditions answers one state (`eddyBinDraw_next`, `failedWord_one`, `fbreplay_next`,
`fbabort_next`, `arrivalGroupStart_next`), and the next bin and a replay's lanes are said once (`nextBin_spec`, `replay_retry`). -/
theorem groupsAreDrawnSwitchedAndResumed : Obligations.GroupsAreDrawnSwitchedAndResumed := by
  refine ⟨?draw, ?next, ?ageing, ?bank, ?entry, ?lanes, ?retry, ?replay, ?abort, ?snoop, ?arrival⟩
  case draw =>
    intro tk n s t b g b' ht hb hg hn hnum hsaved hdoom
    exact ⟨_, { t with bins := t.bins.filter (fun x => x.num ≠ n) }.addGroup (Team.drawn s t b g), Team.drawn s t b g,
      eddyBinDraw_next ht hb hg hn hnum hsaved hdoom, rfl, by rw [updTeam_look, ht, Option.map_some],
      rfl, rfl, rfl, rfl, rfl, rfl, rfl, rfl, rfl, rfl, rfl, rfl⟩
  case next =>
    intro t now role b h
    obtain ⟨hmem, hrole, hel, hfull⟩ := nextBin_spec h
    refine ⟨hmem, hrole, ?_, fun x hx hr hl => ?_⟩
    · have hel' : b.lanes.length = 32 ∨ 256 ≤ feCycles now - feCycles b.since ∨ ∀ m ∈ t.members, m.role = role → m.lanes = [] := by
        simpa [binEligible, Bin.isFull, hrole, or_assoc] using hel
      exact hel'
    · simpa [Bin.isFull] using hfull x hx hr (decide_eq_true hl)
  case ageing =>
    intro tk id s t m ht hm hh hage
    have hx : exec (.issueAgeing tk id) s = execIssueAgeing tk id s := rfl
    rw [hx]
    have hage' : 2048 ≤ feCycles s.now - feCycles (max m.ready m.issued) := hage
    simp [execIssueAgeing, ht, hm, hh, hage']
  case bank =>
    intro core s x waits h
    refine if_pos ?_
    have hp (m : Member) : waits m ↔ m.parked = true := (parked_iff m).symm
    simp only [hp, Bool.not_eq_true] at h
    simp only [Bool.or_eq_true, Bool.and_eq_true, List.all_eq_true, List.any_eq_true, Bool.not_eq_true', decide_eq_true_eq]
    exact h
  case entry =>
    intro tk id s t m ht hm hdoom hsaved
    obtain rfl := member_id hm
    have hx : exec (.trapEntry tk m.id) s = execTrapEntry tk m.id s := rfl
    refine ⟨fun hs => ?_, fun c arg hs hd => ?_, fun p f hs hd hp hfa hmi hre hfl hun hy => ?_, fun hi hb => ?_⟩
    · simp only [hx, execTrapEntry, ht, hm, hs, if_true]
    · simp only [hx, execTrapEntry, ht, hm, hs, hd, Bool.false_eq_true, if_false]
    · have hend : p.ended = true := by simp [Park.ended, hfa, hmi, hre, hfl]
      simp only [hx, execTrapEntry, ht, hm, hs, hd, hp, hend, hun, Bool.false_eq_true, if_false, Bool.not_false, Bool.and_true, if_true]
      exact congrArg _ (failedWord_one hfl hy)
    · have hx : exec (.budgetExpiry tk m.id) s = execBudgetExpiry tk m.id s := rfl
      have hi' : (m.trap.inh || m.trap.mask) = true := by simpa using hi
      simp [hx, execBudgetExpiry, ht, hm, hi', hb, hdoom, hsaved]
  case lanes => exact fun p => ⟨rfl, fun l hl => replay_retry p hl⟩
  case retry =>
    intro tk id s t m p ht hm hp hun
    refine ⟨_, { m with park := some p.replay }, rfl, ?_, rfl⟩
    have hs : s.memberAt tk id = some m := Option.bind_eq_some_iff.mpr ⟨t, ht, hm⟩
    rw [memberAt_updMember s tk id (fun m => { m with park := m.park.map (fun p => if p.unrecorded then p.replay else p) }) (fun _ => rfl), hs]
    simp [hp, hun]
  case replay =>
    intro die v s
    refine ⟨_, fbreplay_next die v s, rfl, fun tk x hx => ⟨fun hon => ?_, fun hoff => ?_⟩⟩
    · have hon' := (replayOn_iff die v x).mpr hon
      refine ⟨(look_mapIf (replayOn die v) Team.replayed s.teams tk).trans (by rw [hx, Option.map_some, if_pos hon']; rfl), ?_⟩
      rintro k hk rfl
      obtain ⟨k, -, rfl⟩ := List.mem_map.mp hk
      exact replayedCmd_stop hx hon'
    · have hoff' := mt (replayOn_iff die v x).mp hoff
      exact (look_mapIf (replayOn die v) Team.replayed s.teams tk).trans (by rw [hx, Option.map_some, if_neg hoff'])
  case abort =>
    intro die v s
    refine ⟨_, fbabort_next die v s, rfl, fun tk x hx => ⟨fun hon => ?_, fun hoff => ?_⟩⟩
    · have hon' := (abortOn_iff die v x).mpr hon
      exact (look_mapIf (abortOn die v) (Team.aborted v) s.teams tk).trans (by rw [hx, Option.map_some, if_pos hon', aborted_members])
    · have hoff' := mt (abortOn_iff die v x).mp hoff
      exact (look_mapIf (abortOn die v) (Team.aborted v) s.teams tk).trans (by rw [hx, Option.map_some, if_neg hoff'])
  case snoop => exact fun _ _ => rfl
  case arrival =>
    intro tk slot s t pc role obj n sender rest g ht a ha hst hrun hg hsaved hdoom hl
    refine ⟨_, { t with arrivals := upd t.arrivals slot (fun a => { a with starts := rest, running := some t.fresh }) }.addGroup
        (t.arrivalGroup s slot role obj n sender g pc), t.arrivalGroup s slot role obj n sender g pc,
      arrivalGroupStart_next ht ha hst hrun hg hsaved hdoom, by rw [updTeam_look, ht, Option.map_some], rfl, rfl, rfl, rfl, rfl,
      ?_, ?_, ?_, ?_, ?_⟩
    · simp [Team.arrivalGroup, startGroup, get_setD]
    · simp [Team.arrivalGroup, startGroup, get_setD]
    · simp [Team.arrivalGroup, startGroup]
    · simp [Team.arrivalGroup, startGroup, Function.comp_def]
    · exact (look_upd_same t.arrivals slot (fun a => { a with starts := rest, running := some t.fresh })).trans (by rw [hl]; rfl)

end Sys2Proof.Proofs

/-! ### Loads and stores through records (O11) -/

namespace Sys2Proof.Machine

/-! #### A record word whose checks pass -/

/-- A word whose entry is done, after checks 1 to 3 of R65, ends. -/
theorem Checks.ends {r : CRow} {i : CWord → Instr} {entry : Ctx → Res} {w : CWord} {s st : State} {c : Ctx} {out : Out}
    (h : Checks r w s c) (hx : exec (i w) s = calud r entry w s) (he : entry c = .done st out) :
    exec (i w) s = .next (c.ends st out) := by
  rw [hx, calud_attempts h.toAttempts, issue_entry h, he, settle_done h]

/-! #### The causes of R165, in their order -/

section
variable {r : Rec} {need : Need} {n : Nat} {odd : Bool} {off : Nat → Nat} {ls : List Nat}

theorem recChecks_misaligned (h : odd = true ∨ ∃ l ∈ ls, off l % n ≠ 0) : recChecks r need n odd (ls.map off) = some 0x04 :=
  if_pos (by simpa using h)

theorem recChecks_beyond (ha : ¬ (odd = true ∨ ∃ l ∈ ls, off l % n ≠ 0)) (hb : ∃ l ∈ ls, outOfBounds r (off l) n = true) :
    recChecks r need n odd (ls.map off) = some 0x05 :=
  (if_neg (by simpa using ha)).trans (if_pos (by simpa using hb))

theorem recChecks_forbidden (ha : ¬ (odd = true ∨ ∃ l ∈ ls, off l % n ≠ 0)) (hb : ¬ ∃ l ∈ ls, outOfBounds r (off l) n = true)
    (hp : permits r need = false) : recChecks r need n odd (ls.map off) = some 0x06 :=
  (if_neg (by simpa using ha)).trans ((if_neg (by simpa using hb)).trans (if_pos (by rw [hp]; rfl)))

end

theorem entryLdr_cause {c : Ctx} {k : Nat}
    (h : recChecks c.recA .read (tySize (mBits c.w 4 0)) c.oddFlat (c.dLanes.map c.off) = some k) : entryLdr c = .cause c.s k 0 := by
  unfold entryLdr
  dsimp only
  rw [h]

theorem entryStr_cause {c : Ctx} {k : Nat}
    (h : recChecks c.recA .write (tySize (mBits c.w 4 0)) c.oddFlat (c.act.map c.off) = some k) : entryStr c = .cause c.s k 0 := by
  unfold entryStr
  dsimp only
  rw [h]

/-! #### What a lane reads (R198, R200, R204) -/

/-- A lane that need miss no write reads the word as it stands. -/
theorem Ctx.seesByte_of_unread_nil {c : Ctx} {s : State} {l : Nat} {sp : Option (Nat × Nat)} {a : Nat} (cur : Byte)
    (h : c.unread s l sp (a / 4 * 4) = []) : c.seesByte s l sp a cur = cur := by
  have hb : c.behind s l sp (a / 4 * 4) = 0 := by simp [Ctx.behind, h]
  simp only [Ctx.seesByte, hb]

/-- What a lane reads is the word as it stands, or as some write that it need not read yet found it. -/
theorem Ctx.seesByte_one_state (c : Ctx) (s : State) (l : Nat) (sp : Option (Nat × Nat)) (a : Nat) (cur : Byte) :
    c.seesByte s l sp a cur = cur ∨
      ∃ x ∈ c.unread s l sp (a / 4 * 4), x.old[a % 4]? = some (c.seesByte s l sp a cur) := by
  unfold Ctx.seesByte
  split
  · exact .inl rfl
  · next n hn =>
    cases hx : (c.unread s l sp (a / 4 * 4))[n]? with
    | none => exact .inl rfl
    | some x =>
      cases ho : x.old[a % 4]? with
      | none => exact .inl (by simp [ho])
      | some b => exact .inr ⟨x, List.mem_of_getElem? hx, by simp [ho]⟩

/-- A byte as a team reads it: its version's, else memory's. -/
theorem readByte_eq_cell (s : State) (t : Team) (a : Nat) : readByte s t a = match look t.ver.cells a with
    | some b => b
    | none => Mem.read s.mem a := by
  unfold readByte
  cases look t.ver.cells a <;> rfl

end Sys2Proof.Machine

/-! #### What a team reads after a store (R166, R195, R198, R204) -/

namespace Sys2Proof.Machine

theorem lastCell_append (xs ys : List Host.Cell) (a : Nat) : lastCell (xs ++ ys) a = (lastCell ys a).or (lastCell xs a) := by
  simp only [lastCell, List.reverse_append, List.find?_append, Option.map_or]

theorem lastCell_mem {cells : List Host.Cell} {a : Nat} {x : Byte} (h : lastCell cells a = some x) : (a, x) ∈ cells := by
  obtain ⟨e, he, rfl⟩ := Option.map_eq_some_iff.mp h
  have ha : e.1 = a := by simpa using List.find?_some he
  exact ha ▸ List.mem_reverse.mp (List.mem_of_find?_eq_some he)

/-- The cells of a byte's word are all that matters to the byte. -/
theorem lastCell_filter_word (cells : List Host.Cell) (a : Nat) :
    lastCell (cells.filter (fun x => x.1 / 4 * 4 = a / 4 * 4)) a = lastCell cells a := by
  induction cells with
  | nil => rfl
  | cons e cells ih =>
    by_cases he : e.1 / 4 * 4 = a / 4 * 4
    · rw [List.filter_cons_of_pos (by simpa using he), lastCell_cons, lastCell_cons, ih]
    · have ha : e.1 ≠ a := fun h => he (by rw [h])
      rw [List.filter_cons_of_neg (by simpa using he), lastCell_cons, ih, if_neg ha, Option.or_none]

/-- The byte that a team reads at an address. -/
def State.teamByte (s : State) (tk a : Nat) : Option Byte := (look s.teams tk).map (fun t => readByte s t a)

theorem teamByte_of_look {s : State} {tk : Nat} {t : Team} (ht : look s.teams tk = some t) (a : Nat) :
    s.teamByte tk a = some (readByte s t a) := by
  rw [State.teamByte, ht, Option.map_some]

theorem writeCells_teamByte (s : State) (tk : Nat) (v : Bool) (cells : List Host.Cell) (a : Nat) :
    (writeCells s tk v cells).teamByte tk a = (s.teamByte tk a).map (fun b => (lastCell cells a).getD b) := by
  cases ht : look s.teams tk with
  | some t =>
    have hr : ∃ t', look (writeCells s tk v cells).teams tk = some t' ∧
        readByte (writeCells s tk v cells) t' a = (lastCell cells a).getD (readByte s t a) := by
      cases v with
      | true => exact writeCells_versioned_read cells a ht
      | false => exact writeCells_direct_read cells a ht
    obtain ⟨t', ht', hb⟩ := hr
    simp [State.teamByte, ht, ht', hb]
  | none =>
    have hn : look (writeCells s tk v cells).teams tk = none := by
      rcases eq_or_ne cells [] with rfl | hc
      · exact ht
      · cases v with
        | true => rw [writeCells_versioned s tk hc, updTeam_look, ht, Option.map_none]
        | false => rw [writeCells_direct s tk hc, updTeam_look, pokeCells, ht, Option.map_none]
    simp [State.teamByte, ht, hn]

theorem writeCells_late (s : State) (tk : Nat) (v : Bool) (cells : List Host.Cell) : (writeCells s tk v cells).late = s.late := by
  rcases eq_or_ne cells [] with rfl | hc
  · rfl
  · cases v with
    | true => rw [writeCells_versioned s tk hc, updTeam_late]
    | false => rw [writeCells_direct s tk hc, updTeam_late, pokeCells]

/-! ##### Where teams stand -/

/-- What decides, beside the writer, which writes a team's lanes read: its context, launch, seat and shape (R192). -/
def Team.place (t : Team) : Nat × Option Nat × Seat × Spec := (t.ctx, t.launch, t.seat, t.spec)

/-- Where a team stands. -/
def State.place (s : State) (k : Nat) : Option (Nat × Option Nat × Seat × Spec) := (look s.teams k).map Team.place

theorem updTeam_place (s : State) (tk : Nat) {f : Team → Team} (hf : ∀ t, (f t).place = t.place) (k : Nat) :
    (s.updTeam tk f).place k = s.place k := by
  by_cases hk : k = tk
  · subst hk
    rw [State.place, updTeam_look, Option.map_map, State.place, show Team.place ∘ f = Team.place from funext hf]
  · rw [State.place, updTeam_other s f hk, State.place]

theorem Team.versioned_place (cells : List Host.Cell) (t : Team) : (t.versioned cells).place = t.place := rfl

theorem Team.direct_place (cells : List Host.Cell) (t : Team) : (t.direct cells).place = t.place := rfl

theorem writeCells_place (s : State) (tk : Nat) (v : Bool) (cells : List Host.Cell) (k : Nat) :
    (writeCells s tk v cells).place k = s.place k := by
  rcases eq_or_ne cells [] with rfl | hc
  · rfl
  · cases v with
    | true => rw [writeCells_versioned s tk hc, updTeam_place s tk (Team.versioned_place cells)]
    | false => rw [writeCells_direct s tk hc, updTeam_place _ tk (Team.direct_place cells)]; rfl

/-- Which writes a lane reads depends on where the teams stand alone. -/
theorem readsLate_congr {s s' : State} {t t' : Team} (hs : ∀ k, s'.place k = s.place k) (ht : t'.place = t.place) (tk slot : Nat)
    (tid : Word) (x : Late) : readsLate s' tk t' slot tid x = readsLate s tk t slot tid x := by
  obtain ⟨hctx, hlaunch, hseat, hspec⟩ : t'.ctx = t.ctx ∧ t'.launch = t.launch ∧ t'.seat = t.seat ∧ t'.spec = t.spec := by
    simpa [Team.place] using ht
  have hx := hs x.team
  unfold readsLate
  cases hu : look s.teams x.team with
  | none =>
    have hu' : look s'.teams x.team = none := by simpa [State.place, hu] using hx
    rw [hu']
  | some u =>
    obtain ⟨u', hu', huctx, hulaunch, huseat, huspec⟩ :
        ∃ u', look s'.teams x.team = some u' ∧ u'.ctx = u.ctx ∧ u'.launch = u.launch ∧ u'.seat = u.seat ∧ u'.spec = u.spec := by
      simpa [State.place, hu, Team.place] using hx
    simp only [hu', sameCluster, sameDie, hctx, hlaunch, hseat, huctx, hulaunch, huseat, huspec]

/-! ##### The writes of a word once one more is among them -/

theorem liveLate_subset (done : List (Option (Nat × Nat) × Nat × Bool)) (l : List Late) : liveLate done l ⊆ l := by
  induction l generalizing done with
  | nil => exact List.Subset.refl _
  | cons x l ih =>
    unfold liveLate
    split
    · exact fun y hy => List.mem_cons_of_mem _ (ih _ hy)
    · split
      · exact fun y hy => List.mem_cons_of_mem _ (ih _ hy)
      · exact List.cons_subset_cons _ (ih _)

/-- A property that does not look at the bytes found holds of the writes of a word once one more is among them. -/
theorem slipUnder_forall {P : Late → Prop} (hP : ∀ x o, P x → P { x with old := o }) {on : Late → Bool} {e : Late}
    {cells : List Host.Cell} {n : Nat} {l : List Late} (he : P e) (hl : ∀ x ∈ l, P x) : ∀ x ∈ (slipUnder on e cells n l).1, P x := by
  induction l generalizing n e with
  | nil => cases n <;> simpa [slipUnder] using he
  | cons y l ih =>
    obtain ⟨hy, hl⟩ := List.forall_mem_cons.mp hl
    cases n with
    | zero => simpa [slipUnder] using ⟨he, hy, hl⟩
    | succ n =>
      unfold slipUnder
      split
      · exact List.forall_mem_cons.mpr ⟨hP y _ hy, ih (hP e _ he) hl⟩
      · exact List.forall_mem_cons.mpr ⟨hy, ih he hl⟩

/-! ##### One word of a lane's bytes -/

/-- A team that has written: a write that is not versioned is a direct one (R213). -/
def Team.wrote (v : Bool) (t : Team) : Team := { t with ver := { t.ver with dirw := t.ver.dirw || !v } }

theorem Team.wrote_place (v : Bool) (t : Team) : (t.wrote v).place = t.place := rfl

theorem wrote_teamByte (s : State) (tk : Nat) (v : Bool) (l : List Late) (a : Nat) :
    ((s.updTeam tk (Team.wrote v)).withLate l).teamByte tk a = s.teamByte tk a := by
  have hl : look ((s.updTeam tk (Team.wrote v)).withLate l).teams tk = (look s.teams tk).map (Team.wrote v) := updTeam_look ..
  rw [State.teamByte, hl, Option.map_map]
  rfl

/-- No noted write of a word races with a lane's store: the lane reads it, or a lane of its own word made it before. -/
def State.orderedAt (s : State) (tk slot : Nat) (t : Team) (tid : Word) (v : Bool) (done : List Word) (w : Nat) : Prop :=
  ∀ y ∈ s.late, y.space = none → y.word = w → y.ver = v → readsLate s tk t slot tid y = true ∨ (y.team = tk ∧ y.lane ∈ done)

section
variable {s : State} {tk slot : Nat} {tid : Word} {words : Nat} {v : Bool} {upto : Nat} {done : List Word} {w : Nat}
  {cells : List Host.Cell}

theorem storeWord_of_no_team (ht : look s.teams tk = none) : s.storeWord tk slot tid words v upto done w cells = s := by
  unfold State.storeWord
  rw [ht]

/-- A lane's bytes of a word are written at once, or come before the `n` newest of the racing writes and lose the bytes that those
wrote. -/
theorem storeWord_cases {t : Team} (ht : look s.teams tk = some t) :
    s.storeWord tk slot tid words v upto done w cells = writeCells s tk v cells ∨
    ∃ (on : Late → Bool) (e : Late) (n : Nat), (e.word = w ∧ e.team = tk ∧ e.lane = tid) ∧
      (s.orderedAt tk slot t tid v done w → n = 0) ∧
      s.storeWord tk slot tid words v upto done w cells =
        ((writeCells s tk v (cells.filter (fun x => !(slipUnder on e cells n s.late.reverse).2.contains (x.1 - w)))).updTeam tk
          (Team.wrote v)).withLate (slipUnder on e cells n s.late.reverse).1.reverse := by
  unfold State.storeWord
  rw [ht]
  dsimp only
  split
  · exact .inl rfl
  · refine .inr ⟨_, _, _, ⟨rfl, rfl, rfl⟩, fun hord => if_pos ?_, rfl⟩
    rw [Bool.or_eq_true, List.isEmpty_iff, List.takeWhile_eq_nil_iff]
    refine .inr fun h0 => ?_
    obtain ⟨hy, hon⟩ := List.mem_filter.mp (List.get_mem _ ⟨0, h0⟩)
    simp only [Bool.and_eq_true, Option.isNone_iff_eq_none, decide_eq_true_eq] at hon
    obtain ⟨⟨⟨hsp, hw⟩, hv⟩, -⟩ := hon
    simpa [or_iff_not_imp_left] using hord _ (List.mem_reverse.mp hy) hsp hw hv

theorem storeWord_place (k : Nat) : (s.storeWord tk slot tid words v upto done w cells).place k = s.place k := by
  cases ht : look s.teams tk with
  | none => rw [storeWord_of_no_team ht]
  | some t =>
    obtain h | ⟨on, e, n, -, -, h⟩ := storeWord_cases ht
    · rw [h, writeCells_place]
    · rw [h]
      exact (updTeam_place _ tk (Team.wrote_place v) k).trans (writeCells_place ..)

theorem storeWord_versioned_mem : (s.storeWord tk slot tid words true upto done w cells).mem = s.mem := by
  cases ht : look s.teams tk with
  | none => rw [storeWord_of_no_team ht]
  | some t =>
    obtain h | ⟨on, e, n, -, -, h⟩ := storeWord_cases ht
    · rw [h, writeCells_versioned_mem]
    · rw [h]
      exact writeCells_versioned_mem ..

/-- The writes noted after a lane's bytes are stored are those noted before, but for the bytes that they found, and the lane's own. -/
theorem storeWord_late {P : Late → Prop} (hP : ∀ x o, P x → P { x with old := o })
    (he : ∀ y : Late, y.word = w → y.team = tk → y.lane = tid → P y) (hl : ∀ y ∈ s.late, P y) :
    ∀ y ∈ (s.storeWord tk slot tid words v upto done w cells).late, P y := by
  cases ht : look s.teams tk with
  | none => rwa [storeWord_of_no_team ht]
  | some t =>
    obtain h | ⟨on, e, n, ⟨hw, htk, htid⟩, -, h⟩ := storeWord_cases ht
    · rwa [h, writeCells_late]
    · rw [h]
      intro y hy
      have hslip := liveLate_subset _ _ (List.mem_reverse.mp hy)
      rw [List.reverse_reverse] at hslip
      exact slipUnder_forall hP (he e hw htk htid) (fun x hx => hl x (List.mem_reverse.mp hx)) y hslip

/-- A lane's bytes of a word are written, but for those that racing writes keep. -/
theorem storeWord_teamByte {t : Team} (ht : look s.teams tk = some t) : ∃ kept, kept ⊆ cells ∧
    (s.orderedAt tk slot t tid v done w → kept = cells) ∧ ∀ a, (s.storeWord tk slot tid words v upto done w cells).teamByte tk a =
      (s.teamByte tk a).map (fun b => (lastCell kept a).getD b) := by
  obtain h | ⟨on, e, n, -, hn, h⟩ := storeWord_cases ht
  · exact ⟨cells, List.Subset.refl _, fun _ => rfl, fun a => by rw [h, writeCells_teamByte]⟩
  · refine ⟨_, List.filter_subset_self _, fun hord => ?_, fun a => by rw [h, wrote_teamByte, writeCells_teamByte]⟩
    simp [hn hord, slipUnder]

end

/-! ##### One lane's bytes -/

/-- The lanes that have stored a byte of the word. -/
def Ctx.lanesAt (c : Ctx) (done : List (Nat × List Host.Cell)) (w : Nat) : List Word :=
  (done.filter (fun e => e.2.any (fun x => x.1 / 4 * 4 = w))).map (fun e => c.tid e.1)

theorem Ctx.mem_lanesAt {c : Ctx} {done : List (Nat × List Host.Cell)} {w : Nat} {tid : Word} :
    tid ∈ c.lanesAt done w ↔ ∃ e ∈ done, e.2.any (fun x => x.1 / 4 * 4 = w) = true ∧ c.tid e.1 = tid := by
  simp only [Ctx.lanesAt, List.mem_map, List.mem_filter, and_assoc]

/-- The bytes of one lane are written, word by word, after those of the lanes `done`. -/
def Ctx.storeLane (c : Ctx) (v : Bool) (upto : Nat) (done : List (Nat × List Host.Cell)) (l : Nat) (cells : List Host.Cell) (ws : List Nat)
    (s : State) : State :=
  ws.foldl (fun s w => s.storeWord c.tk c.m.slot (c.tid l) c.m.words v upto (c.lanesAt done w) w
    (cells.filter (fun x => x.1 / 4 * 4 = w))) s

theorem Ctx.storeFrom_cons (c : Ctx) (v : Bool) (upto : Nat) (done : List (Nat × List Host.Cell)) (s : State) (l : Nat)
    (cells : List Host.Cell) (r : List (Nat × List Host.Cell)) : c.storeFrom v upto done s ((l, cells) :: r) =
      c.storeFrom v upto (done ++ [(l, cells)]) (c.storeLane v upto done l cells (wordsIn (cells.map (·.1))) s) r := rfl

/-- A byte that a team reads stays, or becomes one of the given cells. -/
def StoredByte (tk a : Nat) (cells : List Host.Cell) (s s' : State) : Prop :=
  s'.teamByte tk a = s.teamByte tk a ∨ ∃ x, (a, x) ∈ cells ∧ s'.teamByte tk a = some x

theorem StoredByte.trans {tk a : Nat} {cells : List Host.Cell} {s s' s'' : State} (h : StoredByte tk a cells s s')
    (h' : StoredByte tk a cells s' s'') : StoredByte tk a cells s s'' := by
  rcases h' with h' | h'
  · rwa [StoredByte, h']
  · exact .inr h'

theorem StoredByte.mono {tk a : Nat} {cells cells' : List Host.Cell} {s s' : State} (h : StoredByte tk a cells s s')
    (hc : cells ⊆ cells') : StoredByte tk a cells' s s' :=
  h.imp_right fun ⟨x, hx, hb⟩ => ⟨x, hc hx, hb⟩

theorem StoredByte.of_no_cell {tk a : Nat} {cells : List Host.Cell} {s s' : State} (h : StoredByte tk a cells s s')
    (hc : ∀ x ∈ cells, x.1 ≠ a) : s'.teamByte tk a = s.teamByte tk a :=
  h.resolve_right fun ⟨_, hx, _⟩ => hc _ hx rfl

theorem storeWord_storedByte (s : State) (tk slot : Nat) (tid : Word) (words : Nat) (v : Bool) (upto : Nat) (done : List Word) (w : Nat)
    (cells : List Host.Cell) (a : Nat) : StoredByte tk a cells s (s.storeWord tk slot tid words v upto done w cells) := by
  cases ht : look s.teams tk with
  | none => exact .inl (by rw [storeWord_of_no_team ht])
  | some t =>
    obtain ⟨kept, hsub, -, hb⟩ := storeWord_teamByte (slot := slot) (tid := tid) (words := words) (v := v) (upto := upto) (done := done)
      (w := w) (cells := cells) ht
    cases hl : lastCell kept a with
    | none => exact .inl (by simp [hb, hl])
    | some x => exact .inr ⟨x, hsub (lastCell_mem hl), by simp [hb, hl, teamByte_of_look ht]⟩

section
variable (c : Ctx) {v : Bool} {upto : Nat} {done : List (Nat × List Host.Cell)} {l : Nat} {cells : List Host.Cell}

theorem Ctx.storeLane_storedByte (a : Nat) (ws : List Nat) (s : State) :
    StoredByte c.tk a cells s (c.storeLane v upto done l cells ws s) := by
  induction ws generalizing s with
  | nil => exact .inl rfl
  | cons w ws ih => exact ((storeWord_storedByte ..).mono (List.filter_subset_self _)).trans (ih _)

theorem Ctx.storeLane_place (ws : List Nat) (s : State) (k : Nat) : (c.storeLane v upto done l cells ws s).place k = s.place k := by
  induction ws generalizing s with
  | nil => rfl
  | cons w ws ih => exact (ih _).trans (storeWord_place k)

theorem Ctx.storeLane_versioned_mem (ws : List Nat) (s : State) : (c.storeLane true upto done l cells ws s).mem = s.mem := by
  induction ws generalizing s with
  | nil => rfl
  | cons w ws ih => exact (ih _).trans storeWord_versioned_mem

end

/-! ##### All lanes' bytes -/

theorem Ctx.storeFrom_storedByte (c : Ctx) {v : Bool} {upto a : Nat} (cs done : List (Nat × List Host.Cell)) (s : State) :
    StoredByte c.tk a (cs.flatMap (·.2)) s (c.storeFrom v upto done s cs) := by
  induction cs generalizing done s with
  | nil => exact .inl rfl
  | cons e cs ih =>
    obtain ⟨l, cells⟩ := e
    rw [Ctx.storeFrom_cons, List.flatMap_cons]
    exact ((c.storeLane_storedByte a _ s).mono (List.subset_append_left ..)).trans ((ih _ _).mono (List.subset_append_right ..))

theorem Ctx.storeFrom_place (c : Ctx) {v : Bool} {upto : Nat} (cs done : List (Nat × List Host.Cell)) (s : State) (k : Nat) :
    (c.storeFrom v upto done s cs).place k = s.place k := by
  induction cs generalizing done s with
  | nil => rfl
  | cons e cs ih => exact (ih _ _).trans (c.storeLane_place _ s k)

theorem Ctx.storeFrom_look (c : Ctx) {v : Bool} {upto k : Nat} {t : Team} (cs done : List (Nat × List Host.Cell)) {s : State}
    (ht : look s.teams k = some t) : ∃ t', look (c.storeFrom v upto done s cs).teams k = some t' := by
  have hplace := c.storeFrom_place (v := v) (upto := upto) cs done s k
  rw [State.place, State.place, ht] at hplace
  obtain ⟨t', ht', -⟩ := Option.map_eq_some_iff.mp hplace
  exact ⟨t', ht'⟩

theorem Ctx.storeFrom_versioned_mem (c : Ctx) {upto : Nat} (cs done : List (Nat × List Host.Cell)) (s : State) :
    (c.storeFrom true upto done s cs).mem = s.mem := by
  induction cs generalizing done s with
  | nil => rfl
  | cons e cs ih => exact (ih _ _).trans (c.storeLane_versioned_mem _ s)

/-! ##### Stores that race with none -/

/-- Every noted write of a word is read by the lanes of `rest`, or was made by a lane of `done` that stores the word. -/
structure Ctx.Ordered (c : Ctx) (v : Bool) (w : Nat) (done rest : List (Nat × List Host.Cell)) (s : State) : Prop where
  place : s.place c.tk = some c.t.place
  late : ∀ y ∈ s.late, y.space = none → y.word = w → y.ver = v →
    (∀ e ∈ rest, c.reads s e.1 y = true) ∨ (y.team = c.tk ∧ y.lane ∈ c.lanesAt done w)

section
variable {c : Ctx} {v : Bool} {upto w l : Nat} {cells : List Host.Cell} {done done' rest rest' : List (Nat × List Host.Cell)} {s : State}

theorem Ctx.Ordered.mono (h : c.Ordered v w done rest s) (hd : done ⊆ done') (hr : rest' ⊆ rest) : c.Ordered v w done' rest' s := by
  refine ⟨h.place, fun y hy hsp hw hv => ?_⟩
  refine (h.late y hy hsp hw hv).imp (fun hreads e he => hreads e (hr he)) (fun ⟨htk, hl⟩ => ⟨htk, ?_⟩)
  obtain ⟨e, he, hlane⟩ := Ctx.mem_lanesAt.mp hl
  exact Ctx.mem_lanesAt.mpr ⟨e, hd he, hlane⟩

/-- A lane that stores next races with no write of the word: the lanes before it and its own word made those that it does not read. -/
theorem Ctx.Ordered.orderedAt (h : c.Ordered v w (done ++ [(l, cells)]) ((l, cells) :: rest) s) {t : Team} (ht : look s.teams c.tk = some t) :
    s.orderedAt c.tk c.m.slot t (c.tid l) v (c.lanesAt done w) w := by
  have hplace : t.place = c.t.place := by simpa [State.place, ht] using h.place
  intro y hy hsp hw hv
  rw [readsLate_congr (fun _ => rfl) hplace]
  obtain hreads | ⟨htk, hlane⟩ := h.late y hy hsp hw hv
  · exact .inl (hreads _ (List.mem_cons_self ..))
  · obtain ⟨e, he, hword, htid⟩ := Ctx.mem_lanesAt.mp hlane
    rcases List.mem_append.mp he with he | he
    · exact .inr ⟨htk, Ctx.mem_lanesAt.mpr ⟨e, he, hword, htid⟩⟩
    · obtain rfl := List.mem_singleton.mp he
      exact .inl (by simp [readsLate, htk, ← htid])

/-- A lane's store keeps the order: its own write is by a lane that stores the word. -/
theorem Ctx.Ordered.storeWord (h : c.Ordered v w (done ++ [(l, cells)]) rest s) (w' : Nat) (hw' : w' ∈ wordsIn (cells.map (·.1)))
    (words : Nat) (before : List Word) (stored : List Host.Cell) :
    c.Ordered v w (done ++ [(l, cells)]) rest (s.storeWord c.tk c.m.slot (c.tid l) words v upto before w' stored) := by
  refine ⟨(storeWord_place _).trans h.place, ?_⟩
  have hreads (e : Nat × List Host.Cell) (y : Late) :
      c.reads (s.storeWord c.tk c.m.slot (c.tid l) words v upto before w' stored) e.1 y = c.reads s e.1 y :=
    readsLate_congr storeWord_place rfl ..
  simp only [hreads]
  refine storeWord_late (fun x o hx => hx) (fun y hw htk htid _ hyw _ => .inr ⟨htk, ?_⟩) h.late
  obtain ⟨x, hx, hxw⟩ : ∃ x ∈ cells, x.1 / 4 * 4 = w' := by simpa [wordsIn] using hw'
  refine Ctx.mem_lanesAt.mpr ⟨(l, cells), by simp, List.any_eq_true.mpr ⟨x, hx, ?_⟩, htid.symm⟩
  simp [hxw, ← hw, hyw]

/-- Where no write of its word races with the lane's, one word of the lane's cells gives a byte of it the last of them. -/
theorem Ctx.Ordered.storeWord_teamByte {a : Nat} (h : c.Ordered v (a / 4 * 4) (done ++ [(l, cells)]) ((l, cells) :: rest) s) (w' : Nat) :
    (s.storeWord c.tk c.m.slot (c.tid l) c.m.words v upto (c.lanesAt done w') w'
      (cells.filter (fun x => x.1 / 4 * 4 = w'))).teamByte c.tk a =
    (s.teamByte c.tk a).map (fun b => if a / 4 * 4 = w' then (lastCell cells a).getD b else b) := by
  by_cases hw : a / 4 * 4 = w'
  · subst hw
    obtain ⟨t, ht, -⟩ := Option.map_eq_some_iff.mp h.place
    obtain ⟨kept, -, hkept, hb⟩ := Machine.storeWord_teamByte (slot := c.m.slot) (tid := c.tid l) (words := c.m.words) (v := v)
      (upto := upto) (done := c.lanesAt done (a / 4 * 4)) (w := a / 4 * 4) (cells := cells.filter (fun x => x.1 / 4 * 4 = a / 4 * 4)) ht
    rw [hb, hkept (h.orderedAt ht), lastCell_filter_word]
    simp
  · have hno : ∀ x ∈ cells.filter (fun x => x.1 / 4 * 4 = w'), x.1 ≠ a := fun x hx ha =>
      hw (ha ▸ of_decide_eq_true (List.mem_filter.mp hx).2)
    rw [(storeWord_storedByte ..).of_no_cell hno]
    simp [hw]

/-- Where no write of its word races with the lane's, a byte ends as the lane's last cell at it. -/
theorem Ctx.Ordered.storeLane {a : Nat} (h : c.Ordered v (a / 4 * 4) (done ++ [(l, cells)]) ((l, cells) :: rest) s) (ws : List Nat)
    (hws : ws ⊆ wordsIn (cells.map (·.1))) :
    c.Ordered v (a / 4 * 4) (done ++ [(l, cells)]) ((l, cells) :: rest) (c.storeLane v upto done l cells ws s) ∧
    (c.storeLane v upto done l cells ws s).teamByte c.tk a =
      (s.teamByte c.tk a).map (fun b => if a / 4 * 4 ∈ ws then (lastCell cells a).getD b else b) := by
  induction ws generalizing s with
  | nil => exact ⟨h, by simp [Ctx.storeLane]⟩
  | cons w' ws ih =>
    obtain ⟨hw', hws⟩ := List.cons_subset.mp hws
    obtain ⟨hord, hb⟩ := ih (h.storeWord (upto := upto) w' hw' c.m.words (c.lanesAt done w') (cells.filter (fun x => x.1 / 4 * 4 = w'))) hws
    refine ⟨hord, hb.trans ?_⟩
    rw [h.storeWord_teamByte, Option.map_map]
    refine congrArg (fun f => Option.map f _) (funext fun b => ?_)
    cases lastCell cells a <;> grind

/-- A lane's last cell at an address is of one of its words. -/
theorem lastCell_getD_of_wordsIn (cells : List Host.Cell) (a : Nat) (b : Byte) :
    (if a / 4 * 4 ∈ wordsIn (cells.map (·.1)) then (lastCell cells a).getD b else b) = (lastCell cells a).getD b := by
  refine ite_eq_left_iff.mpr fun hw => ?_
  have hno : ∀ x ∈ cells, x.1 ≠ a := fun x hx ha => hw (by simpa [wordsIn] using ⟨x.1, ⟨x.2, hx⟩, by rw [ha]⟩)
  rw [lastCell_none hno, Option.getD_none]

/-- Where no write of its word races with the store, a byte ends as the last of the lanes' cells at it. -/
theorem Ctx.Ordered.storeFrom_teamByte {a : Nat} {cs : List (Nat × List Host.Cell)} (h : c.Ordered v (a / 4 * 4) done cs s) :
    (c.storeFrom v upto done s cs).teamByte c.tk a =
      (s.teamByte c.tk a).map (fun b => (lastCell (cs.flatMap (·.2)) a).getD b) := by
  induction cs generalizing done s with
  | nil => simp [Ctx.storeFrom]
  | cons e cs ih =>
    obtain ⟨l, cells⟩ := e
    have hlane := (h.mono (List.subset_append_left _ [(l, cells)]) (List.Subset.refl _)).storeLane (upto := upto)
      (wordsIn (cells.map (·.1))) (List.Subset.refl _)
    obtain ⟨hord, hb⟩ := hlane
    rw [Ctx.storeFrom_cons, ih (hord.mono (List.Subset.refl _) (List.subset_cons_self ..)), hb, Option.map_map, List.flatMap_cons]
    refine congrArg (fun f => Option.map f _) (funext fun b => ?_)
    simp only [Function.comp, lastCell_getD_of_wordsIn, lastCell_append, Option.getD_or]

end

end Sys2Proof.Machine
namespace Sys2Proof.Proofs
open Sys2Proof Sys2Proof.Machine

/-- Settles O11: where its checks pass, a load or a store is a memory word that performs (`memWord_done`), and else it takes the cause
that `recChecks` gives. A byte after a store is followed through the lanes' words (`StoredByte`), and where no write races with them it ends
as the last of their cells at it (`Ctx.Ordered`). -/
theorem recordLoadsStoresAndTheirTraps : Obligations.RecordLoadsStoresAndTheirTraps := by
  refine ⟨⟨?ldr, ?ldg, ?sees, ?reads⟩, ⟨?str, ?stg, ?stu, ?stores⟩, ?traps⟩
  case ldr =>
    intro s1 tr w s c h ty ask hc hp
    refine h.ends rfl ?_
    unfold entryLdr
    dsimp only
    rw [hc]
    exact memWord_done hp _
  case ldg =>
    intro s1 tr w s c h ask hf hc hp
    refine h.ends rfl ?_
    unfold entryLdg
    dsimp only
    rw [if_neg (by simp [hf]), hc]
    exact memWord_done hp _
  case sees => exact fun c s a l cur => ⟨Ctx.seesByte_of_unread_nil cur, Ctx.seesByte_one_state c s l none a cur⟩
  case reads => exact fun c s tr l h => List.map_congr_left fun a ha => (Ctx.seesByte_of_unread_nil _ (h a ha)).trans (readByte_eq_cell ..)
  case str =>
    intro s1 tr w s c h ty ask hc hp
    refine h.ends rfl ?_
    unfold entryStr
    dsimp only
    rw [hc]
    exact memWord_done hp _
  case stg =>
    intro s1 tr w s c h n ask hf hc hp
    refine h.ends rfl ?_
    unfold entryStg
    dsimp only
    rw [if_neg (by simp [hf]), hc]
    exact memWord_done hp _
  case stu =>
    intro s1 tr w s c h wide n ls ask hodd hb hw hp
    refine h.ends rfl ?_
    unfold entryStu
    dsimp only
    have hin : ¬ (ls.any (fun l => (c.stuBytes n l).any (fun j =>
        if recFlat c.recA then outOfBounds c.recA (c.off l) 1 else outOfBounds c.recA (c.off l + j) 1))) = true := by
      simp only [List.any_eq_true, not_exists, not_and, Bool.not_eq_true]
      intro l hl j hj
      exact (apply_ite (outOfBounds c.recA · 1) ..).symm.trans (hb l hl j hj)
    have hmay : ¬ (ls ≠ [] ∧ (!permits c.recA .write) = true) := by simpa using hw
    rw [if_neg (by simp [hodd]), if_neg hin, if_neg hmay]
    exact memWord_done hp _
  case stores =>
    intro c s v cs a ht
    obtain ⟨t', ht'⟩ := c.storeFrom_look (v := v) (upto := 0) cs [] ht
    have hbyte := teamByte_of_look ht a
    have hbyte' := teamByte_of_look ht' a
    have hstored := c.storeFrom_storedByte (v := v) (upto := 0) (a := a) cs [] s
    refine ⟨t', ht', ?_, fun hno => ?_, fun x hord hx => ?_, ?_⟩
    · rcases hstored with h | ⟨x, hx, hb⟩
      · exact .inl (Option.some.inj (hbyte'.symm.trans (h.trans hbyte)))
      · obtain rfl := Option.some.inj (hbyte'.symm.trans hb)
        exact .inr (List.mem_flatMap.mp hx)
    · have hnone : ∀ x ∈ cs.flatMap (·.2), x.1 ≠ a := fun x hx => by
        obtain ⟨e, he, hxe⟩ := List.mem_flatMap.mp hx
        exact hno e he x hxe
      exact Option.some.inj (hbyte'.symm.trans ((hstored.of_no_cell hnone).trans hbyte))
    · have hordered : c.Ordered v (a / 4 * 4) [] cs s :=
        ⟨by rw [State.place, ht, Option.map_some], fun y hy hsp hw hv => .inl (hord y hy hsp hw hv)⟩
      have hlast : lastCell (cs.flatMap (·.2)) a = some x := by rw [lastCell, hx, Option.map_some]
      have hend := hordered.storeFrom_teamByte (upto := 0)
      rw [hbyte, hlast] at hend
      exact Option.some.inj (hbyte'.symm.trans hend)
    · rintro rfl
      exact c.storeFrom_versioned_mem cs [] s
  case traps =>
    intro n odd out
    refine ⟨?_, ?_, ?_, ?_, ?_, ?_⟩
    · exact traps_of (fun _ _ => rfl) fun w s c _ ha => entryLdr_cause (recChecks_misaligned ha)
    · exact traps_of (fun _ _ => rfl) fun w s c _ ⟨ha, hb⟩ => entryLdr_cause (recChecks_beyond ha hb)
    · exact traps_of (fun _ _ => rfl) fun w s c _ ⟨ha, hb, hr⟩ => entryLdr_cause (recChecks_forbidden ha hb hr)
    · exact traps_of (fun _ _ => rfl) fun w s c _ ha => entryStr_cause (recChecks_misaligned ha)
    · exact traps_of (fun _ _ => rfl) fun w s c _ ⟨ha, hb⟩ => entryStr_cause (recChecks_beyond ha hb)
    · refine traps_of (fun _ _ => rfl) fun w s c _ ⟨ha, hb, hw⟩ => entryStr_cause (recChecks_forbidden ha hb ?_)
      rcases hw with hw | hi
      · simp [permits, hw]
      · simp [permits, hi]
end Sys2Proof.Proofs

/-! ### Paired 16-bit words, CVT, NPACK and NUNPK (O5) -/

namespace Sys2Proof.Proofs
open Sys2Proof Sys2Proof.Machine

/-- Settles O5: HADD2, HMUL2 and HFMA2 are `float16x2` of their operation on one element, CVT is `cvt` in each lane, NPACK sets two narrow
elements one after the other, and NUNPK encodes one exact value. -/
theorem packedAndConversionWordsActByElement : Obligations.PackedAndConversionWordsActByElement := by
  refine ⟨?hadd2, ?hmul2, ?hfma2, ?cvt, ?npack, ?nunpk⟩
  case hadd2 | hmul2 | hfma2 => exact completes_of (fun _ _ => rfl) (fun _ => rfl)
  case cvt =>
    refine completes_of (entry := entryCvt) (fun _ _ => rfl) (fun c => ?_)
    simp only [entryCvt, cvt]
  case npack => exact completes_of (fun _ _ => rfl) (fun _ => rfl)
  case nunpk =>
    refine completes_of (entry := entryNunpk) (fun _ _ => rfl) (fun c => ?_)
    simp only [entryNunpk, selB]

end Sys2Proof.Proofs

/-! ### The matrix words (O19) -/

namespace Sys2Proof.Machine

/-- A command is accepted as the last of the commands, whatever the word's own effects left before it (R246). -/
theorem accept_taken (c : Ctx) (s : State) (matrix : Bool) (token : Option Nat) (ring : Option Rec) (job : Job) :
    accept { c with s := s } matrix token ring job =
      .done (s.taken { c.command matrix token ring job with id := s.freshCmd }) Out.none := by
  cases token <;> rfl

/-- The form in which an engine word's acceptance is proved: the meaning is the row's, and where every check passes its entry accepts the
command in the state of the word's own effects. -/
theorem accepts_of {r : CRow} {i : CWord → Instr} {entry : Ctx → Res} {pre : Ctx → Prop} {checks : Ctx → List (Option Nat)}
    {st : Ctx → State} {matrix : Bool} {token : Ctx → Option Nat} {ring : Ctx → Option Rec} {job : Ctx → Job}
    (hx : ∀ w s, exec (i w) s = calud r entry w s)
    (he : ∀ c, pre c → (∀ x ∈ checks c, x = none) → entry c = accept { c with s := st c } matrix (token c) (ring c) (job c)) :
    Accepts r i pre checks st matrix token ring job :=
  completesIn_of hx fun _ _ c _ h => (he c h.1 h.2).trans (accept_taken ..)

/-! #### ACC.OPEN, ACC.ZERO and ACC.RD -/

/-- The state once a tile is opened for its owner (R280). -/
def Ctx.tileOpened (c : Ctx) : State :=
  c.s.updTile c.tk (fD c.w) (fun x => { x with opened := true, remain := mBits c.w 11 0, owner := c.m.slot })

/-- ACC.OPEN of a FREE tile opens it, and with its ZERO bit has a command of ACC.ZERO accepted (R280). -/
theorem entryAccOpen_free {c : Ctx} (ho : (c.t.tileAt (fD c.w)).opened = false) (hf : familySplit c.t c.m = false) :
    entryAccOpen c = if mBit c.w 12 then accept { c with s := c.tileOpened } true none none (.accZero (fD c.w))
      else .done c.tileOpened Out.none := by
  simp only [entryAccOpen, ho, hf, Bool.or_self, Bool.false_eq_true, if_false, Ctx.tileOpened]

/-- ACC.RD by the tile's owner, of columns of the tile, reads a tile that no command of the team touches (R287). -/
theorem entryAccRd_done {c : Ctx} (ho : c.notOwner (fA c.w) = false)
    (hb : ∀ l ∈ c.act, c.x (selB c.w) l (fB c.w) + (mBits c.w 4 0 + 1) ≤ 32)
    (hk : ∀ k ∈ c.s.cmds, ¬ (k.team = c.tk ∧ k.job.tile = some (fA c.w))) :
    entryAccRd c = .done c.s (Out.late (c.act.flatMap (fun l => (List.range (mBits c.w 4 0 + 1)).map (fun i =>
      (Place.v l (fD c.w + i), (c.t.tileAt (fA c.w)).elem l (c.x (selB c.w) l (fB c.w) + i)))))) := by
  have hcols : c.act.any (fun l => decide (32 < c.x (selB c.w) l (fB c.w) + (mBits c.w 4 0 + 1))) = false :=
    List.any_eq_false.mpr fun l hl => by simpa using hb l hl
  have hfree : c.s.cmds.any (fun k => k.team = c.tk && k.job.tile == some (fA c.w)) = false :=
    List.any_eq_false.mpr fun k hkm => by simpa using hk k hkm
  simp only [entryAccRd, ho, hcols, hfree, Bool.false_eq_true, if_false]

/-! #### The reuse latch (R113) -/

/-- The row of element register `j` in lane `l`, among the rows of an operand. -/
def rowOf (rows : List (Nat × Nat × Word)) (j l : Nat) : Option (Nat × Nat × Word) := rows.find? (fun e => e.1 = j && e.2.1 = l)

/-- What an MMA or MMAS takes for element register `j` in lane `l`: the latched row where its operand is the latched one and has that row, and
else the register (R113). -/
def Ctx.aValue (c : Ctx) (j l : Nat) : Word :=
  let read : Word := BitVec.ofNat 32 (c.v l (fA c.w + j))
  match c.m.latch with
  | some x => if x.reg = fA c.w then ((rowOf x.rows j l).map (·.2.2)).getD read else read
  | none => read

theorem Ctx.aValue_latched {c : Ctx} {x : Latch} {j l : Nat} {e : Nat × Nat × Word} (hx : c.m.latch = some x) (hr : x.reg = fA c.w)
    (he : rowOf x.rows j l = some e) : c.aValue j l = e.2.2 := by
  simp [Ctx.aValue, hx, hr, he]

theorem Ctx.aValue_read {c : Ctx} (h : ∀ x, c.m.latch = some x → x.reg ≠ fA c.w) (j l : Nat) :
    c.aValue j l = BitVec.ofNat 32 (c.v l (fA c.w + j)) := by
  cases hx : c.m.latch with
  | none => simp [Ctx.aValue, hx]
  | some x => simp [Ctx.aValue, hx, h x hx]

/-- A row of an operand is found by its element register and lane. -/
theorem Ctx.rowOf_aRows (c : Ctx) {n j l : Nat} (hj : j < n) (hl : l ∈ c.m.present) : rowOf (c.aRows n) j l = some (j, l, c.aValue j l) := by
  have hrows : c.aRows n = (List.range n).flatMap (fun j => c.m.present.map (fun l => (j, l, c.aValue j l))) := rfl
  have hmem : (j, l, c.aValue j l) ∈ c.aRows n :=
    hrows ▸ List.mem_flatMap.mpr ⟨j, List.mem_range.mpr hj, List.mem_map.mpr ⟨l, hl, rfl⟩⟩
  obtain ⟨e, he⟩ := Option.isSome_iff_exists.mp
    (List.find?_isSome (p := fun e : Nat × Nat × Word => e.1 = j && e.2.1 = l) |>.mpr ⟨_, hmem, by simp⟩)
  have hkey : e.1 = j ∧ e.2.1 = l := by simpa using List.find?_some he
  obtain ⟨j', -, hj'⟩ := List.mem_flatMap.mp (hrows ▸ List.mem_of_find?_eq_some he)
  obtain ⟨l', -, rfl⟩ := List.mem_map.mp hj'
  obtain ⟨rfl, rfl⟩ := hkey
  exact he

/-- The latch after an MMA or MMAS: released with RU = 0, kept where it holds the word's operand, and else loaded (R113). -/
theorem Ctx.latchAfter_cases (c : Ctx) (rows : List (Nat × Nat × Word)) :
    (c.w.common.ru = false → c.latchAfter rows = none) ∧
    (c.w.common.ru = true → ∀ x, c.m.latch = some x → x.reg = fA c.w → c.latchAfter rows = some x) ∧
    (c.w.common.ru = true → (∀ x, c.m.latch = some x → x.reg ≠ fA c.w) → c.latchAfter rows = some { reg := fA c.w, rows := rows }) := by
  refine ⟨fun hr => by simp [Ctx.latchAfter, hr], fun hr x hx he => by simp [Ctx.latchAfter, hr, hx, he], fun hr hn => ?_⟩
  cases hx : c.m.latch with
  | none => simp [Ctx.latchAfter, hr, hx]
  | some x => simp [Ctx.latchAfter, hr, hx, hn x hx]

/-! #### MMA and MMAS -/

/-- The checks of MMA and MMAS in the order in which their entry makes them, steps 2 and 6 of R253 as one check and the two spans of step 4 as
one: it names no cause where none of them by itself does (R281). -/
theorem checked_mma {c : Ctx} {block limits owner kind state align span scales token : Option Nat} {k : Res}
    (h : ∀ x ∈ [block, limits, owner, kind, state, align, span, scales, token], x = none) :
    checked c [block, limits, owner, firstCause [kind, state], align, firstCause [span, scales], token] k = k := by
  refine checked_passes ?_
  simp only [List.forall_mem_cons, List.not_mem_nil, false_implies, implies_true, and_true] at h ⊢
  obtain ⟨hblock, hlimits, howner, hkind, hstate, halign, hspan, hscales, htoken⟩ := h
  exact ⟨hblock, hlimits, howner, firstCause_none (by simp [hkind, hstate]), halign, firstCause_none (by simp [hspan, hscales]), htoken⟩

end Sys2Proof.Machine

namespace Sys2Proof.Proofs
open Sys2Proof Sys2Proof.Machine

/-- Settles O19: each word's entry accepts its command where its checks pass (`accepts_of`), ACC.OPEN after it has opened its tile, and MMA
and MMAS with the rows that `Ctx.aValue` gives. -/
theorem matrixWordsAreAccepted : Obligations.MatrixWordsAreAccepted := by
  refine ⟨?opens, ?openZero, ?zero, ⟨?mma, ?mmas⟩, ?rows, Ctx.latchAfter_cases, ⟨?metaLd, ?ret⟩, ?rd⟩
  case opens =>
    refine completesIn_of (entry := entryAccOpen) (fun _ _ => rfl) fun w s c _ ⟨⟨ho, hf⟩, hz⟩ => ?_
    rw [entryAccOpen_free ho hf, hz]
    rfl
  case openZero =>
    refine accepts_of (entry := entryAccOpen) (fun _ _ => rfl) fun c ⟨⟨ho, hf⟩, hz⟩ _ => ?_
    rw [entryAccOpen_free ho hf, hz]
    rfl
  case zero =>
    refine accepts_of (entry := entryAccZero) (fun _ _ => rfl) fun c ho _ => ?_
    simp only [entryAccZero, ho, Bool.false_eq_true, if_false]
  case mma | mmas =>
    refine accepts_of (fun _ _ => rfl) fun c _ h => ?_
    simp only [decide_eq_true_eq] at h ⊢
    exact checked_mma h
  case rows =>
    intro c n j l hj hl row
    have hrow : row (c.aRows n) = some (j, l, c.aValue j l) := c.rowOf_aRows hj hl
    refine ⟨fun x e hx hr he => ?_, fun h => by rw [hrow, Ctx.aValue_read h]⟩
    have hkey : e.1 = j ∧ e.2.1 = l := by simpa [row] using List.find?_some he
    rw [hrow, Ctx.aValue_latched hx hr he, ← hkey.1, ← hkey.2]
  case metaLd => exact accepts_of (entry := entryMetaLd) (fun _ _ => rfl) fun c _ h => checked_passes h
  case ret => exact accepts_of (entry := entryAccRet) (fun _ _ => rfl) fun c _ h => checked_passes h
  case rd => exact completesIn_of (fun _ _ => rfl) fun w s c _ ⟨ho, hb, hk⟩ => entryAccRd_done ho hb hk

end Sys2Proof.Proofs

/-! ### TRAP, TRET, TABANDON and TMASK (O21) -/

namespace Sys2Proof.Machine

theorem Member.drain_trap (m : Member) : m.drain.trap = m.trap := trap_of_bare m.drain_bare

/-- A member that returns from a handler: PC and partial-completion mask come from the exception registers, INH clears, BUDGET is what the
mask gives, and MASK and %tcause stay (R342, R345). -/
theorem Member.resume_returns (m : Member) : m.resume.pc = m.trap.tepc ∧ m.resume.trap.inh = false ∧ m.resume.pcmask = m.trap.pcm ∧
    m.resume.trap.mask = m.trap.mask ∧ m.resume.trap.budget = (if m.trap.mask then m.trap.aside.getD 65536 else 0) ∧
    m.resume.trap.ppend = (m.trap.ppend && m.trap.mask) ∧ m.resume.trap.tcause = m.trap.tcause := by
  simp [Member.resume, Member.closeWindows, m.drain_trap]

/-- An abandonment with no cause dooms a team that is not doomed yet (R346, R350). -/
theorem Team.abandon_free (t : Team) (pc : Word) (slot : Nat) : t.abandon 0 0 pc slot = if t.doom.isSome then t else
    { t with doom := some { reason := 0, cause := 0, pc := pc, slot := slot, genCause := 0x0A, detail := 0 } } := rfl

end Sys2Proof.Machine

namespace Sys2Proof.Proofs
open Sys2Proof Sys2Proof.Machine

/-- Settles O21: TRAP's entry takes its cause and TRET's ends in the member as `Member.resume` leaves it, whose fields are read off once
(`Member.resume_returns`); TABANDON and TMASK complete in the state of their own effect. -/
theorem trapWordsEnterLeaveAndMask : Obligations.TrapWordsEnterLeaveAndMask := by
  refine ⟨?trap, ?outside, ?inside, ?abandon, ?mask⟩
  case trap => exact fun w s c h => calud_cause h (e := (rfl : entryTrap c = _))
  case outside =>
    refine trapsAtCheck2_of (entry := entryTret) (fun _ _ => rfl) fun w s c h hi => ?_
    have hop : c.op = 0x1F1 := h.opcode.trans (rowAt_op _)
    simp [Ctx.unitFails, hop, hi]
  case inside => exact fun w s c h _ => ⟨_, calud_wait h (e := (rfl : entryTret c = _)), rfl, c.m.resume_returns⟩
  case abandon =>
    refine completesIn_of (entry := entryTabandon) (fun _ _ => rfl) fun w s c _ _ => ?_
    simp only [entryTabandon, Team.abandon_free]
  case mask =>
    refine completesIn_of (entry := entryTmask) (fun _ _ => rfl) fun w s c _ _ => ?_
    simp only [entryTmask, decide_eq_true_eq]

end Sys2Proof.Proofs

/-! ### Words that wait for tags (O25) -/

namespace Sys2Proof.Machine

/-- No tag stands in the way of a word just where each pending tag of its TW is the one under which it goes on, and the tag that it
allocates anew is not pending (R109, R110). -/
theorem tagBlocked_eq_false {m : Member} {w : CWord} : tagBlocked m w = false ↔
    (∀ k, k < 6 → w.common.tw.getLsbD k = true → m.tags.getLsbD k = true → m.contTag.getLsbD k = true) ∧
    (w.common.ta.toNat ≤ 5 → m.again = false → m.tags.getLsbD w.common.ta.toNat = false) := by
  have hwait : (m.tags &&& ~~~ m.contTag) &&& w.common.tw = 0 ↔
      ∀ k, k < 6 → w.common.tw.getLsbD k = true → m.tags.getLsbD k = true → m.contTag.getLsbD k = true := by
    constructor
    · intro h k hk hw ht
      have hb : (m.tags &&& ~~~ m.contTag &&& w.common.tw).getLsbD k = false := by rw [h]; exact BitVec.getLsbD_zero
      simpa only [BitVec.getLsbD_and, BitVec.getLsbD_not, hk, hw, ht, decide_true, Bool.true_and, Bool.and_true,
        Bool.not_eq_false'] using hb
    · intro h
      refine BitVec.eq_of_getLsbD_eq fun k hk => ?_
      have hb := h k hk
      cases hw : w.common.tw.getLsbD k <;> cases ht : m.tags.getLsbD k <;> simp_all
  rw [tagBlocked, Bool.or_eq_false_iff, bne_eq_false_iff_eq, hwait]
  simp

theorem Member.again_none {m : Member} (h : m.cont = none) : m.again = false := by simp [Member.again, h]

end Sys2Proof.Machine

namespace Sys2Proof.Proofs
open Sys2Proof Sys2Proof.Machine

/-- Settles O25: what `tagBlocked` tests is said once, tag by tag (`tagBlocked_eq_false`); a word that is blocked is turned away before its
checks, and a late result holds its tag (`Ctx.finished_late`). -/
theorem tagWaitsHoldAWordUntilRelease : Obligations.TagWaitsHoldAWordUntilRelease := by
  refine ⟨?held, ?free, ?released, ?allocates⟩
  case held =>
    intro i r w s tk t m k hi hs hk hw ht hc
    obtain ⟨entry, hx⟩ := exec_of_calRow hi
    have hb : tagBlocked m w = true := by
      by_contra hn
      have hcont := (tagBlocked_eq_false.mp (by simpa using hn)).1 k hk hw ht
      simp [hcont] at hc
    rw [hx, calud_held hs (.inr (.inr (.inl hb)))]
  case free =>
    intro m w hw ha
    exact tagBlocked_eq_false.mpr ⟨fun k hk h ht => by simp [hw k hk h] at ht, fun h _ => ha h⟩
  case released =>
    rintro i r w s c k - hk - rfl hc h
    exact (tagBlocked_eq_false.mp h.tags).2 (by omega) (Member.again_none hc)
  case allocates =>
    rintro r w s c o k h hk - rfl hc hv hn hw
    obtain ⟨q, -, -, htags, -⟩ := Ctx.finished_late hv hw hc
    have hta : taOf c.w = some w.common.ta.toNat := by rw [h.word]; exact if_pos (by omega)
    refine ⟨_, complete_member h hn, ?_⟩
    have hbit : (c.finished o c.m).tags.getLsbD w.common.ta.toNat = true := by
      rw [htags, hta, BitVec.getLsbD_or, tagBit_getLsbD hk, Bool.or_true]
    exact hbit

end Sys2Proof.Proofs

/-! ### A precise cause (O28) -/

namespace Sys2Proof.Machine

/-! #### What a drain writes (R111, R339) -/

theorem lastWrite_append (a b : List (Place × Nat)) (p : Place) : lastWrite (a ++ b) p = (lastWrite b p).or (lastWrite a p) := by
  simp only [lastWrite, List.reverse_append, List.find?_append, Option.map_or]

namespace Member

variable {m : Member} {p : Place}

theorem landOne_file_other {q : Pending} {e : Place × Nat} (he : e.1 ≠ p) (m : Member) : (m.landOne q e).file p = m.file p := by
  obtain ⟨ws, -, hs⟩ := landOne_shape m q e
  rw [hs]
  split
  · exact put_file_other (m := { m with windows := ws }) he e.2
  · rfl

/-- Where a result stands at a place that the member has, its last write of the place is what the place holds, whatever else it writes
(R111). -/
theorem land_file_at {q : Pending} (hp : m.has p) (hs : q.stands p = true) :
    (m.land q).file p = ((lastWrite q.writes p).map p.cut).getD (m.file p) := by
  have landed (ws : List (Place × Nat)) (m : Member) (hp : m.has p) :
      (ws.foldl (fun m e => m.landOne q e) m).file p = ((lastWrite ws p).map p.cut).getD (m.file p) := by
    induction ws generalizing m with
    | nil => rfl
    | cons e ws ih =>
      have hone : (m.landOne q e).file p = if e.1 = p then p.cut e.2 else m.file p := by
        by_cases he : e.1 = p
        · rw [landOne_file (he ▸ hp), hs]
          simp
        · rw [if_neg he]
          exact landOne_file_other he m
      rw [List.foldl_cons, ih _ ((has_of_present (present_of_bare (landOne_bare m q e)) p).mpr hp), hone, lastWrite_cons]
      by_cases he : e.1 = p <;> cases lastWrite ws p <;> simp [he]
  exact landed q.writes m hp

/-- A drain of results over none of which another has been written leaves a place with the last write among them. -/
theorem drain_file (hp : m.has p) (hs : ∀ q ∈ m.pend, q.overs = []) :
    m.drain.file p = ((lastWrite m.pendWrites p).map p.cut).getD (m.file p) := by
  have drained (qs : List Pending) (hs : ∀ q ∈ qs, q.overs = []) (m : Member) (hp : m.has p) :
      (qs.foldl land m).file p = ((lastWrite (qs.flatMap (·.writes)) p).map p.cut).getD (m.file p) := by
    induction qs generalizing m with
    | nil => rfl
    | cons q qs ih =>
      obtain ⟨hq, hqs⟩ := List.forall_mem_cons.mp hs
      have hstands : q.stands p = true := stands_of_not_over (by simp [hq])
      rw [List.foldl_cons, ih hqs _ ((has_of_present (present_of_bare (land_bare m q)) p).mpr hp), land_file_at hp hstands,
        List.flatMap_cons, lastWrite_append]
      cases lastWrite (qs.flatMap (·.writes)) p <;> simp
  exact drained m.pend hs m hp

/-- A drain leaves a place that no pending result writes. -/
theorem drain_file_unwritten (h : lastWrite m.pendWrites p = none) : m.drain.file p = m.file p := by
  refine drain_file_other fun hp => ?_
  obtain ⟨e, he, hep⟩ := List.mem_map.mp hp
  exact lastWrite_eq_none.mp h e he hep

/-! #### The entry of a handler (R339, R341) -/

theorem enter_id (m : Member) (tvec : Word) (k arg : Nat) (epc : Word) : (m.enter tvec k arg epc).id = m.id :=
  (id_of_bare m.drain_bare :)

end Member

/-! #### The two ends of a cause (R338) -/

/-- How a cause dooms the team of a member: at the member's PC and slot, with the cause's reason (R350). -/
def Member.doomBy (m : Member) (k : Nat) : Doom :=
  { reason := reasonOf k, cause := k, pc := m.pc, slot := m.slot, genCause := 0x0A, detail := BitVec.ofNat 64 (m.pc.toNat * 2 ^ 32 + k) }

section
variable {s : State} {tk mid : Nat} {t : Team} {m : Member}

theorem memberAt_of_look (ht : look s.teams tk = some t) (hm : t.member mid = some m) : s.memberAt tk mid = some m :=
  Option.bind_eq_some_iff.mpr ⟨t, ht, hm⟩

theorem TeamFrame.onlyTeam {s' : State} (h : TeamFrame True tk mid s s') : OnlyTeam s s' tk := ⟨h.toOnlyTeams, h.others trivial⟩

/-- A cause that does not abandon the task enters the handler. -/
theorem takeCause_enters (ht : look s.teams tk = some t) (hm : t.member mid = some m) {k : Nat}
    (ha : ¬ (t.gen.isSome || abandons t m k) = true) (arg : Nat) : takeCause s tk mid k arg =
      (s.settleQueues tk mid).updMember tk mid (fun x => x.enter t.tvec k arg (if k = 0x28 then m.pc + 1 else m.pc)) := by
  simp only [takeCause, takeCauseAt, ht, hm, ha, Option.bind_some, Bool.false_eq_true, if_false]

/-- A cause that abandons the task dooms its team at the word's PC. -/
theorem takeCause_dooms (ht : look s.teams tk = some t) (hm : t.member mid = some m) {k : Nat}
    (ha : (t.gen.isSome || abandons t m k) = true) (arg : Nat) :
    takeCause s tk mid k arg = s.updTeam tk (fun t => { t with doom := some (m.doomBy k) }) := by
  simp only [takeCause, takeCauseAt, ht, hm, ha, Option.bind_some, if_true, Member.doomBy]

/-- The states in which a cause abandons the task. -/
theorem abandons_iff {k : Nat} : (t.gen.isSome || abandons t m k) = true ↔
    t.gen ≠ none ∨ k = 0x1A ∨ k = 0x2C ∨ m.trap.inh = true ∨ m.trap.mask = true ∨ t.tvec = 0xFFFFFFFF := by
  simp [abandons, Option.isSome_iff_ne_none, or_assoc]

end

end Sys2Proof.Machine

namespace Sys2Proof.Proofs
open Sys2Proof Sys2Proof.Machine

/-- Settles O28: a cause has two ends (`abandons_iff`), entry in the settled state (`takeCause_enters`) and doom (`takeCause_dooms`); what
the entered member's registers hold is what its drain wrote (`Member.drain_file`). -/
theorem causesEnterTheHandlerOrAbandonTheTeam : Obligations.CausesEnterTheHandlerOrAbandonTheTeam := by
  refine ⟨?enters, ?abandons⟩
  case enters =>
    intro s tk mid k arg t m ht hm hg h1A h2C hi hk hv
    have ha : ¬ (t.gen.isSome || abandons t m k) = true := by
      simp only [abandons_iff, not_or]
      exact ⟨not_not.mpr hg, h1A, h2C, by simp [hi], by simp [hk], hv⟩
    rw [takeCause_enters ht hm ha]
    refine ⟨fun hq => ?others, settleQueues_rest s tk mid, m.enter t.tvec k arg (if k = 0x28 then m.pc + 1 else m.pc), ?found, rfl, rfl, rfl,
      rfl, ?mask, rfl, ?pcm, rfl, rfl, rfl, fun p hp => Member.drain_file_unwritten hp, fun hs p x hp hx => ?written⟩
    case others =>
      rw [settleQueues_none ht hm hq]
      exact (TeamFrame.updMember s (fun x => x.enter_id _ _ _ _)).onlyTeam
    case found =>
      rw [memberAt_updMember _ _ _ _ (fun x => x.enter_id _ _ _ _), memberAt_settleQueues, memberAt_of_look ht hm, Option.map_some]
    case mask => exact (congrArg Trap.mask m.drain_trap).trans hk
    case pcm => exact (congrArg Member.pcmask m.drain_bare :)
    case written => exact (Member.drain_file hp hs).trans (by rw [hx]; rfl)
  case abandons =>
    intro s tk mid k arg t m ht hm ha
    rw [takeCause_dooms ht hm (abandons_iff.mpr ha) arg]
    have hf : TeamFrame True tk mid s (s.updTeam tk (fun t => { t with doom := some (m.doomBy k) })) :=
      .updTeam s (fun _ => rfl) (fun _ _ _ => rfl)
    refine ⟨hf.onlyTeam, { t with doom := some (m.doomBy k) }, m.doomBy k, ?_, rfl, rfl, rfl, rfl, rfl, rfl⟩
    rw [updTeam_look, ht]
    rfl

end Sys2Proof.Proofs

/-! ### Where a team stands twice (O9)

A state lists its teams by key and does not ask that a key stand once. A store of STL changes the object of every entry of its key, each by
that object's own kind; the statement tells windows from buffers by the first entry's object alone. -/

namespace Sys2Proof.Machine

/-- An object of eight bytes, a FILLING buffer or a stash window. -/
def smallObj (k : ObjKind) : Obj :=
  { kind := k, bytes := 8, data := [], st := .filling, land := false, pendw := 0, pendr := 0, recd := BitVec.ofNat 256 (8 * 2 ^ 64 + 2 ^ 235),
    offset := 0, entries := [], dfull := false, fulls := [] }

/-- A group of one lane, whose registers all read 0. -/
def zeroGroup : Member :=
  { id := 0, slot := 0, role := 0, arrival := none, lanes := [(0, { tid := 0, v := [], p := 0, flags := 0, rng := 0 })], pc := 0, s := [],
    d := [], cb := [], tags := 0, latch := none, windows := [], pend := [], pcmask := 0, cont := none, trap := Trap.zero, weir := none,
    park := none, wait := .none, queued := none, due := none, ready := 0, issued := 0, words := 0, aged := false }

/-- What its team declares. -/
def oneRole : Spec :=
  { passKey := 0, adopt := false, keep := false, gen := false, flat := false, half := false, sres := 0, prio := 0, weir := 7, pclass := 0,
    tile := 0, vq := 0, loops := [], order := [], cw := 1, ch := 1, acc := 0, preds := 48, sregs := 128,
    roles := [{ entry := 0, groups := 1, regs := 256 }], carve := [], recs := [], code := 0 }

/-- The team of that group, with one object. -/
def oneObjTeam (k : ObjKind) : Team :=
  { ctx := 1, part := 0, launch := none, task := 0, retry := 0,
    seat := { core := 0, vcore := 0, bank := 0, cluster := 0, run := 0, placed := 0, rising := false, charge := 0 },
    spec := oneRole, prio := 0, members := [zeroGroup], fresh := 1, bins := [], tokens := [], tiles := [], units := [], objs := [smallObj k], flushes := [],
    rels := [], arriving := none, ver := startVersion 0, hold := 0, tres := 0, tdata := [], tilecfg := 0, drop := 0, arrivals := [],
    arrmiss := 0, fpenable := 0, tvec := 0, prc := false, shapes := [], arrived := [], gen := none, doom := none, saved := false }

/-- A state in which key 0 stands twice: a team whose object is a buffer, whose group has its turn, and one whose object is a window. -/
def twinTeams : State :=
  { State.reset with teams := [(0, oneObjTeam .buffer), (0, oneObjTeam .stash)], cur := some (0, 0) }

/-- STL.b32 of v0 to byte v0 of object 0. -/
def stlWord : CWord :=
  { common := { gn := false, g := 63, y := false, ru := false, tw := 0, ta := 7, pd := 0 }, body := .r 0 0 0 0 10 }

/-- What that word sees. -/
def stlCtx : Ctx := ctxOf twinTeams 0 (oneObjTeam .buffer) zeroGroup 0x161 stlWord

theorem stlWord_checks : Checks (rowAt 0x161) stlWord twinTeams stlCtx where
  who := by decide +kernel
  ctx := rfl
  free := by decide +kernel
  bank := by decide +kernel
  tags := by decide +kernel
  unit := by decide +kernel
  legal := by decide +kernel
  present := by decide +kernel
  guarded := by decide +kernel
  active := by decide +kernel
  early := by decide +kernel
  whole := by decide +kernel

/-- How many entries the window of the second team lists after a step. -/
def secondEntries (o : Host.Outcome State Fault Refusal) : Option Nat :=
  match o with
  | .next s => s.teams[1]?.bind (fun e => e.2.objs[0]?.map (fun o => o.entries.length))
  | _ => none

/-- The word stores into the second team's object as into the window that it is. -/
theorem secondEntries_stl : secondEntries (exec (.stl stlWord) twinTeams) = some 1 := by decide +kernel

end Sys2Proof.Machine

namespace Sys2Proof.Proofs
open Sys2Proof Sys2Proof.Machine

/-- Refutes O9: where a team's key stands twice, STL stores into each entry's object by that object's own kind, and the statement into both by
the first one's. -/
theorem not_localStoreAndSyncWords : ¬ Obligations.LocalStoreAndSyncWords := by
  rintro ⟨⟨-, -, -, hstl⟩, -⟩
  have h := congrArg secondEntries (hstl (smallObj .buffer) stlWord twinTeams stlCtx stlWord_checks (by decide +kernel))
  rw [secondEntries_stl] at h
  exact absurd h (by decide +kernel)

end Sys2Proof.Proofs

/-! ### Buffer, stash and arrival words (O10) -/

namespace Sys2Proof.Machine

/-- A word that names an object of a kind that it accepts (R141). -/
theorem objOf_ok {c : Ctx} {o : Obj} {ks : List ObjKind} (h : c.t.obj (fA c.w) = some o) (hk : o.kind ∈ ks) : c.objOf ks = .ok o := by
  simp [Ctx.objOf, h, hk]

/-! #### Buffer words (R144, R146) -/

/-- A BUF word whose move is open to it at its turn makes it; BUF.DONE performs the STLs to its buffer. -/
theorem entryBuf_moves {c : Ctx} {o : Obj} {dst : BufState} (ho : c.t.obj (fA c.w) = some o) (hk : o.kind = .buffer)
    (hm : bufMove c.op o = .to dst) (ht : c.objTurn (movesNow o) 0 = true) :
    entryBuf c = .done
      (if c.op = 0x165 then
        { c.s.updObj c.tk (fA c.w) (fun o => { o with st := dst }) with late := c.s.late.filter (fun x => x.space != some (c.tk, fA c.w)) }
      else c.s.updObj c.tk (fA c.w) (fun o => { o with st := dst })) Out.none := by
  simp only [entryBuf, objOf_ok ho (by simp [hk] : o.kind ∈ [.buffer]), hm, ht, if_true]
  rfl

/-- BUF.STAT reads the status of an object of any kind (R146). -/
theorem entryBufStat_done {c : Ctx} {o : Obj} (h : c.t.obj (fA c.w) = some o) : entryBufStat c = .done c.s (oneS c o.stat) := by
  have hk : o.kind ∈ [ObjKind.buffer, .stash, .sync] := by cases o.kind <;> decide
  simp only [entryBufStat, objOf_ok h hk]
  rfl

/-! #### STASH words (R150, R151) -/

/-- Two changes of a team, one after the other. -/
theorem updTeam_updTeam (s : State) (k : Nat) (f g : Team → Team) : (s.updTeam k f).updTeam k g = s.updTeam k (fun t => g (f t)) := by
  simp only [State.updTeam, upd, List.map_map]
  congr 2
  funext e
  by_cases h : e.1 = k <;> simp [h]

theorem updTeam_id (s : State) (k : Nat) {f : Team → Team} (h : ∀ t, f t = t) : s.updTeam k f = s := by
  have hm : s.teams.map (fun e => if e.1 = k then (e.1, f e.2) else e) = s.teams :=
    (List.map_congr_left fun e _ => by simp [h]).trans (List.map_id _)
  simp only [State.updTeam, upd, hm]

/-- What a STASH word leaves of its window. -/
def Obj.taken (o : Obj) (inv : Bool) : Obj :=
  if inv then { o with entries := [] } else o.dirtyEntries.foldl (fun o i => o.cleaned i) o

/-- The snapshot of a STASH word. -/
def Ctx.snapshot (c : Ctx) (o : Obj) : Flush :=
  { mem := c.m.id, handler := c.m.trap.inh, obj := fA c.w, cells := o.dirtyCells }

/-- The state once a STASH word has taken its snapshot. -/
def Ctx.snapped (c : Ctx) (inv : Bool) (o : Obj) : State :=
  c.s.updTeam c.tk (fun t => { t with objs := t.objs.set (fA c.w) (o.taken inv) }.takeFlush (c.snapshot o))

/-- Snapshots give up no byte to a word that takes none. -/
theorem takeFlush_nil (t : Team) {f : Flush} (h : f.cells = []) :
    t.takeFlush f = { t with flushes := t.flushes.filter (fun f => f.cells != []) } := by
  simp [Team.takeFlush, h]

/-- Where a word re-executes with nothing left of its snapshot. -/
theorem stashWord_resumed {c : Ctx} {o : Obj} (inv : Bool) (ho : c.t.obj (fA c.w) = some o) (hk : o.kind = .stash) (ha : c.m.again = true)
    (hf : c.flush = []) : stashWord inv c = .done c.s Out.none := by
  simp only [stashWord, objOf_ok ho (by simp [hk] : o.kind ∈ [.stash]), ha, hf, if_true]

/-- Where it takes no byte. -/
theorem stashWord_nothing {c : Ctx} {o : Obj} (inv : Bool) (ho : c.t.obj (fA c.w) = some o) (hk : o.kind = .stash) (ha : c.m.again = false)
    (hc : o.dirtyCells = []) : stashWord inv c = .done (c.snapped inv o) Out.none := by
  simp only [stashWord, objOf_ok ho (by simp [hk] : o.kind ∈ [.stash]), ha, hc, Bool.false_eq_true, if_false, if_true]
  split
  · simp only [Res.unflushed, Ctx.snapped, Ctx.snapshot, Obj.taken, hc]
  · simp only [Ctx.snapped, Ctx.snapshot, Obj.taken, hc]

theorem dirtyEntries_eq_nil {o : Obj} (h : ∀ e ∈ o.entries, e.2.dirty = 0) : o.dirtyEntries = [] := by
  have hf : o.entries.filter (fun e => e.2.dirty != 0) = [] := List.filter_eq_nil_iff.mpr fun e he => by simp [h e he]
  rw [Obj.dirtyEntries, hf, List.map_nil]

/-- Where no entry of its window is dirty, FLUSH leaves the window and INV empties it. -/
theorem stashWord_clean {c : Ctx} {o : Obj} (inv : Bool) (ho : c.t.obj (fA c.w) = some o) (hk : o.kind = .stash) (ha : c.m.again = false)
    (hd : o.dirtyEntries = []) : stashWord inv c = .done (c.s.updTeam c.tk (fun t => { t with
      objs := t.objs.set (fA c.w) (if inv then { o with entries := [] } else o)
      flushes := t.flushes.filter (fun f => f.cells != []) })) Out.none := by
  have hc : o.dirtyCells = [] := by simp [Obj.dirtyCells, hd]
  rw [stashWord_nothing inv ho hk ha hc, Ctx.snapped]
  simp only [takeFlush_nil (f := c.snapshot o) _ hc, Obj.taken, hd, List.foldl_nil]

/-- What a snapshot holds of a window (R151). -/
theorem dirtyCells_spec {o : Obj} {e : Host.Cell} (he : e ∈ o.dirtyCells) :
    e.2 = Mem.read o.data e.1 ∧ e.1 / 128 ∈ o.dirtyEntries ∧ (o.entry (e.1 / 128)).dirty.getLsbD (e.1 % 128) = true := by
  obtain ⟨i, hi, hcell⟩ := List.mem_flatMap.mp he
  obtain ⟨x, hbyte, rfl⟩ := List.mem_map.mp hcell
  obtain ⟨j, hj, rfl⟩ := List.mem_map.mp hbyte
  obtain ⟨hrange, hd⟩ := List.mem_filter.mp hj
  have hlt := List.mem_range.mp hrange
  have hdiv : (128 * i + j) / 128 = i := by omega
  have hmod : (128 * i + j) % 128 = j := by omega
  exact ⟨rfl, by rw [hdiv]; exact hi, by rw [hdiv, hmod]; exact hd⟩

/-! #### The write-back of a snapshot (R150, R151) -/

/-- The entries that cells of a window lie in, each once. -/
def entriesOf (cells : List Host.Cell) : List Nat := (cells.map (·.1 / 128)).dedup

/-- The cells of one entry. -/
def cellsIn (cells : List Host.Cell) (i : Nat) : List Host.Cell := cells.filter (fun e => e.1 / 128 = i)

/-- The virtual address of a window's byte. -/
def Obj.va (o : Obj) (x : Nat) : Nat := recVa o.recd (o.offset + x)

/-- The accesses of a STASH word that writes cells back: one for each entry. -/
def Ctx.backAsk (c : Ctx) (o : Obj) (cells : List Host.Cell) : MemAsk :=
  { r := o.recd, kind := 9, need := .write, requester := false, back := true
    lanes := (entriesOf cells).map (fun i => { lane := c.act.headD 0, vas := (cellsIn cells i).map (fun e => o.va e.1) }) }

/-- The state once the cells are stored where their translations say. -/
def Ctx.storedBack (c : Ctx) (o : Obj) (cells : List Host.Cell) (s1 : State) (tr : List (Nat × Trans)) : State :=
  c.storeCells s1 (recV o.recd) 2
    [(c.act.headD 0, ((entriesOf cells).flatMap (cellsIn cells)).map (fun e => (bytePa tr (o.va e.1), e.2)))]

/-- Where every access performs, every entry's cells are stored. -/
theorem storeBack_done {c : Ctx} {o : Obj} {cells : List Host.Cell} {s1 : State} {tr : List (Nat × Trans)}
    (h : Performs c (c.backAsk o cells) s1 tr) (after : List Nat → State → State) :
    storeBack c true o cells after = .done (after (entriesOf cells) (c.storedBack o cells s1 tr)) Out.none := by
  have hall : (entriesOf cells).filter (fun i => (c.backAsk o cells).lanes.any (fun l => l.vas == (cellsIn cells i).map (fun e => o.va e.1))) =
      entriesOf cells :=
    List.filter_eq_self.mpr fun i hi => List.any_eq_true.mpr ⟨_, List.mem_map_of_mem hi, by simp⟩
  unfold storeBack
  refine (memWord_done (a := c.backAsk o cells) h _).trans ?_
  have hend (l : List Nat) (hl : l = entriesOf cells) : Res.done (after l (c.storeCells s1 (recV o.recd) 2
      [(c.act.headD 0, (l.flatMap (cellsIn cells)).map (fun e => (bytePa tr (o.va e.1), e.2)))])) Out.none =
        .done (after (entriesOf cells) (c.storedBack o cells s1 tr)) Out.none := by rw [hl]; rfl
  exact hend _ hall

/-- The checks of a version that no access meets leave it as it was. -/
theorem versionWord_no_lanes (s : State) (tk : Nat) (t : Team) (m : Member) (tr : List (Nat × Trans)) (write : Bool) :
    (versionWord s tk t m tr write []).1 = s := by
  have hmark (t : Team) : { t with ver := t.ver.mark write [] } = t := by cases write <;> rfl
  have hword : versionWord s tk t m tr write [] = if t.quota < chargeOf (t.ver.mark write []).reads (t.ver.mark write []).writes then (s, some 0x11)
      else (s.updTeam tk (fun t => { t with ver := t.ver.mark write [] }), none) := rfl
  rw [hword]
  split
  · rfl
  · exact updTeam_id s tk hmark

/-- A memory word without accesses changes nothing. -/
theorem Performs.state_of_no_lanes {c : Ctx} {a : MemAsk} {s1 : State} {tr : List (Nat × Trans)} (h : Performs c a s1 tr)
    (hl : a.lanes = []) : s1 = c.s := by
  obtain ⟨s0, hv, hs⟩ := h.marks
  have htr : tr = [] := by rw [h.lines, hl]; rfl
  have hs0 : s0 = c.s := by
    rw [hl] at hv
    rw [← show _ = s0 from congrArg Prod.fst hv]
    split
    · exact versionWord_no_lanes ..
    · rfl
  rw [hs, hl, htr, hs0]
  exact updTeam_id _ _ fun t => by simp

/-- The state in which a STASH word's snapshot stands among the team's, without bytes too. -/
def Ctx.listed (c : Ctx) (inv : Bool) (o : Obj) : State :=
  c.s.updTeam c.tk (fun t => { t with
    objs := t.objs.set (fA c.w) (o.taken inv)
    flushes := (t.flushes.map (fun x =>
        if x.obj = fA c.w then { x with cells := x.cells.filter (fun e => !o.dirtyCells.any (fun y => y.1 = e.1)) } else x)).filter (·.cells != []) ++
      [c.snapshot o] })

theorem listed_of_cells {c : Ctx} {o : Obj} (inv : Bool) (h : o.dirtyCells ≠ []) : c.listed inv o = c.snapped inv o := by
  simp only [Ctx.listed, Ctx.snapped, Team.takeFlush, Ctx.snapshot, h, if_false]
  rfl

/-- The word's own snapshots, as R151 names them. -/
theorem flushed_own (c : Ctx) (t : Team) (done : List Nat) : t.flushed (fA c.w) c.ownFlush done = { t with
    flushes := (t.flushes.map (fun f => if f.obj = fA c.w ∧ f.mem = c.m.id ∧ f.handler = c.m.trap.inh then
      { f with cells := f.cells.filter (fun e => !done.contains (e.1 / 128)) } else f)).filter (·.cells != []) } := by
  simp only [Team.flushed, Ctx.ownFlush, Bool.and_eq_true, decide_eq_true_eq]
  congr! 5 with f
  tauto

/-- The end of a STASH word whose accesses perform. -/
def Ctx.flushedBack (c : Ctx) (o : Obj) (t1 : Team) (snap s1 : State) (tr : List (Nat × Trans)) : State :=
  (Ctx.storedBack { c with s := snap, t := t1 } o o.dirtyCells s1 tr).updTeam c.tk (fun t =>
    t.flushed (fA c.w) c.ownFlush (entriesOf o.dirtyCells))

/-- A word whose window's listed entries hold no byte of its own stores none. -/
theorem flushedBack_of_no_cells {c : Ctx} {o : Obj} {t1 : Team} {s1 : State} {tr : List (Nat × Trans)} (inv : Bool) (hc : o.dirtyCells = [])
    (hp : Performs { c with s := c.listed inv o, t := t1 } (c.backAsk o o.dirtyCells) s1 tr) :
    c.flushedBack o t1 (c.listed inv o) s1 tr = c.snapped inv o := by
  have hs : s1 = c.listed inv o := hp.state_of_no_lanes (by rw [hc]; rfl)
  have hst : Ctx.storedBack { c with s := c.listed inv o, t := t1 } o o.dirtyCells s1 tr = c.listed inv o := by rw [hc, hs]; rfl
  rw [Ctx.flushedBack, hst, Ctx.listed, updTeam_updTeam]
  refine congrArg (c.s.updTeam c.tk) (funext fun t => ?_)
  rw [takeFlush_nil _ hc]
  simp [Team.flushed, entriesOf, Ctx.snapshot, hc]

/-- A STASH word takes its snapshot and, where every access performs, writes it back. -/
theorem stashWord_writes {c : Ctx} {o : Obj} {t1 : Team} {s1 : State} {tr : List (Nat × Trans)} (inv : Bool)
    (ho : c.t.obj (fA c.w) = some o) (hk : o.kind = .stash) (ha : c.m.again = false) (ht : look (c.listed inv o).teams c.tk = some t1)
    (hp : Performs { c with s := c.listed inv o, t := t1 } (c.backAsk o o.dirtyCells) s1 tr) :
    stashWord inv c = .done (c.flushedBack o t1 (c.listed inv o) s1 tr) Out.none := by
  by_cases hc : o.dirtyCells = []
  · rw [flushedBack_of_no_cells inv hc hp, stashWord_nothing inv ho hk ha hc]
  · rw [listed_of_cells inv hc] at ht hp ⊢
    have hback := storeBack_done (c := { c with s := c.snapped inv o, t := t1 }) hp
      (fun done s => s.updTeam c.tk (fun t => t.flushed (fA c.w) c.ownFlush done))
    unfold Ctx.snapped Ctx.snapshot Obj.taken at ht
    simp only [stashWord, objOf_ok ho (by simp [hk] : o.kind ∈ [.stash]), ha, hc, ht, Bool.false_eq_true, if_false]
    exact congrArg (Res.unflushed c) hback

end Sys2Proof.Machine

namespace Sys2Proof.Proofs
open Sys2Proof Sys2Proof.Machine

/-- Settles O10: a BUF word makes the move of its table (`entryBuf_moves`), BUF.STAT reads `Obj.stat`, and a STASH word takes a snapshot and
writes it back (`stashWord_writes`), which where no entry is dirty is nothing (`stashWord_clean`). -/
theorem bufferStashAndArrivalWords : Obligations.BufferStashAndArrivalWords := by
  refine ⟨?moves, ?back⟩
  case moves =>
    intro moves kept
    have hmoves {op : Nat} {i : CWord → Instr} {src : List BufState} {dst : BufState}
        (hx : ∀ w s, exec (i w) s = calud (rowAt op) entryBuf w s)
        (hm : ∀ o : Obj, o.st ∈ src → (op = 0x165 → o.pendw = 0) →
          (op = 0x167 → (o.st = .filling → o.pendw = 0) ∧ (o.st = .full ∨ o.st = .draining → o.pendr = 0)) → bufMove op o = .to dst) :
        moves op i src dst := by
      refine fun o => completesIn_of hx fun w s c h ⟨ho, hk, hst, ht, hw, hr⟩ => ?_
      have hop : c.op = op := h.opcode.trans (rowAt_op op)
      rw [entryBuf_moves ho hk (hop ▸ hm o hst hw hr) ht, hop]
      rfl
    refine ⟨?fill, ?done, ?drain, ?free, ?stat, ?flush, ?inv, ?flushAgain, ?invAgain, ?arm⟩
    case fill => exact hmoves (fun _ _ => rfl) fun o hst _ _ => by simp [bufMove, List.mem_singleton.mp hst]
    case done => exact hmoves (fun _ _ => rfl) fun o hst hw _ => by simp [bufMove, List.mem_singleton.mp hst, hw rfl]
    case drain => exact hmoves (fun _ _ => rfl) fun o hst _ _ => by simpa [bufMove, or_iff_not_imp_left] using hst
    case free =>
      refine hmoves (fun _ _ => rfl) fun o _ _ hn => ?_
      obtain ⟨hw, hr⟩ := hn rfl
      cases hst : o.st with
      | empty => simp [bufMove, hst]
      | filling => simp [bufMove, hst, hw hst]
      | full => simp [bufMove, hst, hr (.inl hst)]
      | draining => simp [bufMove, hst, hr (.inr hst)]
    case stat =>
      refine fun o => completesIn_of (fun _ _ => rfl) fun w s c _ ho => ?_
      rw [entryBufStat_done ho]
      unfold Obj.stat
      cases o.kind <;> rfl
    case flush =>
      refine fun o => completesIn_of (fun _ _ => rfl) fun w s c _ ⟨ho, hk, hd, ha⟩ => ?_
      exact stashWord_clean false ho hk ha hd
    case inv =>
      refine fun o => completesIn_of (fun _ _ => rfl) fun w s c _ ⟨ho, hk, hd, ha⟩ => ?_
      exact stashWord_clean true ho hk ha (dirtyEntries_eq_nil hd)
    case flushAgain => exact fun o => completesIn_of (fun _ _ => rfl) fun w s c _ ⟨ho, hk, ha, hf⟩ => stashWord_resumed false ho hk ha hf
    case invAgain => exact fun o => completesIn_of (fun _ _ => rfl) fun w s c _ ⟨ho, hk, ha, hf⟩ => stashWord_resumed true ho hk ha hf
    case arm => exact completesIn_of (entry := entryArm) (fun _ _ => rfl) fun _ _ _ _ _ => rfl
  case back =>
    intro does
    have hdoes {op : Nat} {i : CWord → Instr} (inv : Bool) (hx : ∀ w s, exec (i w) s = calud (rowAt op) (stashWord inv) w s) :
        does op i (fun o => o.taken inv) := by
      intro o t1 s1 tr w s c h ho hk _ ha cells ents on va snap c1 ht hp
      rw [h.ends (hx w s) (stashWord_writes inv ho hk ha ht hp), Ctx.flushedBack, funext fun t => flushed_own c t _]
      rfl
    exact ⟨hdoes false fun _ _ => rfl, hdoes true fun _ _ => rfl, fun _ _ => dirtyCells_spec⟩

end Sys2Proof.Proofs

/-! ### Engine commands (O56) -/

namespace Sys2Proof.Machine

/-! #### Teams and objects after a change -/

/-- What a change of teams leaves of one, as a test of the team shows. -/
theorem look_updTeam_keeps {α : Type} (φ : Team → α) (s : State) (k : Nat) {f : Team → Team} (h : ∀ t, φ (f t) = φ t) (tk : Nat) :
    (look (s.updTeam k f).teams tk).map φ = (look s.teams tk).map φ := by
  rw [State.updTeam, look_upd]
  split
  · rw [Option.map_map, show φ ∘ f = φ from funext h]
  · rfl

/-- What a change of an object leaves of a team. -/
theorem look_updObj_keeps {α : Type} (φ : Team → α) (h : ∀ t l, φ { t with objs := l } = φ t) (s : State) (k n : Nat)
    (f : Obj → Obj) (tk : Nat) : (look (s.updObj k n f).teams tk).map φ = (look s.teams tk).map φ :=
  look_updTeam_keeps φ s k (fun t => h t _) tk

/-- The object of a team, by the team's key. -/
def State.objAt (s : State) (tk n : Nat) : Option Obj := (look s.teams tk).bind (fun t => t.obj n)

theorem objAt_eq_some {s : State} {tk n : Nat} {o : Obj} : s.objAt tk n = some o ↔ ∃ t, look s.teams tk = some t ∧ t.obj n = some o :=
  Option.bind_eq_some_iff

theorem objAt_of_look {s : State} {tk : Nat} {t : Team} (ht : look s.teams tk = some t) (n : Nat) : s.objAt tk n = t.obj n := by
  rw [State.objAt, ht, Option.bind_some]

theorem objAt_eq_objs (s : State) (tk n : Nat) : s.objAt tk n = ((look s.teams tk).map Team.objs).bind (fun l => l[n]?) := by
  unfold State.objAt
  cases look s.teams tk <;> rfl

/-- A change of a team that is none of its objects. -/
theorem objAt_updTeam (s : State) (k : Nat) {f : Team → Team} (h : ∀ t, (f t).objs = t.objs) (tk n : Nat) :
    (s.updTeam k f).objAt tk n = s.objAt tk n := by
  rw [objAt_eq_objs, objAt_eq_objs, look_updTeam_keeps Team.objs s k h]

@[simp] theorem objAt_updObj (s : State) (tk n : Nat) (f : Obj → Obj) : (s.updObj tk n f).objAt tk n = (s.objAt tk n).map f := by
  simp only [State.objAt, State.updObj, updTeam_look]
  cases look s.teams tk <;> simp [Team.obj]

/-- What a change of an object leaves of any, as a test of the object shows. -/
theorem objAt_updObj_keeps {α : Type} (φ : Obj → α) (s : State) (k i : Nat) {f : Obj → Obj} (h : ∀ o, φ (f o) = φ o) (tk n : Nat) :
    ((s.updObj k i f).objAt tk n).map φ = (s.objAt tk n).map φ := by
  have hb (s : State) : (s.objAt tk n).map φ = ((look s.teams tk).map (fun t => t.objs.map φ)).bind (fun l => l[n]?) := by
    simp only [State.objAt, Team.obj]
    cases look s.teams tk <;> simp
  rw [hb, hb, State.updObj, look_updTeam_keeps (fun t => t.objs.map φ)]
  intro t
  refine List.ext_getElem? fun j => ?_
  simp only [List.getElem?_map, List.getElem?_modify]
  cases t.objs[j]? with
  | none => rfl
  | some o => by_cases hj : i = j <;> simp [hj, h]

/-! #### The counts of a command that ends (R143) -/

/-- An object but for its counts. -/
def Obj.uncounted (o : Obj) : Obj := { o with pendw := 0, pendr := 0 }

/-- A change that leaves the commands, each team but for its objects, and each object but for its counts. -/
structure CountFrame (s s' : State) : Prop where
  /-- The commands. -/
  cmds : s'.cmds = s.cmds
  /-- The teams. -/
  teams : ∀ tk, (look s'.teams tk).map (fun t => { t with objs := [] }) = (look s.teams tk).map (fun t => { t with objs := [] })
  /-- The objects. -/
  objs : ∀ tk n, (s'.objAt tk n).map Obj.uncounted = (s.objAt tk n).map Obj.uncounted

theorem CountFrame.refl (s : State) : CountFrame s s := ⟨rfl, fun _ => rfl, fun _ _ => rfl⟩

theorem CountFrame.trans {s s' s'' : State} (h : CountFrame s s') (h' : CountFrame s' s'') : CountFrame s s'' :=
  ⟨h'.cmds.trans h.cmds, fun tk => (h'.teams tk).trans (h.teams tk), fun tk n => (h'.objs tk n).trans (h.objs tk n)⟩

theorem CountFrame.updObj (s : State) (tk n : Nat) {f : Obj → Obj} (h : ∀ o, (f o).uncounted = o.uncounted) : CountFrame s (s.updObj tk n f) :=
  ⟨rfl, look_updObj_keeps _ (fun _ _ => rfl) s tk n f, objAt_updObj_keeps _ s tk n h⟩

theorem CountFrame.countObj (s : State) (tk : Nat) (n : Option Nat) {f : Obj → Obj} (h : ∀ o, (f o).uncounted = o.uncounted) :
    CountFrame s (countObj s tk n f) := by
  cases n with
  | none => exact .refl s
  | some n => exact .updObj s tk n h

theorem CountFrame.landDone (s : State) (k : Command) : CountFrame s (landDone s k) := by
  unfold Machine.landDone
  split
  · exact .updObj s _ _ fun _ => rfl
  · exact .refl s

/-- The counts of a command that has stopped reading and writing are all that changes. -/
theorem uncount_frame (s : State) (k : Command) : CountFrame s (uncount s k) := by
  have hread (s : State) : CountFrame s (if k.reading then readDone s k else s) := by
    split
    · exact .countObj s _ _ fun _ => rfl
    · exact .refl s
  have hwrite (s : State) : CountFrame s (if k.writing then writeDone s k else s) := by
    split
    · exact .countObj s _ _ fun _ => rfl
    · exact .refl s
  exact ((hread s).trans (hwrite _)).trans (.landDone _ k)

/-! #### A command leaves (R248) -/

/-- The command is in no journal any more, every other one stands, and its token is as given. -/
def Command.Gone (k : Command) (s t : State) (x : Token) : Prop :=
  (∀ y ∈ t.cmds, y.id ≠ k.id) ∧ (∀ y ∈ s.cmds, y.id ≠ k.id → y ∈ t.cmds) ∧
    ∀ n, k.token = some n → ∃ m, look t.teams k.team = some m ∧ m.token n = x

theorem leaveCmd_cmds (s : State) (k : Command) (x : Token) : (leaveCmd s k x).cmds = s.cmds.filter (fun y => y.id != k.id) := by
  unfold leaveCmd
  cases k.token <;> rfl

/-- What a command that leaves keeps of a team. -/
theorem leaveCmd_keeps {α : Type} (φ : Team → α) (h : ∀ t n x, φ (t.setToken n x) = φ t) (s : State) (k : Command) (x : Token) (tk : Nat) :
    (look (leaveCmd s k x).teams tk).map φ = (look s.teams tk).map φ := by
  unfold leaveCmd
  cases k.token with
  | none => rfl
  | some n => exact look_updTeam_keeps φ { s with cmds := s.cmds.filter (fun y => y.id != k.id) } k.team (fun t => h t n x) tk

theorem leaveCmd_objAt (s : State) (k : Command) (x : Token) (tk n : Nat) : (leaveCmd s k x).objAt tk n = s.objAt tk n := by
  rw [objAt_eq_objs, objAt_eq_objs, leaveCmd_keeps Team.objs fun _ _ _ => rfl]

theorem leaveCmd_gone {s s1 : State} {k : Command} {t : Team} (x : Token) (hc : ∀ y ∈ s.cmds, y.id ≠ k.id → y ∈ s1.cmds)
    (ht : look s1.teams k.team = some t) : k.Gone s (leaveCmd s1 k x) x := by
  refine ⟨fun y hy => ?_, fun y hy hn => ?_, fun n hn => ⟨t.setToken n x, ?_, get_setD_same ..⟩⟩
  · rw [leaveCmd_cmds] at hy
    simpa using (List.mem_filter.mp hy).2
  · rw [leaveCmd_cmds]
    exact List.mem_filter.mpr ⟨hc y hy hn, by simpa using hn⟩
  · simp only [leaveCmd, hn, updTeam_look, ht, Option.map_some]

/-- A command that stops reading and writing and leaves: it is gone, where its team stands and the other commands stood. -/
theorem ends_gone {s s1 : State} {k : Command} (x : Token) (hc : ∀ y ∈ s.cmds, y.id ≠ k.id → y ∈ s1.cmds)
    (ht : (look s1.teams k.team).isSome) : k.Gone s (leaveCmd (uncount s1 k) k x) x := by
  have hf := uncount_frame s1 k
  have hteam : (look (uncount s1 k).teams k.team).isSome := by
    have h := congrArg Option.isSome (hf.teams k.team)
    rw [Option.isSome_map, Option.isSome_map] at h
    exact h.trans ht
  obtain ⟨t, ht'⟩ := Option.isSome_iff_exists.mp hteam
  exact leaveCmd_gone x (fun y hy hn => by rw [hf.cmds]; exact hc y hy hn) ht'

/-- What a command that ends leaves of an object: all but its counts. -/
theorem ends_objAt {s1 : State} {k : Command} {x : Token} {tk n : Nat} {o : Obj} (h : s1.objAt tk n = some o) :
    ∃ t' o2, look (leaveCmd (uncount s1 k) k x).teams tk = some t' ∧ t'.obj n = some o2 ∧ o2.uncounted = o.uncounted := by
  have hu := (uncount_frame s1 k).objs tk n
  rw [h, Option.map_some, ← leaveCmd_objAt _ k x] at hu
  obtain ⟨o2, ho2, he⟩ := Option.map_eq_some_iff.mp hu
  obtain ⟨t', ht', ho⟩ := objAt_eq_some.mp ho2
  exact ⟨t', o2, ht', ho, he⟩

/-! #### Starts and completions (R247, R248) -/

theorem cmd_id {s : State} {id : Nat} {k : Command} (h : s.cmd id = some k) : k.id = id := by simpa using List.find?_some h

/-- A change of a command found by its number. -/
theorem cmd_updCmd (s : State) (id : Nat) {f : Command → Command} (hf : ∀ k, (f k).id = k.id) :
    (s.updCmd id f).cmd id = (s.cmd id).map f := by
  simp only [State.cmd, State.updCmd, List.find?_map]
  induction s.cmds with
  | nil => rfl
  | cons k r ih =>
    by_cases hk : k.id = id
    · simp [hk, hf]
    · simpa [hk] using ih

theorem mem_updCmd {s : State} {id : Nat} (f : Command → Command) {y : Command} (hy : y ∈ s.cmds) (hn : y.id ≠ id) :
    y ∈ (s.updCmd id f).cmds :=
  List.mem_map.mpr ⟨y, hy, if_neg hn⟩

theorem startable_team {s : State} {k : Command} (h : startable s k = true) : (look s.teams k.team).isSome := by
  unfold startable at h
  split at h
  · cases h
  · next ht => simp [ht]

theorem isBeam_eq_false {j : Job} (h : ∀ r b d, j ≠ .beam r b d) : j.isBeam = false := by
  unfold Job.isBeam
  split
  · exact absurd rfl (h _ _ _)
  · rfl

section
variable {s : State} {k : Command} {id : Nat}

/-- A command of the journal that may start, and is no beam, starts. -/
theorem engineCommandStart_starts (hk : s.cmd id = some k) (hm : k.matrix = false) (hb : k.job.isBeam = false) (hs : startable s k = true)
    (hu : usedError s k = none) :
    exec (.engineCommandStart id) s = .next (s.updCmd id (fun k => { k with phase := .started, startAt := s.now })) := by
  have hx : exec (.engineCommandStart id) s = execEngineCommandStart id s := rfl
  simp [hx, execEngineCommandStart, hk, hm, hb, hs, hu]

/-- One that uses a token in ERROR ends with its cause and address. -/
theorem engineCommandStart_errs (hk : s.cmd id = some k) (hm : k.matrix = false) (hb : k.job.isBeam = false) (hs : startable s k = true)
    {cause va : Nat} (hu : usedError s k = some (cause, va)) : exec (.engineCommandStart id) s = .next (endCmd s k 1 cause va 0) := by
  have hx : exec (.engineCommandStart id) s = execEngineCommandStart id s := rfl
  simp [hx, execEngineCommandStart, hk, hm, hb, hs, hu]

/-- The state in which a command that goes on performs its accesses. -/
def State.resumed (s : State) (id : Nat) : State := s.updCmd id (fun k => { k with stop := .none })

/-- A job that is no XSEND and no COLL. -/
def Job.plain : Job → Bool
  | .send .. => false
  | .coll .. => false
  | _ => true

/-- A started command that is no XSEND and no COLL performs its accesses. -/
theorem engineCommandCompletion_plain (hk : s.cmd id = some k) (hs : k.matrix = false ∧ k.phase = .started)
    (hr : runnable s k = true) (hj : k.job.plain = true) : exec (.engineCommandCompletion id) s = .next (runCopy (s.resumed id) k) := by
  have hx : exec (.engineCommandCompletion id) s = execEngineCommandCompletion id s := rfl
  have hsend (a b c d e f g h) : k.job ≠ .send a b c d e f g h := fun hk => by simp [hk, Job.plain] at hj
  have hcoll (a b c d e f g h) : k.job ≠ .coll a b c d e f g h := fun hk => by simp [hk, Job.plain] at hj
  simp only [hx, execEngineCommandCompletion, hk, hs.1, hs.2, hr, Bool.not_true, Bool.or_self, Bool.false_eq_true, if_false]
  rfl

end

/-! #### Copies, zeroings and gathers (R256, R260, R261) -/

section
variable {s s2 s3 : State} {k : Command} {src dst : End} {sh : Option (List Word)} {n : Nat} {bs x : List Byte}

/-- The pieces that a command reads, each of lane 0. -/
def sourceOf (ps : List (Nat × Nat)) : List (Nat × Nat) := ps.map (fun p => (0, p.1))

/-- A copy that reads its source and writes its destination ends. -/
theorem runCopy_ok (hj : k.job = .copy src dst sh n) (hring : k.ring = none) (hr : readEnd s k src false (sourceOf (pairsOf sh n)) = .ok s2 bs)
    (hw : writeEnd s2 k dst (((pairsOf sh n).map (·.2)).zip bs) = .ok s3 x) : runCopy s k = leaveCmd (uncount s3 k) k .complete := by
  unfold sourceOf at hr
  simp only [runCopy, hj, hr, Try.bind, hw, endCmd_bare _ hring, if_true]

/-- One whose source stops it stops. -/
theorem runCopy_halt {st : Stop} (hj : k.job = .copy src dst sh n) (hr : readEnd s k src false (sourceOf (pairsOf sh n)) = .halt s2 st) :
    runCopy s k = s2.updCmd k.id (fun k => { k with stop := st }) := by
  unfold sourceOf at hr
  simp only [runCopy, hj, hr, Try.bind, stopCmd]

/-- One whose source ends in a cause ends in ERROR. -/
theorem runCopy_err {cause va : Nat} (hj : k.job = .copy src dst sh n) (hp : k.phase = .started) (hring : k.ring = none)
    (hr : readEnd s k src false (sourceOf (pairsOf sh n)) = .err s2 cause va) : runCopy s k = leaveCmd (uncount s2 k) k (.error cause va) := by
  unfold sourceOf at hr
  have hl : leaveColl s2 k = s2 := by simp only [leaveColl, hp]
  simp only [runCopy, hj, hr, Try.bind, stopCmd, hp, hl, endCmd_bare _ hring, one_ne_zero, if_false]

theorem runCopy_zero (hj : k.job = .zero dst n) (hring : k.ring = none)
    (hw : writeEnd s k dst ((List.range n).map (fun j => (j, 0))) = .ok s3 x) : runCopy s k = leaveCmd (uncount s3 k) k .complete := by
  simp only [runCopy, hj, hw, endCmd_bare _ hring, if_true]

theorem runCopy_gather {size : Nat} {lanes : List (Nat × Nat)} (hj : k.job = .gath src dst size lanes) (hring : k.ring = none)
    (hr : readEnd s k src true (lanes.flatMap (fun e => (List.range size).map (fun j => (e.1, e.2 + j)))) = .ok s2 bs)
    (hw : writeEnd s2 k dst ((lanes.flatMap (fun e => (List.range size).map (fun j => e.1 * size + j))).zip bs) = .ok s3 x) :
    runCopy s k = leaveCmd (uncount s3 k) k .complete := by
  simp only [runCopy, hj, hr, Try.bind, hw, endCmd_bare _ hring, if_true]

end

/-! #### The bytes of an object (R256) -/

/-- Bytes put into an object at an offset. -/
def putBytes (off : Nat) (bs : List (Nat × Byte)) (m : Bytes) : Bytes := bs.foldl (fun m x => Mem.put m (off + x.1) x.2) m

theorem read_putBytes (off : Nat) (bs : List (Nat × Byte)) (m : Bytes) (x : Nat) :
    Mem.read (putBytes off bs m) x = ((bs.reverse.find? (fun e => off + e.1 = x)).map (·.2)).getD (Mem.read m x) := by
  have hput : putBytes off bs m = (bs.map (fun e => (off + e.1, e.2))).foldl (fun m c => Mem.put m c.1 c.2) m := by
    rw [List.foldl_map]; rfl
  rw [hput, read_foldl_put, lastCell, ← List.map_reverse, List.find?_map, Option.map_map]
  rfl

/-- A run of bytes, one at each offset. -/
theorem read_putBytes_run (off n : Nat) (f : Nat → Byte) (m : Bytes) (x : Nat) :
    Mem.read (putBytes off ((List.range n).map (fun j => (j, f j))) m) x = if off ≤ x ∧ x < off + n then f (x - off) else Mem.read m x := by
  induction n with
  | zero => rw [if_neg (by omega)]; rfl
  | succ n ih =>
    have hlast : putBytes off ((List.range (n + 1)).map (fun j => (j, f j))) m =
        Mem.put (putBytes off ((List.range n).map (fun j => (j, f j))) m) (off + n) (f n) := by
      simp [putBytes, List.range_succ]
    rw [hlast, read_put, ih]
    by_cases hx : x = off + n
    · rw [if_pos hx, if_pos (by omega), hx, Nat.add_sub_cancel_left]
    · rw [if_neg hx]
      by_cases hin : off ≤ x ∧ x < off + n
      · rw [if_pos hin, if_pos (by omega)]
      · rw [if_neg hin, if_neg (by omega)]

/-- A team that has a direct write to commit (R213). -/
def Team.dirtied (t : Team) : Team := { t with ver := { t.ver with dirw := true } }

/-- The state once team `w` has written bytes of an object, those at `as` (R194, R350). -/
def State.objWritten (s : State) (tk n off : Nat) (bs : List (Nat × Byte)) (w : Nat) (as : List Nat) : State :=
  let s := (s.updObj tk n (fun o => { o with data := putBytes off bs o.data })).overLate (some (tk, n)) as
  if as = [] then s else s.updTeam w Team.dirtied

theorem writeEnd_obj (s : State) (k : Command) (n off : Nat) (bs : List (Nat × Byte)) :
    writeEnd s k (.obj n off) bs = .ok (s.objWritten k.team n off bs k.team (bs.map (fun x => off + x.1))) [] := by
  simp only [writeEnd, State.objWritten, List.map_eq_nil_iff]
  rfl

section
variable (s : State) (tk n off : Nat) (bs : List (Nat × Byte)) (w : Nat) (as : List Nat)

theorem objWritten_cmds : (s.objWritten tk n off bs w as).cmds = s.cmds := by
  unfold State.objWritten
  dsimp only
  split <;> rfl

theorem objWritten_mem : (s.objWritten tk n off bs w as).mem = s.mem := by
  unfold State.objWritten
  dsimp only
  split <;> rfl

/-- What a write of an object leaves of a team, as a test of the team shows. -/
theorem objWritten_keeps {α : Type} (φ : Team → α) (hobjs : ∀ t l, φ { t with objs := l } = φ t) (hdirty : ∀ t, φ t.dirtied = φ t)
    (tk' : Nat) : (look (s.objWritten tk n off bs w as).teams tk').map φ = (look s.teams tk').map φ := by
  have hput : (look (s.updObj tk n (fun o => { o with data := putBytes off bs o.data })).teams tk').map φ = (look s.teams tk').map φ :=
    look_updObj_keeps φ hobjs s tk n _ tk'
  unfold State.objWritten
  dsimp only
  split
  · exact hput
  · exact (look_updTeam_keeps φ _ w hdirty tk').trans hput

theorem objWritten_objAt : (s.objWritten tk n off bs w as).objAt tk n = (s.objAt tk n).map (fun o => { o with data := putBytes off bs o.data }) := by
  have hlate (s : State) : (s.overLate (some (tk, n)) as).objAt tk n = s.objAt tk n := rfl
  unfold State.objWritten
  dsimp only
  split
  · rw [hlate, objAt_updObj]
  · rw [objAt_updTeam (f := Team.dirtied) _ _ fun _ => rfl, hlate, objAt_updObj]

/-- A team that has written a byte has a direct write to commit. -/
theorem objWritten_dirw (has : as ≠ []) {m : Team} (hm : look s.teams w = some m) :
    (look (s.objWritten tk n off bs w as).teams w).map (fun t => t.ver.dirw) = some true := by
  have hstands := look_updObj_keeps (fun _ => true) (fun _ _ => rfl) s tk n (fun o => { o with data := putBytes off bs o.data }) w
  rw [hm] at hstands
  unfold State.objWritten
  rw [if_neg has, updTeam_look, Option.map_map]
  exact hstands

end

/-- A command whose last access is a write of an object of its team leaves, with the object written. -/
theorem objWritten_ends {s : State} {k : Command} {id n off : Nat} {o : Obj} {x : Token} (hk : s.cmd id = some k)
    (ho : s.objAt k.team n = some o) (bs : List (Nat × Byte)) (w : Nat) (as : List Nat) :
    k.Gone s (leaveCmd (uncount ((s.resumed id).objWritten k.team n off bs w as) k) k x) x ∧
      ∃ t' o2, look (leaveCmd (uncount ((s.resumed id).objWritten k.team n off bs w as) k) k x).teams k.team = some t' ∧ t'.obj n = some o2 ∧
        o2.bytes = o.bytes ∧ o2.data = putBytes off bs o.data := by
  have hw : ((s.resumed id).objWritten k.team n off bs w as).objAt k.team n = some { o with data := putBytes off bs o.data } := by
    rw [objWritten_objAt, show (s.resumed id).objAt k.team n = some o from ho, Option.map_some]
  obtain ⟨t, ht, -⟩ := objAt_eq_some.mp hw
  refine ⟨ends_gone x (fun y hy hn => ?_) (by rw [ht]; rfl), ?_⟩
  · rw [objWritten_cmds]
    exact mem_updCmd _ hy (cmd_id hk ▸ hn)
  · obtain ⟨t', o2, ht', ho2, he⟩ := ends_objAt hw
    exact ⟨t', o2, ht', ho2, (congrArg Obj.bytes he :), (congrArg Obj.data he :)⟩

/-! #### The clauses of the statement: starts and accesses -/

/-- What reads a run of bytes of an object. -/
theorem readEnd_obj {s : State} {k : Command} {a i : Nat} {o : Obj} (ho : s.objAt k.team a = some o) (mask : Bool) (offs : List (Nat × Nat)) :
    readEnd s k (.obj a i) mask offs = .ok s (offs.map (fun x => Mem.read o.data (i + x.2))) := by
  have h : (look s.teams k.team).bind (fun t => t.obj a) = some o := ho
  simp only [readEnd, h]

/-- The pieces of a flat run of bytes, with a byte for each. -/
theorem flat_pieces (n : Nat) (f : Nat → Byte) :
    ((pairsOf none n).map (·.2)).zip ((sourceOf (pairsOf none n)).map (fun x => f x.2)) = (List.range n).map (fun j => (j, f j)) := by
  simp only [pairsOf, sourceOf, List.map_map]
  rw [List.zip_map']
  rfl

/-- A run of bytes put into an object's data, from its start and outside it (R256). -/
theorem putBytes_run (off n : Nat) (f : Nat → Byte) (m : Bytes) :
    (∀ x, x < n → Mem.read (putBytes off ((List.range n).map (fun j => (j, f j))) m) (off + x) = f x) ∧
      ∀ x, x < off ∨ off + n ≤ x → Mem.read (putBytes off ((List.range n).map (fun j => (j, f j))) m) x = Mem.read m x := by
  refine ⟨fun x hx => ?_, fun x hx => ?_⟩
  · rw [read_putBytes_run, if_pos (by omega), Nat.add_sub_cancel_left]
  · rw [read_putBytes_run, if_neg (by omega)]

/-- A copy between objects of the team (R256, R261). -/
theorem copy_obj_obj {s : State} {k : Command} {id a b i j n : Nat} {o o' : Obj} (hk : s.cmd id = some k)
    (hs : k.matrix = false ∧ k.phase = .started) (hr : runnable s k = true) (hring : k.ring = none)
    (hj : k.job = .copy (.obj a i) (.obj b j) none n) (ha : s.objAt k.team a = some o)
    (hb : s.objAt k.team b = some o') :
    ∃ s' t' o2, exec (.engineCommandCompletion id) s = .next s' ∧ k.Gone s s' .complete ∧ s'.mem = s.mem ∧
      look s'.teams k.team = some t' ∧ t'.obj b = some o2 ∧ o2.bytes = o'.bytes ∧
      (∀ x, x < n → Mem.read o2.data (j + x) = Mem.read o.data (i + x)) ∧
      (∀ x, x < j ∨ j + n ≤ x → Mem.read o2.data x = Mem.read o'.data x) := by
  obtain ⟨hg, t', o2, ht', ho2, hbytes, hdata⟩ := objWritten_ends (x := .complete) (off := j) hk hb
    ((List.range n).map (fun x => (x, Mem.read o.data (i + x)))) _ _
  have hcopy := runCopy_ok hj hring (readEnd_obj (s := s.resumed id) ha false _) (writeEnd_obj (s.resumed id) k b j _)
  rw [flat_pieces n (fun x => Mem.read o.data (i + x))] at hcopy
  obtain ⟨hin, hout⟩ := putBytes_run j n (fun x => Mem.read o.data (i + x)) o'.data
  refine ⟨_, t', o2, (engineCommandCompletion_plain hk hs hr (by rw [hj]; rfl)).trans (congrArg _ hcopy), hg, ?_, ht', ho2, hbytes, ?_, ?_⟩
  · rw [leaveCmd_mem, uncount_mem, objWritten_mem]; rfl
  · rw [hdata]; exact hin
  · rw [hdata]; exact hout

/-- A zeroing of an object of the team (R260). -/
theorem zero_obj {s : State} {k : Command} {id b j n : Nat} {o' : Obj} (hk : s.cmd id = some k) (hs : k.matrix = false ∧ k.phase = .started)
    (hr : runnable s k = true) (hring : k.ring = none) (hj : k.job = .zero (.obj b j) n) (hb : s.objAt k.team b = some o') :
    ∃ s' t' o2, exec (.engineCommandCompletion id) s = .next s' ∧ k.Gone s s' .complete ∧
      look s'.teams k.team = some t' ∧ t'.obj b = some o2 ∧ (∀ x, x < n → Mem.read o2.data (j + x) = 0) ∧
      ∀ x, x < j ∨ j + n ≤ x → Mem.read o2.data x = Mem.read o'.data x := by
  obtain ⟨hg, t', o2, ht', ho2, -, hdata⟩ := objWritten_ends (x := .complete) (off := j) hk hb ((List.range n).map (fun x => (x, 0))) _ _
  have hzero := runCopy_zero hj hring (writeEnd_obj (s.resumed id) k b j _)
  refine ⟨_, t', o2, (engineCommandCompletion_plain hk hs hr (by rw [hj]; rfl)).trans (congrArg _ hzero), hg, ht', ho2, ?_⟩
  rw [hdata]
  exact putBytes_run j n (fun _ => 0) o'.data

/-! #### Landings (R155) -/

theorem linkParts_eq_false {s : State} {a b : Nat} (h : a = b ∨ (s.link a b).retraining = false) : linkParts s a b = false := by
  rcases h with rfl | h
  · simp [linkParts]
  · simp [linkParts, h]

/-- A landing that its target takes is counted in PENDW. -/
theorem landFirst_accepts {s : State} {k : Command} {tk ob off : Nat} {t : Team} {ps : List (Nat × Nat)} {o : Obj} (bs : List Byte)
    (ho : t.obj ob = some o) (hkind : o.kind = .buffer) (hland : o.land = true) (hst : o.st = .filling) (hdoom : t.doom = none)
    (hin : ∀ p ∈ ps, off + p.2 < o.bytes) :
    landFirst s k tk ob off t ps bs =
      (s.updObj tk ob (fun o => { o with pendw := o.pendw + 1 })).updCmd k.id (fun k => { k with phase := .arriving tk ob bs }) := by
  have hany : ps.any (fun p => decide (o.bytes ≤ off + p.2)) = false := by simpa using hin
  simp [landFirst, ho, hkind, hland, hst, hdoom, hany]

section
variable {s : State} {k : Command} {id n index vcore ob off tk : Nat} {src : End} {sh : Option (List Word)} {pc : Word}
  {bs : List Byte} {snd t : Team}

/-- The first byte of a landing that nothing holds arrives. -/
theorem xsendLanding_first {sent : Nat} (hk : s.cmd id = some k) (hp : k.phase = .landing bs sent) (hj : k.job = .send src sh n index vcore ob off pc)
    (hsnd : look s.teams k.team = some snd) (hsaved : snd.saved = false) (hphys : physCore s snd.ctx vcore ≠ none)
    (hbehind : landBehind s snd vcore sent = false)
    (hfind : s.teams.find? (fun e => e.2.launchKey = snd.launchKey && e.2.index = index && e.2.seat.vcore = vcore) = some (tk, t))
    (ht : t.saved = false) (hlink : linkParts s (dieOf t.seat.core) (dieOf snd.seat.core) = false) :
    exec (.xsendLanding id) s = .next (landFirst s k tk ob off t (pairsOf sh n) bs) := by
  have hx : exec (.xsendLanding id) s = execXsendLanding id s := rfl
  have hphys' : (physCore s snd.ctx vcore).isNone = false := by simpa using Option.isSome_iff_ne_none.mpr hphys
  simp only [hx, execXsendLanding, hk, hp, hj, hsnd, hsaved, hphys', hbehind, hfind, ht, hlink, Bool.or_self, Bool.false_eq_true, if_false]

/-- The last byte of a landing that nothing holds arrives. -/
theorem xsendLanding_last {n' : Nat} (hk : s.cmd id = some k) (hp : k.phase = .arriving tk n' bs) (hj : k.job = .send src sh n index vcore ob off pc)
    (hsnd : look s.teams k.team = some snd) (hsaved : snd.saved = false) (hl : look s.teams tk = some t) (ht : t.saved = false)
    (hlink : linkParts s (dieOf t.seat.core) (dieOf snd.seat.core) = false) :
    exec (.xsendLanding id) s = .next (landLast s k tk ob off pc snd.seat.vcore (pairsOf sh n) bs) := by
  have hx : exec (.xsendLanding id) s = execXsendLanding id s := rfl
  simp only [hx, execXsendLanding, hk, hp, hj, hsnd, hsaved, hl, ht, hlink, Bool.or_self, Bool.false_eq_true, if_false]

end

/-- The start of an arrival word. -/
def State.arrivalStarted (s : State) (tk : Nat) (pc : Word) (start : Nat × Nat × Nat) : State :=
  if pc = 0xFFFFFFFF then s else s.updTeam tk (fun t => addStart t pc start)

/-- The state in which a landing's command leaves: the bytes written, the arrival started, and PENDW one less. -/
def landedState (s : State) (k : Command) (tk ob off : Nat) (pc : Word) (vcore : Nat) (ps : List (Nat × Nat)) (bs : List Byte) : State :=
  ((s.objWritten tk ob off ((ps.map (·.2)).zip bs) k.team (ps.map (fun p => off + p.2))).arrivalStarted tk pc (ob, ps.length, vcore)).updObj
    tk ob (fun o => { o with pendw := o.pendw - 1 })

/-- A landing whose last byte arrives writes the target's buffer, starts the arrival, and leaves (R155, R248). -/
theorem landLast_bare {s : State} {k : Command} {tk ob : Nat} {bs' : List Byte} (hring : k.ring = none) (hp : k.phase = .arriving tk ob bs')
    (hdst : k.job.dst = none) (off : Nat) (pc : Word) (vcore : Nat) (ps : List (Nat × Nat)) (bs : List Byte) :
    landLast s k tk ob off pc vcore ps bs =
      leaveCmd (landedState s k tk ob off pc vcore ps bs) k .complete := by
  have huncount (s : State) : uncount s k = s.updObj tk ob (fun o => { o with pendw := o.pendw - 1 }) := by
    simp only [uncount, Command.reading, Command.writing, landDone, writeDone, countObj, hp, hdst, if_true, Bool.false_eq_true, if_false]
  simp only [landedState, ← huncount, State.objWritten, State.arrivalStarted, List.map_eq_nil_iff]
  exact endCmd_bare _ hring 0 0 0 ps.length

/-- A start changes nothing of a team but its slots and its count of misses. -/
theorem addStart_keeps {α : Type} (φ : Team → α) (h : ∀ t a m, φ { t with arrivals := a, arrmiss := m } = φ t) (t : Team) (pc : Word)
    (start : Nat × Nat × Nat) : φ (addStart t pc start) = φ t := by
  unfold addStart
  split
  · exact h t _ t.arrmiss
  · exact h t t.arrivals _

/-- The slots and the count of misses of a team. -/
def Team.slots (t : Team) : Sparse ArrSlot × Nat := (t.arrivals, t.arrmiss)

/-- A start reads nothing of a team but its slots and its count of misses. -/
theorem addStart_slots {t t' : Team} (h : t'.slots = t.slots) (pc : Word) (start : Nat × Nat × Nat) :
    (addStart t' pc start).slots = (addStart t pc start).slots := by
  obtain ⟨ha, hm⟩ := Prod.mk.inj h
  unfold addStart
  rw [ha, hm]
  split <;> rfl

/-- A slot that is armed for a PC and not full. -/
def ArrSlot.takes (pc : Word) (a : ArrSlot) : Bool :=
  match a.armed with
  | some x => x.1 = pc && decide (a.starts.length < 255)
  | none => false

theorem takes_of_armed {a : ArrSlot} {pc : Word} {role : Nat} (harm : a.armed = some (pc, role)) (hlen : a.starts.length < 255) :
    a.takes pc = true := by
  simp [ArrSlot.takes, harm, hlen]

theorem takes_eq_false {a : ArrSlot} {pc : Word} (h : ∀ role, a.armed ≠ some (pc, role)) : a.takes pc = false := by
  unfold ArrSlot.takes
  split
  · next x harm =>
    have hne : x.1 ≠ pc := fun e => h x.2 (by rw [harm, ← e])
    simp [hne]
  · rfl

/-- The slot that a start goes into. -/
def Team.slotFor (t : Team) (pc : Word) : Option Nat := (List.range 4).find? (fun n => (get ArrSlot.zero t.arrivals n).takes pc)

theorem addStart_some {t : Team} {pc : Word} {n : Nat} (start : Nat × Nat × Nat) (h : t.slotFor pc = some n) :
    (addStart t pc start).arrivals = upd t.arrivals n (fun a => { a with starts := a.starts ++ [start] }) := by
  unfold addStart
  split
  · next m hm =>
    obtain rfl : n = m := Option.some.inj (h.symm.trans hm)
    rfl
  · next hm => cases h.symm.trans hm

theorem addStart_none {t : Team} {pc : Word} (start : Nat × Nat × Nat) (h : t.slotFor pc = none) :
    (addStart t pc start).arrmiss = min (t.arrmiss + 1) 65535 := by
  unfold addStart
  split
  · next hm => cases h.symm.trans hm
  · rfl

/-- Slot 0, armed for the PC and not full, takes the start. -/
theorem addStart_slot0 {t : Team} {pc : Word} {a : ArrSlot} {role : Nat} (start : Nat × Nat × Nat) (h : look t.arrivals 0 = some a)
    (harm : a.armed = some (pc, role)) (hlen : a.starts.length < 255) :
    look (addStart t pc start).arrivals 0 = some { a with starts := a.starts ++ [start] } := by
  have hslot : t.slotFor pc = some 0 := by
    refine List.find?_cons_of_pos (l := [1, 2, 3]) ?_
    rw [get, h]
    exact takes_of_armed harm hlen
  rw [addStart_some start hslot, look_upd_same, h, Option.map_some]

/-- Where no slot is armed for the PC, the start is counted as missed. -/
theorem addStart_miss {t : Team} {pc : Word} (start : Nat × Nat × Nat)
    (h : ∀ q, q < 4 → ∀ role, (get ArrSlot.zero t.arrivals q).armed ≠ some (pc, role)) :
    (addStart t pc start).arrmiss = min (t.arrmiss + 1) 65535 :=
  addStart_none start (List.find?_eq_none.mpr fun q hq => by rw [takes_eq_false (h q (List.mem_range.mp hq))]; exact Bool.false_ne_true)

/-- Objects stand through the start of an arrival. -/
theorem arrivalStarted_objAt (s : State) (tk : Nat) (pc : Word) (start : Nat × Nat × Nat) (tk' n : Nat) :
    (s.arrivalStarted tk pc start).objAt tk' n = s.objAt tk' n := by
  unfold State.arrivalStarted
  split
  · rfl
  · exact objAt_updTeam s tk (addStart_keeps Team.objs (fun _ _ _ => rfl) · pc start) tk' n

theorem arrivalStarted_cmds (s : State) (tk : Nat) (pc : Word) (start : Nat × Nat × Nat) : (s.arrivalStarted tk pc start).cmds = s.cmds := by
  unfold State.arrivalStarted
  split <;> rfl

/-- What the start of an arrival leaves of a team. -/
theorem arrivalStarted_keeps {α : Type} (φ : Team → α) (h : ∀ t a m, φ { t with arrivals := a, arrmiss := m } = φ t) (s : State)
    (tk : Nat) (pc : Word) (start : Nat × Nat × Nat) (tk' : Nat) : (look (s.arrivalStarted tk pc start).teams tk').map φ = (look s.teams tk').map φ := by
  unfold State.arrivalStarted
  split
  · rfl
  · exact look_updTeam_keeps φ s tk (addStart_keeps φ h · pc start) tk'

/-- A team's slots once an arrival has started. -/
def Team.slotsStarted (t : Team) (pc : Word) (start : Nat × Nat × Nat) : Sparse ArrSlot × Nat :=
  if pc = 0xFFFFFFFF then t.slots else (addStart t pc start).slots

theorem arrivalStarted_slots {s : State} {tk : Nat} {t : Team} (hl : (look s.teams tk).map Team.slots = some t.slots) (pc : Word)
    (start : Nat × Nat × Nat) : (look (s.arrivalStarted tk pc start).teams tk).map Team.slots = some (t.slotsStarted pc start) := by
  obtain ⟨t', ht', hs⟩ := Option.map_eq_some_iff.mp hl
  unfold State.arrivalStarted Team.slotsStarted
  split
  · exact hl
  · rw [updTeam_look, ht']
    exact congrArg some (addStart_slots hs pc start)

section
variable {s : State} {k : Command} {tk ob off vcore : Nat} {pc : Word} {ps : List (Nat × Nat)} {bs : List Byte} {t snd : Team}

theorem landedState_cmds : (landedState s k tk ob off pc vcore ps bs).cmds = s.cmds := by
  rw [landedState, State.updObj, State.updTeam, arrivalStarted_cmds, objWritten_cmds]

theorem landedState_keeps {α : Type} (φ : Team → α) (hobjs : ∀ t l, φ { t with objs := l } = φ t)
    (harr : ∀ t a m, φ { t with arrivals := a, arrmiss := m } = φ t) (tk' : Nat) :
    (look (landedState s k tk ob off pc vcore ps bs).teams tk').map φ =
      (look (s.objWritten tk ob off ((ps.map (·.2)).zip bs) k.team (ps.map (fun p => off + p.2))).teams tk').map φ := by
  rw [landedState, look_updObj_keeps φ hobjs, arrivalStarted_keeps φ harr]

theorem landedState_team (hsnd : look s.teams k.team = some snd) : (look (landedState s k tk ob off pc vcore ps bs).teams k.team).isSome := by
  have h := landedState_keeps (s := s) (k := k) (tk := tk) (ob := ob) (off := off) (pc := pc) (vcore := vcore) (ps := ps) (bs := bs)
    (fun _ => ()) (fun _ _ => rfl) (fun _ _ _ => rfl) k.team
  rw [objWritten_keeps _ _ _ _ _ _ _ (fun _ => ()) (fun _ _ => rfl) (fun _ => rfl), hsnd] at h
  rw [← Option.isSome_map (f := fun _ => ()), h]
  rfl

theorem landedState_dirw (hps : ps ≠ []) (hsnd : look s.teams k.team = some snd) :
    (look (landedState s k tk ob off pc vcore ps bs).teams k.team).map (fun t => t.ver.dirw) = some true := by
  rw [landedState_keeps _ (fun _ _ => rfl) (fun _ _ _ => rfl)]
  exact objWritten_dirw _ _ _ _ _ _ _ (by simpa using hps) hsnd

theorem landedState_objAt {o : Obj} (ho : s.objAt tk ob = some o) : (landedState s k tk ob off pc vcore ps bs).objAt tk ob =
    some { o with data := putBytes off ((ps.map (·.2)).zip bs) o.data, pendw := o.pendw - 1 } := by
  rw [landedState, objAt_updObj, arrivalStarted_objAt, objWritten_objAt, ho]
  rfl

theorem landedState_slots (ht : look s.teams tk = some t) :
    (look (landedState s k tk ob off pc vcore ps bs).teams tk).map Team.slots = some (t.slotsStarted pc (ob, ps.length, vcore)) := by
  rw [landedState, look_updObj_keeps Team.slots fun _ _ => rfl]
  refine arrivalStarted_slots ?_ pc _
  rw [objWritten_keeps _ _ _ _ _ _ _ Team.slots (fun _ _ => rfl) (fun _ => rfl), ht, Option.map_some]

end

/-- A landing that its target takes: one more in PENDW, and it arrives. -/
theorem landing_accepted {s : State} {k : Command} {id tk ob : Nat} {t : Team} {o : Obj} {bs : List Byte} (hk : s.cmd id = some k)
    (hl : look s.teams tk = some t) (ho : t.obj ob = some o) :
    let s' := (s.updObj tk ob (fun o => { o with pendw := o.pendw + 1 })).updCmd k.id (fun k => { k with phase := .arriving tk ob bs })
    ∃ t' o2 k', look s'.teams tk = some t' ∧ t'.obj ob = some o2 ∧ o2 = { o with pendw := o.pendw + 1 } ∧ s'.cmd id = some k' ∧
      k' = { k with phase := .arriving tk ob bs } ∧ s'.mem = s.mem := by
  intro s'
  have hobj : s'.objAt tk ob = some { o with pendw := o.pendw + 1 } := by
    have h := objAt_updObj s tk ob (fun o => { o with pendw := o.pendw + 1 })
    rwa [objAt_of_look hl, ho] at h
  obtain ⟨t', ht', ho'⟩ := objAt_eq_some.mp hobj
  have hcmd := cmd_updCmd (s.updObj tk ob (fun o => { o with pendw := o.pendw + 1 })) k.id (f := fun k => { k with phase := .arriving tk ob bs })
    (fun _ => rfl)
  rw [show (s.updObj tk ob (fun o => { o with pendw := o.pendw + 1 })).cmd k.id = some k from (cmd_id hk).symm ▸ hk] at hcmd
  exact ⟨t', _, _, ht', ho', rfl, cmd_id hk ▸ hcmd, rfl, rfl⟩

/-- A landing whose last byte arrives: the target's buffer, its slots, and the sender's direct write (R155). -/
theorem landing_landed {s : State} {k : Command} {tk ob : Nat} {t snd : Team} {o : Obj} (hsnd : look s.teams k.team = some snd)
    (hl : look s.teams tk = some t) (ho : t.obj ob = some o) (off : Nat) (pc : Word) (vcore : Nat) (ps : List (Nat × Nat)) (bs : List Byte) :
    let s' := leaveCmd (landedState s k tk ob off pc vcore ps bs) k .complete
    k.Gone s s' .complete ∧ ∃ t' o2, look s'.teams tk = some t' ∧ t'.obj ob = some o2 ∧ o2.pendw = o.pendw - 1 ∧
      o2.data = putBytes off ((ps.map (·.2)).zip bs) o.data ∧ t'.slots = t.slotsStarted pc (ob, ps.length, vcore) ∧
      (ps ≠ [] → ∃ m, look s'.teams k.team = some m ∧ m.ver.dirw = true) := by
  intro s'
  obtain ⟨m, hm⟩ := Option.isSome_iff_exists.mp (landedState_team hsnd (s := s) (tk := tk) (ob := ob) (off := off) (pc := pc) (vcore := vcore)
    (ps := ps) (bs := bs))
  have hobj : s'.objAt tk ob = _ := (leaveCmd_objAt _ k _ tk ob).trans (landedState_objAt ((objAt_of_look hl ob).trans ho))
  obtain ⟨t', ht', ho'⟩ := objAt_eq_some.mp hobj
  refine ⟨leaveCmd_gone _ (fun y hy _ => by rw [landedState_cmds]; exact hy) hm, t', _, ht', ho', rfl, rfl, ?_, fun hps => ?_⟩
  · have h := (leaveCmd_keeps Team.slots (fun _ _ _ => rfl) _ k .complete tk).trans (landedState_slots (k := k) (off := off) (pc := pc) (ob := ob)
      (vcore := vcore) (ps := ps) (bs := bs) hl)
    rw [show look (leaveCmd (landedState s k tk ob off pc vcore ps bs) k .complete).teams tk = some t' from ht'] at h
    exact Option.some.inj h
  · exact Option.map_eq_some_iff.mp ((leaveCmd_keeps (fun t => t.ver.dirw) (fun _ _ _ => rfl) _ k .complete k.team).trans
      (landedState_dirw hps hsnd))

/-! #### Collectives (R262) -/

theorem mem_insertBy {α : Type} (f : α → Nat) (x y : α) (l : List α) : y ∈ insertBy f x l ↔ y = x ∨ y ∈ l := by
  induction l with
  | nil => simp [insertBy]
  | cons z r ih =>
    unfold insertBy
    split
    · rw [List.mem_cons]
    · rw [List.mem_cons, ih, List.mem_cons, or_left_comm]

theorem mem_sortBy {α : Type} (f : α → Nat) (y : α) (l : List α) : y ∈ sortBy f l ↔ y ∈ l := by
  have h (l acc : List α) : y ∈ l.foldl (fun acc x => insertBy f x acc) acc ↔ y ∈ acc ∨ y ∈ l := by
    induction l generalizing acc with
    | nil => simp
    | cons x r ih => rw [List.foldl_cons, ih, mem_insertBy, List.mem_cons]; tauto
  exact (h l []).trans (by simp)

/-- Each command that a list names takes the phase. -/
theorem foldl_updCmd_phase {α : Type} (f : α → Nat) (p : Phase) (l : List α) (s : State) :
    l.foldl (fun s x => s.updCmd (f x) (fun k => { k with phase := p })) s =
      { s with cmds := s.cmds.map (fun k => if k.id ∈ l.map f then { k with phase := p } else k) } := by
  induction l generalizing s with
  | nil => simp
  | cons x r ih =>
    rw [List.foldl_cons, ih, State.updCmd]
    congr 1
    rw [List.map_map]
    refine List.map_congr_left fun k _ => ?_
    by_cases hx : k.id = f x
    · by_cases hr : f x ∈ r.map f <;> simp [hx, hr]
    · simp [hx]

/-- The state once a collective has its result. -/
def collDone (s : State) (i : Nat) (x : Coll) (r : List Byte) : State :=
  { s with colls := del s.colls i,
           cmds := s.cmds.map (fun k => if k.id ∈ x.byIndex.map (fun p => p.2.1) then { k with phase := .result r } else k) }

/-- A collective with all its participants that is no .bcast has its result from their sources. -/
theorem collectiveCompletion_done {s : State} {i : Nat} {x : Coll} (hx : look s.colls i = some x) (hn : x.shape.2.2.2 ≤ x.parts.length)
    (hop : x.shape.1 ≠ 2) (hp : x.parted s = false) :
    exec (.collectiveCompletion i) s =
      .next (collDone s i x (collResult x.shape.1 x.shape.2.1 x.shape.2.2.1 (x.byIndex.map (fun p => p.2.2.getD [])))) := by
  have he : exec (.collectiveCompletion i) s = execCollectiveCompletion i s := rfl
  simp only [he, execCollectiveCompletion, hx, hp, not_lt.mpr hn, decide_false, Bool.or_self, Bool.false_eq_true, if_false]
  split
  · next h _ => exact absurd h hop
  · exact congrArg _ (foldl_updCmd_phase _ _ _ _)

/-- The command of each participant gets the result. -/
theorem collDone_phase {s : State} {i : Nat} {x : Coll} {r : List Byte} {k : Command} (hk : k ∈ (collDone s i x r).cmds)
    (hid : k.id ∈ x.parts.map (fun p => p.2.1)) : k.phase = .result r := by
  have hid' : k.id ∈ x.byIndex.map (fun p => p.2.1) := by simpa only [List.mem_map, Coll.byIndex, mem_sortBy] using hid
  obtain ⟨y, -, rfl⟩ := List.mem_map.mp hk
  by_cases hy : y.id ∈ x.byIndex.map (fun p => p.2.1)
  · rw [if_pos hy]
  · rw [if_neg hy] at hid'
    exact absurd hid' hy

end Sys2Proof.Machine

namespace Sys2Proof.Proofs

open Sys2Proof Sys2Proof.Machine

/-- Settles O56: an access of a command whose endpoint is an object always succeeds, so copies and zeroings end with the bytes put; a landing
that arrives and a collective that completes change their team, object and commands as `landedState` and `collDone` say. -/
theorem engineCommandsStartRunAndComplete : Obligations.EngineCommandsStartRunAndComplete := by
  unfold Obligations.EngineCommandsStartRunAndComplete
  intro noBeam started gone
  refine ⟨?start, ?copy, ?zero, ?access, ?gather, ?landing, ?arriving, ?coll⟩
  case start =>
    intro s k id hk hm hb hs
    have hbeam := isBeam_eq_false hb
    refine ⟨engineCommandStart_starts hk hm hbeam hs, fun c va hu hring => ⟨_, engineCommandStart_errs hk hm hbeam hs hu, ?_⟩⟩
    rw [endCmd_bare _ hring, if_neg one_ne_zero]
    exact ends_gone _ (fun y hy _ => hy) (startable_team hs)
  case copy =>
    intro s k id t a b i j n o o' hk hs hr hring ht hj ha hb
    exact copy_obj_obj hk hs hr hring hj ((objAt_of_look ht a).trans ha) ((objAt_of_look ht b).trans hb)
  case zero =>
    intro s k id t b j n o' hk hs hr hring ht hj hb
    exact zero_obj hk hs hr hring hj ((objAt_of_look ht b).trans hb)
  case access =>
    intro s k id src dst sh n hk hs hr hring hj s1 ps
    have hx := engineCommandCompletion_plain hk hs hr (by rw [hj]; rfl)
    refine ⟨fun s2 bs s3 x hrd hwr => ?_, fun s2 st hrd => ?_, fun s2 c va hrd => ?_⟩
    · exact hx.trans (congrArg _ (runCopy_ok hj hring hrd hwr))
    · exact hx.trans (congrArg _ ((runCopy_halt hj hrd).trans (by rw [cmd_id hk])))
    · exact hx.trans (congrArg _ (runCopy_err hj hs.2 hring hrd))
  case gather =>
    intro s k id src dst size lanes s2 bs s3 x hk hs hr hring hj pieces hrd hwr
    have hplaces : (pieces (fun e j => (e.1 * size + j, 0))).map (·.1) =
        lanes.flatMap (fun e => (List.range size).map (fun j => e.1 * size + j)) := by
      simp only [pieces, List.map_flatMap, List.map_map]
      rfl
    rw [hplaces] at hwr
    exact (engineCommandCompletion_plain hk hs hr (by rw [hj]; rfl)).trans (congrArg _ (runCopy_gather hj hring hrd hwr))
  case landing =>
    intro s k id src sh n index vcore ob off pc bs sent snd tk t o hk hp hj hsnd hsaved hphys hbehind hfind hl ht hdoom hlink ho hkind hland hst hin
    obtain ⟨t', o2, k', h⟩ := landing_accepted (bs := bs) hk hl ho
    refine ⟨_, t', o2, k', ?_, h⟩
    rw [xsendLanding_first hk hp hj hsnd hsaved hphys hbehind hfind ht (linkParts_eq_false hlink),
      landFirst_accepts bs ho hkind hland hst hdoom hin]
  case arriving =>
    intro s k id src sh n index vcore ob off pc bs snd tk t o hk hp hj hsnd hsaved hring hl ht hlink ho
    obtain ⟨hgone, t', o2, ht', ho2, hpendw, hdata, hslots, hdirw⟩ := landing_landed hsnd hl ho off pc snd.seat.vcore (pairsOf sh n) bs
    refine ⟨_, t', o2, ?_, hgone, ht', ho2, hpendw, hdirw, fun x => ?_, fun hpc => ?_, fun a role hpc ha harm hlen => ?_, fun hpc hno => ?_⟩
    · rw [xsendLanding_last hk hp hj hsnd hsaved hl ht (linkParts_eq_false hlink), landLast_bare hring hp (by rw [hj]; rfl)]
    · rw [hdata, read_putBytes]
    · rw [Team.slotsStarted, if_pos hpc] at hslots
      exact Prod.mk.inj hslots
    · rw [Team.slotsStarted, if_neg hpc] at hslots
      rw [show t'.arrivals = _ from congrArg Prod.fst hslots]
      exact addStart_slot0 _ ha harm hlen
    · rw [Team.slotsStarted, if_neg hpc] at hslots
      exact (congrArg Prod.snd hslots :).trans (addStart_miss _ hno)
  case coll =>
    intro s i x hx hn hop hp srcs
    refine ⟨_, _, collectiveCompletion_done hx hn hop hp, rfl, look_del_same _ _, fun h3 => ?_, fun _ => rfl,
      fun k hk hid => collDone_phase hk hid⟩
    rw [h3]
    exact List.flatMap_id

end Sys2Proof.Proofs

/-! ### The packets of contexts, springs and streams (O45) -/

namespace Sys2Proof.Machine

/-! #### The queues stand through what the packets do -/

theorem queue_of_queues {s s' : State} (h : s'.queues = s.queues) (q : Nat) : s'.queue q = s.queue q := by
  simp only [State.queue, h]

theorem foldl_queues {α : Type} {f : State → α → State} (h : ∀ s x, (f s x).queues = s.queues) (l : List α) (s : State) :
    (l.foldl f s).queues = s.queues := foldl_keeps State.queues h l s

theorem putEntry_queues (s : State) (x : Spring) (b e : Nat) : (putEntry s x b e).queues = s.queues := rfl

theorem freeTags_queues (s : State) (x : Spring) : (freeTags s x).queues = s.queues :=
  foldl_queues (fun s e => by split <;> rfl) _ _

theorem countObj_queues (s : State) (tk : Nat) (n : Option Nat) (f : Obj → Obj) : (countObj s tk n f).queues = s.queues := by
  cases n <;> rfl

theorem countIn_queues (s : State) (k : Command) : (countIn s k).queues = s.queues := by
  simp only [countIn, countObj_queues]

theorem restoreTeam_queues (s : State) (e : Nat × Team) : (restoreTeam s e).queues = s.queues := by
  simp only [restoreTeam]
  split <;> rfl

theorem acceptAgain_queues (s : State) (tks : List Nat) : (acceptAgain s tks).queues = s.queues :=
  foldl_queues countIn_queues _ _

theorem resumeContext_queues (s : State) (n : Nat) : (resumeContext s n).queues = s.queues :=
  (acceptAgain_queues _ _).trans (foldl_queues restoreTeam_queues _ _)

theorem applyMillrace_queues (s : State) (x : PStream) (add : Bool) : (applyMillrace s x add).queues = s.queues := by
  unfold applyMillrace
  exact foldl_queues (fun _ _ => setVault_queues ..) _ _

theorem putFstat_queues (s : State) (n : Nat) : (s.putFstat n).queues = s.queues := by
  unfold State.putFstat
  split <;> rfl

/-- A stream that is opened leaves the queues. -/
theorem openStream_queues {s s' : State} {part : Nat} {desc : BitVec 1024} (h : openStream s part desc = .ok s') : s'.queues = s.queues := by
  simp only [openStream] at h
  repeat' split at h
  all_goals cases h
  rw [putFstat_queues, poke_queues, applyMillrace_queues]

/-! #### A launch id that nothing of its context uses (R308) -/

theorem nextLid_lt (used : List Nat) (n : Nat) {x : Nat} (hx : x < 65536) : nextLid used n x < 65536 := by
  induction n generalizing x with
  | zero => exact hx
  | succ n ih =>
    simp only [nextLid]
    split
    · exact ih (Nat.mod_lt _ (by decide))
    · exact hx

/-- The search ends at a used id only where it has met used ids alone. -/
theorem used_of_nextLid {used : List Nat} {n x : Nat} (hx : x < 65536) (h : nextLid used n x ∈ used) :
    ∀ i, i ≤ n → (x + i) % 65536 ∈ used := by
  induction n generalizing x with
  | zero =>
    intro i hi
    rw [Nat.le_zero.mp hi, Nat.add_zero, Nat.mod_eq_of_lt hx]
    exact h
  | succ n ih =>
    simp only [nextLid, List.contains_iff_mem] at h
    split at h
    next hu =>
      rintro (_ | i) hi
      · rwa [Nat.add_zero, Nat.mod_eq_of_lt hx]
      · have := ih (Nat.mod_lt _ (by decide)) h i (Nat.le_of_succ_le_succ hi)
        rwa [Nat.mod_add_mod, Nat.add_assoc, Nat.add_comm 1] at this
    next hu => exact absurd h hu

/-- Among more ids than are used the search finds one that is not. -/
theorem nextLid_unused {used : List Nat} {x : Nat} (hx : x < 65536) (hl : used.length < 65535) : nextLid used used.length x ∉ used := by
  intro h
  have hmet := used_of_nextLid hx h
  have hnd : ((List.range (used.length + 1)).map (fun i => (x + i) % 65536)).Nodup :=
    List.nodup_range.map_on fun i hi j hj hij => by
      simp only [List.mem_range] at hi hj
      omega
  have hsub : (List.range (used.length + 1)).map (fun i => (x + i) % 65536) ⊆ used := by
    intro y hy
    obtain ⟨i, hi, rfl⟩ := List.mem_map.mp hy
    exact hmet i (Nat.le_of_lt_succ (List.mem_range.mp hi))
  have := (hnd.subperm hsub).length_le
  simp only [List.length_map, List.length_range] at this
  omega

/-! #### What each packet does where nothing stands against it -/

section
variable {p : Packet} {s : State}

/-- No resize of the packet's partition is under way. -/
theorem resizing_of_quiet (h : ∀ x, look s.parts (partOfPacket s p) = some x → x.resize = none) : resizing s p = false := by
  cases hx : look s.parts (partOfPacket s p) with
  | none => simp [resizing, hx]
  | some x => simp [resizing, hx, h x hx]

theorem createCtx_done (hh : hostSpan s (pword p 1) (max 1 (pword p 2)) = true) : createCtx p s =
    let c : Context := { part := partOfPacket s p, root := pword p 0, save := pword p 1, saveBytes := pword p 2, flat := (pword p 3).testBit 0,
                         prc := (pword p 3).testBit 1, st := .live, preempters := [], map := [] }
    .done { s with ctxs := set s.ctxs p.context.toNat c } := by
  simp only [createCtx, hh, ← bit_eq_testBit]
  rfl

theorem destroyCtx_done (hq : resizing s p = false) (ht : ∀ e ∈ s.teams, e.2.ctx ≠ p.context.toNat)
    (hs : ∀ e ∈ s.springs, e.2.ctx ≠ p.context.toNat) (ha : ∀ a ∈ s.abands, a.ctx ≠ p.context.toNat)
    (hp : ∀ c, look s.ctxs p.context.toNat = some c → c.preempters = []) :
    destroyCtx p s = .done { s with
      ctxs := del s.ctxs p.context.toNat, kept := s.kept.filter (fun k => k.ctx ≠ p.context.toNat)
      tlb := s.tlb.filter (fun e => e.ctx ≠ p.context.toNat) } := by
  have ht : teamsOf s p.context.toNat = [] := List.filter_eq_nil_iff.mpr fun e he => by simpa using ht e he
  have hs : s.springs.any (fun e => e.2.ctx = p.context.toNat) = false := List.any_eq_false.mpr fun e he => by simpa using hs e he
  have ha : s.abands.any (fun a => a.ctx = p.context.toNat) = false := List.any_eq_false.mpr fun a h => by simpa using ha a h
  have hp : ((look s.ctxs p.context.toNat).map (·.preempters)).getD [] = [] := by
    cases hc : look s.ctxs p.context.toNat with
    | none => rfl
    | some c => simpa using hp c hc
  simp only [destroyCtx, hq, ht, hs, ha, hp]
  rfl

/-- The launch that a LAUNCH takes up (R308). -/
def newLaunch (p : Packet) (s : State) (q : Spec) : Launch :=
  let used := usedLids s p.context.toNat
  { ctx := p.context.toNat, part := partOfPacket s p
    lid := BitVec.ofNat 16 (nextLid used used.length (((get 0 s.lids p.context.toNat).toNat + 1) % 65536))
    packet := pid p s, spec := q, dies := BitVec.ofNat 4 (pword p 1), cursor := 0, again := [], rises := 0, since := s.now, blocked := [], holds := [] }

theorem newLaunch_lid (q : Spec) (h : (usedLids s p.context.toNat).length < 65535) :
    (newLaunch p s q).lid.toNat ∉ usedLids s p.context.toNat := by
  have hx : ((get 0 s.lids p.context.toNat).toNat + 1) % 65536 < 65536 := Nat.mod_lt _ (by decide)
  simp only [newLaunch, BitVec.toNat_ofNat]
  rw [Nat.mod_eq_of_lt (nextLid_lt _ _ hx)]
  exact nextLid_unused hx h

theorem launchPacket_later {q : Spec} (hq : resizing s p = false)
    (hd : ∀ d, d < 4 → (pword p 1).testBit d = true → s.diePresent d = true) (hs : specHeld s p.context.toNat (pword p 0) = false)
    (hr : readSpec s p.context.toNat (partOfPacket s p) (pword p 0) (pword p 1) = .ok q) (hg : q.gen = false)
    (hon : ∃ d, d < 4 ∧ (pword p 1).testBit d = true ∧ partOnDie s (partOfPacket s p) d = true) :
    launchPacket p s = .later { s with
      launches := set s.launches s.freshLaunch (newLaunch p s q), freshLaunch := s.freshLaunch + 1
      lids := setD 0 s.lids p.context.toNat (newLaunch p s q).lid } := by
  have hd : (List.range 4).any (fun d => bit (pword p 1) d && !s.diePresent d) = false := List.any_eq_false.mpr fun d h => by
    rw [bit_eq_testBit]
    simpa using hd d (List.mem_range.mp h)
  have hon : (List.range 4).any (fun d => bit (pword p 1) d && partOnDie s (partOfPacket s p) d) = true := by
    obtain ⟨d, h4, hb, hp⟩ := hon
    exact List.any_eq_true.mpr ⟨d, List.mem_range.mpr h4, by rw [bit_eq_testBit, hb, hp]; rfl⟩
  simp only [launchPacket, hq, hd, hs, hr, hg, hon]
  rfl

theorem preemptCtx_live {c : Context} (hq : resizing s p = false) (hc : look s.ctxs p.context.toNat = some c) (hl : c.st = .live) :
    preemptCtx p s = .later ((requestSave s p.context.toNat).updCtx p.context.toNat (fun c => { c with preempters := [pid p s] })) := by
  simp only [preemptCtx, hq, hc, hl]
  rfl

theorem preemptCtx_saved {c : Context} (hq : resizing s p = false) (hc : look s.ctxs p.context.toNat = some c) (hl : c.st = .saved) :
    preemptCtx p s = .done s := by
  simp only [preemptCtx, hq, hc, hl]
  rfl

/-- The map that a RESUME writes: its own, or the one that stands (R357). -/
def resumeMap (p : Packet) (c : Context) : Sparse (Option Nat) :=
  if (pword p 0).testBit 0 then remapOf (pnum p / 2 ^ 64) else c.map

/-- The state once a RESUME's context has its map and is resumed. -/
def resumedBy (p : Packet) (c : Context) (s : State) : State :=
  resumeContext (s.updCtx p.context.toNat (fun x => { x with map := resumeMap p c })) p.context.toNat

theorem resumeCtx_done {c : Context} {q : Partition} (hq : resizing s p = false) (hp : look s.parts (partOfPacket s p) = some q)
    (hc : look s.ctxs p.context.toNat = some c) (hs : c.st = .saved) (hl : linkHeld s c.save (max 1 c.saveBytes) = false)
    (hi : imageOk s c = true)
    (hm : (pword p 0).testBit 0 = true → remapBad s p.context.toNat q.reaches (resumeMap p c) = false)
    (hf : resumeFits (resumedBy p c s) p.context.toNat = true) : resumeCtx p s = .done (resumedBy p c s) := by
  have hm : ((pword p 0).testBit 0 && remapBad s p.context.toNat q.reaches (resumeMap p c)) = false := by
    rw [Bool.and_eq_false_imp]
    exact hm
  have hcond : (decide (c.st ≠ .saved) || !imageOk s c || ((pword p 0).testBit 0 && remapBad s p.context.toNat q.reaches (resumeMap p c))) = false := by
    rw [hm, hs, hi]
    rfl
  simp only [resumeCtx, hq, hc, hp, hl, bit_eq_testBit]
  refine (if_neg (by simp)).trans ((if_neg (by simp)).trans ((if_neg ?_).trans (if_pos hf)))
  exact Bool.not_eq_true _ ▸ hcond

/-- A saved team whose core a resume finds stands on it again, its members ready (R354). -/
theorem restoreTeam_look {k core : Nat} {t : Team} (ht : look s.teams k = some t) (hc : resumeCore s t = some core) :
    ∃ t', look (restoreTeam s (k, t)).teams k = some t' ∧ t'.saved = false ∧ t'.seat.core = core ∧
      t'.members = t.members.map (fun m => m.restore s.now) := by
  simp only [restoreTeam, hc, updTeam_look, ht, Option.map_some]
  exact ⟨_, rfl, rfl, rfl, rfl⟩

/-- A physical address lies in a page whose cached translation TLB.INV drops (R179). -/
def tlbDrops (p : Packet) (s : State) (pa : Nat) : Bool :=
  (s.tlb.filter (fun e => e.ctx = p.context.toNat && (pword p 1 = 0 || decide (e.va < pword p 0 + pword p 1 ∧ pword p 0 < e.va + e.size)))).any
    (fun e => e.holds pa)

/-- An access of a release of the context through such a page is still out. -/
def releaseOut (p : Packet) (s : State) : Prop :=
  ∃ e ∈ s.teams, e.2.ctx = p.context.toNat ∧ ∃ r ∈ e.2.rels, ∃ a ∈ r.accesses, ∃ pa ∈ a.pas, tlbDrops p s pa = true

theorem releaseOut_iff : releaseOut p s ↔
    (teamsOf s p.context.toNat).any (fun e => e.2.rels.any (fun r => r.accesses.any (fun a => a.pas.any (tlbDrops p s)))) = true := by
  simp only [releaseOut, teamsOf, List.any_eq_true, List.mem_filter, decide_eq_true_eq, and_assoc]

theorem invalidate_waits (h : releaseOut p s) : invalidate p s = .wait := if_pos (releaseOut_iff.mp h)

/-- The loads of the context's teams from such pages have been performed. -/
def loadsPerformed (p : Packet) (s : State) : State :=
  (teamsOf s p.context.toNat).foldl (fun u e => u.firmLoads e.1 (fun x => x.pas.any (tlbDrops p s))) s

/-- The state once a TLB.INV has acted. -/
def invalidated (p : Packet) (s : State) : State :=
  let through (x : Late) : Bool := x.space.isNone && (look s.teams x.team).any (fun t => t.ctx = p.context.toNat) && tlbDrops p s x.word
  { loadsPerformed p s with tlb := (loadsPerformed p s).tlb.filter (fun e => !(e.ctx = p.context.toNat &&
      (pword p 1 = 0 || decide (e.va < pword p 0 + pword p 1 ∧ pword p 0 < e.va + e.size)))) }.withLate
    ((loadsPerformed p s).late.map (fun x => if through x then { x with upto := 5 } else x))

theorem invalidate_done (h : ¬ releaseOut p s) : invalidate p s = .done (invalidated p s) := if_neg (mt releaseOut_iff.mpr h)

theorem invalidated_queues (p : Packet) (s : State) : (invalidated p s).queues = s.queues := by
  simp only [invalidated, withLate_queues, loadsPerformed]
  exact foldl_queues (fun _ _ => updTeam_queues ..) _ _

theorem zeroSpan_read (s : State) {pa n a : Nat} (h1 : pa ≤ a) (h2 : a < pa + n) : Mem.read (zeroSpan s pa n).mem a = 0 := by
  have hp : decide (a < pa ∨ pa + n ≤ a) = false := by simp only [decide_eq_false_iff_not]; omega
  simp only [Mem.read, get, zeroSpan, look_filter_none s.mem (fun x => decide (x < pa ∨ pa + n ≤ x)) a hp, Option.getD_none]

/-- The dies on which the packet's partition holds a reach. -/
theorem diesOf_sum (s : State) (n : Nat) : sumNat ((List.range 4).map (fun d => if partOnDie s n d then 2 ^ d else 0)) =
    ((List.range 4).map (fun d => if partOnDie s n d then 2 ^ d else 0)).sum := List.sum_eq_foldl.symm

theorem declareSpring_done {q : Spec} (hq : resizing s p = false)
    (hd : ((List.range 4).map (fun d => if partOnDie s (partOfPacket s p) d then 2 ^ d else 0)).sum ≠ 0)
    (hh : specHeld s p.context.toNat (pnum p / 2 ^ 320 % 2 ^ 57) = false)
    (hr : readSpec s p.context.toNat (partOfPacket s p) (pnum p / 2 ^ 320 % 2 ^ 57)
      ((List.range 4).map (fun d => if partOnDie s (partOfPacket s p) d then 2 ^ d else 0)).sum = .ok q)
    (hf : springRefused s (springOf s p.context.toNat (pnum p) q) = false)
    (hl : linkHeld s (springOf s p.context.toNat (pnum p) q).mapBase
      (32 * ((springOf s p.context.toNat (pnum p) q).size / 2 ^ (springOf s p.context.toNat (pnum p) q).blk)) = false) :
    declareSpring p s =
      let x := springOf s p.context.toNat (pnum p) q
      .done { zeroSpan s x.mapBase (32 * (x.size / 2 ^ x.blk)) with springs := set s.springs x.key x, order := s.order + 1 } := by
  rw [← diesOf_sum] at hd hr
  have hb : bits (pnum p) 376 320 = pnum p / 2 ^ 320 % 2 ^ 57 := rfl
  simp only [declareSpring, hb, hq, hh, hr, hf, hd, hl]
  rfl

theorem undeclareSpring_done {x : Spring} (hx : look s.springs (springKey p.context.toNat (pword p 0)) = some x)
    (hw : x.waiters = []) (hq : x.queue = []) (hn : x.noFrame = []) (hl : ∀ b ∈ x.fills, linkHeld s (x.entryPa b) 32 = false)
    (hg : ∀ e ∈ s.teams, e.2.ctx = x.ctx → ∀ g, e.2.gen = some g → g.spring = x.num → g.filled = true) :
    undeclareSpring p s =
      let s' := x.fills.foldl (fun s b => putEntry s x b 0) s
      .done { freeTags s' x with springs := del s'.springs x.key } := by
  have hl : x.fills.any (entryHeldAt s x) = false := List.any_eq_false.mpr fun b hb => by simp [entryHeldAt, hl b hb]
  simp only [undeclareSpring, hx, hw, hq, hn, hl]
  refine (if_neg ?_).trans (if_neg (by simp))
  simp only [bne_self_eq_false, Bool.false_or, List.any_eq_true, Bool.and_eq_true, decide_eq_true_eq, not_exists, not_and]
  intro e he hc hb
  split at hb
  next g hgen =>
    obtain ⟨hs, hf⟩ := Bool.and_eq_true_iff.mp hb
    simp [hg e he hc g hgen (of_decide_eq_true hs)] at hf
  next => cases hb

theorem closePacket_later {x : PStream} (he : s.edie = true) (hx : look s.streams (pword p 0) = some x) (hp : x.part = partOfPacket s p)
    (hc : x.closing = none) : closePacket p s = .later (s.updPs (pword p 0) (fun x => { x with closing := some (pid p s, false) })) := by
  simp only [closePacket, he, hx, hp, hc]
  simp

/-- The abandonment that a TASK.CTL names waits for it (R351). -/
structure NamesTask (p : Packet) (s : State) (a : Aband) : Prop where
  /-- It is the one of the task. -/
  task : s.abands.find? (fun a => a.ctx = p.context.toNat && a.task = BitVec.ofNat 64 (pword p 0)) = some a
  /-- Nothing has answered it. -/
  waiting : a.st = .waiting

theorem taskControl_release {a : Aband} (ha : NamesTask p s a) (hb : (pword p 1).testBit 0 = true) : taskControl p s =
    .done { s with abands := s.abands.filter (fun x => !(x.ctx = p.context.toNat && x.task = BitVec.ofNat 64 (pword p 0))) } := by
  simp only [taskControl, ha.task, ha.waiting, bit_eq_testBit, hb]
  rfl

theorem taskControl_again {a : Aband} (ha : NamesTask p s a) (hb : (pword p 1).testBit 0 = false) : taskControl p s =
    let s' : State := { s with abands := s.abands.map (fun x =>
      if x.ctx = p.context.toNat && x.task = BitVec.ofNat 64 (pword p 0) then { x with st := .again p.queue (s.queue p.queue).next } else x) }
    .later (s'.updLaunch a.launch (fun l => { l with again := l.again ++ [(pword p 0 % 2 ^ 48, a.retry + 1)] })) := by
  have hw : (BitVec.ofNat 64 (pword p 0)).toNat = pword p 0 := by rw [pword, BitVec.ofNat_toNat, BitVec.setWidth_eq]
  simp only [taskControl, ha.task, ha.waiting, bit_eq_testBit, hb, hw]
  rfl

end

end Sys2Proof.Machine

namespace Sys2Proof.Proofs
open Sys2Proof Sys2Proof.Machine

/-- Settles O45: each packet's effect, where none of its checks refuses it and nothing makes it wait, is the one that its issue leaves, and
no effect changes its queue. -/
theorem contextPacketsTakeEffect : Obligations.ContextPacketsTakeEffect := by
  unfold Obligations.ContextPacketsTakeEffect
  intro w part me ctx quiet
  have hw : w = pword := rfl
  have hpart : part = partOfPacket := rfl
  have hquiet {p : Packet} {s : State} (h : quiet s p) : resizing s p = false := resizing_of_quiet h
  clear_value w part
  subst hw hpart
  refine ⟨?_, ?_, ?_, ?_, ?_, ?_, ?_, ?_, ?_, ?_, ?_, ?_, ?_, ?_⟩
  · exact issued_done (fn := createCtx) (fun _ _ => rfl) fun p s _ h => ⟨createCtx_done h, rfl⟩
  · refine issued_done (fn := destroyCtx) (fun _ _ => rfl) fun p s _ h => ?_
    obtain ⟨hq, ht, hs, ha, hp⟩ := h
    exact ⟨destroyCtx_done (hquiet hq) ht hs ha hp, rfl⟩
  · intro p s q h hq hd hs hr hg hon
    refine ⟨newLaunch p s q, _, rfl, ?_, rfl, rfl, rfl, rfl, rfl, rfl, rfl, newLaunch_lid q⟩
    exact congrArg _ (runPacket_later h (launchPacket_later (hquiet hq) hd hs hr hg hon) h.stays)
  · refine issued_later (fn := preemptCtx) (fun _ _ => rfl) fun p s _ h => ?_
    obtain ⟨hq, c, hc, hl⟩ := h
    exact ⟨preemptCtx_live (hquiet hq) hc hl, rfl⟩
  · refine issued_done (fn := preemptCtx) (fun _ _ => rfl) fun p s _ h => ?_
    obtain ⟨hq, c, hc, hl⟩ := h
    exact ⟨preemptCtx_saved (hquiet hq) hc hl, rfl⟩
  · intro c q map back
    refine issued_done (fn := resumeCtx) (fun _ _ => rfl) fun p s _ h => ?_
    obtain ⟨hq, hp, hc, hs, hl, hi, hm, hf⟩ := h
    exact ⟨resumeCtx_done (hquiet hq) hp hc hs hl hi hm hf, queue_of_queues (resumeContext_queues _ _) _⟩
  · exact fun s k t core ht hc => restoreTeam_look ht hc
  · refine ⟨fun p s h ho => ?_, ?_⟩
    · exact congrArg _ ((runPacket_admits h _).trans (by rw [invalidate_waits ho]))
    · refine issued_done (fn := invalidate) (fun _ _ => rfl) fun p s _ ho => 
        ⟨invalidate_done ho, queue_of_queues (invalidated_queues p s) _⟩
  · intro p s q h hq dies hd hh hr hf x hl s0 s1
    refine ⟨congrArg _ (runPacket_done h (declareSpring_done (hquiet hq) hd hh hr hf hl) h.stays), fun b hb k hk => ?_⟩
    exact zeroSpan_read s (by omega) (by omega)
  · intro x
    refine issued_done (fn := undeclareSpring) (fun _ _ => rfl) fun p s _ h => ?_
    obtain ⟨hx, hw, hq, hn, hl, hg⟩ := h
    refine ⟨undeclareSpring_done hx hw hq hn hl hg, queue_of_queues ?_ _⟩
    exact (freeTags_queues _ _).trans (foldl_queues (fun s b => putEntry_queues s x b 0) _ _)
  · intro p s s' h hq ho
    have hd : openPacket p s = .done s' := by simp only [openPacket, hquiet hq, ho]; rfl
    exact congrArg _ (runPacket_done h hd (by rw [queue_of_queues (openStream_queues ho)]; exact h.stays))
  · intro x
    refine issued_later (fn := closePacket) (fun _ _ => rfl) fun p s _ h => ?_
    obtain ⟨he, hx, hp, hc⟩ := h
    exact ⟨closePacket_later he hx hp hc, rfl⟩
  · exact issued_done (fn := releasePass) (fun _ _ => rfl) fun p s _ _ => ⟨rfl, rfl⟩
  · refine ⟨fun a => ?_, fun a => ?_⟩
    · refine issued_done (fn := taskControl) (fun _ _ => rfl) fun p s _ h => ?_
      obtain ⟨⟨ht, ha⟩, hb⟩ := h
      exact ⟨taskControl_release ⟨ht, ha⟩ hb, rfl⟩
    · refine issued_later (fn := taskControl) (fun _ _ => rfl) fun p s _ h => ?_
      obtain ⟨⟨ht, ha⟩, hb⟩ := h
      exact ⟨taskControl_again ⟨ht, ha⟩ hb, rfl⟩

end Sys2Proof.Proofs

/-! ### Register writes (O48) -/

namespace Sys2Proof.Machine

/-! #### Blocks and the offsets in them (R426) -/

section
variable {s : State} {d n o q : Nat}

theorem regBlock_host (s : State) {off : Nat} (h : off < 0x10000) : regBlock s off = (.host, off) := by
  simp only [regBlock, h, if_true, Nat.mod_eq_of_lt h]

theorem regBlock_ring (hn : n ≤ 64) (h : o < 0x20) : regBlock s (0x20000 + 0x20 * n + o) = (.rings, 0x20 * n + o) := by
  simp only [regBlock]
  rw [if_neg (by omega), if_neg (by omega), if_pos (by omega)]
  congr 1; omega

theorem regBlock_unit (hd : d < 4) (hu : s.dieUp d = true) (h : o < 0x10000) :
    regBlock s (0x1000000 + 0x100000 * d + o) = (.unit d, o) := by
  rw [regBlock_die hd hu (by omega), if_pos (by omega), Nat.mod_eq_of_lt h]

theorem regBlock_vault (hn : n < 128) (hu : s.dieUp (n / 32) = true) (h : o < 0x10) :
    regBlock s (0x1010000 + 0x100000 * (n / 32) + 0x10 * (n % 32) + o) = (.vaults (n / 32), 0x10 * (n % 32) + o) := by
  rw [show 0x1010000 + 0x100000 * (n / 32) + 0x10 * (n % 32) + o =
      0x1000000 + 0x100000 * (n / 32) + (0x10000 + (0x10 * (n % 32) + o)) by omega,
    regBlock_die (by omega) hu (by omega), if_neg (by omega), if_pos (by omega), show (0x10000 + (0x10 * (n % 32) + o)) % 0x10000 =
      0x10 * (n % 32) + o by omega]

theorem regBlock_reach (hn : n < 128) (hu : s.dieUp (n / 32) = true) (h : o < 0x40) :
    regBlock s (0x1020000 + 0x100000 * (n / 32) + 0x40 * (n % 32) + o) = (.reaches (n / 32), 0x40 * (n % 32) + o) := by
  rw [show 0x1020000 + 0x100000 * (n / 32) + 0x40 * (n % 32) + o =
      0x1000000 + 0x100000 * (n / 32) + (0x20000 + (0x40 * (n % 32) + o)) by omega,
    regBlock_die (by omega) hu (by omega), if_neg (by omega), if_neg (by omega), if_pos (by omega),
    show (0x20000 + (0x40 * (n % 32) + o)) % 0x10000 = 0x40 * (n % 32) + o by omega]

/-- The blocks of a die that is absent or out of service are not there. -/
theorem regBlock_down (hd : d < 4) (hu : s.dieUp d = false) (h : o < 0x100000) :
    regBlock s (0x1000000 + 0x100000 * d + o) = (.none, 0x1000000 + 0x100000 * d + o) := by
  have h1 : (0x1000000 + 0x100000 * d + o - 0x1000000) / 0x100000 = d := by omega
  simp only [regBlock, h1, hu]
  rw [if_neg (by omega), if_neg (by omega), if_neg (by omega), if_pos (by omega)]
  rfl

end

/-! #### The accesses that R425 allows -/

section
variable {s : State} {v : DWord} {off : Nat}

/-- A write of another width or alignment is reported. -/
theorem registerWrite_refused {width : Nat} (h : width ≠ 4 ∧ width ≠ 8 ∨ off % width ≠ 0) :
    exec (.registerWrite off width v) s = .next (linkError s (0x20000000000 + off) false) := by
  have hr : regAccess off width = false := by
    rcases h with ⟨h4, h8⟩ | h
    · simp [regAccess, h4, h8]
    · simp [regAccess, h]
  change execRegisterWrite off width v s = _
  simp only [execRegisterWrite, hr]
  rfl

theorem registerWrite_4 (h : off % 4 = 0) : exec (.registerWrite off 4 v) s = .next (write32 s off (v.toNat % 2 ^ 32)) := by
  change execRegisterWrite off 4 v s = _
  simp only [execRegisterWrite, regAccess, h]
  rfl

/-- A 64-bit register with an effect of its own. -/
theorem registerWrite_own {s' : State} (h : off % 8 = 0) (ho : ownWide s off v = some s') : exec (.registerWrite off 8 v) s = .next s' := by
  change execRegisterWrite off 8 v s = _
  simp only [execRegisterWrite, regAccess, h, ho]
  rfl

/-- Any other 64-bit register. -/
theorem registerWrite_wide (h : off % 8 = 0) (ho : ownWide s off v = none) (hw : isWide s off = true) :
    exec (.registerWrite off 8 v) s = .next (writeReg s off (fun _ => v) (v.toNat % 2 ^ 32)) := by
  change execRegisterWrite off 8 v s = _
  simp only [execRegisterWrite, regAccess, h, ho, hw]
  rfl

end

/-- The low word of a value. -/
theorem ofNat_low (v : DWord) : BitVec.ofNat 32 (v.toNat % 2 ^ 32) = BitVec.ofNat 32 v.toNat :=
  BitVec.eq_of_toNat_eq (by simp only [BitVec.toNat_ofNat, Nat.mod_mod])

/-! #### The registers' own effects always answer a state -/

/-- What a register's own meaning answers is the state that the write leaves. -/
theorem next_answered {s : State} {o : Host.Outcome State Fault Refusal} (h : ∃ t, o = .next t) : .next (answered s o) = o := by
  obtain ⟨t, rfl⟩ := h
  rfl

section
variable (s : State) (n : Nat) (x : Word) (v : DWord)

theorem execQput_next : ∃ t, execQput n x s = .next t := by unfold execQput; split <;> exact ⟨_, rfl⟩

theorem execQctlRestart_next : ∃ t, execQctlRestart n v s = .next t := by unfold execQctlRestart; split <;> exact ⟨_, rfl⟩

theorem execSumreq_next : ∃ t, execSumreq v s = .next t := by unfold execSumreq; split <;> exact ⟨_, rfl⟩

theorem execVscarve_next : ∃ t, execVscarve n x s = .next t := by
  simp only [execVscarve]
  (repeat' split) <;> exact ⟨_, rfl⟩

theorem execVres_next : ∃ t, execVres n x s = .next t := by
  simp only [execVres]
  (repeat' split) <;> exact ⟨_, rfl⟩

theorem execClkcfg_next : ∃ t, execClkcfg n x s = .next t := by
  simp only [execClkcfg]
  (repeat' split) <;> exact ⟨_, rfl⟩

theorem execMpfill_next : ∃ t, execMpfill n x s = .next t := by
  simp only [execMpfill]
  (repeat' split) <;> exact ⟨_, rfl⟩

theorem execSpslot_next : ∃ t, execSpslot n x s = .next t := by
  simp only [execSpslot]
  (repeat' split) <;> exact ⟨_, rfl⟩

end

/-! #### A write of each block -/

section
variable {s : State} {v : DWord} {d n o q : Nat}

theorem write_host (h : o < 0x10000) (h4 : o % 4 = 0) :
    exec (.registerWrite o 4 v) s = .next (writeHost s o (fun old => putHalf o old (v.toNat % 2 ^ 32))) := by
  rw [registerWrite_4 h4]
  simp only [write32, ownWrite, writeReg, regBlock_host s h]
  rfl

theorem write_host_wide (h : o = 0x8 ∨ o = 0x10) : exec (.registerWrite o 8 v) s = .next (writeHost s o (fun _ => v)) := by
  have hb := regBlock_host s (off := o) (by omega)
  rw [registerWrite_wide (by omega) (by simp only [ownWide, hb]; exact if_neg (by omega)) (by simp only [isWide, hb]; simpa using h)]
  simp only [writeReg, hb]

theorem write_sumreq : exec (.registerWrite 0x018 8 v) s = exec (.sumreq v) s :=
  (registerWrite_own rfl rfl).trans (next_answered (execSumreq_next s v))

theorem queue_offset (o : Nat) (h : o < 0x40) : (0x40 * q + o) / 0x40 = q ∧ (0x40 * q + o) % 0x40 = o := by omega

theorem regBlock_queue (s : State) (hq : q < 256) (h : o < 0x40) : regBlock s (0x10000 + 0x40 * q + o) = (.queues, 0x40 * q + o) := by
  rw [Nat.add_assoc, regBlock_queues s (by omega)]

/-- A 32-bit write of a queue's registers but QPUT. -/
theorem write_queue (hq : q < 256) (h : o < 0x40) (h4 : o % 4 = 0) (hc : o ≠ 0x0C) :
    exec (.registerWrite (0x10000 + 0x40 * q + o) 4 v) s =
      .next (writeQueue s q o (fun old => putHalf (0x10000 + 0x40 * q + o) old (v.toNat % 2 ^ 32)) (v.toNat % 2 ^ 32)) := by
  obtain ⟨hdiv, hmod⟩ := queue_offset (q := q) o h
  have hlt : 0x40 * q + o < 0x4000 := by omega
  rw [registerWrite_4 (by omega)]
  simp only [write32, ownWrite, writeReg, regBlock_queue s hq h, hdiv, hmod, hc, hlt, and_false, if_false, if_true, Option.getD_none]

theorem write_qput (hq : q < 256) : exec (.registerWrite (0x10000 + 0x40 * q + 0x0C) 4 v) s = exec (.qput q (BitVec.ofNat 32 v.toNat)) s := by
  obtain ⟨hdiv, hmod⟩ := queue_offset (q := q) 0x0C (by decide)
  have hlt : 0x40 * q + 0x0C < 0x4000 := by omega
  rw [registerWrite_4 (by omega)]
  simp only [write32, ownWrite, regBlock_queue s hq (show 0x0C < 0x40 by decide), hdiv, hmod, hlt, and_self, if_true, Option.getD_some, ofNat_low]
  exact next_answered (execQput_next s q _)

/-- An 8-byte write of QBASE. -/
theorem write_qbase (hq : q < 256) :
    exec (.registerWrite (0x10000 + 0x40 * q + 0) 8 v) s = .next (writeQueue s q 0 (fun _ => v) (v.toNat % 2 ^ 32)) := by
  obtain ⟨hdiv, hmod⟩ := queue_offset (q := q) 0 (by decide)
  have hlt : 0x40 * q + 0 < 0x4000 := by omega
  have hb := regBlock_queue s hq (show 0 < 0x40 by decide)
  rw [registerWrite_wide (by omega)]
  · simp only [writeReg, hb, hdiv, hmod, hlt, if_true]
  · simp only [ownWide, hb, hmod]
    exact if_neg (by simp)
  · simp only [isWide, hb, hmod]
    rfl

/-- A write of QCTL of any queue but 0. -/
theorem write_qctl (hq : q < 256) (h0 : q ≠ 0) :
    exec (.registerWrite (0x10000 + 0x40 * q + 0x28) 8 v) s = exec (.qctlRestart q v) s := by
  obtain ⟨hdiv, hmod⟩ := queue_offset (q := q) 0x28 (by decide)
  have hlt : 0x40 * q + 0x28 < 0x4000 := by omega
  have hne : ¬ 0x40 * q + 0x28 = 0x28 := by omega
  refine (registerWrite_own (by omega) ?_).trans (next_answered (s := s) (execQctlRestart_next s q v))
  simp only [ownWide, regBlock_queue s hq (show 0x28 < 0x40 by decide), hdiv, hmod, hlt, hne, and_self, if_true, if_false]
  rfl

/-- A 32-bit write of a ring's registers. -/
theorem write_ring (hn : n ≤ 64) (h : o < 0x20) (h4 : o % 4 = 0) :
    exec (.registerWrite (0x20000 + 0x20 * n + o) 4 v) s =
      .next (writeRing s n o (fun old => putHalf (0x20000 + 0x20 * n + o) old (v.toNat % 2 ^ 32)) (v.toNat % 2 ^ 32)) := by
  have hdiv : (0x20 * n + o) / 0x20 = n := by omega
  have hmod : (0x20 * n + o) % 0x20 = o := by omega
  rw [registerWrite_4 (by omega)]
  simp only [write32, ownWrite, writeReg, regBlock_ring hn h, hdiv, hmod, hn, if_true, Option.getD_none]

/-- An 8-byte write of EVBASE. -/
theorem write_evbase (hn : n ≤ 64) :
    exec (.registerWrite (0x20000 + 0x20 * n + 0) 8 v) s = .next (writeRing s n 0 (fun _ => v) (v.toNat % 2 ^ 32)) := by
  have hdiv : (0x20 * n + 0) / 0x20 = n := by omega
  have hmod : (0x20 * n + 0) % 0x20 = 0 := by omega
  have hb := regBlock_ring (s := s) hn (show 0 < 0x20 by decide)
  rw [registerWrite_wide (by omega) (by simp only [ownWide, hb]) (by simp only [isWide, hb, hmod]; rfl)]
  simp only [writeReg, hb, hdiv, hmod, hn, if_true]

/-- A 32-bit write of a memory unit's registers but VSCARVE. -/
theorem write_unit (hd : d < 4) (hu : s.dieUp d = true) (h : o < 0x10000) (h4 : o % 4 = 0) (hc : o ≠ 0x5C) :
    exec (.registerWrite (0x1000000 + 0x100000 * d + o) 4 v) s =
      .next (writeUnit s d o (fun old => putHalf (0x1000000 + 0x100000 * d + o) old (v.toNat % 2 ^ 32)) (v.toNat % 2 ^ 32)) := by
  rw [registerWrite_4 (by omega)]
  simp only [write32, ownWrite, writeReg, regBlock_unit hd hu h, hc, if_false, Option.getD_none]

theorem write_vscarve (hd : d < 4) (hu : s.dieUp d = true) :
    exec (.registerWrite (0x1000000 + 0x100000 * d + 0x5C) 4 v) s = exec (.vscarve d (BitVec.ofNat 32 v.toNat)) s := by
  rw [registerWrite_4 (by omega)]
  simp only [write32, ownWrite, regBlock_unit hd hu (show 0x5C < 0x10000 by decide), if_true, Option.getD_some, ofNat_low]
  exact next_answered (execVscarve_next s d _)

theorem write_fbreplay (hd : d < 4) (hu : s.dieUp d = true) :
    exec (.registerWrite (0x1000000 + 0x100000 * d + 0x18) 8 v) s = exec (.fbreplay d v) s := by
  refine registerWrite_own (by omega) ?_
  simp only [ownWide, regBlock_unit hd hu (show 0x18 < 0x10000 by decide), if_true]
  rfl

theorem write_fbabort (hd : d < 4) (hu : s.dieUp d = true) :
    exec (.registerWrite (0x1000000 + 0x100000 * d + 0x20) 8 v) s = exec (.fbabort d v) s := by
  refine registerWrite_own (by omega) ?_
  simp only [ownWide, regBlock_unit hd hu (show 0x20 < 0x10000 by decide)]
  rfl

/-- A write of a die that is absent or out of service is ignored. -/
theorem write_down (hd : d < 4) (hu : s.dieUp d = false) (h : o < 0x100000) (h4 : o % 4 = 0) :
    exec (.registerWrite (0x1000000 + 0x100000 * d + o) 4 v) s = .next s := by
  rw [registerWrite_4 (by omega)]
  simp only [write32, ownWrite, writeReg, regBlock_down hd hu h, Option.getD_none]

theorem write_vres (hn : n < 128) (hu : s.dieUp (n / 32) = true) :
    exec (.registerWrite (0x1010000 + 0x100000 * (n / 32) + 0x10 * (n % 32) + 0x8) 4 v) s = exec (.vres n (BitVec.ofNat 32 v.toNat)) s := by
  have h1 : 0x10 * (n % 32) + 0x8 < 0x200 ∧ (0x10 * (n % 32) + 0x8) % 16 = 8 := by omega
  have h2 : 32 * (n / 32) + (0x10 * (n % 32) + 0x8) / 16 = n := by omega
  rw [registerWrite_4 (by omega)]
  simp only [write32, ownWrite, regBlock_vault hn hu (show 0x8 < 0x10 by decide), h1, h2, and_self, if_true, Option.getD_some, ofNat_low]
  exact next_answered (execVres_next s n _)

/-- A write of VBUD is ignored. -/
theorem write_vbud (hn : n < 128) (hu : s.dieUp (n / 32) = true) :
    exec (.registerWrite (0x1010000 + 0x100000 * (n / 32) + 0x10 * (n % 32) + 0x4) 4 v) s = .next s := by
  have h1 : ¬ (0x10 * (n % 32) + 0x4 < 0x200 ∧ (0x10 * (n % 32) + 0x4) % 16 = 8) := by omega
  have h2 : ¬ (0x200 ≤ 0x10 * (n % 32) + 0x4 ∧ 0x10 * (n % 32) + 0x4 < 0x400) := by omega
  have h3 : ¬ (0x10 * (n % 32) + 0x4 < 0x200 ∧ (0x10 * (n % 32) + 0x4) % 16 = 0) := by omega
  rw [registerWrite_4 (by omega)]
  simp only [write32, ownWrite, writeReg, writeVault, regBlock_vault hn hu (show 0x4 < 0x10 by decide), h1, h2, h3, if_false, Option.getD_none]

theorem reach_offset (h : o < 0x40) :
    ¬ 0x800 ≤ 0x40 * (n % 32) + o ∧ (0x40 * (n % 32) + o) % 0x40 = o ∧ 32 * (n / 32) + (0x40 * (n % 32) + o) / 0x40 = n := by omega

/-- A write of a reach's register with an effect of its own. -/
theorem write_reach_own {e : Host.Outcome State Fault Refusal} (hn : n < 128) (hu : s.dieUp (n / 32) = true)
    (he : (o = 0 ∧ e = execClkcfg n (BitVec.ofNat 32 v.toNat) s) ∨ (o = 0x08 ∧ e = execMpfill n (BitVec.ofNat 32 v.toNat) s) ∨
      (o = 0x3C ∧ e = execSpslot n (BitVec.ofNat 32 v.toNat) s)) :
    exec (.registerWrite (0x1020000 + 0x100000 * (n / 32) + 0x40 * (n % 32) + o) 4 v) s = e := by
  obtain ⟨h1, h2, h3⟩ := reach_offset (n := n) (o := o) (by omega)
  rw [registerWrite_4 (by omega)]
  simp only [write32, ownWrite, regBlock_reach hn hu (show o < 0x40 by omega), h1, h2, h3, if_false, ofNat_low]
  obtain ⟨rfl, rfl⟩ | ⟨rfl, rfl⟩ | ⟨rfl, rfl⟩ := he
  · exact next_answered (execClkcfg_next s n _)
  · exact next_answered (execMpfill_next s n _)
  · exact next_answered (execSpslot_next s n _)

/-- A write of a reach's other registers. -/
theorem write_reach (hn : n < 128) (hu : s.dieUp (n / 32) = true) (h : o < 0x40) (h4 : o % 4 = 0) (ho : o ≠ 0 ∧ o ≠ 0x08 ∧ o ≠ 0x3C) :
    exec (.registerWrite (0x1020000 + 0x100000 * (n / 32) + 0x40 * (n % 32) + o) 4 v) s =
      .next (writeReach s (n / 32) (0x40 * (n % 32) + o) (v.toNat % 2 ^ 32)) := by
  obtain ⟨h1, h2, -⟩ := reach_offset (n := n) h
  rw [registerWrite_4 (by omega)]
  simp only [write32, ownWrite, writeReg, regBlock_reach hn hu h, h1, h2, ho.1, ho.2.1, ho.2.2, if_false, Option.getD_none]

/-- A 32-bit write of a stream's registers. -/
theorem write_stream (hn : n < 64) (he : s.edie = true) (h : o < 0x40) (h4 : o % 4 = 0) :
    exec (.registerWrite (0x2008000 + 0x40 * n + o) 4 v) s = .next (writeStream s n o (v.toNat % 2 ^ 32)) := by
  have h1 : ¬ 0x8000 + 0x40 * n + o < 0x8000 := by omega
  have h2 : 0x8000 + 0x40 * n + o < 0x9000 := by omega
  have h3 : (0x8000 + 0x40 * n + o - 0x8000) / 0x40 = n := by omega
  have h5 : (0x8000 + 0x40 * n + o) % 0x40 = o := by omega
  rw [registerWrite_4 (by omega), show 0x2008000 + 0x40 * n + o = 0x2000000 + (0x8000 + 0x40 * n + o) by omega]
  simp only [write32, ownWrite, writeReg, regBlock_edie he (show 0x8000 + 0x40 * n + o < 0x10000 by omega), h1, h2, h3, h5, if_false, if_true,
    Option.getD_none]

end

/-! #### What the tables make of a value -/

section
variable {s : State} {q n o : Nat} {v : DWord} {f : DWord → DWord} {x : Nat}

/-- An address that BOOTIMG and BOOTCFG take lies in stacked DRAM (R427). -/
theorem writeHost_boot (hd : inDram v.toNat = true) (hp : hostPa s v.toNat = true) :
    writeHost s 0x8 (fun _ => v) = { s with host := { s.host with bootimg := v } } ∧
      writeHost s 0x10 (fun _ => v) = { s with host := { s.host with bootcfg := v } } := by
  constructor <;> simp [writeHost, hd, hp]

theorem writeHost_boot_refused (h : inDram v.toNat = false ∨ hostPa s v.toNat = false) :
    writeHost s 0x8 (fun _ => v) = refuse s 0x8 ∧ writeHost s 0x10 (fun _ => v) = refuse s 0x10 := by
  have h : (inDram v.toNat && hostPa s v.toNat) = false := by rcases h with h | h <;> simp [h]
  constructor <;> simp [writeHost, h]

/-- The host block's other registers ignore a write. -/
theorem writeHost_readOnly (h1 : o / 8 ≠ 1) (h2 : o / 8 ≠ 2) : writeHost s o f = s := by simp only [writeHost, h1, h2, if_false]

theorem writeQueue_readOnly (h0 : o / 8 ≠ 0) (h8 : o ≠ 8) (h4 : o / 8 ≠ 4) : writeQueue s q o f x = s := by
  simp only [writeQueue, h0, h8, h4, if_false]

/-- QBASE and QSIZE of an enabled queue ignore a write (R428). -/
theorem writeQueue_enabled (he : (s.queue q).en = true) : writeQueue s q 0 f x = s ∧ writeQueue s q 8 f x = s := by
  constructor <;> simp [writeQueue, he]

theorem writeQueue_base (he : (s.queue q).en = false) : writeQueue s q 0 (fun _ => v) x =
    if v.toNat % 4096 = 0 ∧ hostSpan s v.toNat (max 1 (s.queue q).size.toNat) = true then s.setQueue q { s.queue q with base := v }
    else refuse s (0x10000 + 0x40 * q) := by
  by_cases h : v.toNat % 4096 = 0 <;> cases hs : hostSpan s v.toNat (max 1 (s.queue q).size.toNat) <;> simp [writeQueue, he, h, hs]

theorem queueSize_iff (n : Nat) : queueSize n = true ↔ ∃ k, k < 13 ∧ n = 4096 * 2 ^ k := by simp [queueSize]

theorem writeQueue_size (he : (s.queue q).en = false) : writeQueue s q 8 f x =
    if (∃ k, k < 13 ∧ x = 4096 * 2 ^ k) ∧ hostSpan s (s.queue q).base.toNat x = true then
      s.setQueue q { s.queue q with size := BitVec.ofNat 32 x }
    else refuse s (0x10000 + 0x40 * q + 8) := by
  simp only [writeQueue, he, ← queueSize_iff, ← Bool.and_eq_true]
  rfl

/-- Where a ring holds nothing, room in it frees nothing. -/
theorem drainRing_ring (h : (s.ring n).held = []) : (drainRing s n).ring n = s.ring n := by
  simp only [drainRing, h, drainHeld, setRing_ring]
  cases hr : s.ring n
  rw [hr] at h
  simp_all

theorem writeRing_readOnly (h : o = 0x0C ∨ n < 64 ∧ (o = 0 ∨ o = 8)) : writeRing s n o f x = s := by
  rcases h with rfl | ⟨hn, rfl | rfl⟩
  · simp [writeRing]
  · simp [writeRing, Nat.ne_of_lt hn]
  · simp [writeRing, Nat.ne_of_lt hn]

/-- Registers of a memory unit that ignore a write of one of their halves. -/
theorem writeUnit_readOnly (s : State) (d : Nat) : ∀ o ∈ [0x008, 0x018, 0x01C, 0x020, 0x024, 0x04C], writeUnit s d o f x = s := by
  simp only [List.forall_mem_cons]
  exact ⟨rfl, rfl, rfl, rfl, rfl, rfl, List.forall_mem_nil _⟩

theorem writeUnit_acthr (s : State) (d : Nat) :
    writeUnit s d 0x58 f (x % 2 ^ 32) = s.setUnit d { s.unit d with acthr := BitVec.ofNat 32 (x % 2 ^ 12) } := by
  have h : x % 2 ^ 32 % 4096 = x % 2 ^ 12 := by omega
  rw [← h]
  rfl

/-- MPLVL ignores a write (R326). -/
theorem writeReach_level : writeReach s (n / 32) (0x40 * (n % 32) + 0x0C) x = s := by
  obtain ⟨h1, h2, -⟩ := reach_offset (n := n) (o := 0x0C) (by decide)
  have h3 : ¬ (0x40 * (n % 32) + 0x0C = 0x800 ∧ n / 32 = 0) ∧ ¬ (0x40 * (n % 32) + 0x0C = 0x804 ∧ n / 32 = 0) := by omega
  simp only [writeReach, h1, h2, h3, if_false]
  rfl

theorem writeReach_drpcnt :
    writeReach s (n / 32) (0x40 * (n % 32) + 0x30) x = s.setReach n { s.reach n with drpcnt := BitVec.ofNat 32 x } := by
  obtain ⟨h1, h2, h4⟩ := reach_offset (n := n) (o := 0x30) (by decide)
  have h3 : ¬ (0x40 * (n % 32) + 0x30 = 0x800 ∧ n / 32 = 0) ∧ ¬ (0x40 * (n % 32) + 0x30 = 0x804 ∧ n / 32 = 0) := by omega
  simp only [writeReach, h1, h2, h3, h4, if_false]
  rfl

/-- The state once a register of a stream that is not open is written. -/
def streamWritten (s : State) (n o x : Nat) : State :=
  { s with sregs := setD StreamRegs.zero s.sregs n ((get StreamRegs.zero s.sregs n).write o x) }

/-- A stream that is not open keeps what is written to its registers (R423). -/
theorem writeStream_closed (hm : n < s.maxStreams) (hs : look s.streams n = none) : writeStream s n o x = streamWritten s n o x := by
  simp only [writeStream, streamWritten, Nat.not_le.mpr hm, hs, if_false]

/-- What is written to a stream's counter is read from it. -/
theorem read_write_streamRegs (r : StreamRegs) (x : Nat) : ∀ o ∈ [0x08, 0x0C, 0x18, 0x1C, 0x20],
    (r.write o x).read o = (BitVec.ofNat 32 x).toNat := by
  simp only [List.forall_mem_cons]
  exact ⟨rfl, rfl, rfl, rfl, rfl, List.forall_mem_nil _⟩

/-- A read of a register of a stream that is not open. -/
theorem readReg_closedStream (hn : n < 64) (hm : n < s.maxStreams) (he : s.edie = true) (hs : look s.streams n = none) (h : o < 0x40) :
    readReg s (0x2008000 + 0x40 * n + o) = (get StreamRegs.zero s.sregs n).read o := by
  have h1 : ¬ 0x8000 + 0x40 * n + o < 0x8000 := by omega
  have h3 : (0x8000 + 0x40 * n + o - 0x8000) / 0x40 = n := by omega
  have h5 : (0x8000 + 0x40 * n + o) % 0x40 = o := by omega
  rw [show 0x2008000 + 0x40 * n + o = 0x2000000 + (0x8000 + 0x40 * n + o) by omega]
  simp only [readReg, regBlock_edie he (show 0x8000 + 0x40 * n + o < 0x10000 by omega), h1, h3, h5, Nat.not_le.mpr hm, hs, if_false]

end

end Sys2Proof.Machine

namespace Sys2Proof.Proofs
open Sys2Proof Sys2Proof.Machine

/-- Settles O48: each offset is placed in its block, a write of a register with an effect of its own answers that effect, and a write of any
other changes the field that its block's table names. -/
theorem registerWritesActByTheirTables : Obligations.RegisterWritesActByTheirTables := by
  unfold Obligations.RegisterWritesActByTheirTables
  intro queue ring unit vault reach low refused
  have hlow (v : DWord) : low v = BitVec.ofNat 32 (v.toNat % 2 ^ 32) := (ofNat_low v).symm
  refine ⟨?_, ?_, ?_, ?_, ?_, ?_, ?_, ?_, ?_, ?_, ?_⟩
  · exact fun off width v s h => registerWrite_refused h
  · intro v s o ho
    obtain ⟨hlt, h4, h1, h2⟩ := (by decide : ∀ o ∈ [0x000, 0x004, 0x018, 0x01C, 0x020, 0x028],
      o < 0x10000 ∧ o % 4 = 0 ∧ o / 8 ≠ 1 ∧ o / 8 ≠ 2) o ho
    rw [write_host hlt h4, writeHost_readOnly h1 h2]
  · intro q v s hq o ho
    obtain ⟨hlt, h4, hc, h0, h8, h32⟩ := (by decide : ∀ o ∈ [0x10, 0x14, 0x18, 0x1C, 0x28, 0x2C, 0x30, 0x34],
      o < 0x40 ∧ o % 4 = 0 ∧ o ≠ 0x0C ∧ o / 8 ≠ 0 ∧ o ≠ 8 ∧ o / 8 ≠ 4) o ho
    exact (write_queue hq hlt h4 hc).trans (congrArg _ (writeQueue_readOnly h0 h8 h32))
  · intro d v s hd o ho
    obtain ⟨hlt, h4, hc⟩ := (by decide : ∀ o ∈ [0x008, 0x018, 0x01C, 0x020, 0x024, 0x04C], o < 0x10000 ∧ o % 4 = 0 ∧ o ≠ 0x5C) o ho
    cases hu : s.dieUp d with
    | false => exact write_down hd hu (by omega) h4
    | true => exact (write_unit hd hu hlt h4 hc).trans (congrArg _ (writeUnit_readOnly s d o ho))
  · intro v s
    have h8 : exec (.registerWrite 0x008 8 v) s = _ := write_host_wide (.inl rfl)
    have h16 : exec (.registerWrite 0x010 8 v) s = _ := write_host_wide (.inr rfl)
    rw [h8, h16]
    refine ⟨fun hd hp => ?_, fun h => ?_, write_sumreq⟩
    · obtain ⟨h1, h2⟩ := writeHost_boot hd hp
      exact ⟨congrArg _ h1, congrArg _ h2⟩
    · obtain ⟨h1, h2⟩ := writeHost_boot_refused h
      exact ⟨congrArg _ h1, congrArg _ h2⟩
  · intro q v s hq
    have hbase : exec (.registerWrite (queue q 0) 8 v) s = _ := write_qbase hq
    have hsize : exec (.registerWrite (queue q 8) 4 v) s = _ := write_queue hq (by decide) rfl (by decide)
    have hn : (low v).toNat = v.toNat % 2 ^ 32 := BitVec.toNat_ofNat _ _
    rw [hbase, hsize, hn, hlow]
    refine ⟨by rw [ofNat_low]; exact write_qput hq, fun he => ?_, fun he => ⟨fun h => ?_, fun h => ?_, fun hk hs => ?_, fun h => ?_⟩, write_qctl hq⟩
    · obtain ⟨h1, h2⟩ := writeQueue_enabled he
      exact ⟨congrArg _ h1, congrArg _ h2⟩
    · rw [writeQueue_base he, if_pos h]
    · rw [writeQueue_base he, if_neg (by rintro ⟨h1, h2⟩; simp [h1, h2] at h)]
      rfl
    · rw [writeQueue_size he, if_pos ⟨hk, hs⟩]
    · rw [writeQueue_size he, if_neg]
      · rfl
      · rintro ⟨⟨k, hk, hx⟩, hs⟩
        rcases h with h | h
        · exact h k hk hx
        · exact absurd (hs.symm.trans h) (by decide)
  · intro n v s hn hh
    rw [hlow]
    refine ⟨write_ring hn (by decide) rfl, (write_ring hn (by decide) rfl).trans (congrArg _ (writeRing_readOnly (.inl rfl))), fun h => ⟨?_, ?_⟩,
      _, write_ring hn (by decide) rfl, ?_⟩
    · exact (write_evbase hn).trans (congrArg _ (writeRing_readOnly (.inr ⟨h, .inl rfl⟩)))
    · exact (write_ring hn (by decide) rfl).trans (congrArg _ (writeRing_readOnly (.inr ⟨h, .inr rfl⟩)))
    · refine (drainRing_ring ?_).trans (setRing_ring s n _)
      rw [setRing_ring]
      exact hh
  · intro d v s hd hu
    refine ⟨?_, ?_, write_vscarve hd hu, write_fbreplay hd hu, write_fbabort hd hu⟩
    · rw [hlow]
      exact write_unit hd hu (by decide) rfl (by decide)
    · refine (write_unit hd hu (o := 0x58) (by decide) rfl (by decide)).trans (congrArg _ ?_)
      rw [writeUnit_acthr]
  · intro n v s hn hu
    refine ⟨write_vres hn hu, write_vbud hn hu, write_reach_own hn hu (.inl ⟨rfl, rfl⟩), write_reach_own hn hu (.inr (.inl ⟨rfl, rfl⟩)),
      write_reach_own hn hu (.inr (.inr ⟨rfl, rfl⟩)), ?_, ?_⟩
    · exact (write_reach hn hu (o := 0x0C) (by decide) rfl (by decide)).trans (congrArg _ writeReach_level)
    · rw [hlow]
      exact (write_reach hn hu (o := 0x30) (by decide) rfl (by decide)).trans (congrArg _ writeReach_drpcnt)
  · intro n v s hn hm he hs o ho
    obtain ⟨hlt, h4⟩ := (by decide : ∀ o ∈ [0x08, 0x0C, 0x18, 0x1C, 0x20], o < 0x40 ∧ o % 4 = 0) o ho
    refine ⟨_, (write_stream hn he hlt h4).trans (congrArg _ (writeStream_closed hm hs)), rfl, ?_⟩
    refine (readReg_closedStream (s := streamWritten s n o _) hn hm he hs hlt).trans ?_
    rw [streamWritten, get_setD_same, read_write_streamRegs _ _ o ho, hlow]
  · exact fun d o v s hd hu h h4 => write_down hd hu h h4

end Sys2Proof.Proofs

/-! ### Where the issuing team is not there (O13)

The last clause of the statement reads a lane's atomic write off memory in any state. A state need not list the team of the word, and without
that team the model writes nothing for it, while `writeCells`, by which the statement gives the bytes, writes memory all the same. -/

namespace Sys2Proof.Machine

section
variable {c : Ctx} {s : State}

theorem storeLane_of_no_team (h : look s.teams c.tk = none) (v : Bool) (upto : Nat) (done : List (Nat × List Host.Cell)) (l : Nat)
    (cells : List Host.Cell) (ws : List Nat) : c.storeLane v upto done l cells ws s = s :=
  List.foldl_fixed' (fun _ => storeWord_of_no_team h) ws

/-- Without its team a word stores nothing. -/
theorem storeFrom_of_no_team (h : look s.teams c.tk = none) (v : Bool) (upto : Nat) (cs done : List (Nat × List Host.Cell)) :
    c.storeFrom v upto done s cs = s := by
  induction cs generalizing done with
  | nil => rfl
  | cons e cs ih => rw [c.storeFrom_cons, storeLane_of_no_team h, ih]

/-- Without its team an atomic word leaves the state as it is, where it has a value to store. -/
theorem rmw_of_no_team (h : look s.teams c.tk = none) {f : Nat → Nat → Option Nat} {l : LaneReq} {x : Nat} {tr : List (Nat × Trans)}
    (scope n : Nat) (hf : f l.lane (leVal (lastBytes s tr l)) = some x) : (rmw c scope n tr f s [l]).1 = s := by
  simp only [rmw, hf, Ctx.storeCells, storeFrom_of_no_team h]

end

/-- Lane 0's access of one aligned word. -/
def oneWordReq : LaneReq := { lane := 0, vas := [0x10000, 0x10001, 0x10002, 0x10003] }

/-- The translation of its line. -/
def oneWordTrans : List (Nat × Trans) := [(0x10000, .ok 0x20000 false 0 0)]

/-- The bytes of the value 1, as the statement gives them. -/
theorem writeCells_oneWord : (writeCells State.reset 0 false (laneCells oneWordTrans oneWordReq (toBytes 4 1))).mem = [(0x20000, 1)] := by
  decide +kernel

end Sys2Proof.Machine

namespace Sys2Proof.Proofs
open Sys2Proof Sys2Proof.Machine

/-- Refutes O13: in a state without the team of the word, a lane's atomic write of the value 1 leaves memory as it is, and the last clause of
the statement has its byte there. -/
theorem not_atomicWordsActLaneByLane : ¬ Obligations.AtomicWordsActLaneByLane := by
  intro h
  unfold Obligations.AtomicWordsActLaneByLane at h
  obtain ⟨-, -, -, -, -, -, -, -, -, hlane⟩ := h
  have hmem := (hlane stlCtx 0 4 oneWordTrans (fun _ _ => some 1) State.reset oneWordReq 1 rfl).2
  rw [rmw_of_no_team (x := 1) rfl 0 4 rfl] at hmem
  exact absurd (hmem.trans writeCells_oneWord) (by decide)

end Sys2Proof.Proofs

/-! ### Fences, barriers, commits and horizons (O14) -/

namespace Sys2Proof.Machine

/-! #### What a commit leaves (R205) -/

/-- A commit changes its team as `Team.committed` says, and counts where the version has marks. -/
theorem commitVersion_frame (s : State) (tk : Nat) (t : Team) : ∃ s0 : State, commitVersion s tk t = s0.updTeam tk Team.committed ∧
    s0.teams = s.teams ∧ s0.screens = s.screens ∧
    s0.commits = if t.ver.reads = [] ∧ t.ver.writes = [] then s.commits else s.commits + 1 := by
  by_cases hv : t.ver.reads = [] ∧ t.ver.writes = []
  · exact ⟨s, by rw [commitVersion, if_pos hv], rfl, rfl, (if_pos hv).symm⟩
  · obtain ⟨sn, hsn⟩ := foldl_touchPool_frame s (some t.part) ((t.ver.cells.map (fun x => x.1 / 64 * 64)).dedup) true
    rw [commitVersion, if_neg hv, hsn]
    exact ⟨_, rfl, rfl, rfl, (if_neg hv).symm⟩

theorem commitVersion_screens (s : State) (tk : Nat) (t : Team) : (commitVersion s tk t).screens = s.screens := by
  obtain ⟨s0, h, -, hs, -⟩ := commitVersion_frame s tk t
  rw [h, updTeam_screens, hs]

theorem commitVersion_commits (s : State) (tk : Nat) (t : Team) : (commitVersion s tk t).commits =
    if t.ver.reads = [] ∧ t.ver.writes = [] then s.commits else s.commits + 1 := by
  obtain ⟨s0, h, -, -, hc⟩ := commitVersion_frame s tk t
  rw [h, updTeam_commits, hc]

/-- The team that a commit leaves under its key. -/
theorem look_commitVersion_committed {s : State} {tk : Nat} {u : Team} (h : look s.teams tk = some u) (t : Team) :
    look (commitVersion s tk t).teams tk = some u.committed := by
  obtain ⟨s0, hs, ht, -, -⟩ := commitVersion_frame s tk t
  rw [hs, updTeam_look, ht, h, Option.map_some]

/-- A team whose region has ended and begun anew (R203, R206). -/
def Team.begun (commits : Nat) (t : Team) : Team := { t with ver := { t.ver with since := commits } }

theorem newRegion_eq (s : State) (tk : Nat) : newRegion s tk = s.updTeam tk (Team.begun s.commits) := rfl

/-! #### A word with the roles of R196 -/

section
variable {c : Ctx} {scope : Nat} {rel acq : Bool}

/-- A release that has passed changes the state and the team that its word sees, and no screen write. -/
theorem Ctx.passed_shape (c : Ctx) (scope : Nat) (rel : Bool) :
    ∃ s t, c.passed scope rel = { c with s := s, t := t } ∧ s.screens = c.s.screens := by
  have hr : (c.released scope).s.screens = c.s.screens := rfl
  cases rel with
  | false => exact ⟨c.s, c.t, rfl, rfl⟩
  | true =>
    by_cases h2 : 2 ≤ scope
    · simp only [Ctx.passed, if_true, h2, decide_true, Bool.and_self]
      unfold Ctx.reread
      split
      · exact ⟨_, _, rfl, (commitVersion_screens ..).trans hr⟩
      · exact ⟨_, _, rfl, hr⟩
    · simp only [Ctx.passed, if_true, h2, decide_false, Bool.and_false, Bool.false_eq_true, if_false]
      exact ⟨_, _, rfl, hr⟩

theorem Ctx.passed_screensOut (c : Ctx) (scope : Nat) (rel : Bool) : (c.passed scope rel).screensOut = c.screensOut := by
  obtain ⟨s, t, h, hs⟩ := c.passed_shape scope rel
  rw [h, Ctx.screensOut, Ctx.screensOut, hs]

/-- A word whose release waits for nothing goes on by its own effect, and the region ends with it (R150, R196, R203, R205, R212). -/
theorem boundary_done {u : Team} (hu : look c.s.teams c.tk = some u) (h : Passes c scope rel) {k : Ctx → Res} {bad : Bool}
    {later : Option (Ctx → Res)} {s1 : State} {o : Out} (hk : k (c.passed scope rel) = .done s1 o) :
    boundary c scope rel acq k bad later = .done (c.regionEnds scope rel acq s1) o := by
  obtain ⟨hw, hs, hc, hf⟩ := h
  rcases Nat.lt_or_ge scope 2 with h2 | h2
  · have hp : (if rel = true then c.released scope else c) = c.passed scope rel := by
      simp [Ctx.passed, Nat.not_le.mpr h2]
    simp [boundary, hs, h2, Ctx.regionEnds, Nat.not_le.mpr h2, hp, hk]
  · have h2' : ¬ scope < 2 := Nat.not_lt.mpr h2
    cases rel with
    | false =>
      have hk : k c = .done s1 o := hk
      cases acq <;> simp [boundary, h2, h2', hk, Res.atBoundary, Ctx.regionEnds, boundaryState]
    | true =>
      have hs' : c.screensOut = false := hs
      have hc' : c.t.clean = true := by simpa [h2'] using hc
      have hf' : commitFits c.s c.tk c.t = true := by simpa [h2'] using hf
      have hp : commitPoint (c.released scope) bad k = .done s1 o := by
        rw [commitPoint_fits (look_released hu scope) ((commitFits_released c scope c.tk c.t).trans hf')]
        simpa [Ctx.passed, h2] using hk
      simp [boundary, hs', h2, h2', hw, hf', afterWriteBack, writeBackAll_clean c _ hc', hp, Res.atBoundary, Ctx.regionEnds, boundaryState]

/-- A word that acquires or returns a value waits at issue for the screen writes of its lanes (R299). -/
theorem boundary_screens_wait (hs : c.screensOut = true) {k : Ctx → Res} {bad : Bool} :
    boundary c scope true acq k bad none = .wait c.s := by
  simp [boundary, hs]

/-- A word that only releases issues while screen writes of its lanes are under way (R218, R299). -/
theorem boundary_screens_later (hs : c.screensOut = true) (hc : scope < 2 ∨ c.t.clean = true) {k d : Ctx → Res} {bad : Bool} :
    boundary c scope true acq k bad (some d) = d c := by
  by_cases h2 : scope < 2
  · simp [boundary, hs, h2]
  · have hc' : c.t.clean = true := hc.resolve_left h2
    simp [boundary, hs, h2, afterWriteBack, writeBackAll_clean c _ hc']

/-- A word that only releases issues where its commit does not fit, and the version waits (R205, R212). -/
theorem boundary_unfit_later (hs : c.screensOut = false) (h2 : 2 ≤ scope) (hc : c.t.clean = true) (hw : c.m.wait = .none)
    (hf : commitFits c.s c.tk c.t = false) {k d : Ctx → Res} {bad : Bool} : boundary c scope true acq k bad (some d) =
      d { c with s := c.s.updTeam c.tk (fun t => { t with ver := { t.ver with waiting := true } }) } := by
  simp [boundary, hs, Nat.not_lt.mpr h2, hw, afterWriteBack, writeBackAll_clean c _ hc, hf]

end

/-- The form for a word with the roles of R196: where they pass, its own effect stands and its region ends. -/
theorem completesIn_of_boundary {r : CRow} {i : CWord → Instr} {entry : Ctx → Res} {pre : Ctx → Prop} (scope : Ctx → Nat) (rel acq : Ctx → Bool)
    (f : Ctx → State) (hx : ∀ w s, exec (i w) s = calud r entry w s)
    (he : ∀ c, pre c → (rel c && c.screensOut) = false → ∃ k later, entry c = boundary c (scope c) (rel c) (acq c) k false later ∧
      k (c.passed (scope c) (rel c)) = .done (f (c.passed (scope c) (rel c))) Out.none) :
    CompletesIn r i (fun c => pre c ∧ Passes c (scope c) (rel c))
      (fun c => c.regionEnds (scope c) (rel c) (acq c) (f (c.passed (scope c) (rel c)))) (fun _ => Out.none) := by
  refine completesIn_of hx (fun w s c h ⟨hp, hpass⟩ => ?_)
  obtain ⟨k, later, hb, hk⟩ := he c hp hpass.screens
  obtain ⟨u, hu, -⟩ := Option.bind_eq_some_iff.mp h.memberAt
  rw [hb, boundary_done hu hpass hk]

/-! #### The entries of the fences, the barriers and COMMIT -/

/-- No load or atomic of the member is out: every pending result has a queue (R218). -/
def Ctx.back (c : Ctx) : Prop := ∀ p ∈ c.m.pend, p.queue ≠ none

theorem Ctx.back_iff {c : Ctx} : c.back ↔ c.m.pend.any (fun p => p.queue.isNone) = false := by
  simp [Ctx.back]

section
variable {c : Ctx}

/-- The release of a FENCE.rel of team scope or wider that issues and is not performed yet (R218). -/
def Ctx.fenceLater (c : Ctx) : Option (Ctx → Res) :=
  if ordAcq c.w || scopeOf c.w = 0 then none else some (fun c => .done (c.defer (scopeOf c.w) [] c.s) { Out.none with keepTag := true })

theorem entryFence_of_back (h : ordAcq c.w = true → c.back) : entryFence c =
    boundary c (scopeOf c.w) (ordRel c.w || scopeOf c.w = 0) (ordAcq c.w) (fun c => .done c.s Out.none) false c.fenceLater := by
  have hn : ¬ (ordAcq c.w && c.m.pend.any (fun p => p.queue.isNone)) = true := by
    cases ha : ordAcq c.w
    · simp
    · simp [Ctx.back_iff.mp (h ha)]
  exact if_neg hn

theorem entryFence_of_not_back (ha : ordAcq c.w = true) (h : ¬ c.back) : entryFence c = .wait c.s :=
  if_pos (by rw [ha, Bool.true_and, ← Bool.not_eq_false]; exact mt Ctx.back_iff.mpr h)

/-- A fence that acquires, and one of group scope, waits at issue for the screen writes of its lanes (R299, log entry 88). -/
theorem entryFence_screens (hr : ordRel c.w = true) (h : ordAcq c.w = true ∨ scopeOf c.w = 0) (hb : ordAcq c.w = true → c.back)
    (hs : c.screensOut = true) : entryFence c = .wait c.s := by
  have hl : c.fenceLater = none := if_pos (by simpa using h)
  rw [entryFence_of_back hb, hl, hr, Bool.true_or, boundary_screens_wait hs]

/-- What a FENCE.rel of team scope or wider is, where its release may be performed later. -/
theorem entryFence_rel (hr : ordRel c.w = true) (ha : ordAcq c.w = false) (h0 : scopeOf c.w ≠ 0) : entryFence c =
    boundary c (scopeOf c.w) true (ordAcq c.w) (fun c => .done c.s Out.none) false
      (some (fun c => .done (c.defer (scopeOf c.w) [] c.s) { Out.none with keepTag := true })) := by
  have hl : c.fenceLater = some (fun c => .done (c.defer (scopeOf c.w) [] c.s) { Out.none with keepTag := true }) :=
    if_neg (by simp [ha, h0])
  rw [entryFence_of_back (fun h => absurd h (by simp [ha])), hl, hr, Bool.true_or]

theorem entryBarTeam_of_arrival (h : c.m.arrival ≠ none) (hb : c.back) :
    entryBarTeam c = boundary c 1 true true (fun c => .done c.s Out.none) := by
  simp only [entryBarTeam, Option.isSome_iff_ne_none.mpr h, if_true, Ctx.back_iff.mp hb, Bool.false_eq_true, if_false]

theorem entryBarClu_of_arrival (h : c.m.arrival ≠ none) (hb : c.back) :
    entryBarClu c = boundary c 2 true true (fun c => .done c.s Out.none) := by
  simp only [entryBarClu, Option.isSome_iff_ne_none.mpr h, if_true, Ctx.back_iff.mp hb, Bool.false_eq_true, if_false]

/-- What a word sees once its team has arrived at a cluster barrier (R219). -/
def Ctx.arrivedAt (c : Ctx) (n : Nat) : Ctx :=
  { c with s := c.s.updTeam c.tk (fun t => { t with arrived := insertNat n t.arrived }) }

/-- The team's last arrival at a cluster barrier commits first (R219). -/
theorem entryBarClu_last (h : c.m.arrival = none) (ho : othersArrived c.t c.m.id true (fA c.w) = true) :
    entryBarClu c = boundary c 2 true false (fun c' => arrive (c'.arrivedAt (fA c.w)) true (fA c.w)) := by
  unfold Ctx.arrivedAt
  simp only [entryBarClu, h, Option.isSome_none, Bool.false_eq_true, if_false, ho, if_true]

/-- A member arrives once the screen writes of its lanes are delivered (R219, R299). -/
theorem arrive_done (hs : c.screensOut = false) (clu : Bool) (n : Nat) : arrive c clu n =
    .done ((c.released (if clu then 2 else 1)).s.updMember c.tk c.m.id (fun m => { m with wait := .barrier clu n })) Out.none := by
  simp only [arrive, hs, Bool.false_eq_true, if_false]

/-- After the commit the last member arrives, and its team with it. -/
theorem arrive_passed (hs : c.screensOut = false) : arrive ((c.passed 2 true).arrivedAt (fA c.w)) true (fA c.w) =
    .done ((((c.passed 2 true).arrivedAt (fA (c.passed 2 true).w)).released 2).s.updMember (c.passed 2 true).tk (c.passed 2 true).m.id
      (fun m => { m with wait := .barrier true (fA (c.passed 2 true).w) })) Out.none := by
  have hp : ((c.passed 2 true).arrivedAt (fA c.w)).screensOut = false := (c.passed_screensOut 2 true).trans hs
  obtain ⟨s', t', hc, -⟩ := c.passed_shape 2 true
  rw [hc] at hp ⊢
  exact arrive_done hp true (fA c.w)

/-- A COMMIT whose marks fit commits, and its region ends (R220). -/
theorem entryCommit_fits {u : Team} (hu : look c.s.teams c.tk = some u) (hw : c.m.wait = .none) (hf : commitFits c.s c.tk c.t = true) :
    entryCommit c = .done (c.regionEnds 2 true false
      ((commitVersion c.s c.tk c.t).updMember c.tk c.m.id (fun m => { m with wait := .committed }))) Out.none := by
  have hs : (c.reread ((commitVersion c.s c.tk c.t).updMember c.tk c.m.id (fun m => { m with wait := .committed }))).s =
      (commitVersion c.s c.tk c.t).updMember c.tk c.m.id (fun m => { m with wait := .committed }) := by
    rw [Ctx.reread, State.updMember, updTeam_look, look_commitVersion_committed hu, Option.map_some]
  rw [entryCommit, hw, if_neg (by simp), commitPoint_fits hu hf, hs]
  rfl

/-- A COMMIT whose marks do not fit waits (R212, R220). -/
theorem entryCommit_unfit (hw : c.m.wait ≠ .committed) (hf : commitFits c.s c.tk c.t = false) (ho : c.overCharge = false) : entryCommit c =
    .wait ((c.s.updTeam c.tk (fun t => { t with ver := { t.ver with waiting := true } })).updMember c.tk c.m.id
      (fun m => { m with wait := .commit })) := by
  simp [entryCommit, hw, commitPoint, hf, ho, Res.atBoundary]

/-- The values of VQRY (R221). -/
theorem vqry_eq (s : State) (tk : Nat) (t : Team) (n : Nat) : vqry s tk t n = (match n with
    | 0 => t.spec.vq * 65536
    | 1 => chargeOf t.ver.reads t.ver.writes
    | 2 => 32 * (shareLines s tk).length
    | _ => t.ver.commits) := by
  match n with
  | 0 | 1 | 2 => rfl
  | n + 3 => simp [vqry]

end

/-! #### An access of a release (R201, R216, R217) -/

theorem leVal_toBytes (n x : Nat) : leVal (toBytes n x) = x % 2 ^ (8 * n) := by
  induction n generalizing x with
  | zero => simp [toBytes, leVal, Nat.mod_one]
  | succ n ih =>
    have hl : leVal (toBytes (n + 1) x) = x % 2 ^ 8 + 2 ^ 8 * leVal (toBytes n (x / 2 ^ 8)) := by
      simp [toBytes, leVal]
    rw [hl, ih, ← Nat.mod_mul, ← pow_add, show 8 + 8 * n = 8 * (n + 1) by omega]

theorem toBytes_length (n x : Nat) : (toBytes n x).length = n := by
  induction n generalizing x with
  | zero => rfl
  | succ n ih => rw [toBytes, List.length_cons, ih]

/-- Values put at distinct addresses, one for each, stand there. -/
theorem map_lastCell_zip {as : List Nat} (h : as.Nodup) {bs : List Byte} (hl : as.length = bs.length) (f : Nat → Byte) :
    as.map (fun a => (lastCell (as.zip bs) a).getD (f a)) = bs := by
  induction as generalizing bs with
  | nil => exact (List.length_eq_zero_iff.mp hl.symm).symm
  | cons a as ih =>
    obtain ⟨b, bs, rfl⟩ := List.exists_cons_of_length_eq_add_one hl.symm
    obtain ⟨ha, has⟩ := List.nodup_cons.mp h
    have hnone : lastCell (as.zip bs) a = none := lastCell_none fun x hx hxa => ha (hxa ▸ (List.of_mem_zip (a := x.1) (b := x.2) hx).1)
    have hrest : as.map (fun y => (lastCell ((a, b) :: as.zip bs) y).getD (f y)) = bs := by
      refine (List.map_congr_left fun y hy => ?_).trans (ih has (Nat.succ.inj hl))
      have hay : a ≠ y := fun h => ha (h ▸ hy)
      rw [lastCell_cons, if_neg hay, Option.or_none]
    rw [List.zip_cons_cons, List.map_cons, hrest, lastCell_cons, hnone]
    simp

/-- What the accesses of a release leave as it is: the count of commits, and the releases of their team. -/
def State.unstored (s : State) (tk : Nat) : Nat × Option (List Release) := (s.commits, (look s.teams tk).map Team.rels)

theorem unstored_updTeam {s : State} {tk : Nat} {f : Team → Team} (h : ∀ t, (f t).rels = t.rels) :
    (s.updTeam tk f).unstored tk = s.unstored tk :=
  Prod.ext rfl (look_updTeam_keeps Team.rels s tk h tk)

theorem unstored_writeCells (s : State) (tk : Nat) (cells : List Host.Cell) : (writeCells s tk false cells).unstored tk = s.unstored tk := by
  rcases eq_or_ne cells [] with rfl | hc
  · rfl
  · rw [writeCells_direct s tk hc]
    exact unstored_updTeam (s := pokeCells s cells) (fun _ => rfl)

section
variable {s : State} {tk slot : Nat} {tid : Word} {words upto : Nat} {done : List Word} {w : Nat} {cells : List Host.Cell}

theorem unstored_storeWord : (s.storeWord tk slot tid words false upto done w cells).unstored tk = s.unstored tk := by
  cases ht : look s.teams tk with
  | none => rw [storeWord_of_no_team ht]
  | some t =>
    obtain h | ⟨on, e, n, -, -, h⟩ := storeWord_cases ht
    · rw [h, unstored_writeCells]
    · rw [h]
      exact (unstored_updTeam (f := Team.wrote false) (fun _ => rfl)).trans (unstored_writeCells ..)

/-- A direct store that is performed at a scope at once comes before no other write of its word (R198). -/
theorem storeWord_performed_read {t : Team} (ht : look s.teams tk = some t) (hu : upto ≠ 0) (a : Nat) :
    Mem.read (s.storeWord tk slot tid words false upto done w cells).mem a = (lastCell cells a).getD (Mem.read s.mem a) := by
  unfold State.storeWord
  rw [ht]
  dsimp only
  split
  · exact writeCells_direct_mem ..
  · rw [if_pos (by simp [hu])]
    simp only [slipUnder, List.contains_nil, Bool.not_false, List.filter_true]
    exact writeCells_direct_mem ..

end

theorem look_of_unstored {s s' : State} {tk : Nat} {t : Team} (h : s'.unstored tk = s.unstored tk) (ht : look s.teams tk = some t) :
    ∃ t', look s'.teams tk = some t' ∧ t'.rels = t.rels :=
  Option.map_eq_some_iff.mp ((congrArg Prod.snd h).trans (congrArg (Option.map Team.rels) ht))

section
variable {s : State} {tk : Nat} {r : Release}

/-- What an access of a release stores: its operand, or a RED's result on what stands there (R216). -/
def Deferred.value (s : State) (a : Deferred) : Nat :=
  match a.op with
  | none => a.x
  | some (aop, aty) => combineA aop aty (leVal (a.pas.map (Mem.read s.mem))) a.x

/-- The bytes of that value at the access's addresses. -/
def Deferred.cells (s : State) (a : Deferred) : List Host.Cell := a.pas.zip (toBytes a.pas.length (a.value s))

theorem Deferred.cells_fst (s : State) (a : Deferred) : (a.cells s).map (·.1) = a.pas :=
  List.map_fst_zip (toBytes_length ..).ge

/-- An access of a release stores its bytes word by word. -/
theorem access_eq (a : Deferred) : r.access s tk a = (wordsIn a.pas).foldl (fun s' w =>
    s'.storeWord tk r.slot a.lane 0 false (r.scope + 1) [] w ((a.cells s).filter (fun e => e.1 / 4 * 4 = w))) s := by
  unfold Release.access Deferred.cells Deferred.value
  cases a.op <;> rfl

theorem unstored_storeWords (cells : List Host.Cell) (a : Deferred) (ws : List Nat) (s : State) : (ws.foldl (fun s w =>
    s.storeWord tk r.slot a.lane 0 false (r.scope + 1) [] w (cells.filter (fun e => e.1 / 4 * 4 = w))) s).unstored tk = s.unstored tk := by
  induction ws generalizing s with
  | nil => rfl
  | cons w ws ih => exact (ih _).trans unstored_storeWord

theorem unstored_accesses (as : List Deferred) (s : State) : (as.foldl (fun s a => r.access s tk a) s).unstored tk = s.unstored tk := by
  induction as generalizing s with
  | nil => rfl
  | cons a as ih => exact (ih _).trans (unstored_storeWords ..)

/-- Each word that is stored takes its cells. -/
theorem storeWords_read {t : Team} (ht : look s.teams tk = some t) (cells : List Host.Cell) (a : Deferred) (ws : List Nat) (b : Nat) :
    Mem.read (ws.foldl (fun s w =>
      s.storeWord tk r.slot a.lane 0 false (r.scope + 1) [] w (cells.filter (fun e => e.1 / 4 * 4 = w))) s).mem b =
      if b / 4 * 4 ∈ ws then (lastCell cells b).getD (Mem.read s.mem b) else Mem.read s.mem b := by
  induction ws generalizing s t with
  | nil => rfl
  | cons w ws ih =>
    obtain ⟨t', ht', -⟩ := look_of_unstored (unstored_storeWord (s := s) (slot := r.slot) (tid := a.lane) (words := 0) (upto := r.scope + 1)
      (done := []) (w := w) (cells := cells.filter (fun e => e.1 / 4 * 4 = w))) ht
    rw [List.foldl_cons, ih ht', storeWord_performed_read ht (Nat.succ_ne_zero _)]
    by_cases hw : b / 4 * 4 = w
    · subst hw
      rw [lastCell_filter_word]
      cases lastCell cells b <;> simp
    · have hno : ∀ x ∈ cells.filter (fun e => e.1 / 4 * 4 = w), x.1 ≠ b := fun x hx hxb =>
        hw (hxb ▸ of_decide_eq_true (List.mem_filter.mp hx).2)
      simp [lastCell_none hno, hw]

/-- An access of a release stores its bytes in memory, and no other (R201, R216). -/
theorem access_read {t : Team} (ht : look s.teams tk = some t) (a : Deferred) (b : Nat) :
    Mem.read (r.access s tk a).mem b = (lastCell (a.cells s) b).getD (Mem.read s.mem b) := by
  rw [access_eq, storeWords_read ht, ← a.cells_fst s, lastCell_getD_of_wordsIn]

theorem access_read_other {a : Deferred} {b : Nat} (hb : b ∉ a.pas) : Mem.read (r.access s tk a).mem b = Mem.read s.mem b := by
  cases ht : look s.teams tk with
  | none =>
    rw [access_eq, List.foldl_fixed' (fun _ => storeWord_of_no_team ht)]
  | some t =>
    have hno : ∀ x ∈ a.cells s, x.1 ≠ b := fun x hx hxb => hb (a.cells_fst s ▸ hxb ▸ List.mem_map_of_mem hx)
    rw [access_read ht, lastCell_none hno, Option.getD_none]

theorem accesses_read_other {as : List Deferred} {b : Nat} (hb : ∀ a ∈ as, b ∉ a.pas) (s : State) :
    Mem.read (as.foldl (fun s a => r.access s tk a) s).mem b = Mem.read s.mem b := by
  induction as generalizing s with
  | nil => rfl
  | cons a as ih =>
    obtain ⟨ha, has⟩ := List.forall_mem_cons.mp hb
    exact (ih has _).trans (access_read_other ha)

/-- What an access of a release leaves at its bytes: its operand, or of a RED the result on what stood there (R201, R216). -/
theorem access_value {t : Team} (ht : look s.teams tk = some t) {a : Deferred} (ha : a.pas.Nodup) :
    leVal (a.pas.map (Mem.read (r.access s tk a).mem)) = a.value s % 2 ^ (8 * a.pas.length) := by
  have hm : a.pas.map (Mem.read (r.access s tk a).mem) = _ :=
    (List.map_congr_left fun b _ => access_read ht a b).trans (map_lastCell_zip ha (toBytes_length ..).symm _)
  rw [hm, leVal_toBytes]

/-! #### A release that is performed (R205, R218) -/

/-- A release's earlier writes are performed, and its accesses made. -/
def Release.accessed (r : Release) (s : State) (tk : Nat) (t : Team) : State :=
  r.accesses.foldl (fun s a => r.access s tk a) (s.performFor tk t r.slot r.lanes r.scope (fun _ => true))

/-- A team once a release of it is performed. -/
def Team.without (r : Release) (t : Team) : Team :=
  { t.updMember r.mem (fun m => { m with tags := m.tags &&& ~~~ tagBit r.tag }) with rels := t.rels.erase r }

theorem performRelease_eq {t : Team} (ht : look s.teams tk = some t) : performRelease s tk r =
    (if 2 ≤ r.scope then newRegion (r.accessed s tk t) tk else r.accessed s tk t).updTeam tk (Team.without r) := by
  rw [performRelease, ht]
  rfl

theorem unstored_firmLoads (p : LateLoad → Bool) : (s.firmLoads tk p).unstored tk = s.unstored tk := unstored_updTeam (fun _ => rfl)

theorem unstored_accessed (t : Team) : (r.accessed s tk t).unstored tk = s.unstored tk :=
  (unstored_accesses ..).trans (unstored_firmLoads (s := s) (tk := tk) (fun x => r.lanes.contains x.lane) :)

/-- A member of the release's team that is the release's has its tag no more (R109, R218). -/
theorem Team.without_tags {t : Team} {m : Member} (hm : m ∈ (t.without r).members) (hi : m.id = r.mem) {n : Nat} (hn : r.tag = some n) :
    m.tags.getLsbD n = false := by
  obtain ⟨m0, -, rfl⟩ := List.mem_map.mp hm
  by_cases h0 : m0.id = r.mem
  · simp [h0, hn, tagBit]
  · rw [if_neg h0] at hi
    exact absurd hi h0

/-- A release that nothing holds is performed: it goes, with its tag, and from cluster scope on the region ends; its accesses are made in
memory. -/
theorem performRelease_spec {t : Team} (ht : look s.teams tk = some t) (hr : t.rels = [r]) :
    ∃ t', look (performRelease s tk r).teams tk = some t' ∧ t'.rels = [] ∧ (performRelease s tk r).commits = s.commits ∧
      (2 ≤ r.scope → t'.ver.since = (performRelease s tk r).commits) ∧
      (∀ m ∈ t'.members, m.id = r.mem → ∀ n, r.tag = some n → m.tags.getLsbD n = false) ∧
      (∀ a, (∀ x ∈ r.accesses, a ∉ x.pas) → Mem.read (performRelease s tk r).mem a = Mem.read s.mem a) ∧
      (∀ x, r.accesses = [x] → x.pas.Nodup →
        leVal (x.pas.map (Mem.read (performRelease s tk r).mem)) = x.value s % 2 ^ (8 * x.pas.length)) := by
  obtain ⟨t1, ht1, hr1⟩ := look_of_unstored (unstored_accessed (r := r) t) ht
  have hcommits : (r.accessed s tk t).commits = s.commits := congrArg Prod.fst (unstored_accessed t)
  have hmem : (performRelease s tk r).mem = (r.accessed s tk t).mem := by
    rw [performRelease_eq ht, updTeam_mem]
    split <;> rfl
  have hread (a : Nat) (ha : ∀ x ∈ r.accesses, a ∉ x.pas) : Mem.read (performRelease s tk r).mem a = Mem.read s.mem a := by
    rw [hmem]
    exact accesses_read_other ha _
  have hvalue (x : Deferred) (hx : r.accesses = [x]) (hn : x.pas.Nodup) :
      leVal (x.pas.map (Mem.read (performRelease s tk r).mem)) = x.value s % 2 ^ (8 * x.pas.length) := by
    obtain ⟨t0, ht0, -⟩ := look_of_unstored (unstored_firmLoads (fun x => r.lanes.contains x.lane)) ht
    rw [hmem, Release.accessed, hx]
    exact access_value (s := s.performFor tk t r.slot r.lanes r.scope (fun _ => true)) ht0 hn
  have hrels : t1.rels.erase r = [] := by rw [hr1, hr, List.erase_cons_head]
  by_cases h2 : 2 ≤ r.scope
  · refine ⟨(t1.begun (r.accessed s tk t).commits).without r, ?_, hrels, ?_, fun _ => ?_, fun m hm hi n hn => Team.without_tags hm hi hn,
      hread, hvalue⟩
    · rw [performRelease_eq ht, if_pos h2, updTeam_look, newRegion_eq, updTeam_look, ht1]
      rfl
    · rw [performRelease_eq ht, if_pos h2]
      exact hcommits
    · rw [performRelease_eq ht, if_pos h2]
      rfl
  · refine ⟨t1.without r, ?_, hrels, ?_, fun h => absurd h h2, fun m hm hi n hn => Team.without_tags hm hi hn, hread, hvalue⟩
    · rw [performRelease_eq ht, if_neg h2, updTeam_look, ht1]
      rfl
    · rw [performRelease_eq ht, if_neg h2]
      exact hcommits

end

/-! #### VERSION_COMMIT (R205, R212, R218) -/

section
variable {s : State} {tk : Nat} {t : Team} {r : Release}

theorem settleReleases_none (ht : look s.teams tk = some t) (hr : t.rels = []) (n : Nat) : settleReleases tk n s = s := by
  cases n with
  | zero => rfl
  | succ n => simp [settleReleases, ht, hr]

/-- The screen writes of a release's lanes are delivered (R299). -/
theorem Release.ready_of (h : ∀ x ∈ s.screens, x.sender = tk → x.lane ∉ r.lanes) : r.ready s tk = true := by
  simpa [Release.ready] using h

/-- A release that nothing holds is performed, and no other is left. -/
theorem settleReleases_performs (ht : look s.teams tk = some t) (hr : t.rels = [r]) (hd : r.ready s tk = true)
    (hc : r.scope < 2 ∨ r.committed = true) (n : Nat) : settleReleases tk (n + 1) s = performRelease s tk r := by
  obtain ⟨t', ht', hr', -⟩ := performRelease_spec ht hr
  have hc' : (r.ready s tk && (r.committed || decide (r.scope < 2))) = true := by simpa [hd] using hc.symm
  simp only [settleReleases, ht, hr, List.find?_cons, hc']
  exact settleReleases_none ht' hr' n

/-- A release that only its commit holds is waited for where the commit does not fit, and else commits first (R205, R212). -/
theorem settleReleases_commits (ht : look s.teams tk = some t) (hr : t.rels = [r]) (hd : r.ready s tk = true) (h2 : 2 ≤ r.scope)
    (hc : r.committed = false) (n : Nat) : settleReleases tk (n + 1) s =
      if commitFits s tk t = true then settleReleases tk n (newRegion (commitVersion s tk t) tk)
      else s.updTeam tk (fun t => { t with ver := { t.ver with waiting := true } }) := by
  have hn : (r.ready s tk && (r.committed || decide (r.scope < 2))) = false := by simp [hc, Nat.not_lt.mpr h2]
  have ha : [r].any (fun r => r.ready s tk) = true := by simp [hd]
  simp only [settleReleases, ht, hr, List.find?_cons, hn, List.find?_nil, ha, if_true]

/-- The event where the version does not wait. -/
theorem execVersionCommit_rels (ht : look s.teams tk = some t) (hw : t.ver.waiting = false) (hd : t.doom = none) (hs : t.saved = false) :
    execVersionCommit tk s = .next (settleReleases tk (2 * t.rels.length) s) := by
  simp [execVersionCommit, ht, hw, hd, hs]

/-- A version that waits commits once its marks fit (R212). -/
theorem execVersionCommit_waiting (ht : look s.teams tk = some t) (hw : t.ver.waiting = true) (hd : t.doom = none)
    (hf : commitFits s tk t = true) (hr : t.rels = []) : execVersionCommit tk s = .next (newRegion (commitVersion s tk t) tk) := by
  simp [execVersionCommit, ht, hw, hd, hf, hr, settleReleases]

/-- The team that a commit of its waiting version leaves, in its new region. -/
theorem look_newRegion_commitVersion (ht : look s.teams tk = some t) :
    look (newRegion (commitVersion s tk t) tk).teams tk = some (t.committed.begun (commitVersion s tk t).commits) := by
  rw [newRegion_eq, updTeam_look, look_commitVersion_committed ht, Option.map_some]

/-- A release whose commit fits is performed after it (R205). -/
theorem settleReleases_fits (ht : look s.teams tk = some t) (hr : t.rels = [r]) (hd : r.ready s tk = true) (h2 : 2 ≤ r.scope)
    (hc : r.committed = false) (hf : commitFits s tk t = true) (n : Nat) : settleReleases tk (n + 2) s =
      performRelease (newRegion (commitVersion s tk t) tk) tk { r with committed := true } := by
  rw [settleReleases_commits ht hr hd h2 hc, if_pos hf]
  refine settleReleases_performs (look_newRegion_commitVersion ht) (congrArg (List.map _) hr) ?_ (.inr rfl) n
  have hs : (newRegion (commitVersion s tk t) tk).screens = s.screens := commitVersion_screens s tk t
  rw [← hd, Release.ready, Release.ready, hs]

end

/-! #### Barriers that open (R219) -/

/-- A team at which a cluster barrier has opened: it has not arrived there, no member waits, and the region of an empty version began after
`commits` (R219, log entry 11). -/
structure Team.Opened (n commits : Nat) (t : Team) : Prop where
  /-- It has not arrived at the barrier. -/
  arrived : n ∉ t.arrived
  /-- The region of an empty version has begun. -/
  since : t.ver.reads = [] → t.ver.writes = [] → t.ver.since = commits
  /-- No member waits at the barrier. -/
  members : ∀ m ∈ t.members, m.wait ≠ .barrier true n

/-- A cluster barrier opens in the team of a key. -/
def openIn (n : Nat) (s : State) (k : Nat) : State := (beginRegion s k).updTeam k (fun t => (t.openBarrier true n s.now).dropClean)

theorem openBarrier_waits {t : Team} {n now : Nat} {m : Member} (h : m ∈ (t.openBarrier true n now).members) : m.wait ≠ .barrier true n := by
  obtain ⟨m0, -, rfl⟩ := List.mem_map.mp h
  split
  · exact Wait.noConfusion
  · assumption

section
variable {s : State} {t : Team} {n k : Nat}

theorem openIn_commits : (openIn n s k).commits = s.commits := by
  unfold openIn beginRegion
  split <;> rfl

theorem openIn_other {k' : Nat} (h : k' ≠ k) : look (openIn n s k).teams k' = look s.teams k' := by
  rw [openIn, updTeam_other _ _ h, beginRegion]
  split
  · rw [newRegion_eq, updTeam_other _ _ h]
  · rfl

/-- Opening a cluster barrier in a team leaves its marks. -/
theorem openIn_opened (ht : look s.teams k = some t) : ∃ t', look (openIn n s k).teams k = some t' ∧ t'.ver.reads = t.ver.reads ∧
    t'.ver.writes = t.ver.writes ∧ t'.Opened n s.commits := by
  by_cases he : t.ver.reads = [] ∧ t.ver.writes = []
  · refine ⟨((t.begun s.commits).openBarrier true n s.now).dropClean, ?_, rfl, rfl, ⟨by simp [Team.dropClean, Team.openBarrier],
      fun _ _ => rfl, fun m hm => openBarrier_waits hm⟩⟩
    have hb : beginRegion s k = newRegion s k := if_pos (by simp [ht, he])
    rw [openIn, updTeam_look, hb, newRegion_eq, updTeam_look, ht]
    rfl
  · refine ⟨(t.openBarrier true n s.now).dropClean, ?_, rfl, rfl, ⟨by simp [Team.dropClean, Team.openBarrier],
      fun h1 h2 => absurd ⟨h1, h2⟩ he, fun m hm => openBarrier_waits hm⟩⟩
    have hb : beginRegion s k = s := if_neg (by simpa [ht] using he)
    rw [openIn, updTeam_look, hb, ht]
    rfl

/-- After a cluster barrier has opened in the teams of a list of keys, it is open in each of them. -/
theorem foldl_openIn_opened {cm : Nat} (ks : List Nat) (ht : look s.teams k = some t) (hc : s.commits = cm) :
    ∃ t', look (ks.foldl (openIn n) s).teams k = some t' ∧ t'.ver.reads = t.ver.reads ∧ t'.ver.writes = t.ver.writes ∧
      (k ∈ ks ∨ t.Opened n cm → t'.Opened n cm) := by
  induction ks generalizing s t with
  | nil => exact ⟨t, ht, rfl, rfl, fun h => h.resolve_left List.not_mem_nil⟩
  | cons x ks ih =>
    have hcx : (openIn n s x).commits = cm := openIn_commits.trans hc
    by_cases hx : k = x
    · subst hx
      obtain ⟨t1, ht1, hr1, hw1, ho1⟩ := openIn_opened (n := n) ht
      obtain ⟨t2, ht2, hr2, hw2, ho2⟩ := ih ht1 hcx
      exact ⟨t2, ht2, hr2.trans hr1, hw2.trans hw1, fun _ => ho2 (.inr (hc ▸ ho1))⟩
    · obtain ⟨t2, ht2, hr2, hw2, ho2⟩ := ih ((openIn_other hx).trans ht) hcx
      exact ⟨t2, ht2, hr2, hw2, fun h => ho2 (h.imp_left (fun hk => (List.mem_cons.mp hk).resolve_left hx))⟩

/-- A team that has arrived does not arrive again. -/
theorem lateArrival_arrived (ht : look s.teams k = some t) (ha : n ∈ t.arrived) : lateArrival s k n = s := by
  simp [lateArrival, ht, ha]

theorem foldl_lateArrival_arrived (ks : List Nat) (h : ∀ k ∈ ks, ∃ t, look s.teams k = some t ∧ n ∈ t.arrived) :
    ks.foldl (fun s k => lateArrival s k n) s = s := by
  induction ks with
  | nil => rfl
  | cons k ks ih =>
    obtain ⟨⟨t, ht, ha⟩, hks⟩ := List.forall_mem_cons.mp h
    rw [List.foldl_cons, lateArrival_arrived ht ha, ih hks]

/-- A cluster barrier at which every team of the cluster has arrived opens in all of them. -/
theorem execBarrierCompletion_cluster {tk : Nat} (ht : look s.teams tk = some t)
    (ha : ∀ e ∈ clusterOf s tk t, look s.teams e.1 = some e.2 ∧ n ∈ e.2.arrived) :
    execBarrierCompletion true tk n s = .next (((clusterOf s tk t).map (·.1)).foldl (openIn n) s) := by
  have hlate : ((clusterOf s tk t).map (·.1)).foldl (fun s k => lateArrival s k n) s = s :=
    foldl_lateArrival_arrived _ fun k hk => by
      obtain ⟨e, he, rfl⟩ := List.mem_map.mp hk
      exact ⟨e.2, ha e he⟩
  have hall : (clusterOf s tk t).all (fun e => e.2.arrived.contains n) = true :=
    List.all_eq_true.mpr fun e he => List.contains_iff_mem.mpr (ha e he).2
  simp only [execBarrierCompletion, ht, Bool.not_true, Bool.false_eq_true, if_false, hlate, hall, if_true, List.foldl_map]
  rfl

/-- A team barrier at which every participant waits opens (R219). -/
theorem execBarrierCompletion_team {tk : Nat} (ht : look s.teams tk = some t) (hp : ∃ m ∈ t.members, m.arrival = none ∧ m.lanes ≠ [])
    (ha : ∀ m ∈ t.members, m.arrival = none → m.lanes ≠ [] → m.id = t.fresh ∨ m.wait = .barrier false n) :
    execBarrierCompletion false tk n s = .next (s.updTeam tk (fun t => t.openBarrier false n s.now)) := by
  have hmem (m : Member) : m ∈ t.participants ↔ m ∈ t.members ∧ m.arrival = none ∧ m.lanes ≠ [] := by simp [Team.participants]
  obtain ⟨m, hm⟩ := hp
  have hne : t.participants ≠ [] := List.ne_nil_of_mem ((hmem m).mpr hm)
  have hall : othersArrived t t.fresh false n = true := List.all_eq_true.mpr fun m hm => by
    obtain ⟨hm, hr, hl⟩ := (hmem m).mp hm
    simpa using ha m hm hr hl
  simp only [execBarrierCompletion, ht, Bool.not_false, if_true, hne, hall, ne_eq, not_false_eq_true, and_self]

end

theorem mem_insertNat (k : Nat) (l : List Nat) : k ∈ insertNat k l := by
  induction l with
  | nil => simp [insertNat]
  | cons x l ih => unfold insertNat; split_ifs <;> simp_all

theorem markHeld_iff {s : State} {k : Marks} : markHeld s k = true ↔ ∃ e ∈ s.teams, e.1 ≠ k.team ∧ e.2.ver.waiting = false ∧
    e.2.ver.ended = false ∧ e.2.ver.since < k.num := by
  simp [markHeld, and_assoc]

end Sys2Proof.Machine

namespace Sys2Proof.Proofs
open Sys2Proof Sys2Proof.Machine

/-- Settles O14: a word whose roles pass is done and its region ends (`completesIn_of_boundary`), and else it waits or issues as its release's
hold says (`boundary_screens_wait`, `boundary_screens_later`, `boundary_unfit_later`); a release is performed after its commit
(`settleReleases_fits`, `performRelease_spec`), and a cluster's barrier opens in each of its teams (`foldl_openIn_opened`). -/
theorem fencesBarriersCommitsAndHorizons : Obligations.FencesBarriersCommitsAndHorizons := by
  unfold Obligations.FencesBarriersCommitsAndHorizons
  refine ⟨?words, ?commit, ?release, ?unfit, ?horizon, ?team, ?cluster⟩
  case words =>
    intro done wait back
    refine ⟨?fence, ?fenceBack, ?barTeam, ?barTeamArr, ?barClu, ?barCluLast, ?barCluArr, ?fenceScreens, ?fenceLater, ?barScreens, ?commitFits,
      ?committed, ?commitUnfit, ?vqry⟩
    case fence =>
      exact completesIn_of_boundary _ _ _ (fun c => c.s) (fun _ _ => rfl) fun c hb _ => ⟨_, _, entryFence_of_back hb, rfl⟩
    case fenceBack => exact fun w s c h ha hb => calud_wait (entry := entryFence) h (entryFence_of_not_back ha hb)
    case barTeam =>
      refine completesIn_of (entry := entryBarTeam) (fun _ _ => rfl) fun w s c _ ⟨ha, hs⟩ => ?_
      simp only [entryBarTeam, ha, Option.isSome_none, Bool.false_eq_true, if_false, arrive_done hs]
      rfl
    case barTeamArr =>
      exact completesIn_of_boundary _ _ _ (fun c => c.s) (fun _ _ => rfl) fun c ⟨ha, hb⟩ _ => ⟨_, _, entryBarTeam_of_arrival ha hb, rfl⟩
    case barClu =>
      refine completesIn_of (entry := entryBarClu) (fun _ _ => rfl) fun w s c _ ⟨ha, hs, ho⟩ => ?_
      simp only [entryBarClu, ha, ho, Option.isSome_none, Bool.false_eq_true, if_false, arrive_done hs]
      rfl
    case barCluLast =>
      exact completesIn_of_boundary (fun _ => 2) (fun _ => true) (fun _ => false) (fun c => wait true c ((c.arrivedAt (fA c.w)).released 2).s)
        (fun _ _ => rfl) fun c ⟨ha, ho⟩ hs => ⟨_, _, entryBarClu_last ha ho, arrive_passed hs⟩
    case barCluArr =>
      exact completesIn_of_boundary _ _ _ (fun c => c.s) (fun _ _ => rfl) fun c ⟨ha, hb⟩ _ => ⟨_, _, entryBarClu_of_arrival ha hb, rfl⟩
    case fenceScreens =>
      exact fun w s c h hr ha hb hs => calud_wait (entry := entryFence) h (entryFence_screens hr ha hb hs)
    case fenceLater =>
      refine ⟨completesIn_of (entry := entryFence) (fun _ _ => rfl) fun w s c _ ⟨hr, ha, h0, hs, hc⟩ => ?_,
        completesIn_of (entry := entryFence) (fun _ _ => rfl) fun w s c _ ⟨hr, ha, h2, hs, hc, hw, hf⟩ => ?_⟩
      · rw [entryFence_rel hr ha h0, boundary_screens_later hs hc]
        rfl
      · rw [entryFence_rel hr ha (by omega), boundary_unfit_later hs h2 hc hw hf]
        rfl
    case barScreens =>
      refine fun w s c h ha hs => calud_wait (entry := entryBarTeam) h ?_
      simp only [entryBarTeam, ha, Option.isSome_none, Bool.false_eq_true, if_false, arrive, hs, if_true]
    case commitFits =>
      refine completesIn_of (entry := entryCommit) (fun _ _ => rfl) fun w s c h ⟨hw, hf⟩ => ?_
      obtain ⟨u, hu, -⟩ := Option.bind_eq_some_iff.mp h.memberAt
      exact entryCommit_fits hu hw hf
    case committed => exact completesIn_of (entry := entryCommit) (fun _ _ => rfl) fun w s c _ hw => if_pos hw
    case commitUnfit => exact fun w s c h hw hf => calud_wait (entry := entryCommit) h (entryCommit_unfit hw hf h.charge)
    case vqry =>
      exact completes_of (entry := entryVqry) (fun _ _ => rfl) fun c =>
        congrArg (fun x => Res.done c.s (oneS c x)) (vqry_eq c.s c.tk c.t (fA c.w))
  case commit =>
    intro tk s t ht hw hd hf hr
    exact ⟨_, _, execVersionCommit_waiting ht hw hd hf hr, look_newRegion_commitVersion ht, rfl, rfl, rfl, rfl, rfl, rfl, rfl,
      fun n hn => by simp [Team.begun, Team.committed, hn, mem_insertNat], commitVersion_commits s tk t, rfl⟩
  case release =>
    intro tk s t r ht hr hw hd hs hx s0 hfit
    have hrd : r.ready s tk = true := Release.ready_of hx
    have hexec : exec (.versionCommit tk) s = .next (settleReleases tk 2 s) := by
      rw [show exec (.versionCommit tk) s = _ from execVersionCommit_rels ht hw hd hs, hr]
      rfl
    by_cases hc : r.scope < 2 ∨ r.committed = true
    · obtain ⟨t', ht'⟩ := performRelease_spec ht hr
      rw [settleReleases_performs ht hr hrd hc] at hexec
      rw [show s0 = s from if_pos hc]
      exact ⟨_, t', hexec, ht'⟩
    · obtain ⟨h2, hcm⟩ := not_or.mp hc
      have hf : commitFits s tk t = true := (hfit.resolve_left h2).resolve_left hcm
      rw [settleReleases_fits ht hr hrd (Nat.not_lt.mp h2) (Bool.eq_false_of_not_eq_true hcm) hf 0] at hexec
      obtain ⟨t', ht'⟩ := performRelease_spec (r := { r with committed := true }) (look_newRegion_commitVersion ht) (congrArg (List.map _) hr)
      rw [show s0 = commitVersion s tk t from if_neg hc]
      exact ⟨_, t', hexec, ht'⟩
  case unfit =>
    intro tk s t r ht hr hw hd hs hx h2 hc hf
    rw [show exec (.versionCommit tk) s = _ from execVersionCommit_rels ht hw hd hs, hr,
      show 2 * [r].length = 1 + 1 from rfl, settleReleases_commits ht hr (Release.ready_of hx) h2 hc, hf, if_neg Bool.false_ne_true]
  case horizon =>
    exact fun s => ⟨_, rfl, rfl, fun k => by rw [List.mem_filter, markHeld_iff]⟩
  case team => exact fun tk n s t ht hp ha => execBarrierCompletion_team ht hp ha
  case cluster =>
    intro tk n s t ht ha
    refine ⟨_, execBarrierCompletion_cluster ht ha, fun e he => ?_⟩
    obtain ⟨t', ht', hr, hw, ho⟩ := foldl_openIn_opened (n := n) ((clusterOf s tk t).map (·.1)) (ha e he).1 rfl
    obtain ⟨harr, hsince, hm⟩ := ho (.inl (List.mem_map_of_mem he))
    exact ⟨t', ht', harr, fun h1 h2 => hsince (hr.trans h1) (hw.trans h2), hm⟩

end Sys2Proof.Proofs

/-! ### A save beside another context's results (O49)

R103 gives an issue port one SFU queue for all the groups that issue through it, and the queue writes its results in the order in which it
accepted them. A core's two banks may hold two contexts, so the drain of R352 first writes the results that a member of the other context has
in the queue before the saved member's own. The statement has a save leave every team of another context as it was, but for its objects. -/

namespace Sys2Proof.Machine

/-- A result of 7 for v1 of lane 0 that the SFU queue accepted at a device time. -/
def sfuResult (since : Nat) : Pending :=
  { writes := [(.v 0 1, 7)], loads := [], tag := none, words := none, queue := some 0, since := since, acq := false, word := 0, overs := [],
    free := 0 }

/-- A team of one group on core 0, which has one result in its port's SFU queue. -/
def sfuTeam (ctx bank since : Nat) : Team :=
  let t := oneObjTeam .buffer
  { t with ctx := ctx, seat := { t.seat with bank := bank }, members := [{ zeroGroup with pend := [sfuResult since] }] }

/-- A context of partition 0. -/
def plainContext (st : CtxState) : Context :=
  { part := 0, root := 0, save := 0x20000, saveBytes := 1024, flat := false, prc := false, st := st, preempters := [], map := [] }

/-- Context 1 is being saved, and context 2 runs. Each has a team on core 0, and the queue accepted the result of context 2 first. -/
def savedBesideAnother : State :=
  { State.reset with now := 2, ctxs := [(1, plainContext (.preempting 2)), (2, plainContext .live)],
                     teams := [(0, sfuTeam 1 0 1), (1, sfuTeam 2 1 0)] }

/-- How many results a team's groups have pending. -/
def Team.pendCount (t : Team) : Nat := sumNat (t.members.map (fun m => m.pend.length))

/-- How many results the team of a key has pending after a step. -/
def pendAfter (tk : Nat) (o : Host.Outcome State Fault Refusal) : Option Nat :=
  match o with
  | .next s => (look s.teams tk).map Team.pendCount
  | _ => none

theorem saveReady_savedBesideAnother : saveReady savedBesideAnother 1 2 = true := by decide +kernel

/-- The save of context 1 has the result of context 2 written. -/
theorem pendAfter_save : pendAfter 1 (exec (.preemptSaveComplete 1) savedBesideAnother) = some 0 := by decide +kernel

end Sys2Proof.Machine

namespace Sys2Proof.Proofs
open Sys2Proof Sys2Proof.Machine

/-- Refutes O49: a save writes the result that a team of another context has in the port's SFU queue before the saved team's own (R103), and the
statement's clause on the end of a save has that team keep it pending. -/
theorem not_hostAccessesFirmwareSavesAndLostDies : ¬ Obligations.HostAccessesFirmwareSavesAndLostDies := by
  rintro ⟨⟨-, -, -, -, -, -, -, hsave⟩, -⟩
  obtain ⟨t, hexec, -, -, hother, -⟩ := hsave 1 (plainContext (.preempting 2)) 2 savedBesideAnother rfl rfl saveReady_savedBesideAnother
    (fun _ h => nomatch h)
  obtain ⟨y, hy, hkept⟩ := Option.map_eq_some_iff.mp (hother 1 (sfuTeam 2 1 0) rfl (by decide))
  have hone : y.pendCount = 1 := congrArg Team.pendCount hkept
  have hnone : y.pendCount = 0 := by simpa [hexec, pendAfter, hy] using pendAfter_save
  exact absurd (hone.symm.trans hnone) (by decide)

end Sys2Proof.Proofs

/-! ### XCOPY, XSEND, XGATH, COLL and the shapes (O17) -/

namespace Sys2Proof.Proofs
open Sys2Proof Sys2Proof.Machine

/-- Settles O17: each word's entry makes the checks of R253 in the statement's order and then accepts its command (`accepts_of`,
`checked_passes`), and the shape words complete in the state of their own effect. -/
theorem copyGatherAndCollectiveWordsAreAccepted : Obligations.CopyGatherAndCollectiveWordsAreAccepted := by
  refine ⟨?zero, ?copy, ?send, ?gath, ?coll, ?shapeLd, ?shapeEv⟩
  case zero => exact accepts_of (entry := entryXcopy) (fun _ _ => rfl) fun c hz h => (if_pos hz).trans (checked_passes h)
  case copy =>
    refine accepts_of (entry := entryXcopy) (fun _ _ => rfl) fun c hz h => (if_neg hz).trans ?_
    simp only [decide_eq_true_eq] at h ⊢
    exact checked_passes h
  case send =>
    refine accepts_of (entry := entryXsend) (fun _ _ => rfl) fun c _ h => ?_
    simp only [decide_eq_true_eq] at h ⊢
    exact checked_passes h
  case gath => exact accepts_of (entry := entryXgath) (fun _ _ => rfl) fun c _ h => checked_passes h
  case coll => exact accepts_of (entry := entryColl) (fun _ _ => rfl) fun c _ h => checked_passes h
  case shapeLd =>
    refine completesIn_of (entry := entryShapeLd) (fun _ _ => rfl) fun w s c _ hl => ?_
    exact if_neg (by simpa using hl)
  case shapeEv => exact completesIn_of (entry := entryShapeEv) (fun _ _ => rfl) fun _ _ _ _ _ => rfl

end Sys2Proof.Proofs

/-! ### Tokens, completion rings and weirs (O18) -/

namespace Sys2Proof.Machine

section
variable {c : Ctx}

/-! #### WAITK and KTEST (R266, R267) -/

/-- No consumed token of the word has a property. -/
def Ctx.noneOf (c : Ctx) (p : Token → Bool) : Prop := ∀ k ∈ fTokens c.w, p (c.t.token k) = false

theorem Ctx.noneOf_iff {p : Token → Bool} : c.noneOf p ↔ (fTokens c.w).any (fun k => p (c.t.token k)) = false := by
  simp [Ctx.noneOf]

theorem Ctx.any_of_not_noneOf {p : Token → Bool} (h : ¬ c.noneOf p) : (fTokens c.w).any (fun k => p (c.t.token k)) = true :=
  Bool.eq_true_of_not_eq_false (mt Ctx.noneOf_iff.mpr h)

theorem entryWaitk_empty (h : ¬ c.noneOf (· == .empty)) : entryWaitk c = .cause c.s 0x18 0 :=
  if_pos (Ctx.any_of_not_noneOf h)

theorem entryWaitk_pending (he : c.noneOf (· == .empty)) (h : ¬ c.noneOf (· == .pending)) : entryWaitk c = .wait c.s :=
  (if_neg (Bool.eq_false_iff.mp (Ctx.noneOf_iff.mp he))).trans (if_pos (Ctx.any_of_not_noneOf h))

/-- The first consumed token in ERROR, in the order K1, K2, K3, with its cause and address. -/
def Ctx.firstError (c : Ctx) : Option (Nat × Nat × Nat) :=
  (fTokens c.w).findSome? (fun k => (c.t.token k).err.map (fun e => (k, e)))

/-- Once every token has left PENDING, WAITK goes on, or raises the cause of the first ERROR token. -/
theorem entryWaitk_settled (he : c.noneOf (· == .empty)) (hp : c.noneOf (· == .pending)) : entryWaitk c =
    match c.firstError with
    | none => .done c.s Out.none
    | some (k, x, va) =>
      .cause (c.s.updMember c.tk c.m.id (fun m => { m with trap := { m.trap with
        kerr := BitVec.ofNat 32 (k * 2 ^ 8 + x), kerrva := BitVec.ofNat 64 va } })) x 0 := by
  have he' := Bool.eq_false_iff.mp (Ctx.noneOf_iff.mp he)
  have hp' := Bool.eq_false_iff.mp (Ctx.noneOf_iff.mp hp)
  exact (if_neg he').trans (if_neg hp')

theorem Ctx.firstError_none (h : c.noneOf (fun x => x.err.isSome)) : c.firstError = none :=
  List.findSome?_eq_none_iff.mpr fun k hk => by simpa using h k hk

theorem Ctx.firstError_some {k : Nat} {e : Nat × Nat} {before after : List Nat} (hk : fTokens c.w = before ++ k :: after)
    (hb : ∀ j ∈ before, (c.t.token j).err = none) (he : (c.t.token k).err = some e) : c.firstError = some (k, e) := by
  have hnone : before.findSome? (fun k => (c.t.token k).err.map (fun e => (k, e))) = none :=
    List.findSome?_eq_none_iff.mpr fun j hj => by rw [hb j hj]; rfl
  rw [Ctx.firstError, hk, List.findSome?_append, hnone, List.findSome?_cons, he]
  rfl

theorem entryKtest_done (he : c.noneOf (· == .empty)) : entryKtest c = .done c.s (Out.fixed (c.m.present.map (fun l =>
    (Place.p l (fD c.w), if (fTokens c.w).any (fun k => c.t.token k == .pending) then 0 else 1)))) := by
  refine (if_neg (Bool.eq_false_iff.mp (Ctx.noneOf_iff.mp he))).trans ?_
  cases (fTokens c.w).any (fun k => c.t.token k == .pending) <;> rfl

/-! #### CREC (R265) -/

/-- What a CREC asks of memory: the eight bytes of DONE. -/
def Ctx.crecAsk (c : Ctx) : MemAsk :=
  let r := c.d (c.sc (fA c.w) % 32)
  { r := r, kind := 0, need := .read, requester := false, lanes := [{ lane := c.act.headD 0, vas := recVas r 8 8 }] }

/-- The translation of that read. -/
def Ctx.crecReach (c : Ctx) : Reached := (reachLines c.s c.t (wantOf c.t c.crecAsk) c.crecAsk.lanes).2

/-- DONE - T, as a signed value. -/
def Ctx.crecAhead (c : Ctx) : Int :=
  sgn 64 (leVal ((recVas c.crecAsk.r 8 8).map (fun a => Mem.read c.s.mem (bytePa c.crecReach.tr a))) + 2 ^ 64 - c.scPair (fB c.w))

/-- The ring of a CREC stands, and its read of DONE translates. -/
structure Ctx.CrecReads (c : Ctx) : Prop where
  /-- The operand names a descriptor. -/
  named : c.sc (fA c.w) < 32
  /-- Its record passes the checks of a ring. -/
  ring : ringCheck c.crecAsk.r = none
  /-- No line takes a cause. -/
  noCause : c.crecReach.cause = none
  /-- Every line translates. -/
  every : c.crecReach.bad = []

/-- A CREC that reads DONE sleeps while DONE has not come to its threshold, and else reads it as an acquire at device scope. -/
theorem entryCrec_reads (h : c.CrecReads) : entryCrec c = if c.crecAhead < 0 then .wait c.s
    else boundary c 4 false true (fun c' => memWord c' true c.crecAsk (fun s _ _ => (s, Out.none))) := by
  obtain ⟨hn, hr, hc, hb⟩ := h
  unfold Ctx.crecAhead
  unfold Ctx.crecReach at hc hb ⊢
  unfold Ctx.crecAsk at hr hc hb ⊢
  simp only [entryCrec, Nat.not_le.mpr hn, hr, hc, hb, if_false, Option.isNone_none, beq_self_eq_true, Bool.and_self, if_true]

/-- An acquire alone at cluster scope or wider goes on by its own effect, whatever its member waited for, and its region ends. -/
theorem boundary_acquire {scope : Nat} (h2 : 2 ≤ scope) {k : Ctx → Res} {s1 : State} {o : Out} (hk : k c = .done s1 o) :
    boundary c scope false true k = .done (c.regionEnds scope false true s1) o := by
  simp [boundary, Nat.not_lt.mpr h2, h2, hk, Res.atBoundary, Ctx.regionEnds, boundaryState]

theorem entryCrec_sleeps (h : c.CrecReads) (ha : c.crecAhead < 0) : entryCrec c = .wait c.s :=
  (entryCrec_reads h).trans (if_pos ha)

theorem entryCrec_done (h : c.CrecReads) (ha : 0 ≤ c.crecAhead) {s1 : State} {tr : List (Nat × Trans)} (hm : Performs c c.crecAsk s1 tr) :
    entryCrec c = .done (c.regionEnds 4 false true s1) Out.none :=
  ((entryCrec_reads h).trans (if_neg (Int.not_lt.mpr ha))).trans (boundary_acquire (by decide) (memWord_done hm _))

/-! #### WEIR.ACQ and WEIR.REL (R331, R333) -/

/-- A weir word that its group may not issue: its family is split, or a handler runs. -/
def Ctx.noWeirWord (c : Ctx) : Prop := familySplit c.t c.m = true ∨ c.m.trap.inh = true

theorem entryAcq_eq (c : Ctx) [Decidable (c.noWeirWord ∨ c.m.weir ≠ none ∨ c.t.spec.weir < fA c.w)] : entryAcq c =
    if c.noWeirWord ∨ c.m.weir ≠ none ∨ c.t.spec.weir < fA c.w then .cause c.s 0x21 0
    else .done (c.s.updMember c.tk c.m.id (fun m => { m with wait := .weir (fA c.w) c.s.now })) Out.none := by
  refine if_congr ?_ rfl rfl
  rw [Ctx.noWeirWord, ← Option.isSome_iff_ne_none]
  simp only [Bool.or_eq_true, decide_eq_true_eq]
  tauto

theorem entryRel_eq (c : Ctx) [Decidable (c.noWeirWord ∨ c.m.weir = none)] : entryRel c =
    if c.noWeirWord ∨ c.m.weir = none then .cause c.s 0x21 0
    else .done (c.s.updMember c.tk c.m.id (fun m => { m with weir := none })) Out.none := by
  refine if_congr ?_ rfl rfl
  rw [Ctx.noWeirWord, ← Option.isNone_iff_eq_none]
  simp only [Bool.or_eq_true]
  tauto

end

/-- A word whose entry waits, after checks 1 to 3 of R65, leaves the state of its wait. -/
theorem Checks.waits {r : CRow} {i : CWord → Instr} {entry : Ctx → Res} {w : CWord} {s s1 : State} {c : Ctx}
    (h : Checks r w s c) (hx : exec (i w) s = calud r entry w s) (he : entry c = .wait s1) : exec (i w) s = .next s1 := by
  rw [hx, calud_attempts h.toAttempts, issue_entry h, he]
  rfl

end Sys2Proof.Machine

namespace Sys2Proof.Proofs
open Sys2Proof Sys2Proof.Machine

/-- Settles O18: WAITK's entry goes by the states of its tokens (`entryWaitk_settled`), CREC's by the sign of DONE - T
(`entryCrec_reads`), and those of the weir words by the one condition under which each takes cause 0x21 (`entryAcq_eq`, `entryRel_eq`). -/
theorem tokenRingAndWeirWords : Obligations.TokenRingAndWeirWords := by
  classical
  refine ⟨⟨?waitk, ?empty, ?pending, ?error, ?ktest, ?crec⟩, ?acq, ?acqTraps, ?rel, ?relTraps, ?qry⟩
  case waitk =>
    refine completesIn_of (entry := entryWaitk) (fun _ _ => rfl) fun w s c _ ⟨he, hp, hx⟩ => ?_
    rw [entryWaitk_settled he hp, Ctx.firstError_none hx]
  case empty => exact traps_of (entry := entryWaitk) (fun _ _ => rfl) fun w s c _ he => entryWaitk_empty he
  case pending => exact fun w s c h he hp => calud_wait (entry := entryWaitk) h (entryWaitk_pending he hp)
  case error =>
    intro k x va before after w s c h he hp hk hb hx
    refine calud_cause (entry := entryWaitk) h ?_
    rw [entryWaitk_settled he hp, Ctx.firstError_some hk hb hx]
  case ktest => exact completesIn_of (entry := entryKtest) (fun _ _ => rfl) fun w s c _ he => entryKtest_done he
  case crec =>
    intro s1 tr w s c h x r ask y done hn hr hc hb
    have hreads : c.CrecReads := ⟨hn, hr, hc, hb⟩
    exact ⟨fun ha hm => h.ends (entry := entryCrec) rfl (entryCrec_done hreads ha hm),
      fun ha => h.waits (entry := entryCrec) rfl (entryCrec_sleeps hreads ha)⟩
  case acq =>
    refine completesIn_of (entry := entryAcq) (fun _ _ => rfl) fun w s c _ ⟨hb, hw, hl⟩ => ?_
    exact (entryAcq_eq c).trans (if_neg (not_or.mpr ⟨hb, not_or.mpr ⟨not_not.mpr hw, Nat.not_lt.mpr hl⟩⟩))
  case acqTraps =>
    exact traps_of (entry := entryAcq) (fun _ _ => rfl) fun w s c _ h => (entryAcq_eq c).trans (if_pos h)
  case rel =>
    refine completesIn_of (entry := entryRel) (fun _ _ => rfl) fun w s c _ ⟨hb, hw⟩ => ?_
    exact (entryRel_eq c).trans (if_neg (not_or.mpr ⟨hb, hw⟩))
  case relTraps =>
    exact traps_of (entry := entryRel) (fun _ _ => rfl) fun w s c _ h => (entryRel_eq c).trans (if_pos h)
  case qry =>
    refine completes_of (entry := entryQry) (fun _ _ => rfl) fun c => ?_
    unfold entryQry weirValue
    cases c.m.weir <;> rfl

end Sys2Proof.Proofs
